-- ==== Sys2Proof/Word.lean ====
section
/-! DEFINITION. The word types of the LK5 package: what the manual treats as bits. -/

namespace Sys2Proof

abbrev Byte := BitVec 8
abbrev W16 := BitVec 16
abbrev W32 := BitVec 32
abbrev W64 := BitVec 64

/-- A finite map held as key and value pairs with strictly rising keys: sparse data by key. -/
abbrev Dict (α : Type) := List (Nat × α)

/-- Partition P0 to P15. -/
abbrev Part := Fin 16
/-- Ring number 0 to 12 of a partition (R531). -/
abbrev RingNo := Fin 13
/-- CMD ring 0 to 3 of a partition (R531). -/
abbrev CmdRing := Fin 4
/-- Uagor port UP0 to UP7. -/
abbrev PortNo := Fin 8
/-- Fabric node ID 0 to 511. -/
abbrev Node := Fin 512
/-- Logical tile 0 to 543. -/
abbrev TileNo := Fin 544

end Sys2Proof
end

