-- ==== Sys2Proof/Types.lean ====
section
/-! DEFINITION. The data that commands carry: fabric packets, flits, journal records, parts, and the findings and
choices of what stands outside the block's rules (power-up BIST, a test's verdict, an address that firmware picks). -/

namespace Sys2Proof

/-- The address pair of a PCIe function: the PF or one of its 16 VFs (R508, R513). -/
inductive Func where
  | pf
  | vf (n : Fin 16)
deriving DecidableEq, Repr, Inhabited

/-- A spared or testable part of the package (R861). -/
inductive PartId where
  | tile (x y : Nat)
  | row (x y bank row : Nat)
  | page (stack chan page : Nat)
  | chan (stack chan : Nat)
  | granule (index : Nat)
  | lane (port lane : Nat)
  | core (core : Nat)
  | sm3 (lane : Nat)
  | conv (conv : Nat)
deriving DecidableEq, Repr, Inhabited

/-- What a targeted test found (R845, R853). -/
inductive Verdict where
  | pass
  | fail
  /-- the test could not run to its end (R853) -/
  | none
deriving DecidableEq, Repr, Inhabited

/-- What a page copy or a whole test found besides its verdict: which part of a channel the fault spans. -/
inductive PageFault where
  | page
  | laneRepaired
  | wholeChannel
deriving DecidableEq, Repr, Inhabited

/-- Why a fill failed (R278). -/
inductive FillCause where
  /-- an uncorrectable read of a sector of this package -/
  | uncorrectable (dpa : Nat)
  /-- a read of a withdrawn granule of this package -/
  | withdrawn (dpa : Nat)
  /-- the serving node answered FAILED_UNRECOVERABLE_DATA -/
  | remoteUncorrectable
  /-- the serving node is lost or fenced -/
  | nodeLost
  /-- the serving node refused the address -/
  | refused
  /-- a unit of a paged stream not published in the snapshot, or with its frame outside (R307) -/
  | unpublished
deriving DecidableEq, Repr, Inhabited

/-- A fabric packet with the fields of its header (R455); the ECRC travels with it (R456). -/
structure Packet where
  typ : Byte
  tc : Fin 4
  dl : Bool
  resend : Bool
  /-- reserved fields found zero (R457) -/
  reservedZero : Bool
  dst : Node
  src : Node
  part : Part
  hops : Nat
  xid : W32
  addr : W64
  arg : W32
  payload : List Byte
  ecrc : W32
deriving DecidableEq, Repr, Inhabited

/-- What a flit carries (R441, FTYPE). -/
inductive FlitType where
  | data
  | idle
  | nak
  | control
deriving DecidableEq, Repr, Inhabited

/-- A flit (R441). `words` gives what the link did to each codeword that this flit is the first to touch, in order: the position
and the value of every symbol error (R439, R440); none where it is shorter. -/
structure Flit where
  fseq : W16
  ack : W16
  vc : Fin 8
  ftype : FlitType
  credits : Nat
  payload : List Byte
  fcrc : W64
  words : List (List (Nat × Nat)) := []
deriving DecidableEq, Repr, Inhabited

/-- Why a request was closed (R730). -/
inductive CloseReason where
  | ended
  | frozen
  | migrated
  | claimed
deriving DecidableEq, Repr, Inhabited

/-- X and BODY of a journal record by its kind (R729). -/
inductive JBody where
  | head (opcode : W16) (seq : W64) (first count : Nat)
  | carrier (index client : Nat) (be : Bool) (bytes : List Byte)
  | commit (first : Nat) (tokens : List W32)
  | close (status : W16) (committed : Nat) (reason : CloseReason) (aux : W64)
deriving DecidableEq, Repr, Inhabited

/-- A journal or witness record (R728). -/
structure JRec where
  input : Bool
  late : Bool
  final : Bool
  reseed : Bool
  origin : Node
  originPart : Part
  ring : CmdRing
  request : Nat
  jseq : W32
  epoch : W16
  body : JBody
deriving DecidableEq, Repr, Inhabited

/-- An expert layer as the model program fixes it: its number of experts, the number k of choices of a token (R364), its capacity
where no policy gives one (R375), and the home of each expert (R365). -/
structure ExpertLayer where
  experts : Nat
  choices : Nat
  capacity : Nat
  homes : List Node
deriving DecidableEq, Repr, Inhabited

/-- An attention layer that runs WINDOW_GLOBAL by default: its number, SINKS, WINDOW, and its global ranges as first position and
length (R334, R335). -/
structure WindowLayer where
  layer : Nat
  sinks : Nat
  window : Nat
  ranges : List (Nat × Nat)
deriving DecidableEq, Repr, Inhabited

/-- The layout of a model that the Nelnus model program fixes (R671: its format is the compiler's own); only what
the rules of the manual ask of it. -/
structure ModelInfo where
  attnLayers : Nat
  windowLayers : List WindowLayer
  expertShapes : List ExpertLayer
  vocab : Nat
  endToken : Nat
  kvFmt : Nat
  blockLen : Nat
  frame : Nat
  kValues : Nat
  vValues : Nat
  /-- for each exit head the first attention layer behind it, which a token that exits there skips (R403, R406) -/
  exitLayers : List Nat
  hasBarker : Bool
  /-- base recipe of each layer tag: tag, width, activation width code, stored width (R221) -/
  baseRecipes : List (Nat × Nat × Nat × Nat)
  members : List Node
  lookahead : Nat
  /-- cold experts at key 4096 * l + e, each with the COLD chunks that hold its weights, and expert-cache slots of this member (R397) -/
  coldExperts : List (Nat × List Nat)
  cacheSlots : Nat
  /-- bytes of the model program at offset 0 of the local image (R671, R908) -/
  programBytes : Nat
deriving DecidableEq, Repr, Inhabited

/-- Number of expert layers of a model. -/
def ModelInfo.expertLayers (i : ModelInfo) : Nat := i.expertShapes.length

/-- Number of exit heads of a model. -/
def ModelInfo.exitHeads (i : ModelInfo) : Nat := i.exitLayers.length

/-- What the model program says of an expert layer. -/
def ModelInfo.expertLayer (i : ModelInfo) (l : Nat) : ExpertLayer := i.expertShapes.getD l default

/-- One entry of a choice list: expert and gate weight in BF16 (R369). -/
structure Choice where
  expert : Nat
  weight : W16
deriving DecidableEq, Repr, Inhabited

/-- A census block (R371): one member's choice lists of one half-batch of one expert layer. -/
structure Census where
  step : W32
  layer : Nat
  half : Bool
  mapVersion : W16
  node : Node
  lists : List (List Choice)
deriving DecidableEq, Repr, Inhabited

/-- What the gate of an expert layer gives for one token: for each expert, in ascending number, its logit in FP32 and its gate weight
in BF16 (R368, R369). -/
abbrev GateOut := List (W32 × W16)

/-- What the tiles compute for one token of this member at an expert layer, whose values the model program fixes: its
activation as it is sent, and the FP32 outputs of its local assignments in ascending rank (R382, R384). -/
structure OwnToken where
  xindex : Nat
  activation : List Byte
  outputs : List (List W32)
deriving DecidableEq, Repr, Inhabited

/-- Fabric time messages (R484, R485, R490). -/
structure TimeSync where
  time : W64
  master : Node
  /-- the MASTER bit of that master was set by its host (R490) -/
  hostMaster : Bool
deriving DecidableEq, Repr, Inhabited

/-- The two messages of the two-way delay measurement (R485). -/
inductive DelayMsg where
  /-- the far end receives the request, `turn` ns before it answers -/
  | request (turn : Nat)
  /-- the answer, `round` ns after the request left, with the far end's turnaround -/
  | reply (round turn : Nat)
deriving DecidableEq, Repr, Inhabited

/-- What a COLL packet carries (R457, R480, R483): a child's partial of a chunk, data on its way to its readers, or an
abort. The header's layout does not tell them apart, so the command does. -/
inductive CollKind where
  | partialSum
  | result
  | abort
deriving DecidableEq, Repr, Inhabited

/-- The operations of a collective (R479). -/
inductive CollOp where
  | allReduce
  | reduceScatter
  | allGather
  | broadcast
  | allToAll
deriving DecidableEq, Repr, Inhabited

/-- A collective that carries a chunk of BROADCAST_WEIGHTS (R697): the command's order at the issuing package, the chunk, this
member's place in the tree (0 the issuing package, j the receiver j - 1), the issuing package, and the receivers in the order of the
command, each with whether its shard contains the chunk. -/
structure WeightsCast where
  order : Nat
  chunk : Nat
  me : Nat
  root : Node
  receivers : List (Node × Bool)
deriving DecidableEq, Repr, Inhabited

/-- Where a chunk of a broadcast came from (R698, R699): the issuing package, its partition, the command's order there, and ROOT. -/
structure CastOrigin where
  node : Node
  part : Part
  order : Nat
  root : List Byte
deriving DecidableEq, Repr, Inhabited

/-- What a READ of class TC3 for PULL_WEIGHTS names (R702): ROOT_TAG, the chunk and the offset in it. The header's layout for it is not
given, so the command carries it. -/
structure PullAsk where
  rootTag : Nat
  chunk : Nat
  offset : Nat
deriving DecidableEq, Repr, Inhabited

/-- A collective's plan with this member's contribution (R479, R482): members in their fixed order, the tree's parent and
ordered children at this member, the number of chunks, and this member's own values by chunk index. Values are FP32
codes, as the plan's wire format holds them. -/
structure CollPlan where
  id : W16
  part : Part
  op : CollOp
  bf16 : Bool
  tc : Fin 4
  members : List Node
  parent : Option Node
  children : List Node
  chunks : Nat
  own : List (List W32)
  weights : Option WeightsCast := none
deriving DecidableEq, Repr, Inhabited

/-- What a claim names (R757), and the partition of the node that claims (R730). -/
structure ClaimAsk where
  origin : Node
  part : Part
  request : Nat
  epoch : W16
  claimPart : Part
deriving DecidableEq, Repr, Inhabited

/-- What a migration's destination asks of the source (R765, R766): the request, its epoch, its new ID and partition, MODE
COPY_KV, and the ROOT of the destination's slot 0. -/
structure MigrateAsk where
  request : Nat
  epoch : W16
  newRequest : Nat
  destPart : Part
  copyKv : Bool
  root : List Byte
deriving DecidableEq, Repr, Inhabited

/-- A SET_EXPERT_POLICY as it is announced (R416, R418); `none` keeps a field. -/
structure PolicyAsk where
  atStep : Nat
  layerFirst : Nat
  layerCount : Nat
  policy : Option (Nat × Nat × Bool)
  capacity : Option Nat
  repl : Option (Nat × Nat × Nat × Nat)
deriving DecidableEq, Repr, Inhabited

/-- A TRAPEZE_SWITCH as it is announced, or its announcement withdrawn (R709). -/
structure SwitchAsk where
  atStep : Nat
  keepOld : Bool
  root : List Byte
  withdrawn : Bool
deriving DecidableEq, Repr, Inhabited

/-- An expert map as it is announced (R394): version, group step, layer, and the replicas of each expert it changes. -/
structure MapAsk where
  version : W16
  atStep : Nat
  replicas : List (Nat × List Node)
  /-- the whole map, from which a member resynchronises (R374) -/
  whole : Bool := false
deriving DecidableEq, Repr, Inhabited

/-- What a packet delivered on TC0 asks of its receiver: a transfer of memory, or the Nelnus firmware message that its
command names, as its fields. -/
inductive MsgKind where
  | write
  | read (ue : Option Nat) (pull : Option PullAsk)
  | mirror
  | claim (a : ClaimAsk)
  | migrate (a : MigrateAsk)
  | policy (a : PolicyAsk)
  | switch (a : SwitchAsk)
  | map (a : MapAsk)
deriving DecidableEq, Repr, Inhabited

/-- Who asks the banks of a scratchpad (R100, R104), in the fixed order of those rules. -/
inductive Requester where
  | planeFeed
  | actFeed
  | preloadFeed
  | arrayDrain
  | dma
  | vector
deriving DecidableEq, Repr, Inhabited

/-- One request to a bank (R95, R96): a wide access has no segment; a write carries its bytes. -/
structure BankReq where
  who : Requester
  row : Nat
  seg : Option Nat
  write : Option (List Byte)
  /-- cycle of the bank in which the request came (R100, R104) -/
  since : Nat
  /-- a write of only a part of its segment: the first byte it sets (a STORE's scale bytes, R162) -/
  skip : Option Nat := none
deriving DecidableEq, Repr, Inhabited

/-- What the SECDED of a scratchpad read found (R846). -/
inductive Ecc where
  | clean
  | corrected
  | uncorrectable
deriving DecidableEq, Repr, Inhabited

/-- Findings of power-up BIST and training (R917, R920, R921), and what else the surroundings give at power-up. -/
structure Bist where
  badSites : List (Nat × Nat)
  badRows : List (Nat × Nat × Nat × Nat)
  badChannels : List (Nat × Nat)
  badPages : List (Nat × Nat × Nat)
  badStacks : List Nat
  badLanes : List (Nat × Nat)
  badCores : List Nat
  badSm3 : List Nat
  /-- populated firn channels in ascending number: the density code each gives at training, and the highest data rate in Mbit/s per
  pin at which it passes, 0 where it passes at none (R269, R270) -/
  firn : List (Nat × Nat)
  /-- REFCLK_FAB present and in tolerance (R952) -/
  refclkFab : Bool
  /-- every stack trained quickly (R927); every stack kept its contents (R926) -/
  allQuick : Bool
  keptAll : Bool
  /-- V–f table: for each band, the voltage code of each ceiling step (R798) -/
  vf : List (List Nat)
deriving DecidableEq, Repr, Inhabited

/-- What the boot ROM finds outside its own rules when a power-up begins (R880, R881, R890, R916). -/
structure BootIn where
  fuseError : Bool
  presMode : BitVec 2
  slotId : BitVec 6
  presenceLevel : Bool
  /-- VIN has fallen below 20 V since a thermal trip (R830) -/
  vinFell : Bool
deriving DecidableEq, Repr, Inhabited

/-- What the tile work of the model program produced for one request in a step: drafts, and the main model's tokens at the draft
positions and the next (R407), and the logits of the exit heads whose test the request takes, by head (R403). -/
structure Produced where
  request : Nat
  drafts : List W32
  tokens : List W32
  exits : List (Nat × List W32)
deriving DecidableEq, Repr, Inhabited

/-- A restore payload as fields (R761), bytes 0x10 to 0x3F. -/
structure Restore where
  request : Nat
  epoch : W16
  tokRing : Bool
  keep : Bool
  withhold : Bool
  freezeOnExpire : Bool
  count : Nat
  maxNew : Nat
  seed : W64
  temp : W16
  topK : Nat
  topP : Nat
  model : Nat
  deadline : W64
deriving DecidableEq, Repr, Inhabited

/-- The KV of one layer as it moves with a request (R357, R766): each page in its layout of R298 up to the end of V scales, none
for a page that was released, and the drift entries of the positions after the last whole page, K entries before V entries. -/
structure LayerData where
  pages : List (Option (List Byte))
  drift : List Byte
deriving DecidableEq, Repr, Inhabited

/-- The source's answer to a migration (R766, R767); under COPY_KV with the KV of each layer. -/
inductive Handover where
  | refused (status : W16)
  | given (payload : Restore) (history : List W32) (layers : List LayerData)
  | lost
deriving DecidableEq, Repr, Inhabited

/-- Reads of host memory that a command makes, as the read completions give them: bytes, or a failed read. -/
inductive HostData where
  | bytes (b : List Byte)
  | failed
deriving DecidableEq, Repr, Inhabited

/-- What comes with a register write that sets a GO bit whose operation reads the host's memory (R867, R882): the data read, and
what the boot ROM finds at the power-up that a recovery ends with. -/
structure GoIn where
  data : HostData
  boot : BootIn
deriving DecidableEq, Repr, Inhabited

/-- Instructions of the JTAG TAP (R963, R966, R903). -/
inductive TapInstr where
  | bypass
  | idcode
  | samplePreload
  | extest
  | intest
  | clamp
  | debug
  | coreAccess
  /-- TRST_N asserted: Test-Logic-Reset (R963) -/
  | trst
deriving DecidableEq, Repr, Inhabited

/-- MCTP control requests of DSP0233 that change or read an endpoint (R912). -/
inductive MctpControl where
  | setEndpointId (eid : Byte)
  | getEndpointId
  | getMessageTypes
  | other (command : Byte)
deriving DecidableEq, Repr, Inhabited

/-- What a configuration request asks (R507 to R509, R595). -/
inductive CfgReq where
  | readId
  | readSerial
  | readClass
  /-- does the function implement the capability of this ID, of the extended list or of the first one? -/
  | hasCapability (extended : Bool) (capId : Nat)
  | writeMsix (enable mask : Bool)
  | writeCommand (memSpace busMaster : Bool)
  | writePower (d3hot : Bool)
  | writeSriov (vfEnable : Bool)
  /-- any other configuration register: not part of this block's rules -/
  | other
deriving DecidableEq, Repr, Inhabited

/-- What an estimate epoch gives the power policy: the events of each class, in the order of R793's table, S in W (R793), the estimate
that a further 25 MHz step would give (R816), and the band voltages that Nelnus firmware chooses (R799, R816). -/
structure Estimate where
  counts : List Nat
  staticW : Nat
  nextStepW : Nat
  targets : List Nat
deriving DecidableEq, Repr, Inhabited

/-- Findings of one calibration interval (R794, R796): mean measured power, the input current, and the floor. -/
structure Calibration where
  measuredW : Nat
  iin10mA : Nat
  floorW : Nat
  /-- ceiling step and log2 issue divisor of the safe step of each cap from 800 W upwards (R813) -/
  safe : List (Nat × Nat)
deriving DecidableEq, Repr, Inhabited

/-- One 16 µs temperature reading (R827): highest sensor of each band, hub sensors and stacks, in °C. -/
structure Temps where
  bands : List Nat
  hub : Nat
  hbm : List Nat
deriving DecidableEq, Repr, Inhabited

/-- A fault of the array in one block run, injected by the surroundings: a row, a column and the error added to the
narrow sum, or `none` for a sound run (R205). -/
structure CellFault where
  row : Nat
  col : Nat
  err : Int
deriving DecidableEq, Repr, Inhabited

/-- Indices that one doorbell read returns (R552, R557). -/
structure Doorbell where
  cmdPi : List Nat
  cplCi : List Nat
  tokCi : List Nat
  evtCi : Nat
  jnlCi : Nat
  witCi : Nat
deriving DecidableEq, Repr, Inhabited

/-- The two management ports (R811, R960). -/
inductive MgmtPort where
  | a
  | b
deriving DecidableEq, Repr, Inhabited

/-- A function of the common state machine (R935). -/
inductive FnName where
  | part (p : Part)
  | ring (p : Part) (n : RingNo)
  | port (u : PortNo)
deriving DecidableEq, Repr, Inhabited

/-- Where Nelnus firmware places a local image and its cold image, and what the model's program says (R671, R686). -/
structure Placement where
  base : Nat
  coldBase : Nat
  info : ModelInfo
  /-- where the expert-cache slots of the model lie in HBM (R397) -/
  cacheAt : List Nat := []
deriving DecidableEq, Repr, Inhabited

/-- What a tile task of the model program is for: plain work of a step; attention of a layer, sized for a number of positions
(R329); the backfill of a layer after an early exit (R406); and beside the steps a prefill chunk (R331), the encoding of a freeze or
the rebuilding of a thaw (R351, R357), or the barker's prefill over positions it missed (R411). -/
inductive TaskKind where
  | step
  | attention (layer size : Nat)
  | backfill (layer : Nat)
  | chunk
  | ice
  | barker
deriving DecidableEq, Repr, Inhabited

/-- Work that runs beside the steps and does not belong to one. -/
def TaskKind.beside : TaskKind → Bool
  | .chunk | .ice | .barker => true
  | .step | .attention _ _ | .backfill _ => false

/-- A tile task of the model program as Nelnus firmware is about to issue it: its descriptor at the base recipe, the requests
it serves, and what it is for (R222, R624, R652). -/
structure FwTask where
  desc : List Byte
  requests : List Nat
  kind : TaskKind
deriving DecidableEq, Repr, Inhabited

/-- What other copies hold of the data that a failed task could not read, as Nelnus firmware finds them (R281): copies of a weight
chunk, a neighbour's before the firn tier's, and where the second copy of a request table's sector lies. -/
structure Recovery where
  chunks : List (List Byte)
  twin : Option Nat
deriving DecidableEq, Repr, Inhabited

/-- Where Nelnus firmware places the page table of one layer of a request (R299 to R303): the copies of its directory, its
drift block, copies of page-list blocks by number, and the frame of each page that gets one; and the BF16 keys and values that a
completed prefill chunk has computed for the layer, by position, keys before values (R326, R333). -/
structure KvPlace where
  request : Nat
  layer : Nat
  dirs : List Nat
  drift : Nat
  blocks : List (Nat × List Nat)
  frames : List (Nat × Nat)
  values : List (Nat × List W16) := []
deriving DecidableEq, Repr, Inhabited

/-- What the model program and the firmware's own placement give for the next step of a partition: its tile tasks, page tables,
and room in the firn extent for ice cores of requests that expire or are frozen. -/
structure StepOut where
  tasks : List FwTask
  kv : List KvPlace
  ice : List (Nat × Nat)
  /-- members of the expert group with a free expert-cache slot, as Nelnus firmware of this member knows them (R393) -/
  freeSlots : List Node := []
deriving DecidableEq, Repr, Inhabited

/-- What training and the identity exchange of a port found (R430 to R432): the physical lanes that train at 224, 112 and 56
Gbit/s, and the neighbour's node ID if its identity came. -/
structure Training where
  byRate : List (List Nat)
  identity : Option Node
deriving DecidableEq, Repr, Inhabited

end Sys2Proof
end

