-- ==== Sys2Proof/Syntax.lean ====
section
/-! DEFINITION. The commands the package takes: one constructor per row of spec/opcode_table.json, with the operands
that its rule gives it. What stands outside the package's rules (data of host memory as a read returns it, the finding
of a test, an address or a token that Nelnus firmware or a model program produces) comes with the command. -/

namespace Sys2Proof

/-- A command: one row of the table of operations and events. -/
inductive Instr where
  -- power-up, resets and the supply (chapters 13, 16 and 17)
  | coldPowerUp (b : BootIn)
  | configurationReady (passed : Nat)
  | bistPhaseTimeout (passed : Nat)
  | ready (b : Bist)
  | configRequest (f : Func) (r : CfgReq)
  | warmReset
  | perstNRelease (b : BootIn)
  | flr (vf : Fin 16)
  | partResetGo (p : Part)
  | vinOvervoltageStop
  | vinUndervoltageStop
  | supplyLowEnter (mv : Nat)
  | supplyLowExit (mv : Nat)
  | pwrWarnNEdge (asserted : Bool)
  | converterFault (i : Fin 9)
  | thermalSample (t : Temps)
  | thermtrip
  | estimateEpoch (e : Estimate)
  | calibrate (c : Calibration)
  | rampWindowStart
  | setNumericEffecterValue (m : MgmtPort) (id value : Nat)
  | getSensorReading (m : MgmtPort) (id : Nat)
  | mctpOtherMessage (m : MgmtPort) (typ : Byte)
  | entdaa (m : MgmtPort) (addr : Byte)
  | leaseExpiry (m : MgmtPort)
  | pwrFallbackWrite (v : W32)
  | presenceNChange (level : Bool)
  | presenceWindowExpiry
  -- intake of commands and interrupts (chapter 09)
  | nudge (p : Part)
  | doorbellPoll (p : Part)
  | doorbellReadReturn (p : Part) (d : Option Doorbell)
  | descriptorReturn (p : Part) (ring : CmdRing) (d : HostData)
  | indirectPayloadReturn (p : Part) (ring : CmdRing) (d : HostData)
  | modTimerExpiry (p : Part) (ring : RingNo)
  | msixUnmask (f : Func) (vector : Nat)
  -- commands of the opcode table R577
  | nop (p : Part) (ring : CmdRing)
  | fence (p : Part) (ring : CmdRing)
  | admitRequest (p : Part) (ring : CmdRing) (tokens : HostData)
  | appendTokens (p : Part) (ring : CmdRing) (tokens : HostData)
  | freezeRequest (p : Part) (ring : CmdRing) (bits : HostData)
  | thawRequest (p : Part) (ring : CmdRing) (core : HostData) (ue : Option Nat)
  | cancelRequest (p : Part) (ring : CmdRing)
  | setDeadline (p : Part) (ring : CmdRing)
  | restoreRequest (p : Part) (ring : CmdRing) (tokens : HostData)
  | migrateRequest (p : Part) (ring : CmdRing)
  | loadWeights (p : Part) (ring : CmdRing) (h : HostData) (place : Placement)
  | pullWeights (p : Part) (ring : CmdRing) (h : HostData) (place : Placement)
  | broadcastWeights (p : Part) (ring : CmdRing) (h receivers : HostData) (place : Placement)
  | stageShadow (p : Part) (ring : CmdRing) (h : HostData) (place : Placement)
  | trapezeSwitch (p : Part) (ring : CmdRing)
  | swapModel (p : Part) (ring : CmdRing) (place : Placement)
  | evictModel (p : Part) (ring : CmdRing)
  | installPublisherKey (p : Part) (ring : CmdRing)
  | setRecipe (p : Part) (ring : CmdRing)
  | setExpertPolicy (p : Part) (ring : CmdRing)
  | setSpecPolicy (p : Part) (ring : CmdRing)
  | setAttnPattern (p : Part) (ring : CmdRing) (ranges : HostData)
  | runTaskGraph (p : Part) (ring : CmdRing) (ue : Option Nat)
  | copy (p : Part) (ring : CmdRing) (src : HostData) (ue : Option Nat)
  | queryAccounting (p : Part) (ring : CmdRing)
  | queryExpertCounts (p : Part) (ring : CmdRing)
  | readRepairMap (p : Part) (ring : CmdRing)
  | writeRepairMap (p : Part) (ring : CmdRing) (map : HostData)
  | runSelfTest (p : Part) (ring : CmdRing)
  | flashUpdate (p : Part) (ring : CmdRing) (image : HostData)
  | flashPageProgrammed (page : HostData)
  | fuseCommit (p : Part) (ring : CmdRing)
  | fuseWordBurned
  | debugUnlock (p : Part) (ring : CmdRing)
  | attestQuote (p : Part) (ring : CmdRing)
  -- accesses through the BARs and function events
  | bar2Write (off : Nat) (bytes : List Byte)
  | bar2Read (off len : Nat) (ue : Option Nat)
  | bar0BadAccess (f : Func) (write : Bool)
  | rcCounterRead (f : Func) (off size : Nat)
  | registerWrite (f : Func) (off size : Nat) (value : W64) (go : GoIn)
  | partEnable (p : Part)
  | partDisable (p : Part)
  | ringEnable (p : Part) (ring : RingNo)
  | ringDisable (p : Part) (ring : RingNo)
  | portEnable (u : PortNo)
  | portDisable (u : PortNo)
  | functionReady (f : FnName)
  | functionDrained (f : FnName)
  | memHbmMapWrite (p : Part) (v : W64)
  | memFirnMapWrite (p : Part) (v : W32)
  | watchEnSet (p : Part) (v : W32)
  | jnlWitnessSet (p : Part) (v : W32)
  | jnlWitnessClear (p : Part) (v : W32)
  | uagFenceSet (v : W32)
  | uagFenceClear (n : Fin 16) (v : W32)
  | uagTimeSet (v : W64)
  | sprMapLoad (map : HostData)
  | secRecoveryGo (image : HostData) (b : BootIn)
  -- tiles and the dispatcher (chapters 03, 04 and 10)
  | dispatchPlace (p : Part) (ue : List Nat)
  | programLoaded (t : TileNo)
  | bundleIssue (t : TileNo)
  | bankGrant (t : TileNo) (bank : Fin 16) (arrivals : List BankReq)
  | scratchpadReadReturn (t : TileNo) (bank : Fin 16) (ecc : Ecc)
  | blockRunEnd (t : TileNo) (fault : Option CellFault)
  | arrayFree (t : TileNo)
  | fillSlotComplete (t : TileNo) (i : Nat)
  | drainSlotReadDone (t : TileNo) (i : Nat)
  | drainWriteDone (t : TileNo) (i : Nat)
  | freezeRelease (t : TileNo)
  | freezeExpiry (t : TileNo)
  | fillFailed (t : TileNo) (i : Nat) (cause : FillCause)
  | taskRunEnd (t : TileNo) (ue : List Nat)
  | boundOver (t : TileNo)
  | watchdogExpiry (t : TileNo)
  | tileInternalResetDone (t : TileNo)
  -- tests and spares (chapters 05 and 14)
  | selfTestVerdict (part : PartId) (v : Verdict) (scope : PageFault) (bad : List Nat)
  | pageCopyDone (stack chan page : Nat) (bad : List Nat)
  | channelFailed (stack chan : Nat)
  | stackFailed (stack : Nat)
  -- serving (chapters 06, 07, 10, 11 and 12)
  | chunkVerify (p : Part) (slot chunk : Nat) (data : HostData) (origin : Option CastOrigin) (disagree : List Nat) (ue : List Nat)
  | taskReissue (p : Part) (found : Recovery)
  | stepReplay (p : Part)
  | stepBoundary (p : Part) (out : StepOut) (ue : List Nat)
  | waitingDeadlineCheck (p : Part) (ice : List (Nat × Nat)) (ue : List Nat)
  | walkEpochAdvance (p : Part)
  | kvReclaim (p : Part)
  | commitCheck (p : Part) (out : List Produced)
  | flushingReadDone (p : Part)
  | recordDurable (p : Part)
  | witnessResend (p : Part)
  | witnessLag (p : Part)
  | witnessMirror (u : PortNo) (pkt : Packet)
  | claim (u : PortNo) (pkt : Packet) (a : ClaimAsk)
  | migrateAsk (u : PortNo) (pkt : Packet) (a : MigrateAsk)
  | censusBlock (p : Part) (c : Census) (gate : List GateOut)
  | admission (p : Part) (layer : Nat) (half : Bool) (own : List OwnToken) (ue : Option Nat)
  | tokenPacket (u : PortNo) (pkt : Packet) (outputs : List (List W32)) (ue : Option Nat)
  | combinePacket (u : PortNo) (pkt : Packet)
  | mapAnnounce (u : PortNo) (pkt : Packet) (a : MapAsk)
  | policyAnnounce (u : PortNo) (pkt : Packet) (a : PolicyAsk)
  | switchAnnounce (u : PortNo) (pkt : Packet) (a : SwitchAsk)
  | replicaVerified (p : Part) (layer expert : Nat) (node : Node)
  | lookaheadFetch (p : Part) (layer : Nat) (predicted : List (Nat × Nat))
  | expertFetchDone (p : Part) (layer expert : Nat) (found : List (List Byte)) (ue : List Nat)
  | drainingRelease (p : Part)
  | placementEpochAdvance (p : Part) (nodeLoss : Bool)
  | epochAdvanceComplete (p : Part)
  -- the Uagor fabric (chapter 08)
  | collectiveStart (plan : CollPlan) (ue : Option Nat)
  | portTrained (u : PortNo) (t : Training)
  | portRetrainTimer (u : PortNo)
  | laneSpared (u : PortNo) (lane : Fin 9)
  | linkDown (u : PortNo)
  | flitReceive (u : PortNo) (f : Flit)
  | ackTimer (u : PortNo)
  | nakHoldoffExpiry (u : PortNo)
  | idleFlitTimer (u : PortNo)
  | write (u : PortNo) (pkt : Packet)
  | read (u : PortNo) (pkt : Packet) (ue : Option Nat) (pull : Option PullAsk)
  | readData (u : PortNo) (pkt : Packet)
  | ack (u : PortNo) (pkt : Packet)
  | nack (u : PortNo) (pkt : Packet)
  | coll (u : PortNo) (pkt : Packet) (c : CollKind) (ue : Option Nat)
  | timeSync (u : PortNo) (pkt : Packet) (t : TimeSync)
  | route (u : PortNo) (pkt : Packet)
  | e2eResend (dst : Node) (tc : Fin 4) (xid : W32)
  | nodeLost (n : Node)
  | timeSyncSend
  | linkDelayMeasure
  | syncLoss
  | becomeMaster
  -- control cores, management and test access
  | controlCoreFault (core : Fin 8)
  | mctpControlMessage (m : MgmtPort) (c : MctpControl)
  | tapInstruction (i : TapInstr)
  | migrateHandover (p : Part) (order : Nat) (h : Handover)
  | timeDelayExchange (u : PortNo) (m : DelayMsg)
  | chunkResendRequest (p : Part) (order chunk : Nat) (node : Node) (noSlot : Bool) (data : HostData)
deriving DecidableEq, Repr

end Sys2Proof
end

