-- ==== Sys2Proof/Config.lean ====
section
/-! DEFINITION. What an implementation fixes, and the free values: values that the manual leaves open. None has a
body: no proof can see what it is, so a claim holds whatever it is. -/

namespace Sys2Proof

/-- A byte whose contents an event left undefined: generation of the event, address (R585, R842, R925, R926). -/
opaque Config.freeByte : Nat → Nat → Byte

/-- A free value drawn by a step from the model's counter `State.free`. -/
opaque Config.freeValue : Nat → W64

/-- What a counter of access RC shows when more events than its 32 bits hold came between two reads; the manual states
no result. The argument is the exact count. -/
opaque Config.counterPastEnd : Nat → W64

/-- The error response that the specification of an MCTP message type gives for a message that is not served (R912). -/
opaque Config.mctpError : Byte → Byte

/-- PCIe Device Serial Number of the package (R508, R859). -/
opaque Config.serial : W64

/-- Vendor ID that the PCI-SIG assigned to Chaold (R507). -/
opaque Config.vendorId : W16

/-- Chaold's manufacturer identity in JEDEC's list, with its bank (R964). -/
opaque Config.jedecId : BitVec 11

/-- The X.509 certificate for the alias key that layer 0 issues, in DER (R884): private identity key, alias public key,
M_FW, SVN. Its serial number, names, dates and signature are not given by the manual. -/
opaque Config.aliasCert : Nat → List Byte → List Byte → Nat → List Byte

/-- The MIPI manufacturer ID assigned to Chaold (R961). -/
opaque Config.mipiId : BitVec 15

/-- Weight of an event class of R793's table, by its place in it, in µW: held by Nelnus firmware. -/
opaque Config.classWeight : Nat → Nat

/-- SM3 digest of the boot ROM (R884, R908). -/
opaque Config.romDigest : List Byte

/-- A 64-byte SM2 signature (R909): private key, message, and the number of the draw, since the standard takes a random
number for each signature. -/
opaque Config.sm2Sign : Nat → List Byte → Nat → List Byte

/-- EXP2, LOG2, RSQRT and RECIP of the vector unit by VOP, for BF16 lanes or FP32 lanes, where the manual states no result: of an
infinity or a NaN, LOG2 and RSQRT of no positive number, RECIP of zero, EXP2 past the range. -/
opaque Config.vectorApprox : Nat → Bool → W32 → W32

/-- Which of the FP32 codes within 2 ulp of the exact value EXP2, LOG2, RSQRT or RECIP gives, by VOP and operand: the distance
from the code at or below it, plus 2 (R163). -/
opaque Config.vectorUlps : Nat → W32 → Fin 5

/-- The lanes of a result of REDUCE, SAMPLE, PHILOX or TOPK that no rule states: by VOP, BF16, IMM, the operation's input lanes, and
the lane (R163: the same on every tile for the same inputs). -/
opaque Config.vectorRest : Nat → Bool → Nat → List W32 → Nat → W32

/-- A lane result of the vector unit that the manual does not state: a NaN that an operation makes, MAX of a NaN or of
zeros of both signs. By VOP, BF16 and operands. -/
opaque Config.vectorLane : Nat → Bool → W32 → W32 → W32 → W32

/-- What a follower's LAST_CORR shows for a correction that 16 signed bits do not hold; the manual states no result. -/
opaque Config.corrPastEnd : Int → Nat

/-- ARG of a MSG or TIME packet that this package sends: its message kind (R457), whose numbers the manual does not give.
The argument counts the kinds of this model. -/
opaque Config.messageKind : Nat → W32

/-- Payload of a TIME packet (R484, R485) or of a COLL abort (R483), whose layouts the manual does not give: what it says,
as numbers. -/
opaque Config.messageBody : List Nat → List Byte

/-- The alignment marker of a logical lane of a port of so many lanes, as 10-bit symbols, and the codewords between two markers:
those of IEEE 802.3 clause 119, adapted to the port's width in a way that the manual does not give (R439). -/
opaque Config.alignMarker : Nat → Nat → List Nat
opaque Config.alignPeriod : Nat → Nat

/-- The stream that the compressor of ice cores makes of some bytes (R346): DEFLATE leaves the choice to it. -/
opaque Config.deflateStream : List Byte → List Byte

end Sys2Proof
end

