-- ==== Sys2Proof/Machine/MemState.lean ====
section
/-! DEFINITION. Memory as plain data: the listed bytes, and the ranges whose contents an event has left undefined. -/

namespace Sys2Proof.Machine

/-- A range of addresses whose contents an event left undefined (R585, R842, R925): an unlisted byte of it reads as a
free value of generation `gen`. -/
structure OpenRange where
  lo : Nat
  len : Nat
  gen : Nat
deriving DecidableEq, Repr, Inhabited

/-- A byte memory. `cells` has strictly rising addresses and no cell that an unlisted address would read as anyway;
`opened` is newest first. -/
structure Mem where
  cells : List Host.Cell := []
  opened : List OpenRange := []
deriving DecidableEq, Repr, Inhabited

end Sys2Proof.Machine
end

