-- ==== Sys2Proof/Machine/Store.lean ====
section
/-! DEFINITION. Sparse data by key, and the one memory of the package: reading, writing and opening ranges of it. -/

namespace Sys2Proof.Machine

/-! ### Lists in order -/

/-- Put an entry before the first one that it may precede. -/
def insertBy {α : Type} (le : α → α → Bool) (a : α) : List α → List α
  | [] => [a]
  | b :: bs => if le a b then a :: b :: bs else b :: insertBy le a bs

/-- A list in the order of `le`; entries that `le` holds equal keep their order. -/
def sortBy {α : Type} (le : α → α → Bool) : List α → List α
  | [] => []
  | a :: as => insertBy le a (sortBy le as)

/-! ### Dictionaries: strictly rising keys -/

/-- The entry of key `k`, if one is listed. -/
def dget? {α : Type} : Dict α → Nat → Option α
  | [], _ => none
  | (j, v) :: t, k => if j = k then some v else if k < j then none else dget? t k

/-- The entry of key `k`, or `d` where none is listed. -/
def dget {α : Type} (m : Dict α) (k : Nat) (d : α) : α := (dget? m k).getD d

/-- Set the entry of key `k`. -/
def dset {α : Type} : Dict α → Nat → α → Dict α
  | [], k, v => [(k, v)]
  | (j, w) :: t, k, v =>
    if j = k then (k, v) :: t else if k < j then (k, v) :: (j, w) :: t else (j, w) :: dset t k v

/-- Remove the entry of key `k`. -/
def derase {α : Type} : Dict α → Nat → Dict α
  | [], _ => []
  | (j, w) :: t, k => if j = k then t else if k < j then (j, w) :: t else (j, w) :: derase t k

/-- Change the entry of key `k`, starting from `d` where none is listed. -/
def dmod {α : Type} (m : Dict α) (k : Nat) (d : α) (f : α → α) : Dict α := dset m k (f (dget m k d))

/-- The keys rise strictly. -/
def Dict.wf {α : Type} (m : Dict α) : Bool := decide ((m.map Prod.fst).Pairwise (· < ·))

/-! ### Memory -/

/-- Address `a` lies in range `r`. -/
def OpenRange.holds (r : OpenRange) (a : Nat) : Bool := decide (r.lo ≤ a) && decide (a < r.lo + r.len)

/-- The newest event that left the byte at `a` undefined, if one did. -/
def Mem.openAt (m : Mem) (a : Nat) : Option OpenRange := m.opened.find? (·.holds a)

/-- What a byte that no cell lists reads as: a free value where an event has left it undefined, else 0.
DESIGN CHOICE: memory that nothing has written since power-up reads 0 (log entry 3). -/
def Mem.unlisted (m : Mem) (a : Nat) : Byte :=
  match m.openAt a with
  | some r => Config.freeByte r.gen a
  | none => 0

/-- The byte at `a`. -/
def Mem.read (m : Mem) (a : Nat) : Byte := (dget? m.cells a).getD (m.unlisted a)

/-- Write the byte at `a`, keeping the canonical form: outside the opened ranges a zero byte has no cell. -/
def Mem.write (m : Mem) (a : Nat) (b : Byte) : Mem :=
  if b = 0 ∧ m.openAt a = none then { m with cells := derase m.cells a }
  else { m with cells := dset m.cells a b }

/-- `n` bytes from `a` on. -/
def Mem.readBytes (m : Mem) (a : Nat) : Nat → List Byte
  | 0 => []
  | n + 1 => m.read a :: m.readBytes (a + 1) n

/-- Write the bytes `bs` from `a` on. -/
def Mem.writeBytes (m : Mem) (a : Nat) : List Byte → Mem
  | [] => m
  | b :: bs => (m.write a b).writeBytes (a + 1) bs

/-- An event leaves `len` bytes from `lo` on undefined: they lose their cells and read as free values of generation
`gen` until they are written. -/
def Mem.leaveOpen (m : Mem) (lo len gen : Nat) : Mem :=
  { cells := m.cells.filter (fun c => !(OpenRange.holds ⟨lo, len, gen⟩ c.1)), opened := ⟨lo, len, gen⟩ :: m.opened }

/-- A range of memory reads as at power-up again: what lay there is freed and lost (R925). -/
def Mem.forget (m : Mem) (lo len : Nat) (gen : Nat) : Mem := m.leaveOpen lo len gen

/-- The canonical form: addresses rise strictly, and no cell repeats the zero that an unlisted byte outside the opened
ranges reads as. -/
def Mem.wf (m : Mem) : Bool :=
  Dict.wf m.cells && m.cells.all (fun c => decide (c.2 ≠ 0) || (m.openAt c.1).isSome)

/-! ### Little-endian fields (R11) -/

/-- The number that little-endian bytes spell. -/
def leNat : List Byte → Nat
  | [] => 0
  | b :: bs => b.toNat + 256 * leNat bs

/-- `n` little-endian bytes of a number. -/
def leBytes : Nat → Nat → List Byte
  | 0, _ => []
  | n + 1, v => BitVec.ofNat 8 v :: leBytes n (v / 256)

/-- The field of `n` bytes at offset `off` of a structure held as bytes; bytes past its end read 0. -/
def fieldAt (bs : List Byte) (off n : Nat) : Nat := leNat ((bs.drop off).take n)

/-- `n` bytes from offset `off`. -/
def sliceAt (bs : List Byte) (off n : Nat) : List Byte := (bs.drop off).take n

/-- Bits `lo` to `lo + n − 1` of a number. -/
def bitsOf (v lo n : Nat) : Nat := v / 2 ^ lo % 2 ^ n

/-- Bit `i` of a number. -/
def bitOf (v i : Nat) : Bool := decide (v / 2 ^ i % 2 = 1)

/-- All bytes are zero. -/
def allZero (bs : List Byte) : Bool := bs.all (· = 0)

/-- Two's complement reading of an `n`-bit number. -/
def signedOf (n v : Nat) : Int := if v % 2 ^ n < 2 ^ (n - 1) then (v % 2 ^ n : Nat) else (v % 2 ^ n : Nat) - (2 ^ n : Int)

/-- The low `n` bits of an integer. -/
def wrapTo (n : Nat) (i : Int) : Nat := (i % (2 ^ n : Int)).toNat

/-- Pad with zero bytes, or cut, to `n` bytes. -/
def padTo (bs : List Byte) (n : Nat) : List Byte := (bs ++ List.replicate (n - bs.length) 0).take n

end Sys2Proof.Machine
end

