-- ==== Sys2Proof/Machine/Formats.lean ====
section
/-! DEFINITION. Number formats: exact values, rounding, the format edge in both directions, promotion, the log2 norm and
the classes of watch blocks (chapters 02 and 04). -/

namespace Sys2Proof.Machine

/-- A real value as a format holds it: sign, and magnitude m × 2^e. -/
inductive FVal where
  | nan
  | inf (neg : Bool)
  | fin (neg : Bool) (m : Nat) (e : Int)
deriving DecidableEq, Repr

/-- A floating-point element format: exponent and fraction bits, largest finite magnitude code, and whether its highest
exponent codes infinity and NaN (`ieee`) or only the all-ones code is NaN (`nanOnly`). -/
structure FFmt where
  eb : Nat
  mb : Nat
  maxMag : Nat
  ieee : Bool := false
  nanOnly : Bool := false

def fp32 : FFmt := { eb := 8, mb := 23, maxMag := 0x7F7FFFFF, ieee := true }
def bf16 : FFmt := { eb := 8, mb := 7, maxMag := 0x7F7F, ieee := true }
def e4m3 : FFmt := { eb := 4, mb := 3, maxMag := 0x7E, nanOnly := true }
def e5m2 : FFmt := { eb := 5, mb := 2, maxMag := 0x7B, ieee := true }
def e2m3 : FFmt := { eb := 2, mb := 3, maxMag := 0x1F }
def e3m2 : FFmt := { eb := 3, mb := 2, maxMag := 0x1F }
def e2m1 : FFmt := { eb := 2, mb := 1, maxMag := 0x7 }

/-- Least exponent of a normal value. -/
def FFmt.emin (f : FFmt) : Int := 2 - 2 ^ (f.eb - 1)

/-- Sign bit of a code. -/
def FFmt.signAt (f : FFmt) : Nat := 2 ^ (f.eb + f.mb)

/-- Round m × 2^k to a whole number, half to even. -/
def roundScale (m : Nat) (k : Int) : Nat :=
  if 0 ≤ k then m * 2 ^ k.toNat
  else
    let d := 2 ^ (-k).toNat
    let q := m / d
    let r := m % d
    if d < 2 * r || (2 * r = d && q % 2 = 1) then q + 1 else q

/-- Round num / den to a whole number, half to even. -/
def roundDiv (num : Int) (den : Nat) : Int :=
  let q := num / (den : Int)
  let r := num % (den : Int)
  if (den : Int) < 2 * r || (2 * r = den && q % 2 = 1) then q + 1 else q

/-- floor(log2) of a non-zero magnitude. -/
def magLog (m : Nat) (e : Int) : Int := (Nat.log2 m : Int) + e

/-- The exact value of a code (R68). -/
def FFmt.decode (f : FFmt) (code : Nat) : FVal :=
  let neg := bitOf code (f.eb + f.mb)
  let mag := code % f.signAt
  let ex := mag / 2 ^ f.mb
  let fr := mag % 2 ^ f.mb
  if f.ieee && ex = 2 ^ f.eb - 1 then (if fr = 0 then .inf neg else .nan)
  else if f.nanOnly && mag = f.signAt - 1 then .nan
  else if ex = 0 then .fin neg fr (f.emin - f.mb)
  else .fin neg (2 ^ f.mb + fr) (f.emin - f.mb + ((ex : Int) - 1))

/-- Magnitude code of m × 2^e rounded half to even, with no bound above. -/
def FFmt.roundMag (f : FFmt) (m : Nat) (e : Int) : Nat :=
  if m = 0 then 0
  else
    let ex := max (magLog m e) f.emin
    roundScale m (e - (ex - f.mb)) + (ex - f.emin).toNat * 2 ^ f.mb

/-- A code from sign and magnitude. -/
def FFmt.withSign (f : FFmt) (neg : Bool) (mag : Nat) : Nat := if neg then f.signAt + mag else mag

/-- Encode, saturating to the largest finite magnitude; `nan` is the code for NaN (R71). -/
def FFmt.encodeSat (f : FFmt) (nan : Nat) : FVal → Nat
  | .nan => nan
  | .inf neg => f.withSign neg f.maxMag
  | .fin neg m e => f.withSign neg (min (f.roundMag m e) f.maxMag)

/-- Encode to an IEEE format, to infinity on overflow; NaN is the quiet NaN of R83. -/
def FFmt.encodeIeee (f : FFmt) : FVal → Nat
  | .nan => (2 ^ (f.eb + 1) - 1) * 2 ^ (f.mb - 1)
  | .inf neg => f.withSign neg (f.maxMag + 1)
  | .fin neg m e => f.withSign neg (min (f.roundMag m e) (f.maxMag + 1))

/-- The value exceeds the largest finite magnitude after rounding, or is infinite (R185). -/
def FFmt.over (f : FFmt) : FVal → Bool
  | .nan => false
  | .inf _ => true
  | .fin _ m e => decide (f.maxMag < f.roundMag m e)

/-- A signed whole number times 2^e as a value. -/
def ofInt (n : Int) (e : Int) : FVal := .fin (decide (n < 0)) n.natAbs e

/-- Signed mantissa. -/
def signedMag (neg : Bool) (m : Nat) : Int := if neg then -(m : Int) else m

/-- Exact sum of two values, with the zero signs of IEEE 754 round-half-to-even. -/
def FVal.add : FVal → FVal → FVal
  | .nan, _ => .nan
  | _, .nan => .nan
  | .inf a, .inf b => if a = b then .inf a else .nan
  | .inf a, .fin _ _ _ => .inf a
  | .fin _ _ _, .inf b => .inf b
  | .fin a m e, .fin b n f =>
    let g := min e f
    let s := signedMag a (m * 2 ^ (e - g).toNat) + signedMag b (n * 2 ^ (f - g).toNat)
    if s = 0 then .fin (a && b) 0 g else ofInt s g

/-- Exact product. -/
def FVal.mul : FVal → FVal → FVal
  | .nan, _ => .nan
  | _, .nan => .nan
  | .inf a, .inf b => .inf (a != b)
  | .inf a, .fin b n _ => if n = 0 then .nan else .inf (a != b)
  | .fin a m _, .inf b => if m = 0 then .nan else .inf (a != b)
  | .fin a m e, .fin b n f => .fin (a != b) (m * n) (e + f)

/-- a < b for values that are not NaN. -/
def FVal.lt : FVal → FVal → Bool
  | .nan, _ => false
  | _, .nan => false
  | .inf a, .inf b => a && !b
  | .inf a, .fin _ _ _ => a
  | .fin _ _ _, .inf b => !b
  | .fin a m e, .fin b n f =>
    let g := min e f
    decide (signedMag a (m * 2 ^ (e - g).toNat) < signedMag b (n * 2 ^ (f - g).toNat))

def FVal.isNan : FVal → Bool
  | .nan => true
  | _ => false

def FVal.isInf : FVal → Bool
  | .inf _ => true
  | _ => false

def FVal.isZero : FVal → Bool
  | .fin _ m _ => decide (m = 0)
  | _ => false

/-- FP32 sum of two codes (R83). -/
def add32 (a b : W32) : W32 := BitVec.ofNat 32 (fp32.encodeIeee ((fp32.decode a.toNat).add (fp32.decode b.toNat)))

/-! ### Format codes (R67) -/

/-- Block length of a block-length code. -/
def blockLenOf (code : Nat) : Nat := 16 * 2 ^ code

/-- Element bits of a format; 0 for a reserved code. -/
def elemBits (f : Nat) : Nat :=
  if f = 0x00 then 8 else if f = 0x01 then 4 else if f = 0x02 then 16 else if f = 0x03 then 1
  else if f = 0x04 || f = 0x05 then 8 else if f = 0x06 then 16 else if f = 0x07 then 32
  else if f = 0x08 || f = 0x09 || f = 0x0D then 8 else if f = 0x0A || f = 0x0B then 6
  else if f = 0x0C then 4 else 0

/-- Accepted into the array (IN_FORMATS), produced out of it (OUT_FORMATS). -/
def formatIn (f : Nat) : Bool := decide (f ≤ 0x0D) && bitOf 0x3F7F f
def formatOut (f : Nat) : Bool := decide (f ≤ 0x0D) && bitOf 0x33F7 f

def isLbi (f : Nat) : Bool := decide (f ≤ 0x02)
def isMx (f : Nat) : Bool := decide (0x08 ≤ f) && decide (f ≤ 0x0D)

/-- Elements that share one scale byte (R150); 0 where a format has none. -/
def scaleGroup (f b : Nat) : Nat := if isLbi f then b else if isMx f then 32 else 0

/-- Element format of a per-element or MX floating-point format. -/
def elemFmt (f : Nat) : FFmt :=
  if f = 0x04 || f = 0x08 then e4m3 else if f = 0x05 || f = 0x09 then e5m2 else if f = 0x06 then bf16
  else if f = 0x07 then fp32 else if f = 0x0A then e2m3 else if f = 0x0B then e3m2 else e2m1

/-- Elements of `bits` bits from a little-endian bit stream (R971). -/
def unpack (bs : List Byte) (bits n : Nat) : List Nat :=
  let v := leNat bs
  (List.range n).map (fun i => v / 2 ^ (bits * i) % 2 ^ bits)

/-- Elements packed into bytes (R971). -/
def packBits (bits : Nat) (codes : List Nat) : List Byte :=
  leBytes ((bits * codes.length + 7) / 8) (codes.foldr (fun c v => c % 2 ^ bits + v * 2 ^ bits) 0)

/-- Cut a list into pieces of `n`, the last one holding what remains. -/
def piecesOf {α : Type} (n : Nat) (xs : List α) : List (List α) :=
  (List.range ((xs.length + n - 1) / n)).map (fun i => (xs.drop (n * i)).take n)

/-! ### Inbound (R68 to R70) -/

/-- The exact value of one element with its scale byte (R61, R62, R69 table). -/
def decodeElem (f code scale : Nat) : FVal :=
  if isLbi f then
    if scale = 0xFF then .nan else ofInt (signedOf (elemBits f) code) ((scale : Int) - 127)
  else if f = 0x0D then
    if scale = 0xFF then .nan else ofInt (signedOf 8 code) ((scale : Int) - 133)
  else if isMx f then
    if scale = 0xFF then .nan
    else
      match (elemFmt f).decode code with
      | .nan => .nan
      | .inf neg => .fin neg 57344 ((scale : Int) - 127)
      | .fin neg m e => .fin neg m (e + ((scale : Int) - 127))
  else (elemFmt f).decode code

/-- Values of a unit: data and scale bytes of `n` elements; `b` is the block length. -/
def decodeValues (f : Nat) (data scales : List Byte) (n b : Nat) : List FVal :=
  (unpack data (elemBits f) n).zipIdx.map (fun x =>
    decodeElem f x.1 (if scaleGroup f b = 0 then 0 else (scales.getD (x.2 / scaleGroup f b) 0).toNat))

/-- Largest finite value of a source format, as m and e (R69). -/
def sourceMax (f : Nat) : Nat × Int :=
  match (elemFmt f).decode (elemFmt f).maxMag with
  | .fin _ m e => (m, e)
  | _ => (0, 0)

/-- Replace an infinity by the largest finite value of its sign (R69). -/
def finite (mx : Nat × Int) : FVal → FVal
  | .inf neg => .fin neg mx.1 mx.2
  | v => v

/-- floor(log2) of the largest magnitude, `none` when all are zero. -/
def topLog (xs : List FVal) : Option Int :=
  xs.foldl (fun t v => match v with
    | .fin _ m e => if m = 0 then t else (match t with | some x => some (max x (magLog m e)) | none => some (magLog m e))
    | _ => t) none

/-- Clamp an integer. -/
def clampI (lo hi v : Int) : Int := max lo (min hi v)

/-- quantise_block (R69): SCALE and the block integers at width `a`. -/
def quantise (xs : List FVal) (a : Nat) (mx : Nat × Int) : Nat × List Int :=
  if xs.any FVal.isNan then (0xFF, xs.map (fun _ => 0))
  else
    let xs := xs.map (finite mx)
    match topLog xs with
    | none => (0, xs.map (fun _ => 0))
    | some e =>
      let s := (clampI 0 254 (e - ((a : Int) - 2) + 127)).toNat
      let pmax : Int := 2 ^ (a - 1) - 1
      (s, xs.map (fun v => match v with
        | .fin neg m f => clampI (-pmax) pmax (signedMag neg (roundScale m (f - ((s : Int) - 127))))
        | _ => 0))

/-- Pad a list to a whole number of blocks with zeros (R56), and cut it into blocks of `b`. -/
def blocksOf {α : Type} (zero : α) (b : Nat) (xs : List α) : List (List α) :=
  (List.range ((xs.length + b - 1) / b)).map (fun i =>
    let t := (xs.drop (b * i)).take b
    t ++ List.replicate (b - t.length) zero)

/-- The LBI-a blocks of one unit of an activation stream (R68 to R70). -/
def toLbi (f : Nat) (data scales : List Byte) (n b a : Nat) : List (Nat × List Int) :=
  (blocksOf (.fin false 0 0) b (decodeValues f data scales n b)).map (fun x => quantise x a (sourceMax f))

/-- The blocks of an LBI unit as stored, for the plane side (R66). -/
def rawLbi (f : Nat) (data scales : List Byte) (n b : Nat) : List (Nat × List Int) :=
  ((blocksOf 0 b ((unpack data (elemBits f) n).map (signedOf (elemBits f)))).zipIdx).map (fun x =>
    ((scales.getD x.2 0).toNat, x.1))

/-! ### Outbound (R71, R72, R185) -/

/-- A converted output block: element codes, shared scale where the format has one, and for each value whether it is
clamped and whether it is a zero, as R185 asks. -/
structure OutBlock where
  codes : List Nat
  scale : Option Nat
  clamped : List Bool
  zeros : List Bool

/-- emax of an MX output format (R71). -/
def mxEmax (f : Nat) : Int := if f = 0x08 then 8 else if f = 0x09 then 15 else if f = 0x0C then 2 else 0

/-- Convert a block of FP32 accumulators into format `f` (R71, R72).
DESIGN CHOICE (log entry 96): in an MX block of which some accumulators are infinite and others finite, an infinity
counts as the FP32 maximum of its sign before X is formed; R186 fixes only the block in which every one is clamped. -/
def encodeBlock (f : Nat) (accs : List W32) : OutBlock :=
  let xs := accs.map (fun a => fp32.decode a.toNat)
  let mx := sourceMax 0x07
  if isLbi f then
    let a := elemBits f
    let q := quantise xs a mx
    let pmax := 2 ^ (a - 1) - 1
    { codes := q.2.map (wrapTo a), scale := some q.1,
      clamped := xs.map (fun v => decide (q.1 = 256 - a) && (match finite mx v with
        | .fin _ m e => decide (pmax < roundScale m (e - ((q.1 : Int) - 127)))
        | _ => false)),
      zeros := q.2.map (fun p => decide (q.1 ≠ 0xFF) && decide (p = 0)) }
  else if isMx f then
    if xs.any FVal.isNan then
      { codes := xs.map (fun _ => 0), scale := some 0xFF, clamped := xs.map (fun _ => false), zeros := xs.map (fun _ => false) }
    else
      let ys := xs.map (finite mx)
      let x : Nat := match topLog ys with
        | none => 0
        | some e => (clampI 0 254 (e - mxEmax f + 127)).toNat
      let white := decide ((x : Int) = 254 - mxEmax f)
      if f = 0x0D then
        let rs := ys.map (fun v => match v with
          | .fin neg m e => (neg, roundScale m (e - ((x : Int) - 133)))
          | _ => (false, 0))
        { codes := rs.map (fun r => wrapTo 8 (signedMag r.1 (min r.2 127))), scale := some x,
          clamped := rs.map (fun r => white && decide (127 < r.2)), zeros := rs.map (fun r => decide (r.2 = 0)) }
      else
        let g := elemFmt f
        let vs := ys.map (fun v => match v with | .fin neg m e => FVal.fin neg m (e - ((x : Int) - 127)) | v => v)
        { codes := vs.map (g.encodeSat 0), scale := some x, clamped := vs.map (fun v => white && g.over v),
          zeros := vs.map (fun v => (g.decode (g.encodeSat 0 v)).isZero) }
  else if f = 0x07 then
    { codes := accs.map BitVec.toNat, scale := none, clamped := xs.map FVal.isInf, zeros := xs.map FVal.isZero }
  else
    let g := elemFmt f
    let nan := if f = 0x06 then 0x7FC0 else 0x7F
    { codes := xs.map (g.encodeSat nan), scale := none, clamped := xs.map g.over,
      zeros := xs.map (fun v => (g.decode (g.encodeSat nan v)).isZero) }

/-! ### The narrow adder and promotion (R64, R65, R73 to R79) -/

/-- Clamp to the narrow adder's range, with NARROW_OVERFLOW (R75). -/
def narrow (n : Int) : Int × Bool := (clampI (-8388608) 8388607 n, decide (n < -8388608) || decide (8388607 < n))

/-- Σ p × q. -/
def dot (p q : List Int) : Int := (List.zipWith (· * ·) p q).foldl (· + ·) 0

/-- Split an A16 integer into its signed high and unsigned low byte (R64). -/
def split16 (p : Int) : Int × Int := (p / 256, p % 256)

/-- The narrow sum of one cell over one block run, with the error of an injected fault in its first pass (R73, R78). -/
def narrowSum (a : Nat) (p q : List Int) (err : Int) : Int × Bool :=
  if a = 16 then
    let hi := narrow (dot (p.map (fun x => (split16 x).1)) q + err)
    let lo := narrow (dot (p.map (fun x => (split16 x).2)) q)
    (256 * hi.1 + lo.1, hi.2 || lo.2)
  else narrow (dot p q + err)

/-- A plane-side block as fed: SCALE, integers q_w, CORR or 0, OFFS or 0, dropped depth (R41 to R47). -/
structure PlaneBlock where
  scale : Nat
  q : List Int
  corr : Nat
  offs : Nat
  depth : Nat

/-- promote (R79): the new accumulator. `sum` is A of R77. -/
def promote (acc : W32) (n sum : Int) (scaleA : Nat) (w : PlaneBlock) : W32 :=
  let c : Int := w.corr * (2 ^ w.depth - 1)
  let z : Int := 128 * signedOf 8 w.offs
  let br := 256 * 2 ^ w.depth * n + (c + z) * sum
  let t : FVal := if scaleA = 0xFF || w.scale = 0xFF then .nan
    else ofInt br ((scaleA : Int) + w.scale - 262)
  let t32 := BitVec.ofNat 32 (fp32.encodeIeee t)
  add32 acc t32

/-- q_w of each value of block `j` of a panel whose top `w` plane rows are given, top plane first (R43, R44, R53). -/
def planeInts (rows : List (List Byte)) (j b : Nat) : List Int :=
  let w := rows.length
  let vs := rows.map leNat
  (List.range b).map (fun i =>
    vs.zipIdx.foldl (fun q x =>
      if bitOf x.1 (b * j + i) then (if x.2 = 0 then q - 2 ^ (w - 1) else q + 2 ^ (w - 1 - x.2)) else q) 0)

/-- Cycles of one block run (R85): activation width code 0 A4, 1 A8, 2 A16. -/
def blockCycles (b w act : Nat) : Nat := b * w / (if act = 0 then 16 else if act = 1 then 8 else 4)

/-! ### The watch (R180 to R186) -/

/-- The sum of squares of finite accumulators, rounded once to a 24-bit significand: m × 2^e (R182). -/
def sumSquares (xs : List FVal) : Nat × Int :=
  let t := xs.foldl (fun (s : FVal) v => s.add (v.mul v)) (.fin false 0 0)
  match t with
  | .fin _ m e =>
    if m = 0 then (0, 0)
    else
      let k : Int := (Nat.log2 m : Int) - 23
      (roundScale m (-k), e + k)
  | _ => (0, 0)

/-- L in units of 2^−8, correctly rounded half to even (R183): L = 0.5 × log2 S. Since 256 × log2 S is whole only for a
power of two, no tie arises. -/
def log2Norm (s : Nat × Int) : Int := ((Nat.log2 (s.1 ^ 256) : Int) + 256 * s.2 + 1) / 2

/-- Class of a watch block (R185), with L for the jump test. -/
inductive BlockClass where
  | nanBlock
  | whiteout
  | zeroBlock
  | measured (l : Int)

/-- Classify a watch block by its accumulators and its converted form (R185). -/
def classify (accs : List W32) (o : OutBlock) : BlockClass :=
  let xs := accs.map (fun a => fp32.decode a.toNat)
  let white := o.clamped.all id
  if xs.any FVal.isNan || (xs.any FVal.isInf && !white) then .nanBlock
  else if white then .whiteout
  else if o.zeros.all id then .zeroBlock
  else .measured (log2Norm (sumSquares xs))

/-! ### CRC-64 and Philox -/

/-- One byte of CRC-64 with the ECMA-182 polynomial (R175). PRESUMED: the standard's form, initial value 0, most
significant bit first, no final inversion. -/
def crcByte (crc : W64) (b : Byte) : W64 :=
  (List.range 8).foldl (fun (c : W64) _ => if c.msb then (c <<< 1) ^^^ 0x42F0E1EBA9EA3693 else c <<< 1)
    (crc ^^^ (b.setWidth 64 <<< 56))

def crc64 (bs : List Byte) : W64 := bs.foldl crcByte 0

/-- One round of Philox4x32. -/
def philoxRound (c : W32 × W32 × W32 × W32) (k : W32 × W32) : W32 × W32 × W32 × W32 :=
  let p0 := 0xD2511F53 * c.1.toNat
  let p1 := 0xCD9E8D57 * c.2.2.1.toNat
  (BitVec.ofNat 32 (p1 / 2 ^ 32) ^^^ c.2.1 ^^^ k.1, BitVec.ofNat 32 p1,
   BitVec.ofNat 32 (p0 / 2 ^ 32) ^^^ c.2.2.2 ^^^ k.2, BitVec.ofNat 32 p0)

/-- Philox4x32-10 (R413). PRESUMED: the constants of Salmon, Moraes, Dror and Shaw (SC 2011). -/
def philox (c : W32 × W32 × W32 × W32) (k : W32 × W32) : W32 × W32 × W32 × W32 :=
  ((List.range 10).foldl (fun (x : (W32 × W32 × W32 × W32) × (W32 × W32)) _ =>
    (philoxRound x.1 x.2, (x.2.1 + 0x9E3779B9, x.2.2 + 0xBB67AE85))) (c, k)).1

end Sys2Proof.Machine
end

