-- ==== Sys2Proof/Machine/Approx.lean ====
section
/-! DEFINITION. EXP2, LOG2, RSQRT and RECIP of the vector unit: fixed approximations within 2 ulp of FP32 (R163). The exact value is
bracketed between two neighbours of the FP32 grid, and a free value says which of the codes within 2 ulp the unit gives. -/

namespace Sys2Proof.Machine

/-- Square root of `v` rounded down, below `r` + 2 ^ `n`. -/
def isqrtFrom (v : Nat) : Nat → Nat → Nat
  | 0, r => r
  | n + 1, r => isqrtFrom v n (if (r + 2 ^ n) * (r + 2 ^ n) ≤ v then r + 2 ^ n else r)

/-- Multiply or divide by a power of two, rounding down. -/
def shiftBy (v : Nat) (k : Int) : Nat := if 0 ≤ k then v * 2 ^ k.toNat else v / 2 ^ (-k).toNat

/-- The magnitude code of FP32 at or below q / 2 ^ 200, and whether the two are equal. -/
def floorCode (q : Nat) : Nat × Bool :=
  let l := Nat.log2 q
  if l < 74 then (q / 2 ^ 51, decide (q % 2 ^ 51 = 0))
  else ((l - 74) * 2 ^ 23 + q / 2 ^ (l - 23), decide (q % 2 ^ (l - 23) = 0))

/-- 2 ^ (f / 2 ^ 128) with 160 fraction bits: the product of the roots 2 ^ (2 ^ -i) over the set bits of `f`, `bit` first. -/
def exp2Frac (f : Nat) : Nat → Nat → Nat → Nat
  | 0, _, acc => acc
  | n + 1, root, acc =>
    let root := isqrtFrom (root * 2 ^ 160) 162 0
    exp2Frac f n root (if bitOf f n then acc * root / 2 ^ 160 else acc)

/-- The first `n` fraction bits of log2 of y / 2 ^ 256, for y from 1 up to 2, behind `acc`. -/
def log2Frac : Nat → Nat → Nat → Nat
  | 0, _, acc => acc
  | n + 1, y, acc =>
    let z := y * y / 2 ^ 256
    if 2 ^ 257 ≤ z then log2Frac n (z / 2) (2 * acc + 1) else log2Frac n z (2 * acc)

/-- The exact value of EXP2, LOG2, RSQRT or RECIP at ± m × 2 ^ e: its sign, its magnitude with 200 fraction bits rounded down, and
whether nothing was cut off; `none` where no rule states a result (LOG2 and RSQRT of no positive number, RECIP of zero). -/
def exactOf (vop : Nat) (neg : Bool) (m : Nat) (e : Int) : Option (Bool × Nat × Bool) :=
  if vop = 0x14 then
    let s : Int := if neg then -(m : Int) else m
    let k := e + 128
    let x : Int := if 0 ≤ k then s * 2 ^ k.toNat else s / (2 ^ (-k).toNat : Nat)
    let n : Int := x / (2 ^ 128 : Nat)
    let f := (x % (2 ^ 128 : Nat)).toNat
    if 128 ≤ n then none
    else some (false, shiftBy (exp2Frac f 128 (2 * 2 ^ 160) (2 ^ 160)) (n + 40),
      decide (f = 0) && decide (0 ≤ k ∨ m % 2 ^ (-k).toNat = 0))
  else if m = 0 then none
  else if vop = 0x15 then
    if neg then none
    else
      let l := Nat.log2 m
      let v : Int := ((l : Int) + e) * (2 ^ 128 : Nat) + log2Frac 128 (shiftBy m (256 - (l : Int))) 0
      let whole := decide (m = 2 ^ l)
      some (decide (v < 0), if 0 ≤ v then v.toNat * 2 ^ 72 else if whole then (-v).toNat * 2 ^ 72 else (-v).toNat * 2 ^ 72 - 1, whole)
  else if vop = 0x16 then
    if neg then none
    else
      let w := shiftBy 1 (400 - e)
      let q := isqrtFrom (w / m) 300 0
      some (false, q, decide (q * q * m = w))
  else
    let w := shiftBy 1 (200 - e)
    some (neg, w / m, decide (w % m = 0))

/-- EXP2, LOG2, RSQRT or RECIP of an FP32 code where the rules state a result, as the code `pick` of the five at most 2 ulp from the
exact value (R163). -/
def approxAt (pick : Fin 5) (vop : Nat) (a : W32) : Option W32 :=
  match fp32.decode a.toNat with
  | .fin neg m e =>
    (exactOf vop neg m e).map (fun x =>
      let g := floorCode x.2.1
      let d : Int := pick.val - 2
      let mag : Int := (g.1 : Int) + (if d = -2 && !(g.2 && x.2.2) then -1 else d)
      let sign := x.1 != decide (mag < 0)
      BitVec.ofNat 32 ((if sign then 2 ^ 31 else 0) + min mag.natAbs fp32.maxMag))
  | _ => none

/-- The same with the free choice of the unit, which is the same every time (`Config.vectorUlps`). -/
def approx32 (vop : Nat) (a : W32) : Option W32 := approxAt (Config.vectorUlps vop a) vop a

/-- One lane of EXP2, LOG2, RSQRT or RECIP. A BF16 lane is the FP32 result rounded. Where no rule states a result it is free. -/
def approxLane (vop : Nat) (bf : Bool) (a : W32) : W32 :=
  match approx32 vop (if bf then a <<< 16 else a) with
  | some v => if bf then BitVec.ofNat 32 (bf16.encodeIeee (fp32.decode v.toNat)) else v
  | none => Config.vectorApprox vop bf a

end Sys2Proof.Machine
end

