-- ==== Sys2Proof/Machine/Vector.lean ====
section
/-! DEFINITION. The vector unit and the on-tile sampler on lane values (R161 to R163, R413 to R415). -/

namespace Sys2Proof.Machine

/-- The register type's element format: FP32 or BF16. -/
def laneFmt (bf : Bool) : FFmt := if bf then bf16 else fp32

/-- Lanes of a register (R161). -/
def lanesOf (bf : Bool) : Nat := if bf then 512 else 256

/-- The lanes of register `r`. -/
def readLanes (regs : Dict W32) (bf : Bool) (r : Nat) : List W32 :=
  let ws : List W32 := (List.range 256).map (fun i => dget regs (256 * r + i) 0)
  if bf then ws.flatMap (fun (w : W32) => [w &&& 0xFFFF, w >>> 16]) else ws

/-- Join pairs of BF16 lanes into words. -/
def joinHalves : List W32 → List W32
  | a :: b :: t => ((b <<< 16) ||| (a &&& 0xFFFF)) :: joinHalves t
  | [a] => [a]
  | [] => []

/-- Set the lanes of register `r` from the first one on. -/
def writeLanes (regs : Dict W32) (bf : Bool) (r : Nat) (vs : List W32) : Dict W32 :=
  let ws := if bf then joinHalves vs else vs
  ((ws.take 256).zipIdx).foldl (fun m x => dset m (256 * r + x.2) x.1) regs

/-- Round a lane result; a NaN that arises is a value the manual does not state. -/
def laneResult (vop : Nat) (bf : Bool) (a b c : W32) : FVal → W32
  | .nan => Config.vectorLane vop bf a b c
  | v => BitVec.ofNat 32 ((laneFmt bf).encodeIeee v)

/-- One lane of FMA, ADD, MUL or MAX: the exact result rounded once, half to even (DEDUCED: log entry 20). -/
def laneOp (vop : Nat) (bf : Bool) (a b c : W32) : W32 :=
  let f := laneFmt bf
  let x := f.decode a.toNat
  let y := f.decode b.toNat
  let z := f.decode c.toNat
  if vop = 0x10 then laneResult vop bf a b c ((x.mul y).add z)
  else if vop = 0x11 then laneResult vop bf a b 0 (x.add y)
  else if vop = 0x12 then laneResult vop bf a b 0 (x.mul y)
  else if vop = 0x13 then
    if x.isNan || y.isNan then Config.vectorLane vop bf a b 0
    else if x.lt y then b else if y.lt x then a
    else if a = b then a else Config.vectorLane vop bf a b 0
  else approxLane vop bf a

/-- One level of the fixed pairwise tree: lane 2i with lane 2i + 1 (R163). -/
def treeLevel (f : W32 → W32 → W32) : List W32 → List W32
  | a :: b :: t => f a b :: treeLevel f t
  | [a] => [a]
  | [] => []

/-- The tree of R163 over a number of levels. -/
def treeReduce (f : W32 → W32 → W32) : Nat → List W32 → List W32
  | 0, xs => xs
  | n + 1, xs => treeReduce f n (treeLevel f xs)

/-- REDUCE_SUM or REDUCE_MAX of a register's lanes. -/
def reduceLanes (vop : Nat) (bf : Bool) (xs : List W32) : W32 :=
  (treeReduce (fun a b => laneOp (if vop = 0x20 then 0x11 else 0x13) bf a b 0) 10 xs).headD 0

/-! ### The sampler (R413 to R415) -/

/-- a / b in FP32, rounded once: the quotient to 40 bits with a sticky bit. -/
def div32 (a b : W32) : W32 :=
  match fp32.decode a.toNat, fp32.decode b.toNat with
  | .fin s m e, .fin t n f =>
    if n = 0 then Config.vectorLane 0x17 false a b 0
    else
      let q := m * 2 ^ 200 / n
      BitVec.ofNat 32 (fp32.encodeIeee (.fin (s != t) (2 * q + (if m * 2 ^ 200 % n = 0 then 0 else 1)) (e - f - 201)))
  | _, _ => Config.vectorLane 0x17 false a b 0

/-- a × b in FP32. -/
def mul32 (a b : W32) : W32 := laneOp 0x12 false a b 0

/-- a < b in FP32. -/
def lt32 (a b : W32) : Bool := (fp32.decode a.toNat).lt (fp32.decode b.toNat)

/-- The indices of the `n` largest entries, descending, ties by lower index first (R414). -/
def topIndices (z : List W32) (n : Nat) : List Nat :=
  ((sortBy (fun a b => !lt32 a.1 b.1) z.zipIdx).map Prod.snd).take n

/-- u of a sample (R413): the first Philox word of key `seed` and counter (p, 0, 0, 0), as a 24-bit fraction. -/
def sampleU (seed : W64) (p : Nat) : W32 :=
  let x0 := (philox (BitVec.ofNat 32 p, 0, 0, 0) (seed.setWidth 32, (seed >>> 32).setWidth 32)).1
  BitVec.ofNat 32 (fp32.encodeIeee (.fin false (x0.toNat / 256) (-24)))

/-- Running sums in ascending order (R415). -/
def runningSums (xs : List W32) : List W32 :=
  (xs.foldl (fun (x : List W32 × W32) q => let t := add32 x.2 q; (x.1 ++ [t], t)) ([], 0)).1

/-- sample (R414): T and P are FP32 codes, u is R413's. log2(e) is taken as FP32 0x3FB8AA3B, and each operation rounds in
FP32 (DEDUCED: log entry 20). -/
def sampleToken (z : List W32) (temp : W32) (k : Nat) (topP u : W32) : Nat :=
  if (fp32.decode temp.toNat).isZero then (topIndices z 1).headD 0
  else
    let c := topIndices z (if 1 ≤ k && k ≤ 1024 then k else 1024)
    let z0 := z.getD (c.headD 0) 0
    let e := c.map (fun i =>
      approxLane 0x14 false (div32 (mul32 (add32 (z.getD i 0) (z0 ^^^ 0x80000000)) 0x3FB8AA3B) temp))
    let sum := (treeReduce (fun a b => add32 a b) 10 e).headD 0
    let q := e.map (fun x => div32 x sum)
    let runs := runningSums q
    let m := if lt32 topP 0x3F800000 then
        match runs.findIdx? (fun r => !lt32 r topP) with
        | some i => i + 1
        | none => c.length
      else c.length
    let r := mul32 u (runs.getD (m - 1) 0)
    match (runs.take m).findIdx? (fun x => lt32 r x) with
    | some j => c.getD j 0
    | none => c.getD (m - 1) 0

/-- Registers that an operation of the vector slot reads (R133, R169). -/
def vectorSources (vop srcA srcB srcC : Nat) : List Nat :=
  if vop = 0x02 then [srcA]
  else if vop = 0x10 then [srcA, srcB, srcC]
  else if vop = 0x11 || vop = 0x12 || vop = 0x13 then [srcA, srcB]
  else if vop = 0x30 || vop = 0x31 then [srcA, srcB]
  else if 0x14 ≤ vop then [srcA]
  else []

end Sys2Proof.Machine
end

