-- ==== Sys2Proof/Machine/Crypto.lean ====
section
/-! DEFINITION. The digest, the keyed digest and the signature check that the manual names by their standards: SM3
(GB/T 32905), HMAC-SM3, and SM2 (GB/T 32918.2) over its recommended curve (R878). The algorithms themselves stand in
those standards and not in the manual: PRESUMED (log entry 8). -/

namespace Sys2Proof.Machine

/-! ### SM3 -/

/-- The number that big-endian bytes spell. -/
def beNat (bs : List Byte) : Nat := bs.foldl (fun a b => a * 256 + b.toNat) 0

/-- `n` big-endian bytes of a number. -/
def beBytes (n v : Nat) : List Byte := (leBytes n v).reverse

/-- Permutations P0 and P1. -/
def sm3P0 (x : W32) : W32 := x ^^^ x.rotateLeft 9 ^^^ x.rotateLeft 17
def sm3P1 (x : W32) : W32 := x ^^^ x.rotateLeft 15 ^^^ x.rotateLeft 23

/-- One further word of the message expansion; the list holds the latest 16 words, newest first. -/
def sm3Next (w : List W32) : W32 :=
  let g (i : Nat) : W32 := w.getD i 0
  sm3P1 (g 15 ^^^ g 8 ^^^ (g 2).rotateLeft 15) ^^^ (g 12).rotateLeft 7 ^^^ g 5

/-- Expand 16 words, newest first, by `n` more. -/
def sm3Expand : Nat → List W32 → List W32
  | 0, w => w
  | n + 1, w => sm3Expand n (sm3Next w :: w)

/-- Initial value. -/
def sm3Iv : List W32 :=
  [0x7380166f, 0x4914b2b9, 0x172442d7, 0xda8a0600, 0xa96f30bc, 0x163138aa, 0xe38dee4d, 0xb0fb0e4e]

/-- One round on the registers A to H. -/
def sm3Round (j : Nat) (w w' : W32) : List W32 → List W32
  | [a, b, c, d, e, f, g, h] =>
    let t : W32 := if j < 16 then 0x79cc4519 else 0x7a879d8a
    let ss1 := (a.rotateLeft 12 + e + t.rotateLeft (j % 32)).rotateLeft 7
    let ss2 := ss1 ^^^ a.rotateLeft 12
    let ff := if j < 16 then a ^^^ b ^^^ c else (a &&& b) ||| (a &&& c) ||| (b &&& c)
    let gg := if j < 16 then e ^^^ f ^^^ g else (e &&& f) ||| (~~~e &&& g)
    let tt1 := ff + d + ss2 + w'
    let tt2 := gg + h + ss1 + w
    [tt1, a, b.rotateLeft 9, c, sm3P0 tt2, e, f.rotateLeft 19, g]
  | v => v

/-- The rounds over the expanded words. -/
def sm3Rounds : Nat → Nat → List W32 → List W32 → List W32
  | 0, _, _, v => v
  | n + 1, j, ws, v => sm3Rounds n (j + 1) (ws.drop 1) (sm3Round j (ws.getD 0 0) (ws.getD 0 0 ^^^ ws.getD 4 0) v)

/-- Big-endian 32-bit words of bytes. -/
def beWords : Nat → List Byte → List W32
  | 0, _ => []
  | n + 1, bs => BitVec.ofNat 32 (beNat (bs.take 4)) :: beWords n (bs.drop 4)

/-- Compress one block of 64 bytes. -/
def sm3Block (v : List W32) (block : List Byte) : List W32 :=
  let ws := (sm3Expand 52 (beWords 16 block).reverse).reverse
  (sm3Rounds 64 0 ws v).zipWith (· ^^^ ·) v

/-- Compress `n` blocks. -/
def sm3Blocks : Nat → List W32 → List Byte → List W32
  | 0, v, _ => v
  | n + 1, v, bs => sm3Blocks n (sm3Block v (bs.take 64)) (bs.drop 64)

/-- SM3: the 32-byte digest of a byte string. -/
def sm3 (bs : List Byte) : List Byte :=
  let pad := bs ++ [0x80] ++ List.replicate ((119 - bs.length % 64) % 64) 0 ++ beBytes 8 (8 * bs.length)
  (sm3Blocks (pad.length / 64) sm3Iv pad).flatMap (fun w => beBytes 4 w.toNat)

/-- HMAC-SM3 with a key of at most 64 bytes. -/
def hmacSm3 (key msg : List Byte) : List Byte :=
  let k := padTo key 64
  sm3 (k.map (· ^^^ 0x5c) ++ sm3 (k.map (· ^^^ 0x36) ++ msg))

/-- ASCII text as bytes. -/
def asciiBytes (t : String) : List Byte := t.toList.map (fun c => BitVec.ofNat 8 c.toNat)

/-! ### SM2 -/

/-- Field prime, coefficients, base point and order of the recommended curve. -/
def sm2P : Nat := 0xFFFFFFFEFFFFFFFFFFFFFFFFFFFFFFFFFFFFFFFF00000000FFFFFFFFFFFFFFFF
def sm2A : Nat := 0xFFFFFFFEFFFFFFFFFFFFFFFFFFFFFFFFFFFFFFFF00000000FFFFFFFFFFFFFFFC
def sm2B : Nat := 0x28E9FA9E9D9F5E344D5A9E4BCF6509A7F39789F515AB8F92DDBCBD414D940E93
def sm2N : Nat := 0xFFFFFFFEFFFFFFFFFFFFFFFFFFFFFFFF7203DF6B21C6052B53BBF40939D54123
def sm2Gx : Nat := 0x32C4AE2C1F1981195F9904466A39C9948FE30BBFF2660BE1715A4589334C74C7
def sm2Gy : Nat := 0xBC3736A2F4F6779C59BDCEE36B692153D0A9877CC62A474002DF32E52139F0A0

/-- Product and difference modulo the field prime. -/
def fMul (a b : Nat) : Nat := a * b % sm2P
def fSub (a b : Nat) : Nat := (a + (sm2P - b % sm2P)) % sm2P

/-- Power modulo `m` by squaring, over the lowest `n` bits of the exponent. -/
def powMod (m : Nat) : Nat → Nat → Nat → Nat
  | 0, _, _ => 1
  | n + 1, b, e => (if e % 2 = 1 then b else 1) * powMod m n (b * b % m) (e / 2) % m

/-- A point in Jacobian coordinates; Z = 0 is the point at infinity. -/
structure JPoint where
  x : Nat
  y : Nat
  z : Nat
deriving DecidableEq, Repr

/-- Doubling. -/
def jDouble (p : JPoint) : JPoint :=
  let yy := fMul p.y p.y
  let s := fMul 4 (fMul p.x yy)
  let zz := fMul p.z p.z
  let m := (fMul 3 (fMul p.x p.x) + fMul sm2A (fMul zz zz)) % sm2P
  let x := fSub (fMul m m) (2 * s)
  ⟨x, fSub (fMul m (fSub s x)) (fMul 8 (fMul yy yy)), fMul (2 * p.y) p.z⟩

/-- Addition. -/
def jAdd (p q : JPoint) : JPoint :=
  if p.z = 0 then q
  else if q.z = 0 then p
  else
    let z1 := fMul p.z p.z
    let z2 := fMul q.z q.z
    let u1 := fMul p.x z2
    let u2 := fMul q.x z1
    let s1 := fMul p.y (fMul z2 q.z)
    let s2 := fMul q.y (fMul z1 p.z)
    if u1 = u2 then (if s1 = s2 then jDouble p else ⟨1, 1, 0⟩)
    else
      let h := fSub u2 u1
      let r := fSub s2 s1
      let h2 := fMul h h
      let h3 := fMul h2 h
      let v := fMul u1 h2
      let x := fSub (fSub (fMul r r) h3) (2 * v)
      ⟨x, fSub (fMul r (fSub v x)) (fMul s1 h3), fMul h (fMul p.z q.z)⟩

/-- Multiple of a point, over the lowest `n` bits of the factor. -/
def jMul : Nat → Nat → JPoint → JPoint
  | 0, _, _ => ⟨1, 1, 0⟩
  | n + 1, k, p =>
    let q := jMul n (k / 2) (jDouble p)
    if k % 2 = 1 then jAdd p q else q

/-- Affine coordinates; none for the point at infinity. -/
def jAffine (p : JPoint) : Option (Nat × Nat) :=
  if p.z = 0 then none
  else
    let i := powMod sm2P 256 p.z (sm2P - 2)
    let i2 := fMul i i
    some (fMul p.x i2, fMul p.y (fMul i2 i))

/-- The bytes of a public key, x then y, as a point of the curve (R887, R888). -/
def sm2Point (key : List Byte) : Option (Nat × Nat) :=
  let x := beNat (key.take 32)
  let y := beNat ((key.drop 32).take 32)
  if key.length = 64 && x < sm2P && y < sm2P && fMul y y = (fMul x (fMul x x) + fMul sm2A x + sm2B) % sm2P then some (x, y)
  else none

/-- Z of a signer: its identifier, the curve and its key digested. -/
def sm2Z (id key : List Byte) : List Byte :=
  sm3 (beBytes 2 (8 * id.length) ++ id ++ beBytes 32 sm2A ++ beBytes 32 sm2B ++ beBytes 32 sm2Gx ++ beBytes 32 sm2Gy ++ key)

/-- The default distinguishing identifier (R878). -/
def defaultDistId : List Byte := asciiBytes "1234567812345678"

/-- An SM2 signature, r then s, verifies over a message (R878). -/
def sm2Verify (id key msg sig : List Byte) : Bool :=
  match sm2Point key with
  | none => false
  | some (x, y) =>
    let e := beNat (sm3 (sm2Z id key ++ msg))
    let r := beNat (sig.take 32)
    let s := beNat ((sig.drop 32).take 32)
    let t := (r + s) % sm2N
    if sig.length = 64 && 0 < r && r < sm2N && 0 < s && s < sm2N && t ≠ 0 then
      match jAffine (jAdd (jMul 256 s ⟨sm2Gx, sm2Gy, 1⟩) (jMul 256 t ⟨x, y, 1⟩)) with
      | some (x1, _) => (e + x1) % sm2N = r
      | none => false
    else false

/-- The public key of a private key. -/
def sm2Public (d : Nat) : List Byte :=
  match jAffine (jMul 256 d ⟨sm2Gx, sm2Gy, 1⟩) with
  | some (x, y) => beBytes 32 x ++ beBytes 32 y
  | none => []

/-- A key derived from a secret and a label: d = (HMAC-SM3(secret, label) mod (n − 1)) + 1 (R883). -/
def derivedKey (secret : List Byte) (label : String) : Nat :=
  beNat (hmacSm3 secret (asciiBytes label)) % (sm2N - 1) + 1

end Sys2Proof.Machine
end

