-- ==== Sys2Proof/Machine/Deflate.lean ====
section
/-! DEFINITION. DEFLATE as RFC 1951 defines it (R346): inflating any stream, and the stream that an ice core holds. -/

namespace Sys2Proof.Machine

/-- A bit stream: bytes in order, the least significant bit of each first. -/
def bitStream (bs : List Byte) : List Bool := bs.flatMap (fun b => (List.range 8).map (fun i => b.toNat.testBit i))

/-- A number of `n` bits from the front of a stream, least significant bit first. -/
def takeBits : Nat → List Bool → Option (Nat × List Bool)
  | 0, bs => some (0, bs)
  | _ + 1, [] => none
  | n + 1, b :: bs => (takeBits n bs).map (fun x => (b.toNat + 2 * x.1, x.2))

/-- `k` numbers of `n` bits. -/
def takeMany (n : Nat) : Nat → List Bool → Option (List Nat × List Bool)
  | 0, bs => some ([], bs)
  | k + 1, bs =>
    match takeBits n bs with
    | some (v, bs) => (takeMany n k bs).map (fun x => (v :: x.1, x.2))
    | none => none

/-! ### Huffman codes -/

/-- Smallest code of length `n` when code lengths are given by symbol. -/
def firstCode (lens : List Nat) : Nat → Nat
  | 0 => 0
  | n + 1 => 2 * (firstCode lens n + if n = 0 then 0 else lens.count n)

/-- The code of each symbol that has one: length, code, symbol. -/
def codesOf (lens : List Nat) : List (Nat × Nat × Nat) :=
  (lens.zipIdx.filter (fun x => decide (x.1 ≠ 0))).map (fun x => (x.1, firstCode lens x.1 + (lens.take x.2).count x.1, x.2))

/-- Read one symbol, whose code stands most significant bit first, in at most `fuel` bits. -/
def readSymbol (h : List (Nat × Nat × Nat)) : Nat → Nat → Nat → List Bool → Option (Nat × List Bool)
  | 0, _, _, _ => none
  | _ + 1, _, _, [] => none
  | fuel + 1, n, c, b :: bs =>
    let c := 2 * c + b.toNat
    match h.find? (fun x => decide (x.1 = n + 1) && decide (x.2.1 = c)) with
    | some x => some (x.2.2, bs)
    | none => readSymbol h fuel (n + 1) c bs

/-- Code lengths of the fixed codes. -/
def fixedLengths : List Nat × List Nat :=
  (List.replicate 144 8 ++ List.replicate 112 9 ++ List.replicate 24 7 ++ List.replicate 8 8, List.replicate 30 5)

/-- Order in which a dynamic block gives the lengths of its code-length code. -/
def lengthOrder : List Nat := [16, 17, 18, 0, 8, 7, 9, 6, 10, 5, 11, 4, 12, 3, 13, 2, 14, 1, 15]

/-- Least value and extra bits of each length code from 257 on, and of each distance code. -/
def lengthCodes : List (Nat × Nat) :=
  [(3, 0), (4, 0), (5, 0), (6, 0), (7, 0), (8, 0), (9, 0), (10, 0), (11, 1), (13, 1), (15, 1), (17, 1), (19, 2), (23, 2), (27, 2),
   (31, 2), (35, 3), (43, 3), (51, 3), (59, 3), (67, 4), (83, 4), (99, 4), (115, 4), (131, 5), (163, 5), (195, 5), (227, 5), (258, 0)]
def distCodes : List (Nat × Nat) :=
  [(1, 0), (2, 0), (3, 0), (4, 0), (5, 1), (7, 1), (9, 2), (13, 2), (17, 3), (25, 3), (33, 4), (49, 4), (65, 5), (97, 5), (129, 6),
   (193, 6), (257, 7), (385, 7), (513, 8), (769, 8), (1025, 9), (1537, 9), (2049, 10), (3073, 10), (4097, 11), (6145, 11), (8193, 12),
   (12289, 12), (16385, 13), (24577, 13)]

/-- Read `n` code lengths with the code-length code; `got` holds those read, newest first. -/
def readLengths (h : List (Nat × Nat × Nat)) (n : Nat) : Nat → List Nat → List Bool → Option (List Nat × List Bool)
  | 0, _, _ => none
  | fuel + 1, got, bs =>
    if n ≤ got.length then (if got.length = n then some (got.reverse, bs) else none)
    else
      match readSymbol h 7 0 0 bs with
      | none => none
      | some (v, bs) =>
        let again (x base bits : Nat) : Option (List Nat × List Bool) :=
          match takeBits bits bs with
          | some (k, bs) => readLengths h n fuel (List.replicate (base + k) x ++ got) bs
          | none => none
        if v < 16 then readLengths h n fuel (v :: got) bs
        else if v = 16 then (match got with | x :: _ => again x 3 2 | [] => none)
        else if v = 17 then again 0 3 3
        else again 0 11 7

/-- The codes of a dynamic block. -/
def readCodes (bs : List Bool) : Option ((List Nat × List Nat) × List Bool) :=
  match takeBits 5 bs with
  | none => none
  | some (hlit, bs) =>
    match takeBits 5 bs with
    | none => none
    | some (hdist, bs) =>
      match takeBits 4 bs with
      | none => none
      | some (hclen, bs) =>
        match takeMany 3 (hclen + 4) bs with
        | none => none
        | some (ls, bs) =>
          let lens := (List.range 19).map (fun s => (((lengthOrder.zip ls).find? (fun x => decide (x.1 = s))).map Prod.snd).getD 0)
          (readLengths (codesOf lens) (hlit + 257 + hdist + 1) 400 [] bs).map (fun x =>
            ((x.1.take (hlit + 257), x.1.drop (hlit + 257)), x.2))

/-! ### Blocks -/

/-- Append `n` bytes that lie `d` back; the output is held newest first. -/
def copyBack (d : Nat) : Nat → List Byte → Option (List Byte)
  | 0, out => some out
  | n + 1, out => if h : d - 1 < out.length ∧ 0 < d then copyBack d n (out[d - 1]'h.1 :: out) else none

/-- The literals and copies of a compressed block. -/
def readBlock (lit dist : List (Nat × Nat × Nat)) : Nat → List Byte → List Bool → Option (List Byte × List Bool)
  | 0, _, _ => none
  | fuel + 1, out, bs =>
    match readSymbol lit 15 0 0 bs with
    | none => none
    | some (v, bs) =>
      if v < 256 then readBlock lit dist fuel (BitVec.ofNat 8 v :: out) bs
      else if v = 256 then some (out, bs)
      else
        match lengthCodes[v - 257]? with
        | none => none
        | some (base, extra) =>
          match takeBits extra bs with
          | none => none
          | some (e, bs) =>
            match readSymbol dist 15 0 0 bs with
            | none => none
            | some (w, bs) =>
              match distCodes[w]? with
              | none => none
              | some (dbase, dextra) =>
                match takeBits dextra bs with
                | none => none
                | some (f, bs) =>
                  match copyBack (dbase + f) (base + e) out with
                  | some out => readBlock lit dist fuel out bs
                  | none => none

/-- One block after another; `size` is the number of bits of the stream. -/
def inflateBlocks (size : Nat) : Nat → List Byte → List Bool → Option (List Byte)
  | 0, _, _ => none
  | fuel + 1, out, bs =>
    match takeBits 3 bs with
    | none => none
    | some (h, bs) =>
      let block : Option (List Byte × List Bool) :=
        if h / 2 = 0 then
          -- a stored block begins at the next byte boundary: length, its complement, bytes
          match takeBits 16 (bs.drop (bs.length % 8)) with
          | some (n, bs) =>
            match takeBits 16 bs with
            | some (m, bs) =>
              if n + m ≠ 65535 then none
              else (takeMany 8 n bs).map (fun x => ((x.1.map (BitVec.ofNat 8)).reverse ++ out, x.2))
            | none => none
          | none => none
        else if h / 2 = 1 then readBlock (codesOf fixedLengths.1) (codesOf fixedLengths.2) size out bs
        else if h / 2 = 2 then
          match readCodes bs with
          | some (c, bs) => readBlock (codesOf c.1) (codesOf c.2) size out bs
          | none => none
        else none
      match block with
      | none => none
      | some (out, bs) => if h % 2 = 1 then some out.reverse else inflateBlocks size fuel out bs

/-- The bytes that a DEFLATE stream holds; `none` where it is no such stream. -/
def inflate (bs : List Byte) : Option (List Byte) := inflateBlocks (8 * bs.length + 1) (8 * bs.length + 1) [] (bitStream bs)

/-- A stream of stored blocks. -/
def storedBlocks : Nat → List Byte → List Byte
  | 0, _ => []
  | fuel + 1, bs =>
    let t := bs.take 65535
    [if bs.length ≤ 65535 then (1 : Byte) else 0] ++ leBytes 2 t.length ++ leBytes 2 (65535 - t.length) ++ t ++
      (if bs.length ≤ 65535 then [] else storedBlocks fuel (bs.drop 65535))

/-- DEFLATE lets a compressor choose among streams that inflate to the same bytes, and the manual names no choice: a free stream
that inflates to `bs`, or stored blocks where the free value is none. -/
def deflate (bs : List Byte) : List Byte :=
  if inflate (Config.deflateStream bs) = some bs then Config.deflateStream bs else storedBlocks (bs.length + 1) bs

end Sys2Proof.Machine
end

