-- ==== Sys2Proof/Machine/Fec.lean ====
section
/-! DEFINITION. What a link carries below packets: the bytes of a flit with its FCRC (R441, R442), the RS(544,514) code over
GF(2^10), its symbols on the lanes, and which codewords a flit of the stream touches (R439, R440). The manual gives the code by
reference to IEEE 802.3 clause 119; its polynomials and symbol order here are PRESUMED from that standard (log entry 108). -/

namespace Sys2Proof

open Sys2Proof.Machine (leBytes leNat bitOf)

/-! ### Flits (R441, R442) -/

/-- One byte of CRC-64 with the ECMA-182 polynomial, most significant bit first. PRESUMED (log entry 108). -/
def crc64Byte (crc : W64) (b : Byte) : W64 :=
  (List.range 8).foldl (fun (c : W64) _ => if c.getLsbD 63 then (c <<< 1) ^^^ 0x42F0E1EBA9EA3693 else c <<< 1)
    (crc ^^^ (b.setWidth 64 <<< 56))

/-- CRC-64 of ECMA-182: initial value 0, no final inversion. PRESUMED (log entry 108). -/
def crc64 (bs : List Byte) : W64 := bs.foldl crc64Byte 0

/-- FTYPE as CTL codes it. -/
def ftypeCode : FlitType → Nat
  | .data => 0
  | .idle => 1
  | .nak => 2
  | .control => 3

/-- Bytes 0x00 to 0xF7 of a flit: the credits of R442 lie in CTL[7:4] and, for IDLE and CONTROL flits, the top byte of PAYLOAD. -/
def Flit.body (f : Flit) : List Byte :=
  let high := match f.ftype with | .data => f.credits / 16 | .idle | .control => f.credits / 256 | .nak => 0
  let payload := match f.ftype with
    | .idle | .control => f.payload.take 241 ++ [BitVec.ofNat 8 f.credits]
    | _ => f.payload
  leBytes 2 f.fseq.toNat ++ leBytes 2 f.ack.toNat ++ [BitVec.ofNat 8 f.vc.val, BitVec.ofNat 8 (ftypeCode f.ftype + 16 * high)] ++ payload

/-- The flit with the FCRC of its bytes. -/
def Flit.seal (f : Flit) : Flit := { f with fcrc := crc64 f.body }

/-- FCRC is intact. -/
def Flit.fcrcOk (f : Flit) : Bool := decide (f.fcrc = crc64 f.body)

/-- The 256 bytes of a flit. -/
def Flit.bytes (f : Flit) : List Byte := f.body ++ leBytes 8 f.fcrc.toNat

end Sys2Proof

namespace Sys2Proof.Machine

/-! ### RS(544,514) over GF(2^10) (R439) -/

/-- Twice an element: the field is formed by x^10 + x^3 + 1. -/
def gfDouble (a : Nat) : Nat := if 1024 ≤ 2 * a then (2 * a) ^^^ 0x409 else 2 * a

/-- Product of two elements. -/
def gfMul (a b : Nat) : Nat :=
  (List.range 10).foldl (fun acc i => let d := gfDouble acc
    if bitOf b (9 - i) then d ^^^ a else d) 0

/-- Coefficients of the generator polynomial, the product of x − 2^j for j from 0 to 29, the leading one first. -/
def rsGenerator : List Nat :=
  ((List.range 30).foldl (fun (g : List Nat × Nat) _ =>
    (List.zipWith (· ^^^ ·) (g.1 ++ [0]) (0 :: g.1.map (gfMul g.2)), gfDouble g.2)) ([1], 1)).1

/-- The 30 parity symbols of a message, whose first symbol is the highest power. -/
def rsParity (msg : List Nat) : List Nat :=
  let g := rsGenerator.drop 1
  msg.foldl (fun par m =>
    let fb := m ^^^ par.headD 0
    List.zipWith (fun r c => r ^^^ gfMul fb c) (par.drop 1 ++ [0]) g) (List.replicate 30 0)

/-- A codeword: 514 symbols of the stream and their parity. -/
def rsEncode (msg : List Nat) : List Nat := msg ++ rsParity msg

/-- Symbol `i` of the stream of bytes: ten bits, the lowest first. -/
def symbolAt (bs : List Byte) (i : Nat) : Nat := leNat ((bs.drop (10 * i / 8)).take 3) / 2 ^ (10 * i % 8) % 1024

/-- The codewords that the bytes of a stream of flits fill. -/
def codewords (bs : List Byte) : List (List Nat) :=
  (List.range (8 * bs.length / 5140)).map (fun w => rsEncode ((List.range 514).map (fun i => symbolAt bs (514 * w + i))))

/-- The logical lane that carries symbol `i` of a codeword: the symbols go round the lanes (R439). -/
def laneOfSymbol (width i : Nat) : Nat := i % width

/-- The symbols of a stream on one logical lane: those of its codewords, with the lane's alignment marker in front of every
period of codewords (R439; log entry 108). -/
def laneSymbols (width lane : Nat) (bs : List Byte) : List Nat :=
  (codewords bs).zipIdx.flatMap (fun w => (if w.2 % Config.alignPeriod width = 0 then Config.alignMarker width lane else []) ++
    (w.1.zipIdx.filter (fun x => decide (laneOfSymbol width x.2 = lane))).map Prod.fst)

/-- Symbols in error of a received codeword: positions, each once, of errors that are not zero. -/
def errorsOf (w : List (Nat × Nat)) : List Nat := ((w.filter (fun x => decide (x.1 < 544) && x.2 % 1024 ≠ 0)).map Prod.fst).eraseDups

/-- The code corrects a codeword: 30 parity symbols correct up to 15. -/
def correctable (w : List (Nat × Nat)) : Bool := decide ((errorsOf w).length ≤ 15)

/-! ### Codewords and flits (R440) -/

/-- Flits after which flits and codewords begin together again: 2,048 bits a flit, 5,140 a codeword. -/
def fecPeriod : Nat := 1285

/-- Flit `n` of the period begins within a codeword that an earlier flit touches. -/
def startsInside (n : Nat) : Bool := 2048 * n % 5140 ≠ 0

/-- Codewords that flit `n` of the period is the first to touch. -/
def newWords (n : Nat) : Nat :=
  (2048 * n + 2047) / 5140 - 2048 * n / 5140 + (if startsInside n then 0 else 1)

/-- The last codeword that flit `n` touches goes on into the next flit. -/
def endsInside (n : Nat) : Bool := 2048 * (n + 1) % 5140 ≠ 0

end Sys2Proof.Machine
end

