-- ==== Sys2Proof/Machine/TileState.lean ====
section
/-! DEFINITION. The state of one tile and of the task that runs on it (chapters 03 and 04). -/

namespace Sys2Proof.Machine

/-- A WAIT or SIGNAL of a task (R174): semaphore, threshold or increment. -/
structure SemRef where
  sem : Nat
  amount : Nat
deriving DecidableEq, Repr, Inhabited

/-- A tile task descriptor by its fields (R174). -/
structure TaskDesc where
  taskId : W64
  program : Nat
  programLen : Nat
  entry : Nat
  carouselTable : Nat
  streamTable : Nat
  completionAddr : Nat
  carousels : Nat
  inStreams : Nat
  outStreams : Nat
  flat : Bool
  cls : Byte
  partition : Byte
  actWidth : Byte
  blockLen : Byte
  widenStep : Byte
  widths : List Nat
  replayWiden : Bool
  check : Bool
  layerTag : Nat
  epoch : W32
  limitThin : Nat
  limitWhite : Nat
  limitZero : Nat
  waits : List SemRef
  signals : List SemRef
  boundNs : Nat
  /-- every reserved field and reserved bit of the descriptor reads zero -/
  reservedZero : Bool
deriving DecidableEq, Repr, Inhabited

/-- The set-up of one carousel (R114). -/
structure CarouselCfg where
  bank : Nat
  interleaved : Bool
  log2Span : Nat
  baseRow : Nat
  slots : Nat
  slotRows : Nat
  /-- no reserved field or reserved code is set (R117) -/
  reservedZero : Bool
deriving DecidableEq, Repr, Inhabited

/-- One carousel in use (R119, R121, R976): its counters, the stamp of each slot, and how many FILLs and DRAINs each
slot carries. An unlisted stamp is 0 and an unlisted slot is not BUSY. -/
structure Carousel where
  cfg : CarouselCfg
  head : W32 := 0
  tail : W32 := 0
  stamps : Dict Nat := []
  busy : Dict Nat := []
  overruns : Nat := 0
  underruns : Nat := 0
deriving DecidableEq, Repr, Inhabited

/-- The LBP layer header by its fields (R59, R60). -/
structure LbpHeader where
  fmt : Byte
  wStore : Nat
  blockLen : Nat
  offset : Bool
  corr : Bool
  kBlocks : Nat
  n : Nat
  panels : Nat
  planeBase : Nat
  scaleBase : Nat
  corrBase : Nat
  offsetBase : Nat
  reservedZero : Bool
deriving DecidableEq, Repr, Inhabited

/-- A page directory as a run's snapshot holds it (R300, R314). -/
structure Snapshot where
  pages : Nat
  kvFmt : Nat
  blockLen : Nat
  frame : Nat
  valid : Bool
  kValues : Nat
  vValues : Nat
  drift : Nat
  lists : List (Option Nat)
deriving DecidableEq, Repr, Inhabited

/-- One stream of a task (R146, R147, R304) and how many units it has visited. -/
structure Stream where
  base : W64
  auxBase : W64
  kind : Nat
  format : Nat
  carousel : Nat
  unitBytes : Nat
  first : Nat
  innerCount : Nat
  innerStride : Int
  outerCount : Nat
  outerStride : Int
  reservedZero : Bool
  /-- running width of an LBP stream (R174 WIDTHS, R50, R209) -/
  width : Nat := 0
  header : Option LbpHeader := none
  snapshot : Option Snapshot := none
  /-- page-list blocks that the run has read, by their DPA: it reads each once (chapter 06 under R308) -/
  blocks : Dict (List Byte) := []
  done : Nat := 0
deriving DecidableEq, Repr, Inhabited

/-- A FILL in flight for one slot (R123, R145). -/
structure FillOp where
  stream : Nat
  unit : Nat
  carousel : Nat
  /-- the TAIL value it fills -/
  ptr : Nat
  /-- number of its FILL operation, one entry of the command queue (R144) -/
  cmd : Nat := 0
  /-- READ packets that fetch its data, for a remote unit (`xidKey`) -/
  xids : List Nat := []
  /-- its memory requests that tile DMA has not sent yet: global address, bytes (R137, R143) -/
  queued : List (Nat × Nat) := []
  /-- requests sent to this package's own memory, which it answers with the whole fill (R143) -/
  near : Nat := 0
deriving DecidableEq, Repr, Inhabited

/-- A DRAIN in flight for one slot (R125, R154): its bytes once they are read from the scratchpad. -/
structure DrainOp where
  stream : Nat
  unit : Nat
  carousel : Nat
  ptr : Nat
  /-- number of its DRAIN operation (R144) -/
  cmd : Nat := 0
  /-- what it writes, once it is read: global address and bytes -/
  data : List (Nat × List Byte) := []
  /-- WRITE packets that carry it, for a remote unit (`xidKey`) -/
  xids : List Nat := []
  /-- its memory requests that tile DMA has not sent yet: global address, bytes (R143) -/
  queued : List (Nat × List Byte) := []
  /-- requests sent to this package's own memory (R143) -/
  near : Nat := 0
deriving DecidableEq, Repr, Inhabited

/-- The operations of the array slot (R168). -/
inductive AopKind where
  | run
  | runAcc
  | drainAcc
  | loadAcc
deriving DecidableEq, Repr, Inhabited

/-- A decoded array slot (R168). -/
structure ArrayOp where
  kind : AopKind
  /-- WCAR, OCAR or SCAR -/
  car : Nat
  acar : Nat
  wstream : Nat
  index : Bool
  rows : Nat
  cols : Nat
  blocks : Nat
  /-- ACT_K, or COL_FIRST -/
  actK : Nat
  /-- SLOT_OFF or BLK_BASE -/
  off : Nat
  ofmt : Nat
deriving DecidableEq, Repr, Inhabited

/-- An array operation in the array (R160): what it is, the pointers it was issued with (R166), block runs done. -/
structure ArrayRun where
  op : ArrayOp
  headW : W32
  headA : W32
  block : Nat := 0
deriving DecidableEq, Repr, Inhabited

/-- Why a tile is frozen (R131, R132, R133). -/
inductive FreezeCause where
  | lateSlot
  | queueFull
  | loadWait
deriving DecidableEq, Repr, Inhabited

/-- A freeze in force (R131 to R141): the causes that still hold, the local time of its start and up to which it has been
counted, and how long each kind of cause has held. -/
structure Freeze where
  causes : List FreezeCause
  startNs : Nat
  /-- local time up to which the two durations below are counted -/
  countedNs : Nat
  /-- ns of late-slot hold (R131) and of the causes of R132 and R133, with the cycles already counted for each (R139) -/
  lateNs : Nat := 0
  waitNs : Nat := 0
  lateCycles : Nat := 0
  waitCycles : Nat := 0
  /-- the causes that cleared last, and when, once none holds (R136) -/
  cleared : Option (List FreezeCause × Nat) := none
deriving DecidableEq, Repr, Inhabited

/-- A LOAD or STORE of the vector unit under way (R162): the narrow accesses it has still to make, those it has made and not
got back, and for a LOAD what its register becomes. A segment is named by its scratchpad address. -/
structure VecAccess where
  /-- LOAD: destination register, type BF16, format, and elements before its first one in the slot -/
  load : Option (Nat × Bool × Nat × Nat) := none
  /-- segments of the data and of the scale bytes of a LOAD, and scale bytes in the first segment before its first one -/
  data : List Nat := []
  scales : List Nat := []
  scaleSkip : Nat := 0
  /-- elements that share a scale byte -/
  group : Nat := 0
  /-- accesses not made yet: segment, and for a STORE the first byte it sets and its bytes -/
  todo : List (Nat × Option (Nat × List Byte)) := []
  /-- writes made and not granted yet -/
  waiting : Nat := 0
  /-- segments that have come back -/
  got : Dict (List Byte) := []
deriving DecidableEq, Repr, Inhabited

/-- The EWMA table entry a run has read (R190, R191). -/
structure EwmaEntry where
  mean : Int := 0
  k : Nat := 0
  valid : Bool := false
  tUp : Nat := 0
  tDown : Nat := 0
deriving DecidableEq, Repr, Inhabited

/-- Why a run has ended (R88, R141, R142, R172, R205, R635, R643). -/
inductive RunEnd where
  | finished
  | arithmetic
  | freezeExpired
  | watchdog
  | fillFailed (status : W16) (dpa : Option Nat)
  | malformed
  | epoch
deriving DecidableEq, Repr, Inhabited

/-- A task as the dispatcher carries it from its queue to its completion (R174, R210 to R217, R282, R624). -/
structure Task where
  desc : TaskDesc
  /-- graph it belongs to by its command's take order, or `none` for a task of Nelnus firmware (R225, R279) -/
  graph : Option Nat
  /-- clients charged (R652) -/
  clients : List Nat
  /-- position in the graph's descriptor order (R666) -/
  ord : Nat := 0
  widths : List Nat
  actWidth : Nat
  relocated : Bool := false
  widened : Bool := false
  a4Widened : Bool := false
  unwidenable : Bool := false
  replay : Bool := false
  /-- reissues after a recovered fill within one issue of its step (R283) -/
  reissues : Nat := 0
  everOverflow : Bool := false
  everArrayCheck : Bool := false
  everOverLimit : Bool := false
  /-- sites excluded (R214, R841) -/
  excluded : List Nat := []
  /-- the semaphores have been passed once (R212) -/
  passed : Bool := false
  /-- fabric time at which it became ready (R653) -/
  readyAt : Option Nat := none
  /-- requests it serves, whether it runs beside the steps (a prefill chunk, a freeze or thaw, a barker's prefill), and what it is for
  (R329, R331, R351, R406, R411) -/
  reqs : List Nat := []
  chunk : Bool := false
  kind : TaskKind := .step
  /-- WGT_GEN when it was issued (R711, R712) -/
  gen : Nat := 0
deriving DecidableEq, Repr, Inhabited

/-- A run of a task on a tile (R88, R155 to R177). -/
structure Run where
  task : Task
  part : Part
  cars : List Carousel
  ins : List Stream
  outs : List Stream
  /-- the bundles, each a 256-bit value (R164) -/
  bundles : List (BitVec 256)
  pc : Nat
  loops : List (Nat × Nat) := []
  /-- an array operation waits at issue for the array (R160) -/
  arrayWait : Bool := false
  /-- FILL and DRAIN operations issued so far -/
  dmaCmds : Nat := 0
  atEnd : Bool := false
  /-- fabric time of its placement (R634) -/
  placedAt : Nat
  walkEpoch : Option Nat := none
  /-- wide accumulators, FP32, at 96 * row + column; an unlisted one is +0.0 (R81) -/
  acc : Dict W32 := []
  array : Option ArrayRun := none
  /-- cycles for which the array stays busy, and cycles of the banks that delayed the operation in it (R107, R160) -/
  arrayBusy : Nat := 0
  delayed : List Nat := []
  /-- vector registers as 256 FP32 or 512 BF16 lanes in 1 KiB: 32-bit word i of register r at 256 * r + i (R161) -/
  vregs : Dict W32 := []
  /-- LOADs and STOREs under way, oldest first, and how many accesses they made in each cycle of the banks (R162) -/
  vec : List VecAccess := []
  vecMade : Dict Nat := []
  fills : List FillOp := []
  drains : List DrainOp := []
  writes : List DrainOp := []
  freeze : Option Freeze := none
  /-- units that its FILLs have fetched: stream and unit (R219) -/
  filled : List (Nat × Nat) := []
  /-- local time and cycles at the issue of END (R172, R177) -/
  endNs : Nat := 0
  endCycles : Nat := 0
  cycles : Nat := 0
  holdCycles : Nat := 0
  waitCycles : Nat := 0
  codeLoadCycles : Nat := 0
  sameRow : Nat := 0
  thin : Nat := 0
  white : Nat := 0
  zero : Nat := 0
  cleanSum : Int := 0
  cleanCount : Nat := 0
  ewma : EwmaEntry := {}
  overflow : Bool := false
  arrayCheck : Bool := false
  boundCounted : Bool := false
  /-- bytes written by each output stream in unit order: stream, unit number, bytes (R175) -/
  checkData : List (Nat × Nat × List Byte) := []
  ended : Option RunEnd := none
deriving DecidableEq, Repr, Inhabited

/-- STATE of TILE_DBG_STATE (R178). -/
inductive TileMode where
  | free
  | loading
  | running
  | frozen
  | fenced
  | retired
deriving DecidableEq, Repr, Inhabited

/-- A program held in the code cache (R173), most recently started first. -/
structure CachedProgram where
  program : Nat
  bundles : List (BitVec 256)
deriving DecidableEq, Repr, Inhabited

/-- A granted read on its way to its requester (R98): the cycle of the bank in which it arrives, and its data. -/
structure ReadReturn where
  who : Requester
  row : Nat
  seg : Option Nat
  due : Nat
  data : List Byte
deriving DecidableEq, Repr, Inhabited

/-- One scratchpad bank's arbiter (R95 to R107). -/
structure Bank where
  cycle : Nat := 0
  /-- frame counter under FLAT (R103) -/
  frame : Nat := 0
  wide : List BankReq := []
  /-- the queue of at most 8 narrow requests, and requesters that wait to enter it (R101) -/
  narrow : List BankReq := []
  outside : List BankReq := []
  returns : List ReadReturn := []
deriving DecidableEq, Repr, Inhabited

/-- A logical tile (R87, R88, R178, R206, R843). -/
structure Tile where
  mode : TileMode := .free
  run : Option Run := none
  codeCache : List CachedProgram := []
  banks : Dict Bank := []
  /-- SAME_ROW increments since TILE_DBG_SAMEROW was last read (R178) -/
  dbgSameRow : Nat := 0
  /-- late-slot hold cycles since TILE_DBG_HOLD was last read (R178) -/
  dbgHold : Nat := 0
  /-- the read delivered last (R98) -/
  delivered : Option ReadReturn := none
  /-- a row or tile test waits for the current run to end (R845) -/
  testAfterRun : List PartId := []
  /-- an internal reset runs (R635, R932) -/
  resetting : Bool := false
  /-- frequency ceiling as 25 MHz steps above 0.85 GHz (R797) -/
  ceiling : Nat := 0
  /-- log2 of the issue divisor (R802) -/
  issueLog2 : Nat := 0
  /-- floor load running (R823, R824) -/
  floorLoad : Bool := false
deriving DecidableEq, Repr, Inhabited

end Sys2Proof.Machine
end

