-- ==== Sys2Proof/Machine/PartState.lean ====
section
/-! DEFINITION. The state of one partition: its rings, commands, queues, requests, model slots, journal, KV and
experts (chapters 06, 07, 09, 10, 11 and 12). -/

namespace Sys2Proof.Machine

/-- STATE of the common function state machine (R935). -/
inductive FnSt where
  | off
  | enabling
  | on
  | quiescing
deriving DecidableEq, Repr, Inhabited

/-- A function under R935: partition, ring or port. -/
structure Fn where
  st : FnSt := .off
  /-- the latch: a disable in ENABLING, an enable in QUIESCING (R935) -/
  latch : Bool := false
  /-- ENABLE as last written, 0 after a reset of the function (R934) -/
  enable : Bool := false
  /-- UNHANDLED (R23), saturating at 15 -/
  unhandled : Nat := 0
deriving DecidableEq, Repr, Inhabited

/-- One ring (R531 to R551, R591, R592). -/
structure Ring where
  fn : Fn := {}
  error : Bool := false
  /-- producer and consumer index (R533); for a CMD ring `pi` is CMD_PI as last read and `ci` CMD_CONSUMED -/
  pi : Nat := 0
  ci : Nat := 0
  /-- CMD: descriptors whose reads are issued (R559); JNL and WIT: entries written, of which `pi` are published -/
  taken : Nat := 0
  /-- CMD: CMD_ACCEPTED (R733) -/
  accepted : Nat := 0
  /-- CPL: descriptors taken since it left OFF (R938) -/
  owed : Nat := 0
  /-- pending count and the local time at which its oldest entry became pending (R591, R592) -/
  pending : Nat := 0
  oldest : Nat := 0
deriving DecidableEq, Repr, Inhabited

/-- How far a taken command has come. -/
inductive CmdStage where
  /-- taken, its descriptor not read yet (R559) -/
  | fetching
  /-- awaits its extended payload (R564) -/
  | payload
  /-- awaits the commands before it (R570, R581) -/
  | held
  /-- has started and not taken its effect -/
  | started
  /-- its records are being made durable (R732) -/
  | journalled
  /-- accepted, with its effect to come or under way -/
  | running
deriving DecidableEq, Repr, Inhabited

/-- A command taken from a CMD ring whose completion is not posted (R559, R571). -/
structure Cmd where
  order : Nat
  ring : CmdRing
  index : Nat
  seq : W64
  opcode : W16
  irq : Bool
  fenceBefore : Bool
  client : Nat
  be : Bool
  /-- payload from descriptor offset 0x10 -/
  payload : List Byte
  indirect : Bool
  xaddr : W64
  xbytes : Nat
  stage : CmdStage
  /-- take orders of the commands a FENCE waits for, once it has started (R580), and their number -/
  waited : Option (List Nat) := none
  accepted : Bool := false
  /-- taken while WITNESS was NONE and SOLO clear (R750) -/
  unwitnessed : Bool := false
  /-- place of its ACCEPT record among the partition's (R372, R623) -/
  acceptSeq : Nat := 0
deriving DecidableEq, Repr, Inhabited

/-- A task queued for placement. -/
abbrev QTask := Task

/-- A task graph in progress (R661 to R666). -/
structure Graph where
  cmd : Nat
  total : Nat
  unqueued : List Task
  done : Nat := 0
  stopOnFail : Bool
  stopped : Bool := false
  deadline : W64
  semFirst : Nat
  semCount : Nat
  /-- semaphores that its tasks name (R662) -/
  names : List Nat := []
  /-- tasks that failed, were withdrawn or were discarded: descriptor order, TASK_ID, status (0 withdrawn) -/
  bad : List (Nat × W64 × W16) := []
  discarded : Bool := false
  anyWidened : Bool := false
deriving DecidableEq, Repr, Inhabited

/-- An accounting record (R656). -/
structure Acct where
  runs : Nat := 0
  waitTotal : Nat := 0
  waitMax : Nat := 0
  preemptions : Nat := 0
  hist : List Nat := [0, 0, 0, 0, 0, 0, 0, 0]
  skipped : Nat := 0
deriving DecidableEq, Repr, Inhabited

/-- The recipe state of a layer tag (R221, R232). -/
structure Recipe where
  wRun : Nat := 8
  aRun : Nat := 1
  wMin : Nat := 1
  wMax : Nat := 8
  widenStep : Nat := 0
  cleanSteps : Nat := 16
  clean : Nat := 0
  pinned : Bool := false
  limitThin : Nat := 0xFF
  limitWhite : Nat := 0xFF
  limitZero : Nat := 0xFF
  /-- what the step's tasks of the tag showed so far (R221) -/
  ranInStep : Bool := false
  overInStep : Bool := false
  a4InStep : Bool := false
deriving DecidableEq, Repr, Inhabited

/-- Barker and early-exit parameters (R420, R421). -/
structure SpecPolicy where
  barkerEn : Bool := false
  kInit : Nat := 0
  kMax : Nat := 1
  suspendSteps : Nat := 1
  exitEn : Bool := false
  exitFirst : Nat := 0
  exitCount : Nat := 0
  tau : Nat := 0
  mu : Nat := 0
deriving DecidableEq, Repr, Inhabited

/-- An attention pattern (R334, R335). -/
structure Pattern where
  window : Bool := false
  sinks : Nat := 0
  size : Nat := 0
  ranges : List (Nat × Nat) := []
deriving DecidableEq, Repr, Inhabited

/-- An entry of a page list (R301), or a page without a frame. -/
structure PageEnt where
  frame : Nat
  present : Bool
  pinned : Bool
  firn : Bool
deriving DecidableEq, Repr, Inhabited

/-- A request's KV at one attention layer (R300 to R303, R319): its pages in order, the pages whose positions the present step or
chunk completed, which the next boundary makes and publishes (R323, R325, R333), pages to be made again, and where Nelnus firmware
has placed its table. -/
structure LayerKv where
  pages : List PageEnt := []
  flushed : Nat := 0
  /-- published pages that recovery recomputes (R281) -/
  redo : List Nat := []
  /-- pages made and not yet in a frame: their layouts of R298 (R357) -/
  images : Dict (List Byte) := []
  /-- drift entries that come with a thaw or a migration and are not yet in the drift block (R357): K before V -/
  driftIn : List Byte := []
  dirs : List Nat := []
  drift : Nat := 0
  blocks : Dict (List Nat) := []
deriving DecidableEq, Repr, Inhabited

/-- The states of a live request (R614). -/
inductive ReqSt where
  | waiting
  | prefill
  | decode
  | idle
deriving DecidableEq, Repr, Inhabited

/-- What the commands of a request complete with once its CLOSE is durable: the turn command's status, INFO and RESULT, and
INFO and RESULT of the cancel or freeze that ends it. -/
structure Closing where
  status : W16
  info : Nat
  result : Nat
  cmdInfo : Nat
  cmdResult : Nat
deriving DecidableEq, Repr, Inhabited

/-- A freeze accepted for a request: its take order, LOSSY width of each layer (0 LOSSLESS), KEEP_PAGES, DEST firn, host address and
capacity of the buffer there (R344 to R353), and whether its request has been withdrawn from later batches (R351). -/
structure Freezing where
  cmd : Nat
  bits : List Nat
  keepPages : Nat
  firn : Bool
  addr : Nat
  room : Nat
  withdrawn : Bool := false
deriving DecidableEq, Repr, Inhabited

/-- A live request (R606 to R622, R753). -/
structure Request where
  st : ReqSt
  epoch : W16
  be : Bool
  client : Nat
  tokRing : Fin 2
  keep : Bool
  withhold : Bool
  freezeOnExpire : Bool
  model : Nat
  deadline : W64
  seed : W64
  temp : W16
  topK : Nat
  topP : Nat
  /-- tokens still to generate in the turn (R612) -/
  maxNew : Nat
  /-- token of every position known, from position 0: the committed history (R735) -/
  tokens : List W32
  /-- runs of positions that came as input (R729 INPUT): first position and count -/
  inputs : List (Nat × Nat)
  /-- committed count (R613) -/
  committed : Nat
  /-- positions still to prefill (R331) -/
  toPrefill : Nat
  /-- losses of the working state of its present prefill chunk (R286) -/
  chunkFails : Nat := 0
  /-- its prefill recomputes lost KV, in BE tasks (R281) -/
  rebuild : Bool := false
  /-- turn command by take order (R605) -/
  turn : Option Nat
  /-- sequence of its first ACCEPT record (R372, R623) -/
  accept : Nat
  layers : List LayerKv := []
  /-- token records held for a full ring: bytes (R547) -/
  held : List (List Byte) := []
  /-- positions whose COMMIT is written and not durable (R742) -/
  undurable : Nat := 0
  /-- CANCEL_REQUESTs accepted for it -/
  cancel : List Nat := []
  freezing : Option Freezing := none
  /-- the THAW_REQUEST that still rebuilds its pages, by take order (R357) -/
  thawing : Option Nat := none
  expired : Bool := false
  finalSeen : Bool := false
  lateFinal : Bool := false
  /-- barker draft length, steps left suspended, positions it missed and is still to prefill over (R410, R411) -/
  draft : Nat := 0
  suspended : Nat := 0
  missed : Nat := 0
  /-- the barker's prefill over those positions is issued (R411) -/
  warming : Bool := false
  spec : Option SpecPolicy := none
  patterns : Dict Pattern := []
  /-- position and first skipped attention layer of an early exit whose backfill is due (R406) -/
  backfill : Option (Nat × Nat) := none
  /-- the head of its latest journalled command that carries a restore payload, with that payload, CLIENT and CLASS (R749) -/
  lastHead : Option (JRec × List Byte × Nat × Bool) := none
  /-- its CLOSE is written and awaits durability: status, INFO and RESULT its turn command completes with -/
  closing : Option Closing := none
deriving DecidableEq, Repr, Inhabited

/-- States of a model slot (R674). -/
inductive SlotSt where
  | empty
  | opened
  | complete
  | active
  | draining
deriving DecidableEq, Repr, Inhabited

/-- A verified manifest head kept for a slot (R680 to R685). -/
structure Head where
  keyId : W64
  root : List Byte
  chunks : Nat
  modelBytes : Nat
  kind : Nat
  /-- resident and COLD chunks of the shard, in order (R669, R670) -/
  resident : List Nat
  cold : List Nat
  localBytes : Nat
  /-- level-0 digest of each chunk the leaf section names (R683) -/
  leaves : Dict (List Byte)
  /-- local-image offset and NODE bit of each relocated field (R682) -/
  relocs : List (Nat × Bool)
  /-- the ranges of every shard: first chunk and count (R682) -/
  shards : List (List (Nat × Nat)) := []
deriving DecidableEq, Repr, Inhabited

/-- A model slot (R672 to R686). -/
structure Slot where
  st : SlotSt := .empty
  shard : Nat := 0
  base : Nat := 0
  coldBase : Nat := 0
  head : Option Head := none
  verified : List Nat := []
  info : Option ModelInfo := none
  /-- where its expert-cache slots lie (R397) -/
  cacheAt : List Nat := []
  /-- digest of the model program in stored form at activation (R908) -/
  programDigest : List Byte := []
  /-- chunks of a broadcast asked for once more (R699) -/
  asked : List Nat := []
deriving DecidableEq, Repr, Inhabited

/-- How a load command moves its chunks (R693). -/
inductive LoadPath where
  | host (src : W64)
  | broadcast (src : W64)
  | pull (node : Node) (part : Part)
  /-- the resting copy of a variant (R716) -/
  | resting (slot : Nat)
deriving DecidableEq, Repr, Inhabited

/-- A load in progress (R688, R695 to R703). -/
structure Load where
  cmd : Nat
  slot : Nat
  path : LoadPath
  todo : List Nat
  retried : List Nat := []
  written : Nat := 0
  skipped : Nat := 0
  self : Bool := true
  /-- receivers of a broadcast: node, partition, slot, shard, and the status of its failure or 0 (R693, R701) -/
  receivers : List (Node × Part × Nat × Nat × W16) := []
deriving DecidableEq, Repr, Inhabited

/-- A TRAPEZE_SWITCH that awaits its boundary (R708 to R713). -/
structure Switch where
  cmd : Option Nat
  target : Nat
  keepOld : Bool
  atStep : Option Nat
  /-- announcements that are out (R709) -/
  keys : List Nat := []
deriving DecidableEq, Repr, Inhabited

/-- Where a SWAP_MODEL stands (R716). -/
inductive SwapPhase where
  | boundary
  | draining
  | filling
  | activate
deriving DecidableEq, Repr, Inhabited

/-- A SWAP_MODEL in progress (R714 to R718). -/
structure Swap where
  cmd : Nat
  variant : Nat
  path : LoadPath
  place : Placement
  phase : SwapPhase
  bytes : Nat := 0
deriving DecidableEq, Repr, Inhabited

/-- What becomes of a record once it is durable (R732, R740, R766). -/
inductive OnDurable where
  | nothing
  /-- acceptance of the command of this take order -/
  | accept (cmd : Nat)
  /-- COMMIT of a step: request, first position, tokens with their flags -/
  | commit (request first : Nat) (tokens : List (W32 × BitVec 16))
  /-- CLOSE of a request -/
  | close (request : Nat)
  /-- the reseed of a request is complete (R749) -/
  | reseeded (request : Nat)
deriving DecidableEq, Repr, Inhabited

/-- A journal record on its way to durability (R737 to R739). -/
structure PendRec where
  jrec : JRec
  /-- sent to a witness and not written to the JNL ring (R749) -/
  witnessOnly : Bool := false
  /-- JNL index, once its entry is written (R548) -/
  index : Option Nat := none
  /-- a flushing read has covered its entry (R737) -/
  local_ : Bool := false
  /-- XID of the MSG that carries it, once sent -/
  sent : Option W32 := none
  sentAt : Nat := 0
  acked : Bool := false
  /-- time of a REJECT_STATE refusal of its packet (R746) -/
  refusedAt : Option Nat := none
  effect : OnDurable := .nothing
deriving DecidableEq, Repr, Inhabited

/-- JNL_STATUS.WITNESS (R776). -/
inductive WitSt where
  | none
  | reseeding
  | inSync
  | lost
deriving DecidableEq, Repr, Inhabited

/-- A claim held as witness (R757). -/
structure Claim where
  origin : Node
  part : Part
  request : Nat
  epoch : W16
deriving DecidableEq, Repr, Inhabited

/-- What a witness partition is still to write into its WIT ring, and whom it then answers (R745, R757): a packet, or a
claim of this node's own (take order). -/
structure WitIn where
  pkt : Option Packet
  claim : Option (Part × Nat)
  left : List (List Byte)
  /-- WIT index after its last written record -/
  last : Nat := 0
deriving DecidableEq, Repr, Inhabited

/-- The journal of a partition (R737 to R759). -/
structure Journal where
  recs : List PendRec := []
  /-- JNL index up to which a flushing read has been issued, and whether one is out (R737) -/
  flushTo : Nat := 0
  flushing : Bool := false
  accepts : Nat := 0
  witness : WitSt := .none
  /-- live requests still to reseed (R749) -/
  reseedLeft : List Nat := []
  lagSaid : Bool := false
  claims : List Claim := []
  /-- received records on their way into the WIT ring (R745) -/
  witQueue : List WitIn := []
  witFlushTo : Nat := 0
  witFlushing : Bool := false
deriving DecidableEq, Repr, Inhabited

/-- KV and walker state of a partition (R312 to R318). -/
structure Kv where
  epoch : Nat := 0
  counts : List Nat := [0, 0, 0, 0]
  advanceHeld : Bool := false
  /-- what is unlinked and not reclaimed: the epoch current at the unlinking, DPA and bytes (R317) -/
  unlinked : List (Nat × Nat × Nat) := []
  /-- bucket bounds in force, taken at step boundaries (R330) -/
  bounds : List Nat := [0x400, 0x800, 0x1000, 0x2000, 0x4000, 0x8000, 0x10000, 0x20000, 0x40000, 0x80000, 0x100000]
  /-- ice cores in the firn extent: DPA and bytes (R352, R359) -/
  ice : List (Nat × Nat) := []
deriving DecidableEq, Repr, Inhabited

/-- The expert admission policy of a layer (R416, R419). -/
structure ExpPolicy where
  policy : Nat := 0
  depth : Nat := 0
  renorm : Bool := false
  capacity : Option Nat := none
  maxReplicas : Nat := 0
  replSteps : Nat := 1
  replThreshold : Nat := 0
  retireThreshold : Nat := 0
deriving DecidableEq, Repr, Inhabited

/-- Counts of one expert in one step (R387). -/
structure ExpCount where
  demand : Nat := 0
  first : Nat := 0
  extra : Nat := 0
  moved : Nat := 0
deriving DecidableEq, Repr, Inhabited

/-- One assignment of a choice (R375): exchange index, rank, expert, copy (0 home, i replica i − 1), pass, weight. -/
structure Assign where
  xindex : Nat
  rank : Nat
  expert : Nat
  copy : Nat
  pass : Nat
  weight : W16
deriving DecidableEq, Repr, Inhabited

/-- A half-batch of an expert layer under way (R371 to R385). -/
structure HalfBatch where
  layer : Nat
  half : Bool
  blocks : List Census := []
  assigns : List Assign := []
  admitted : Bool := false
  aborted : Bool := false
  /-- partial sums by lowest rank: exchange index, lowest rank, values (R385) -/
  partials : List (Nat × Nat × List W32) := []
  waitFetch : List Nat := []
deriving DecidableEq, Repr, Inhabited

/-- A policy announced for a group step (R418), by the node that announced it. -/
structure Announced where
  ask : PolicyAsk
  node : Node
deriving DecidableEq, Repr, Inhabited

/-- An announcement of this member that awaits the acknowledgements of the others (R418, R709): its command, the transfers
that are out, and the group step. -/
structure Asking where
  cmd : Nat
  keys : List Nat
  atStep : Nat
deriving DecidableEq, Repr, Inhabited

/-- Experts of a partition (R364 to R402). -/
structure Experts where
  members : List Node := []
  mapVersion : W16 := 0
  step : W64 := 0
  /-- replicas of expert e of layer l at key 4096 * l + e, in map order (R365) -/
  replicas : Dict (List Node) := []
  /-- new maps announced (R394) -/
  nextMaps : List MapAsk := []
  policies : Dict ExpPolicy := []
  announced : List Announced := []
  /-- policy announcements of this member under way (R418) -/
  asking : List Asking := []
  halves : List HalfBatch := []
  /-- counts of the present step, and of the last 8 completed steps newest first (R387, R388) -/
  counts : Dict ExpCount := []
  history : List (W64 × Dict ExpCount) := []
  stepsDone : Nat := 0
  /-- HOT_EXPERT and EXPERT_FETCH_MISS already raised in this step for a layer (R381, R399) -/
  hotSaid : List Nat := []
  missSaid : List Nat := []
  /-- expert cache: expert key, least recently used first; fetches in flight with their source layer (R398, R400) -/
  cache : List Nat := []
  fetching : List Nat := []
  /-- fetches that wait for a slot, and experts that look-ahead fetched for a coming layer (R398, R400) -/
  fetchWait : List Nat := []
  ahead : List Nat := []
  cacheSlots : Nat := 0
  coldExperts : List Nat := []
  /-- cache slot of each expert that is resident or in flight (R397) -/
  slotOf : Dict Nat := []
  /-- consecutive steps above and below the thresholds per expert key (R392, R395) -/
  above : Dict Nat := []
  below : Dict Nat := []
  /-- experts whose new replica is loading, with its target (R392, R393) -/
  replLoading : Dict Node := []
deriving DecidableEq, Repr, Inhabited

/-- The step of a partition (R623, R284, R286). -/
structure Step where
  running : Bool := false
  /-- WGT_GEN under which it was first issued (R711) -/
  gen : Nat := 0
  batch : List (Nat × Nat) := []
  halfOf : List (Nat × Bool) := []
  /-- prefill chunks issued in the step: request and positions (R331, R332) -/
  chunks : List (Nat × Nat) := []
  replays : Nat := 0
  checked : Bool := false
  /-- step working state is lost: the step is due to be replayed (R283, R285) -/
  failed : Bool := false
  /-- chunks that the host must reload before another step: slot and chunk (R287) -/
  blocked : List (Nat × Nat) := []
  /-- tasks of the step as first issued, prefill chunks apart: a replay issues them again (R284) -/
  tasks : List Task := []
deriving DecidableEq, Repr, Inhabited

/-- A partition reset or epoch advance under way (R643, R644, R929, R930). -/
structure Advance where
  running : Bool := false
  afterNodeLoss : Bool := false
  reset : Bool := false
deriving DecidableEq, Repr, Inhabited

/-- A partition (R600). -/
structure Partition where
  fn : Fn := {}
  refused : Bool := false
  epoch : W32 := 0
  advance : Advance := {}
  rings : Vector Ring 13 := Vector.replicate 13 {}
  /-- a doorbell read is scheduled, and how many are issued and not returned (R557, R558) -/
  doorbellPending : Bool := false
  doorbellIssued : Nat := 0
  cmds : List Cmd := []
  takeCount : Nat := 0
  lcQ : List QTask := []
  beQ : List QTask := []
  /-- tasks of Nelnus firmware that wait for room in a queue (R625) -/
  fwWait : List QTask := []
  /-- semaphores; an unlisted one is 0 (R627) -/
  sems : Dict Nat := []
  graphs : List Graph := []
  acct : Dict Acct := []
  recipes : Dict Recipe := []
  /-- SET_RECIPE, SET_SPEC_POLICY and SET_ATTN_PATTERN accepted, applied at the next boundary: take order -/
  atBoundary : List Nat := []
  spec : SpecPolicy := {}
  patterns : Dict Pattern := []
  /-- ranges read by a SET_ATTN_PATTERN command (R339) -/
  cmdRanges : Dict (List (Nat × Nat)) := []
  /-- tokens read by a command before its acceptance (R610, R763), and pages that come with a thaw or a migration -/
  cmdTokens : Dict (List W32) := []
  cmdPages : Dict (List LayerData) := []
  /-- a freeze's plan until its acceptance, and the restore payload a thaw or a migration resumes from -/
  cmdFreeze : Dict Freezing := []
  cmdRestore : Dict Restore := []
  requests : Dict Request := []
  slots : Dict Slot := []
  gen : Nat := 0
  activeVariant : Nat := 0
  loads : List Load := []
  switch : Option Switch := none
  swap : Option Swap := none
  keepOld : Bool := false
  /-- LOAD_BASE, ROOT and shard of slot 0, MEM_HBM_MAP and MEM_HOST_REGION before a retained warm reset (R928) -/
  retained : Option (Nat × List Byte × Nat × Nat × Nat) := none
  jnl : Journal := {}
  kv : Kv := {}
  exp : Experts := {}
  step : Step := {}
  /-- tasks that ended on a failed fill and wait for recovery, with the DPA that could not be read (R280, R282) -/
  recovering : List (Task × W16 × Option Nat) := []
  /-- MIGRATE_REQUESTs asked of a source: take order, and the transfer of the question (R766) -/
  migrations : List (Nat × Nat) := []
  /-- claims asked of another node's witness for a RESTORE_REQUEST: take order and transfer (R763) -/
  claimsOut : List (Nat × Nat) := []
  /-- requests a destination has asked for, withdrawn at the next step boundary (R766) -/
  leaving : List (Nat × Node × MigrateAsk) := []
deriving DecidableEq, Repr, Inhabited

end Sys2Proof.Machine
end

