-- ==== Sys2Proof/Machine/PkgState.lean ====
section
/-! DEFINITION. The package-wide state: power-up, host link, fabric, repair, power, management and security
(chapters 05, 08, 09, 13, 14, 15, 16 and 17). -/

namespace Sys2Proof.Machine

/-- Where the package stands between no supply and READY (R916 to R921, R955). -/
inductive Phase where
  | off
  | booting
  | bootFailed
  | held
  | ready
deriving DecidableEq, Repr, Inhabited

/-- Power-up and reset state (R597, R880, R916 to R923, R955 to R958). -/
structure Boot where
  phase : Phase := .off
  cfgReady : Bool := false
  /-- PHASE and CAUSE of GLB_BOOT_STATUS (R922) -/
  bootPhase : Nat := 0
  cause : Nat := 0
  goodSites : Nat := 0
  /-- DEVICE_STATUS.SLOT: slot B runs (R880) -/
  slotB : Bool := false
  hbmQuick : Bool := false
  hbmRetained : Bool := false
  slotId : BitVec 6 := 0
  fwVersion : W32 := 0
  /-- this power-up follows a warm reset, with HBM_RETAIN and HBM_QUICK as they stood (R926, R927) -/
  warm : Bool := false
  retain : Bool := false
  quick : Bool := false
  faultN : Bool := false
  thermtripN : Bool := false
  linkUp : Bool := false
  /-- EXTEST, INTEST or CLAMP holds the lands (R966) -/
  landsTaken : Bool := false
  /-- the seal loop was found broken at this power-up (R891) -/
  sealAtBoot : Bool := false
  /-- the instruction of the JTAG TAP; IDCODE after Test-Logic-Reset (R963; PRESUMED, log entry 55) -/
  tap : TapInstr := .idcode
  /-- what the register that the last instruction selected gives: the IDCODE (R964) -/
  tapOut : Option W32 := none
deriving DecidableEq, Repr, Inhabited

/-- Configuration space of one function, as far as the rules of the manual use it (R508, R595). -/
structure CfgSpace where
  msixEnable : Bool := false
  funcMask : Bool := false
  memSpace : Bool := false
  busMaster : Bool := false
  d3hot : Bool := false
deriving DecidableEq, Repr, Inhabited

/-- An MSI-X table entry with its pending bit (R590, R595). -/
structure MsixEntry where
  addr : W64 := 0
  data : W32 := 0
  masked : Bool := true
  pending : Bool := false
deriving DecidableEq, Repr, Inhabited

/-- How a configuration request was answered (R507, R509). -/
inductive CfgAnswer where
  | none
  | retry
  | value (v : W64)
  | done
deriving DecidableEq, Repr, Inhabited

/-- How a BAR2 read was answered (R237, R289). -/
inductive Bar2Answer where
  | none
  | abort
  | data (b : List Byte)
deriving DecidableEq, Repr, Inhabited

/-- Reads of host memory the package has issued and that have not returned. -/
inductive HostRead where
  | doorbell (p : Part)
  | descriptor (p : Part) (order : Nat)
  | indirect (p : Part) (order : Nat)
  | flushing (p : Part) (wit : Bool) (addr : Nat)
deriving DecidableEq, Repr, Inhabited

/-- The host side: what the package has written and asked, and its PCIe functions (chapter 09). -/
structure HostSide where
  /-- bytes the package has written to host memory -/
  mem : Mem := {}
  /-- MSI-X messages sent, newest first: address and data (R592) -/
  msgs : List (W64 × W32) := []
  reads : List HostRead := []
  /-- data of the last BAR0 read, and the upper half a split RC read holds: offset and bits (R969) -/
  bar0Data : W64 := 0
  rcHeld : Option (Nat × W32) := none
  bar2 : Bar2Answer := .none
  cfg : CfgAnswer := .none
  space : Vector CfgSpace 17 := Vector.replicate 17 {}
  vfEnable : Bool := false
  /-- MSI-X entries at key 256 for the PF's 256 vectors, 256 + 16 n + v for vector v of VF n -/
  msix : Dict MsixEntry := []
  /-- doorbell reads that ended in an error, reported through AER (R557) -/
  aer : Nat := 0
deriving DecidableEq, Repr, Inhabited

/-- A packet held until its acknowledgement (R465). -/
structure Held where
  pkt : Packet
  sentAt : Nat
  /-- no usable route when it was due (R467) -/
  waiting : Bool := false
  /-- placement epoch of the run that sent it, with its partition (R644) -/
  run : Option (Part × W32) := none
deriving DecidableEq, Repr, Inhabited

/-- What a Uagor port holds (R426 to R453). -/
structure Port where
  fn : Fn := {}
  /-- RATE code and width 4 (R500) -/
  rate : Nat := 0
  width4 : Bool := false
  spareUsed : Bool := false
  sparedLane : Nat := 0
  neighbour : Node := 0
  nbValid : Bool := false
  dupId : Bool := false
  /-- trained physical lanes, logical order (R431) -/
  lanes : List Nat := []
  /-- physical lanes that trained (R430) -/
  trained : List Nat := []
  /-- next FSEQ to send, flits not acknowledged with their replay counts, oldest first (R445, R449) -/
  txSeq : W16 := 0
  retry : List (Flit × Nat) := []
  /-- last FSEQ accepted, flits accepted and not acknowledged, and whether a NAK awaits its answer (R446, R448) -/
  rxSeq : W16 := 0xFFFF
  unacked : Nat := 0
  nakOut : Bool := false
  /-- bytes of packets received and not yet a whole packet (R443) -/
  rxBytes : List Byte := []
  /-- whole packets received, with the credits they hold (R452, R453) -/
  rx : List (List Byte) := []
  /-- credits of the neighbour's pools by VC (R451) -/
  credits : List Nat := [128, 128, 768, 768, 512, 512, 640, 640]
  /-- credits freed here and not returned yet, by VC -/
  freed : List Nat := [0, 0, 0, 0, 0, 0, 0, 0]
  /-- packets queued to leave, oldest first (R454) -/
  out : List Packet := []
  /-- what is left of the turns of TC1 to TC3, and which VC of each class goes next (R454) -/
  wrr : List Int := [0, 0, 0]
  alt : List Bool := [false, false, false, false]
  /-- what is left of each partition's turn in each class, at 16 * class + partition (R641) -/
  shares : Dict Int := []
  /-- by class, units injected here less those in transit since both last had packets (R641) -/
  lead : List Int := [0, 0, 0, 0]
  /-- flits sent, newest first -/
  wire : List Flit := []
  /-- flits received, by their place in the period of the codewords, and whether the codeword that goes on into the next flit
  could not be corrected (R440) -/
  fecAt : Nat := 0
  fecBad : Bool := false
  /-- symbol errors of the last ms: time, physical lane, number (R436) -/
  errLog : List (Nat × Nat × Nat) := []
  /-- destinations withdrawn on this port (R472, R478) -/
  withdrawn : List Node := []
deriving DecidableEq, Repr, Inhabited

/-- A collective under way at this member (R479 to R483). -/
structure Coll where
  plan : CollPlan
  /-- partials received: child, chunk, values -/
  got : List (Node × Nat × List W32) := []
  /-- chunks whose partial this member has formed and passed on -/
  formed : List Nat := []
  /-- chunks of the result that this member holds -/
  result : Dict (List W32) := []
deriving DecidableEq, Repr, Inhabited

/-- XIDs received from a source in a class (R468, R469). -/
structure XidRec where
  seen : List W32 := []
  /-- next XID to deliver, and later packets held, for TC0 -/
  next : W32 := 0
  heldBack : List (MsgKind × Packet) := []
  /-- transfers among `seen` that were refused, with their status -/
  refused : List (W32 × W16) := []
deriving DecidableEq, Repr, Inhabited

/-- The Uagor fabric at this node (chapter 08). -/
structure Fabric where
  ports : Vector Port 8 := Vector.replicate 8 {}
  /-- next XID per destination and class at key 4 * node + class (R464) -/
  xids : Dict W32 := []
  held : List Held := []
  xidRecs : Dict XidRec := []
  /-- destinations whose grace timer runs, with its start (R493) -/
  losing : Dict Nat := []
  fenced : List Node := []
  colls : List Coll := []
  waiting : List CollPlan := []
  /-- COLL packets that came before this member started their collective -/
  early : List (Packet × CollKind) := []
  /-- collectives that have ended, newest first: ID, status and result by chunk (R483) -/
  finished : List (W16 × W16 × Dict (List W32)) := []
  /-- fabric time (R486); LOCKED; the master followed; LAST_CORR -/
  time : W64 := 0
  locked : Bool := false
  masterNode : Node := 0
  lastCorr : Int := 0
  /-- became master under R489 -/
  actingMaster : Bool := false
  linkDelay : Nat := 0
  lastSync : Nat := 0
  /-- slew owed, in ns, applied at most 1 ns per µs (R486) -/
  slew : Int := 0
  /-- outcomes of this node's reads and of operations that failed, by `xidKey`: status and data -/
  answers : Dict (W16 × List Byte) := []
deriving DecidableEq, Repr, Inhabited

/-- STATE of a tile site (R859). -/
inductive SiteSt where
  | enabled
  | spare
  | retired
deriving DecidableEq, Repr, Inhabited

/-- A tile site (R855, R859). -/
structure Site where
  st : SiteSt := .spare
  tile : Option Nat := none
  count : Nat := 0
deriving DecidableEq, Repr, Inhabited

/-- A part entry of the repair state (R860): TRANSIENT 0, RETIRED 1, WITHDRAWN 2. -/
structure PartEnt where
  part : PartId
  st : Nat
  count : Nat
  aux : Nat
deriving DecidableEq, Repr, Inhabited

/-- A page copy under way (R252, R253, R848). -/
structure PageCopy where
  stack : Nat
  chan : Nat
  page : Nat
  slotChan : Nat
  slot : Nat
  /-- for a test, which may hand the page back, or a retirement -/
  forTest : Bool
  /-- sector of the page whose uncorrectable read is already counted (R252) -/
  counted : Option Nat
  /-- bytes of the page that held writes have set, which go to the slot (R253, R277) -/
  written : List Nat := []
deriving DecidableEq, Repr, Inhabited

/-- Spares and repair (chapters 05 and 14). -/
structure Repair where
  /-- sites at index 24 y + x; an unlisted one is good and spare (R855) -/
  sites : Dict Site := []
  /-- logical numbers withdrawn (R843, R857) -/
  withdrawnTiles : List Nat := []
  /-- at key 2 ^ 32 * KIND + LOC (R861) -/
  parts : Dict PartEnt := []
  /-- spare rows in use: site, bank, row, spare row (R94) -/
  rows : List (Nat × Nat × Nat × Nat) := []
  /-- pages in spare slots: stack, channel, page, slot channel, slot (R251) -/
  remaps : List (Nat × Nat × Nat × Nat × Nat) := []
  /-- condemned slots: stack, channel, slot (R255) -/
  condemned : List (Nat × Nat × Nat) := []
  sparedChan : Dict Nat := []
  lostChans : List (Nat × Nat) := []
  lostStacks : List Nat := []
  withdrawnPages : List (Nat × Nat × Nat) := []
  withdrawnFirn : List Nat := []
  copies : List PageCopy := []
  /-- retired pages whose slot is under test: stack, channel, page, and the slot they had before (R255) -/
  retests : List (Nat × Nat × Nat × Nat × Nat) := []
  tests : List PartId := []
  /-- tests that RUN_SELF_TEST started: partition, take order, part, ACT mode (R868, R870) -/
  asked : List (Part × Nat × PartId × Bool) := []
  mapLoaded : Bool := false
  mapBusy : Bool := false
  /-- a map load that waits for tests in progress: its command, or none for SPR_MAP_CTRL, and the map (R866) -/
  mapWait : Option (Option (Part × Nat) × List Byte) := none
  mapResult : Nat := 0
  /-- firn tier as trained (R294) -/
  firnChannels : Nat := 0
  firnDensity : Nat := 0
  firnMismatch : Bool := false
  firnRate : Nat := 0
  /-- MEM_UE_LOG: DPA, TIER firn, partition (R294) -/
  ueLog : Option (Nat × Bool × Option Part) := none
  /-- last value of MEM_UE_LOG's fields, kept when VALID clears -/
  ueLast : Nat × Bool × Option Part := (0, false, none)
  /-- SM3 lanes retired, cores in service, cores retired -/
  coresUsed : List Nat := [0, 1, 2, 3, 4, 5]
  /-- cores under test with the spare that does their work meanwhile (R844, R845) -/
  coreSubs : List (Nat × Option Nat) := []
  sm3Lanes : List Nat := List.range 48
deriving DecidableEq, Repr, Inhabited

/-- A lease of a rack manager (R805, R806, R836). -/
structure Lease where
  held : Bool := false
  cap : Nat := 0
  up : Nat := 0
  down : Nat := 0
  expiry : Nat := 0
  /-- last values written to the port's effecters (R806) -/
  effCap : Option Nat := none
  effLease : Option Nat := none
  effUp : Option Nat := none
  effDown : Option Nat := none
deriving DecidableEq, Repr, Inhabited

/-- Which source the effective cap comes from (R808). -/
inductive CapSource where
  | leaseA
  | leaseB
  | fallback
deriving DecidableEq, Repr, Inhabited

/-- A voltage band (R799, R828, R836). -/
structure Band where
  volt : Nat := 0
  target : Nat := 0
  temp : Nat := 0
  throttled : Bool := false
  /-- by an HBM stack under R829 -/
  byHbm : Bool := false
deriving DecidableEq, Repr, Inhabited

/-- A non-negative ratio of whole numbers: the estimate and the gain are exact (R793, R794). -/
structure Ratio where
  num : Nat := 0
  den : Nat := 1
deriving DecidableEq, Repr, Inhabited

/-- Supply, cap and actuators (chapter 13). -/
structure Power where
  leaseA : Lease := {}
  leaseB : Lease := {}
  /-- effective cap and its source (R807) -/
  cap : Nat := 1200
  source : CapSource := .fallback
  safeStep : Bool := false
  /-- bands are being slewed to the new cap before the climb raises ceilings (R816) -/
  climbing : Bool := false
  unreachable : Bool := false
  supplyLow : Bool := false
  /-- averaged VIN in mV, input current in 10 mA (R836) -/
  vinMv : Nat := 0
  iin : Nat := 0
  pwrWarn : Bool := false
  /-- averaged VIN is below 47.0 V and has not been at 48.0 V for 10 ms since (R785) -/
  vinLow : Bool := false
  goodConv : BitVec 9 := 0x1FF
  spareConv : Bool := false
  /-- estimate of the last epoch in W (R793); measured input power of the last calibration -/
  est : Ratio := {}
  meas : Nat := 0
  floor : Nat := 0
  /-- calibration gain g (R794) -/
  gain : Ratio := ⟨1, 1⟩
  /-- safe-step setting of each cap from 800 W upwards: ceiling step, log2 of the issue divisor (R813) -/
  safeTable : List (Nat × Nat) := []
  /-- ramp window: bounds hi and lo (none: no limit), sum of estimates and their number (R821) -/
  hi : Option Ratio := none
  lo : Option Ratio := none
  winSum : Ratio := {}
  winCount : Nat := 0
  /-- sums of D in µW and of S in W over the epochs since the last calibration, and their number (R794) -/
  dSum : Nat := 0
  sSum : Nat := 0
  epochs : Nat := 0
  floorLoad : Bool := false
  bands : Vector Band 8 := Vector.replicate 8 {}
  hbmMax : Nat := 0
  hubMax : Nat := 0
  /-- V–f table of each band (R798) -/
  vf : List (List Nat) := []
  lastEpoch : Nat := 0
deriving DecidableEq, Repr, Inhabited

/-- A management port (R811, R912, R961). -/
structure Mgmt where
  dynAddr : Option Byte := none
  /-- provisional ID shown at the last ENTDAA (R961) -/
  provisional : Option (BitVec 48) := none
  eid : Byte := 0
  /-- answers sent, newest first: completion code and value -/
  answers : List (Byte × Nat) := []
deriving DecidableEq, Repr, Inhabited

/-- A firmware slot of flash (R877): MAGIC correct, STATE VALID, SEQ, slot bytes 0x040 to 0x0FF, and the body. -/
structure FlashSlot where
  magicOk : Bool := false
  valid : Bool := false
  seq : Nat := 0
  header : List Byte := []
  body : List Byte := []
deriving DecidableEq, Repr, Inhabited

/-- Slot bytes 0x040 to 0x0FF of the image that the model takes flash slot A to hold as manufactured: SVN 0, a body of one
zero byte, and the signature of the key whose private key is 1. DESIGN CHOICE (log entry 7): the manual gives fuses and
flash no contents before the first power-up. -/
def factoryHeader : List Byte :=
  [0x00, 0x00, 0x00, 0x00, 0x01, 0x00, 0x00, 0x00, 0x00, 0x00, 0x00, 0x00, 0x00, 0x00, 0x00, 0x00,
   0x32, 0xc4, 0xae, 0x2c, 0x1f, 0x19, 0x81, 0x19, 0x5f, 0x99, 0x04, 0x46, 0x6a, 0x39, 0xc9, 0x94,
   0x8f, 0xe3, 0x0b, 0xbf, 0xf2, 0x66, 0x0b, 0xe1, 0x71, 0x5a, 0x45, 0x89, 0x33, 0x4c, 0x74, 0xc7,
   0xbc, 0x37, 0x36, 0xa2, 0xf4, 0xf6, 0x77, 0x9c, 0x59, 0xbd, 0xce, 0xe3, 0x6b, 0x69, 0x21, 0x53,
   0xd0, 0xa9, 0x87, 0x7c, 0xc6, 0x2a, 0x47, 0x40, 0x02, 0xdf, 0x32, 0xe5, 0x21, 0x39, 0xf0, 0xa0,
   0x2d, 0xae, 0xf6, 0x0e, 0x7a, 0x0b, 0x8f, 0x5e, 0x02, 0x4c, 0x81, 0xcd, 0x2a, 0xb3, 0x10, 0x9f,
   0x2b, 0x4f, 0x15, 0x5c, 0xf8, 0x3a, 0xde, 0xb2, 0xae, 0x55, 0x32, 0xf7, 0x4a, 0x15, 0x7f, 0xdf,
   0x20, 0xe0, 0x61, 0x5f, 0xec, 0xe2, 0x54, 0x19, 0x80, 0x40, 0x0f, 0x30, 0xd9, 0xc3, 0x41, 0xd3,
   0xee, 0xa8, 0xef, 0xfc, 0xe5, 0xb3, 0xdc, 0x73, 0x87, 0x13, 0xa2, 0xe3, 0x22, 0xbf, 0x7b, 0xae,
   0xef, 0x8f, 0xcf, 0x4f, 0x09, 0x8e, 0xd5, 0xf3, 0x3f, 0xdf, 0xf8, 0x67, 0x93, 0x1e, 0x5f, 0x15,
   0x7a, 0xaf, 0x67, 0x6c, 0xae, 0xec, 0x16, 0xf1, 0x90, 0x32, 0x22, 0x97, 0xa8, 0x75, 0x83, 0x4d,
   0x00, 0x00, 0x00, 0x00, 0x00, 0x00, 0x00, 0x00, 0x00, 0x00, 0x00, 0x00, 0x00, 0x00, 0x00, 0x00]

/-- Digest of the signing key of that image, as VENDOR_KEY_DIGEST holds it. DESIGN CHOICE (log entry 7). -/
def factoryVendorDigest : List Byte :=
  [0x37, 0x23, 0x1d, 0x91, 0x1f, 0x90, 0x17, 0xb1, 0x10, 0xc6, 0xd0, 0x46, 0xe3, 0x21, 0xde, 0xdc,
   0xc7, 0x27, 0x61, 0xbe, 0x1b, 0xbf, 0x16, 0x15, 0x9f, 0x67, 0x9f, 0xfd, 0x98, 0x18, 0x3a, 0x69]

/-- DEVID_DIGEST for a unique device secret of zeros. DESIGN CHOICE (log entry 7). -/
def factoryDevidDigest : List Byte :=
  [0xaa, 0xcb, 0x9d, 0x40, 0xd6, 0x71, 0x7c, 0xdd, 0xf3, 0xeb, 0x52, 0x05, 0x1a, 0xda, 0x3f, 0xc7,
   0x59, 0xe0, 0x4e, 0x2a, 0x57, 0xbd, 0x6c, 0x91, 0xc4, 0x48, 0x6e, 0xde, 0x4a, 0x59, 0x49, 0x3a]

/-- A publisher key (R886, R887). -/
structure PubKey where
  keyId : W64
  key : List Byte
  distId : List Byte
deriving DecidableEq, Repr, Inhabited

/-- A FLASH_UPDATE under way (R896 to R899). -/
structure FlashJob where
  part : Option Part
  cmd : Nat
  slotB : Bool
  image : FlashSlot
  pages : Nat
  /-- pages programmed, and the body bytes they hold as the second read of the host gave them (R898) -/
  done : Nat := 0
  written : List Byte := []
  /-- supply low began while it ran: it halts at the next safe point (R788) -/
  halt : Bool := false
deriving DecidableEq, Repr, Inhabited

/-- A FUSE_COMMIT under way (R900 to R902). -/
structure FuseJob where
  part : Part
  cmd : Nat
  at_ : Nat
  words : List W32
  done : Nat := 0
  rollback : Bool
  halt : Bool := false
deriving DecidableEq, Repr, Inhabited

/-- Fuses, flash, keys, presence and debug (chapter 15). -/
structure Security where
  uds : List Byte := List.replicate 32 0
  vendorDigest : List Byte := factoryVendorDigest
  devidDigest : List Byte := factoryDevidDigest
  /-- burned words of the record area (R873, R875); an unlisted word reads 0 -/
  fuses : Dict W32 := []
  slotA : FlashSlot := { magicOk := true, valid := true, header := factoryHeader, body := [0] }
  slotB : FlashSlot := {}
  bootCause : Nat := 0
  /-- slots found verified at the last boot, or by a completed update (R914) -/
  aValid : Bool := false
  bValid : Bool := false
  runningSvn : Nat := 0
  runningSeq : Nat := 0
  /-- M_FW; private alias key (R883) -/
  mfw : List Byte := []
  aliasKey : Nat := 0
  aliasCert : List Byte := []
  udsLocked : Bool := false
  keys : Dict PubKey := []
  presMode : BitVec 2 := 0
  presLevel : Bool := false
  present : Bool := false
  /-- a press is being held in button mode (R890) -/
  pressed : Bool := false
  /-- end of the button window on the local clock (R890) -/
  windowEnd : Nat := 0
  sealBroken : Bool := false
  debugOpen : BitVec 2 := 0
  debugEver : Bool := false
  flash : Option FlashJob := none
  fuse : Option FuseJob := none
  recBusy : Bool := false
  recResult : W16 := 0
deriving DecidableEq, Repr, Inhabited

end Sys2Proof.Machine
end

