-- ==== Sys2Proof/Machine/RegTable.lean ====
section
/-! DEFINITION. The register tables of the manual as data: for every register of BAR0 its offset, its width, the
fields with their access code and legal values, and the Reset column (R13, R16, R19, R596). -/

namespace Sys2Proof.Machine

/-- The registers of the manual, by their names. -/
inductive RegName where
  | idPart | idStepping | tileHoldCfg | tileHoldLimit | tileDbgSel | tileDbgState | tileDbgCar
  | tileDbgSamerow | tileDbgHold | numTableBase | numCfg | numWidenCount | numUnwidenableCount
  | numRelocateCount | numExhaustedCount | memHbmMap | memHostRegion | memShare | memFirnMap | memWithdrawn
  | memUeCount | memRecoveredCount | memFirnCfg | memSpareStat | memUeLog | memUeTotal | kvCfg | kvWalkEpoch
  | kvWalkOldest | kvWalkCount | kvBucket | kvFlushCount | kvReleaseCount | kvDemoteCount | kvFreezeCount
  | expStatus | expStep | expHotCount | expFetchMissCount | expExtraCount | expMovedCount | expDropCount
  | expReplicas | specDrafted | specAccepted | specSuspendCount | exitCount | uagPortCtrl | uagPortStatus
  | uagPortFecCorr | uagPortFecUncorr | uagPortReplay | uagPortLaneErr | uagNode | uagTimeCfg | uagTimeStatus
  | uagTime | uagTimeSet | uagLostCfg | uagTcWeight | uagFence | uagFenceSet | uagDropFenced | uagEcrcFail
  | uagMalformed | uagResend | uagRoute | caplistPtr | deviceStatus | glbFwVersion | glbBar2Base
  | glbBadAccess | evtGlobal | evtGlobalDropped | ringNudge | ringDoorbellAddr | ringStatusAddr | ringPoll
  | ringErr | ringEvtDropped | ringTokHeld | ringBase | ringCfg | ringCtrl | ringPi | ringCi | partCtrl
  | partReset | partCfg | partBatch | partBound | partWatchdog | partBeMin | partFabric | partEpoch
  | partQueue | partLive | partPreemptCount | partPromoteCount | partBoundOver | partExpired | partTiles
  | wgtSlotState | wgtSlotShard | wgtSlotBase | wgtSlotChunks | wgtSlotUnverified | wgtSlotRoot
  | wgtPartStatus | wgtGen | wgtVerifyFail | wgtChunksDone | wgtSm3Status | jnlWitness | jnlCfg | jnlStatus
  | jnlOutstanding | jnlLagMax | jnlClaims | jnlWitReceived | jnlWitRefused | jnlRestored | jnlMigratedOut
  | pwrStatus | pwrFallback | pwrLeaseA | pwrLeaseB | pwrEst | pwrVin | pwrFloor | pwrThermal | pwrConv
  | pwrSafeCount | pwrFloorUs | pwrRampMiss | pwrNvHalt | pwrBand | sprStatus | sprThresh | sprMapAddr
  | sprMapCtrl | sprTestsRun | sprTestsFailed | sprTransients | secStatus | secPresRemain | secRollback
  | secFuseFree | secKeys | secDevidDigest | secRecoveryAddr | secRecoveryCtrl | glbResetCfg | glbBootStatus
deriving DecidableEq, Repr, Inhabited

/-- Access codes (R13). -/
inductive Acc where
  | rw | ro | wo | w1c | rc
deriving DecidableEq, Repr, Inhabited

/-- A field of a register table: lowest bit, width, access, and the range a write may give it (R8), where the table
states one. -/
structure RegFld where
  lsb : Nat
  width : Nat
  acc : Acc
  legal : Option (Nat × Nat) := none
deriving DecidableEq, Repr, Inhabited

/-- A register or an array of registers: offset of the first, the counts and strides of its indices (outermost first),
bytes, Reset column, fields. -/
structure RegRow where
  name : RegName
  base : Nat
  strides : List (Nat × Nat)
  bytes : Nat
  reset : Nat
  flds : List RegFld
deriving DecidableEq, Repr, Inhabited

/-- The registers of R33. -/
def regsR33 : List RegRow :=
  [⟨.idPart, 0x0, [], 4, 0x4C4B0105,
    [⟨0, 8, .ro, none⟩, ⟨8, 8, .ro, none⟩, ⟨16, 16, .ro, none⟩]⟩,
   ⟨.idStepping, 0x4, [], 4, 0x24011,
    [⟨0, 4, .ro, none⟩, ⟨4, 4, .ro, none⟩, ⟨8, 10, .ro, none⟩, ⟨18, 10, .ro, none⟩]⟩]

/-- The registers of R178. -/
def regsR178 : List RegRow :=
  [⟨.tileHoldCfg, 0x188000, [], 4, 0x1000,
    [⟨0, 20, .rw, none⟩]⟩,
   ⟨.tileHoldLimit, 0x188004, [], 4, 0xF4240,
    [⟨0, 32, .rw, none⟩]⟩,
   ⟨.tileDbgSel, 0x188010, [], 4, 0x0,
    [⟨0, 10, .rw, none⟩, ⟨10, 5, .rw, none⟩]⟩,
   ⟨.tileDbgState, 0x188014, [], 4, 0x0,
    [⟨0, 3, .ro, none⟩, ⟨8, 1, .ro, none⟩, ⟨9, 1, .ro, none⟩, ⟨10, 1, .ro, none⟩]⟩,
   ⟨.tileDbgCar, 0x188018, [], 8, 0x0,
    [⟨0, 32, .ro, none⟩, ⟨32, 32, .ro, none⟩]⟩,
   ⟨.tileDbgSamerow, 0x188020, [], 4, 0x0,
    [⟨0, 32, .rc, none⟩]⟩,
   ⟨.tileDbgHold, 0x188028, [], 8, 0x0,
    [⟨0, 64, .rc, none⟩]⟩]

/-- The registers of R233. -/
def regsR233 : List RegRow :=
  [⟨.numTableBase, 0x1C0000, [(16, 0x40)], 8, 0x0,
    [⟨0, 48, .rw, none⟩]⟩,
   ⟨.numCfg, 0x1C0008, [(16, 0x40)], 4, 0x30005,
    [⟨0, 4, .rw, some (2, 10)⟩, ⟨8, 12, .rw, some (1, 4095)⟩, ⟨20, 1, .rw, none⟩]⟩,
   ⟨.numWidenCount, 0x1C0010, [(16, 0x40)], 4, 0x0,
    [⟨0, 32, .rc, none⟩]⟩,
   ⟨.numUnwidenableCount, 0x1C0014, [(16, 0x40)], 4, 0x0,
    [⟨0, 32, .rc, none⟩]⟩,
   ⟨.numRelocateCount, 0x1C0018, [(16, 0x40)], 4, 0x0,
    [⟨0, 32, .rc, none⟩]⟩,
   ⟨.numExhaustedCount, 0x1C001C, [(16, 0x40)], 4, 0x0,
    [⟨0, 32, .rc, none⟩]⟩]

/-- The registers of R292. -/
def regsR292 : List RegRow :=
  [⟨.memHbmMap, 0x140000, [(16, 0x40)], 8, 0x0,
    [⟨0, 48, .rw, none⟩, ⟨48, 6, .rw, none⟩, ⟨63, 1, .rw, none⟩]⟩,
   ⟨.memHostRegion, 0x140008, [(16, 0x40)], 4, 0x0,
    [⟨0, 16, .rw, none⟩]⟩,
   ⟨.memShare, 0x14000C, [(16, 0x40)], 4, 0x42248,
    [⟨0, 4, .rw, none⟩, ⟨4, 4, .rw, none⟩, ⟨8, 4, .rw, none⟩, ⟨12, 4, .rw, none⟩, ⟨16, 4, .rw, none⟩]⟩,
   ⟨.memFirnMap, 0x140010, [(16, 0x40)], 4, 0x0,
    [⟨0, 14, .rw, none⟩, ⟨16, 15, .rw, some (1, 16384)⟩, ⟨31, 1, .rw, none⟩]⟩,
   ⟨.memWithdrawn, 0x140014, [(16, 0x40)], 4, 0x0,
    [⟨0, 32, .ro, none⟩]⟩,
   ⟨.memUeCount, 0x140018, [(16, 0x40)], 4, 0x0,
    [⟨0, 32, .rc, none⟩]⟩,
   ⟨.memRecoveredCount, 0x14001C, [(16, 0x40)], 4, 0x0,
    [⟨0, 32, .rc, none⟩]⟩]

/-- The registers of R294. -/
def regsR294 : List RegRow :=
  [⟨.memFirnCfg, 0x141000, [], 4, 0x0,
    [⟨0, 5, .ro, none⟩, ⟨8, 3, .ro, none⟩, ⟨11, 1, .ro, none⟩, ⟨16, 16, .ro, none⟩]⟩,
   ⟨.memSpareStat, 0x141100, [(12, 0x4)], 4, 0x8000,
    [⟨0, 16, .ro, none⟩, ⟨16, 5, .ro, none⟩, ⟨21, 1, .ro, none⟩, ⟨22, 1, .ro, none⟩]⟩,
   ⟨.memUeLog, 0x141200, [], 8, 0x0,
    [⟨0, 48, .ro, none⟩, ⟨48, 4, .ro, none⟩, ⟨52, 4, .ro, none⟩, ⟨56, 1, .ro, none⟩, ⟨63, 1, .w1c, none⟩]⟩,
   ⟨.memUeTotal, 0x141208, [], 4, 0x0,
    [⟨0, 32, .rc, none⟩]⟩]

/-- The registers of R362. -/
def regsR362 : List RegRow :=
  [⟨.kvCfg, 0x240000, [(16, 0x100)], 4, 0x20400,
    [⟨0, 14, .rw, none⟩, ⟨16, 4, .rw, some (1, 15)⟩]⟩,
   ⟨.kvWalkEpoch, 0x240008, [(16, 0x100)], 4, 0x0,
    [⟨0, 32, .ro, none⟩]⟩,
   ⟨.kvWalkOldest, 0x24000C, [(16, 0x100)], 4, 0x0,
    [⟨0, 32, .ro, none⟩]⟩,
   ⟨.kvWalkCount, 0x240010, [(16, 0x100), (4, 0x4)], 4, 0x0,
    [⟨0, 16, .ro, none⟩]⟩,
   ⟨.kvBucket, 0x240040, [(16, 0x100), (16, 0x4)], 4, 0x0,
    [⟨0, 21, .rw, none⟩]⟩,
   ⟨.kvFlushCount, 0x240080, [(16, 0x100)], 4, 0x0,
    [⟨0, 32, .rc, none⟩]⟩,
   ⟨.kvReleaseCount, 0x240084, [(16, 0x100)], 4, 0x0,
    [⟨0, 32, .rc, none⟩]⟩,
   ⟨.kvDemoteCount, 0x240088, [(16, 0x100)], 4, 0x0,
    [⟨0, 32, .rc, none⟩]⟩,
   ⟨.kvFreezeCount, 0x24008C, [(16, 0x100)], 4, 0x0,
    [⟨0, 32, .rc, none⟩]⟩]

/-- The registers of R423. -/
def regsR423 : List RegRow :=
  [⟨.expStatus, 0x200000, [(16, 0x100)], 4, 0x0,
    [⟨0, 10, .ro, none⟩, ⟨16, 16, .ro, none⟩]⟩,
   ⟨.expStep, 0x200008, [(16, 0x100)], 8, 0x0,
    [⟨0, 64, .ro, none⟩]⟩,
   ⟨.expHotCount, 0x200010, [(16, 0x100)], 4, 0x0,
    [⟨0, 32, .rc, none⟩]⟩,
   ⟨.expFetchMissCount, 0x200014, [(16, 0x100)], 4, 0x0,
    [⟨0, 32, .rc, none⟩]⟩,
   ⟨.expExtraCount, 0x200018, [(16, 0x100)], 4, 0x0,
    [⟨0, 32, .rc, none⟩]⟩,
   ⟨.expMovedCount, 0x20001C, [(16, 0x100)], 4, 0x0,
    [⟨0, 32, .rc, none⟩]⟩,
   ⟨.expDropCount, 0x200020, [(16, 0x100)], 4, 0x0,
    [⟨0, 32, .rc, none⟩]⟩,
   ⟨.expReplicas, 0x200024, [(16, 0x100)], 4, 0x0,
    [⟨0, 16, .ro, none⟩, ⟨16, 16, .ro, none⟩]⟩,
   ⟨.specDrafted, 0x200040, [(16, 0x100)], 4, 0x0,
    [⟨0, 32, .rc, none⟩]⟩,
   ⟨.specAccepted, 0x200044, [(16, 0x100)], 4, 0x0,
    [⟨0, 32, .rc, none⟩]⟩,
   ⟨.specSuspendCount, 0x200048, [(16, 0x100)], 4, 0x0,
    [⟨0, 32, .rc, none⟩]⟩,
   ⟨.exitCount, 0x20004C, [(16, 0x100)], 4, 0x0,
    [⟨0, 32, .rc, none⟩]⟩]

/-- The registers of R500. -/
def regsR500 : List RegRow :=
  [⟨.uagPortCtrl, 0x100000, [(8, 0x400)], 4, 0x400,
    [⟨0, 1, .rw, none⟩, ⟨1, 2, .rw, some (0, 2)⟩, ⟨3, 2, .rw, none⟩, ⟨6, 8, .rw, none⟩]⟩,
   ⟨.uagPortStatus, 0x100004, [(8, 0x400)], 4, 0x0,
    [⟨0, 2, .ro, none⟩, ⟨2, 2, .ro, none⟩, ⟨4, 2, .ro, none⟩, ⟨6, 1, .ro, none⟩, ⟨7, 1, .ro, none⟩, ⟨8, 4, .ro, none⟩, ⟨12, 9, .ro, none⟩, ⟨21, 1, .ro, none⟩, ⟨22, 1, .ro, none⟩, ⟨28, 4, .ro, none⟩]⟩,
   ⟨.uagPortFecCorr, 0x100008, [(8, 0x400)], 4, 0x0,
    [⟨0, 32, .rc, none⟩]⟩,
   ⟨.uagPortFecUncorr, 0x10000C, [(8, 0x400)], 4, 0x0,
    [⟨0, 32, .rc, none⟩]⟩,
   ⟨.uagPortReplay, 0x100010, [(8, 0x400)], 4, 0x0,
    [⟨0, 32, .rc, none⟩]⟩,
   ⟨.uagPortLaneErr, 0x100020, [(8, 0x400), (9, 0x4)], 4, 0x0,
    [⟨0, 32, .rc, none⟩]⟩]

/-- The registers of R502. -/
def regsR502 : List RegRow :=
  [⟨.uagNode, 0x102000, [], 4, 0x0,
    [⟨0, 9, .rw, none⟩, ⟨31, 1, .rw, none⟩]⟩,
   ⟨.uagTimeCfg, 0x102004, [], 4, 0x400000,
    [⟨0, 1, .rw, none⟩, ⟨1, 1, .rw, none⟩, ⟨2, 3, .rw, none⟩, ⟨5, 1, .rw, none⟩, ⟨6, 3, .rw, none⟩, ⟨9, 1, .rw, none⟩, ⟨10, 8, .rw, none⟩, ⟨18, 8, .rw, some (1, 255)⟩]⟩,
   ⟨.uagTimeStatus, 0x102008, [], 4, 0x0,
    [⟨0, 1, .ro, none⟩, ⟨1, 9, .ro, none⟩, ⟨16, 16, .ro, none⟩]⟩,
   ⟨.uagTime, 0x102010, [], 8, 0x0,
    [⟨0, 64, .ro, none⟩]⟩,
   ⟨.uagTimeSet, 0x102018, [], 8, 0x0,
    [⟨0, 64, .wo, none⟩]⟩,
   ⟨.uagLostCfg, 0x102020, [], 4, 0x190032,
    [⟨0, 16, .rw, some (10, 65535)⟩, ⟨16, 16, .rw, some (5, 65535)⟩]⟩,
   ⟨.uagTcWeight, 0x102024, [], 4, 0x448,
    [⟨0, 4, .rw, none⟩, ⟨4, 4, .rw, none⟩, ⟨8, 4, .rw, none⟩]⟩,
   ⟨.uagFence, 0x102100, [(16, 0x4)], 4, 0x0,
    [⟨0, 32, .w1c, none⟩]⟩,
   ⟨.uagFenceSet, 0x102180, [], 4, 0x0,
    [⟨0, 9, .wo, none⟩, ⟨31, 1, .wo, none⟩]⟩,
   ⟨.uagDropFenced, 0x102200, [], 4, 0x0,
    [⟨0, 32, .rc, none⟩]⟩,
   ⟨.uagEcrcFail, 0x102204, [], 4, 0x0,
    [⟨0, 32, .rc, none⟩]⟩,
   ⟨.uagMalformed, 0x102208, [], 4, 0x0,
    [⟨0, 32, .rc, none⟩]⟩,
   ⟨.uagResend, 0x10220C, [], 4, 0x0,
    [⟨0, 32, .rc, none⟩]⟩,
   ⟨.uagRoute, 0x104000, [(512, 0x4)], 4, 0x0,
    [⟨0, 3, .rw, none⟩, ⟨3, 1, .rw, none⟩, ⟨4, 3, .rw, none⟩, ⟨7, 1, .rw, none⟩, ⟨8, 1, .rw, none⟩, ⟨9, 1, .rw, none⟩, ⟨10, 1, .rw, none⟩, ⟨12, 1, .ro, none⟩, ⟨13, 1, .ro, none⟩, ⟨14, 1, .ro, none⟩]⟩]

/-- The registers of R597. -/
def regsR597 : List RegRow :=
  [⟨.caplistPtr, 0x100, [], 4, 0x200,
    [⟨0, 24, .ro, none⟩]⟩,
   ⟨.deviceStatus, 0x10000, [], 4, 0x0,
    [⟨0, 1, .ro, none⟩, ⟨1, 1, .ro, none⟩, ⟨2, 1, .ro, none⟩, ⟨3, 1, .ro, none⟩, ⟨4, 1, .ro, none⟩, ⟨16, 6, .ro, none⟩]⟩,
   ⟨.glbFwVersion, 0x10004, [], 4, 0x0,
    [⟨0, 16, .ro, none⟩, ⟨16, 8, .ro, none⟩, ⟨24, 8, .ro, none⟩]⟩,
   ⟨.glbBar2Base, 0x10010, [], 8, 0x0,
    [⟨36, 12, .rw, none⟩]⟩,
   ⟨.glbBadAccess, 0x10018, [], 4, 0x0,
    [⟨0, 32, .rc, none⟩]⟩,
   ⟨.evtGlobal, 0x300000, [], 4, 0x0,
    [⟨0, 4, .rw, none⟩, ⟨4, 1, .rw, none⟩]⟩,
   ⟨.evtGlobalDropped, 0x300004, [], 4, 0x0,
    [⟨0, 32, .rc, none⟩]⟩]

/-- The registers of R598. -/
def regsR598 : List RegRow :=
  [⟨.ringNudge, 0x20000, [(16, 0x100)], 4, 0x0,
    [⟨0, 32, .wo, none⟩]⟩,
   ⟨.ringDoorbellAddr, 0x20008, [(16, 0x100)], 8, 0x0,
    [⟨12, 52, .rw, none⟩]⟩,
   ⟨.ringStatusAddr, 0x20010, [(16, 0x100)], 8, 0x0,
    [⟨12, 52, .rw, none⟩]⟩,
   ⟨.ringPoll, 0x20018, [(16, 0x100)], 4, 0x4,
    [⟨0, 9, .rw, some (1, 256)⟩]⟩,
   ⟨.ringErr, 0x2001C, [(16, 0x100)], 4, 0x0,
    [⟨0, 13, .ro, none⟩]⟩,
   ⟨.ringEvtDropped, 0x20020, [(16, 0x100)], 4, 0x0,
    [⟨0, 32, .rc, none⟩]⟩,
   ⟨.ringTokHeld, 0x20024, [(16, 0x100)], 4, 0x0,
    [⟨0, 32, .ro, none⟩]⟩,
   ⟨.ringBase, 0x21000, [(16, 0x400), (13, 0x20)], 8, 0x0,
    [⟨12, 52, .rw, none⟩]⟩,
   ⟨.ringCfg, 0x21008, [(16, 0x400), (13, 0x20)], 4, 0x106,
    [⟨0, 5, .rw, some (6, 16)⟩, ⟨8, 8, .rw, none⟩, ⟨16, 10, .rw, none⟩]⟩,
   ⟨.ringCtrl, 0x2100C, [(16, 0x400), (13, 0x20)], 4, 0x0,
    [⟨0, 1, .rw, none⟩, ⟨1, 2, .ro, none⟩, ⟨3, 2, .ro, none⟩, ⟨5, 1, .ro, none⟩, ⟨28, 4, .ro, none⟩]⟩,
   ⟨.ringPi, 0x21010, [(16, 0x400), (13, 0x20)], 8, 0x0,
    [⟨0, 64, .ro, none⟩]⟩,
   ⟨.ringCi, 0x21018, [(16, 0x400), (13, 0x20)], 8, 0x0,
    [⟨0, 64, .ro, none⟩]⟩]

/-- The registers of R667. -/
def regsR667 : List RegRow :=
  [⟨.partCtrl, 0x40000, [(16, 0x100)], 4, 0x0,
    [⟨0, 1, .rw, none⟩, ⟨1, 2, .ro, none⟩, ⟨3, 2, .ro, none⟩, ⟨5, 1, .ro, none⟩, ⟨28, 4, .ro, none⟩]⟩,
   ⟨.partReset, 0x40004, [(16, 0x100)], 4, 0x0,
    [⟨0, 1, .wo, none⟩]⟩,
   ⟨.partCfg, 0x40008, [(16, 0x100)], 4, 0x0,
    [⟨0, 1, .rw, none⟩, ⟨1, 4, .rw, none⟩, ⟨5, 1, .rw, none⟩]⟩,
   ⟨.partBatch, 0x4000C, [(16, 0x100)], 4, 0x1000,
    [⟨0, 16, .rw, some (1, 65535)⟩]⟩,
   ⟨.partBound, 0x40010, [(16, 0x100)], 4, 0xC350,
    [⟨0, 32, .rw, none⟩]⟩,
   ⟨.partWatchdog, 0x40014, [(16, 0x100)], 4, 0x989680,
    [⟨0, 32, .rw, none⟩]⟩,
   ⟨.partBeMin, 0x40018, [(16, 0x100)], 4, 0x0,
    [⟨0, 10, .rw, none⟩]⟩,
   ⟨.partFabric, 0x4001C, [(16, 0x100)], 4, 0x4,
    [⟨0, 4, .rw, none⟩]⟩,
   ⟨.partEpoch, 0x40020, [(16, 0x100)], 4, 0x0,
    [⟨0, 32, .ro, none⟩]⟩,
   ⟨.partQueue, 0x40024, [(16, 0x100)], 4, 0x0,
    [⟨0, 11, .ro, none⟩, ⟨16, 11, .ro, none⟩]⟩,
   ⟨.partLive, 0x40028, [(16, 0x100)], 4, 0x0,
    [⟨0, 17, .ro, none⟩]⟩,
   ⟨.partPreemptCount, 0x40030, [(16, 0x100)], 4, 0x0,
    [⟨0, 32, .rc, none⟩]⟩,
   ⟨.partPromoteCount, 0x40034, [(16, 0x100)], 4, 0x0,
    [⟨0, 32, .rc, none⟩]⟩,
   ⟨.partBoundOver, 0x40038, [(16, 0x100)], 4, 0x0,
    [⟨0, 32, .rc, none⟩]⟩,
   ⟨.partExpired, 0x4003C, [(16, 0x100)], 4, 0x0,
    [⟨0, 32, .rc, none⟩]⟩,
   ⟨.partTiles, 0x40040, [(16, 0x100), (17, 0x4)], 4, 0x0,
    [⟨0, 32, .rw, none⟩]⟩]

/-- The registers of R724. -/
def regsR724 : List RegRow :=
  [⟨.wgtSlotState, 0x280000, [(16, 0x2000), (80, 0x40)], 4, 0x0,
    [⟨0, 3, .ro, none⟩, ⟨3, 1, .ro, none⟩]⟩,
   ⟨.wgtSlotShard, 0x280004, [(16, 0x2000), (80, 0x40)], 4, 0x0,
    [⟨0, 32, .ro, none⟩]⟩,
   ⟨.wgtSlotBase, 0x280008, [(16, 0x2000), (80, 0x40)], 8, 0x0,
    [⟨0, 48, .ro, none⟩]⟩,
   ⟨.wgtSlotChunks, 0x280010, [(16, 0x2000), (80, 0x40)], 8, 0x0,
    [⟨0, 32, .ro, none⟩, ⟨32, 32, .ro, none⟩]⟩,
   ⟨.wgtSlotUnverified, 0x280018, [(16, 0x2000), (80, 0x40)], 4, 0xFFFFFFFF,
    [⟨0, 32, .ro, none⟩]⟩,
   ⟨.wgtSlotRoot, 0x280020, [(16, 0x2000), (80, 0x40), (4, 0x8)], 8, 0x0,
    [⟨0, 64, .ro, none⟩]⟩,
   ⟨.wgtPartStatus, 0x281800, [(16, 0x2000)], 4, 0x0,
    [⟨0, 6, .ro, none⟩, ⟨6, 1, .ro, none⟩, ⟨7, 1, .ro, none⟩]⟩,
   ⟨.wgtGen, 0x281804, [(16, 0x2000)], 4, 0x0,
    [⟨0, 32, .ro, none⟩]⟩,
   ⟨.wgtVerifyFail, 0x281808, [(16, 0x2000)], 4, 0x0,
    [⟨0, 32, .rc, none⟩]⟩,
   ⟨.wgtChunksDone, 0x28180C, [(16, 0x2000)], 4, 0x0,
    [⟨0, 32, .rc, none⟩]⟩,
   ⟨.wgtSm3Status, 0x2A0000, [], 4, 0x130,
    [⟨0, 6, .ro, none⟩, ⟨6, 3, .ro, none⟩]⟩]

/-- The registers of R776. -/
def regsR776 : List RegRow :=
  [⟨.jnlWitness, 0x2C0000, [(16, 0x100)], 4, 0x0,
    [⟨0, 9, .rw, none⟩, ⟨9, 4, .rw, none⟩, ⟨31, 1, .rw, none⟩]⟩,
   ⟨.jnlCfg, 0x2C0004, [(16, 0x100)], 4, 0x3E80000,
    [⟨0, 1, .rw, none⟩, ⟨1, 1, .rw, none⟩, ⟨2, 1, .rw, none⟩, ⟨16, 16, .rw, none⟩]⟩,
   ⟨.jnlStatus, 0x2C0008, [(16, 0x100)], 4, 0x0,
    [⟨0, 2, .ro, none⟩, ⟨16, 16, .ro, none⟩]⟩,
   ⟨.jnlOutstanding, 0x2C000C, [(16, 0x100)], 4, 0x0,
    [⟨0, 13, .ro, none⟩]⟩,
   ⟨.jnlLagMax, 0x2C0010, [(16, 0x100)], 4, 0x0,
    [⟨0, 32, .rc, none⟩]⟩,
   ⟨.jnlClaims, 0x2C0014, [(16, 0x100)], 4, 0x0,
    [⟨0, 17, .ro, none⟩]⟩,
   ⟨.jnlWitReceived, 0x2C0018, [(16, 0x100)], 4, 0x0,
    [⟨0, 32, .rc, none⟩]⟩,
   ⟨.jnlWitRefused, 0x2C001C, [(16, 0x100)], 4, 0x0,
    [⟨0, 32, .rc, none⟩]⟩,
   ⟨.jnlRestored, 0x2C0020, [(16, 0x100)], 4, 0x0,
    [⟨0, 32, .rc, none⟩]⟩,
   ⟨.jnlMigratedOut, 0x2C0024, [(16, 0x100)], 4, 0x0,
    [⟨0, 32, .rc, none⟩]⟩]

/-- The registers of R836. -/
def regsR836 : List RegRow :=
  [⟨.pwrStatus, 0x80000, [], 4, 0x24B0,
    [⟨0, 12, .ro, none⟩, ⟨12, 2, .ro, none⟩, ⟨14, 1, .ro, none⟩, ⟨15, 1, .ro, none⟩, ⟨16, 1, .ro, none⟩, ⟨17, 1, .ro, none⟩, ⟨18, 1, .ro, none⟩, ⟨19, 1, .ro, none⟩]⟩,
   ⟨.pwrFallback, 0x80004, [], 4, 0x4B0,
    [⟨0, 12, .rw, some (800, 2400)⟩, ⟨12, 10, .rw, none⟩, ⟨22, 10, .rw, none⟩]⟩,
   ⟨.pwrLeaseA, 0x80008, [], 8, 0x0,
    [⟨0, 12, .ro, none⟩, ⟨12, 10, .ro, none⟩, ⟨22, 10, .ro, none⟩, ⟨32, 16, .ro, none⟩]⟩,
   ⟨.pwrLeaseB, 0x80010, [], 8, 0x0,
    [⟨0, 12, .ro, none⟩, ⟨12, 10, .ro, none⟩, ⟨22, 10, .ro, none⟩, ⟨32, 16, .ro, none⟩]⟩,
   ⟨.pwrEst, 0x80018, [], 4, 0x0,
    [⟨0, 16, .ro, none⟩, ⟨16, 16, .ro, none⟩]⟩,
   ⟨.pwrVin, 0x8001C, [], 4, 0x0,
    [⟨0, 16, .ro, none⟩, ⟨16, 16, .ro, none⟩]⟩,
   ⟨.pwrFloor, 0x80020, [], 4, 0x400000,
    [⟨0, 12, .ro, none⟩, ⟨12, 12, .ro, none⟩]⟩,
   ⟨.pwrThermal, 0x80024, [], 4, 0x0,
    [⟨0, 8, .ro, none⟩, ⟨8, 8, .ro, none⟩, ⟨16, 8, .ro, none⟩]⟩,
   ⟨.pwrConv, 0x80028, [], 4, 0x1FF,
    [⟨0, 9, .ro, none⟩, ⟨9, 1, .ro, none⟩]⟩,
   ⟨.pwrSafeCount, 0x80030, [], 4, 0x0,
    [⟨0, 32, .rc, none⟩]⟩,
   ⟨.pwrFloorUs, 0x80034, [], 4, 0x0,
    [⟨0, 32, .rc, none⟩]⟩,
   ⟨.pwrRampMiss, 0x80038, [], 4, 0x0,
    [⟨0, 32, .rc, none⟩]⟩,
   ⟨.pwrNvHalt, 0x8003C, [], 4, 0x0,
    [⟨0, 32, .rc, none⟩]⟩,
   ⟨.pwrBand, 0x80100, [(8, 0x4)], 4, 0x0,
    [⟨0, 8, .ro, none⟩, ⟨8, 8, .ro, none⟩, ⟨16, 8, .ro, none⟩, ⟨24, 1, .ro, none⟩]⟩]

/-- The registers of R871. -/
def regsR871 : List RegRow :=
  [⟨.sprStatus, 0xA0000, [], 4, 0x32020,
    [⟨0, 6, .ro, none⟩, ⟨6, 6, .ro, none⟩, ⟨12, 2, .ro, none⟩, ⟨14, 3, .ro, none⟩, ⟨17, 1, .ro, none⟩, ⟨18, 1, .ro, none⟩]⟩,
   ⟨.sprThresh, 0xA0004, [], 4, 0x4324A,
    [⟨0, 3, .rw, none⟩, ⟨3, 3, .rw, none⟩, ⟨6, 3, .rw, none⟩, ⟨9, 3, .rw, none⟩, ⟨12, 3, .rw, none⟩, ⟨15, 3, .rw, none⟩, ⟨18, 3, .rw, none⟩]⟩,
   ⟨.sprMapAddr, 0xA0010, [], 8, 0x0,
    [⟨6, 58, .rw, none⟩]⟩,
   ⟨.sprMapCtrl, 0xA0018, [], 4, 0x0,
    [⟨0, 1, .wo, none⟩, ⟨1, 1, .ro, none⟩, ⟨2, 2, .ro, none⟩]⟩,
   ⟨.sprTestsRun, 0xA0020, [], 4, 0x0,
    [⟨0, 32, .rc, none⟩]⟩,
   ⟨.sprTestsFailed, 0xA0024, [], 4, 0x0,
    [⟨0, 32, .rc, none⟩]⟩,
   ⟨.sprTransients, 0xA0028, [], 4, 0x0,
    [⟨0, 32, .rc, none⟩]⟩]

/-- The registers of R914. -/
def regsR914 : List RegRow :=
  [⟨.secStatus, 0xC0000, [], 4, 0x0,
    [⟨0, 2, .ro, none⟩, ⟨2, 1, .ro, none⟩, ⟨3, 1, .ro, none⟩, ⟨4, 1, .ro, none⟩, ⟨5, 1, .ro, none⟩, ⟨6, 1, .ro, none⟩, ⟨7, 1, .ro, none⟩, ⟨8, 8, .ro, none⟩]⟩,
   ⟨.secPresRemain, 0xC0004, [], 4, 0x0,
    [⟨0, 8, .ro, none⟩]⟩,
   ⟨.secRollback, 0xC0008, [], 4, 0x0,
    [⟨0, 16, .ro, none⟩, ⟨16, 16, .ro, none⟩]⟩,
   ⟨.secFuseFree, 0xC000C, [], 4, 0x400,
    [⟨0, 11, .ro, none⟩]⟩,
   ⟨.secKeys, 0xC0010, [], 4, 0x0,
    [⟨0, 16, .ro, none⟩]⟩,
   ⟨.secDevidDigest, 0xC0020, [(4, 0x8)], 8, 0x0,
    [⟨0, 64, .ro, none⟩]⟩,
   ⟨.secRecoveryAddr, 0xC0040, [], 8, 0x0,
    [⟨12, 52, .rw, none⟩]⟩,
   ⟨.secRecoveryCtrl, 0xC0048, [], 4, 0x0,
    [⟨0, 1, .wo, none⟩, ⟨1, 1, .ro, none⟩, ⟨2, 16, .ro, none⟩]⟩]

/-- The registers of R922. -/
def regsR922 : List RegRow :=
  [⟨.glbResetCfg, 0x10020, [], 4, 0x0,
    [⟨0, 1, .rw, none⟩, ⟨1, 1, .rw, none⟩]⟩,
   ⟨.glbBootStatus, 0x10024, [], 4, 0x0,
    [⟨0, 4, .ro, none⟩, ⟨4, 4, .ro, none⟩, ⟨8, 10, .ro, none⟩]⟩]

/-- Every register of the manual. -/
def regTable : List RegRow :=
  regsR33 ++ regsR178 ++ regsR233 ++ regsR292 ++ regsR294 ++ regsR362 ++ regsR423 ++ regsR500 ++ regsR502 ++
  regsR597 ++ regsR598 ++ regsR667 ++ regsR724 ++ regsR776 ++ regsR836 ++ regsR871 ++ regsR914 ++ regsR922

end Sys2Proof.Machine
end

