-- ==== Sys2Proof/Machine/State.lean ====
section
/-! DEFINITION. The whole state of the package as plain data, the reasons a step may stop, and the state after reset:
an unpowered package with no command waiting. -/

namespace Sys2Proof.Machine

/-- Why the machine stops with a fault. -/
inductive Fault where
  /-- Raised by every command once EXTEST, INTEST or CLAMP has taken the lands: the manual calls the behaviour of the
  package undefined until the next reset of the whole package (R966), and gives no effect. Safe. -/
  | landsTaken
deriving DecidableEq, Repr

/-- Why a command has no meaning. -/
inductive Refusal where
  /-- Raised for a command the model does not give a meaning to. Safe. -/
  | notModelled (mnemonic : String)
deriving DecidableEq, Repr

/-- The state of the package. -/
structure State where
  /-- commands that wait, first in, first out (the model's own) -/
  pending : List Instr := []
  boot : Boot := {}
  /-- values of the RW fields and RC counters of the registers, at key `regKey name index`; an unlisted register holds
  its Reset column (R13, R19) -/
  regs : Dict W64 := []
  /-- the DPA space: HBM, firn tier and the tile windows (R235 to R237) -/
  mem : Mem := {}
  host : HostSide := {}
  parts : Vector Partition 16 := Vector.replicate 16 {}
  /-- logical tiles; an unlisted one is free (R87, R178) -/
  tiles : Dict Tile := []
  repair : Repair := {}
  fabric : Fabric := {}
  power : Power := {}
  mgmtA : Mgmt := {}
  mgmtB : Mgmt := {}
  sec : Security := {}
  /-- local time in ns since the supply came up (the model's own clock) -/
  now : Nat := 0
  /-- free values drawn so far (the model's own) -/
  free : Nat := 0
  /-- DPAs whose reads the command under way finds uncorrectable, as its operand gives them (R276); empty between commands
  (the model's own) -/
  found : List Nat := []
deriving DecidableEq, Repr

/-- The package right after reset: no supply, every field at its reset value, no command waiting. -/
def State.reset : State := {}

end Sys2Proof.Machine
end

