-- ==== Sys2Proof/Machine/Flags.lean ====
section
/-! DEFINITION. Status codes, event codes and opcodes (R577, R587, R588). -/

namespace Sys2Proof.Machine

/-! ### Status codes (R587) -/

def stOk : W16 := 0x0000
def stOkWidened : W16 := 0x0001
def stOkLate : W16 := 0x0002
def stOkRecovered : W16 := 0x0003
def stMalformed : W16 := 0x0100
def stNoCapacity : W16 := 0x0101
def stSignature : W16 := 0x0102
def stPresence : W16 := 0x0103
def stSupply : W16 := 0x0104
def stState : W16 := 0x0105
def stEpoch : W16 := 0x0106
def stCancelled : W16 := 0x0200
def stDeadline : W16 := 0x0201
def stExhausted : W16 := 0x0300
def stPartReset : W16 := 0x0301
def stNodeLost : W16 := 0x0302
def stCollAborted : W16 := 0x0303
def stUnrecoverable : W16 := 0x0304

/-- The status codes of R587: no other is produced (R10). -/
def statusCodes : List W16 :=
  [stOk, stOkWidened, stOkLate, stOkRecovered, stMalformed, stNoCapacity, stSignature, stPresence, stSupply, stState, stEpoch,
   stCancelled, stDeadline, stExhausted, stPartReset, stNodeLost, stCollAborted, stUnrecoverable]

/-- A status that refuses or fails: one of R587 whose class is not 0x00. -/
def failStatus (st : W16) : Bool := statusCodes.contains st && decide (0x100 ≤ st.toNat)

/-! ### Event codes (R588) -/

def evThinIce : W16 := 0x0100
def evWhiteout : W16 := 0x0101
def evZeroBlock : W16 := 0x0102
def evArrayCheck : W16 := 0x0103
def evNarrowOverflow : W16 := 0x0104
def evOverrun : W16 := 0x0110
def evUnderrun : W16 := 0x0111
def evLateSlot : W16 := 0x0112
def evSameRow : W16 := 0x0113
def evHotExpert : W16 := 0x0200
def evFetchMiss : W16 := 0x0201
def evSpecSuspended : W16 := 0x0202
def evTileRetired : W16 := 0x0300
def evTileTransient : W16 := 0x0301
def evRowSpared : W16 := 0x0302
def evChannelSpared : W16 := 0x0303
def evLaneSpared : W16 := 0x0304
def evCoreSpared : W16 := 0x0305
def evSm3Spared : W16 := 0x0306
def evLinkDown : W16 := 0x0400
def evLinkDegraded : W16 := 0x0401
def evNodeLost : W16 := 0x0402
def evNodeFenced : W16 := 0x0403
def evCapChanged : W16 := 0x0500
def evCapUnreachable : W16 := 0x0501
def evRampOverridden : W16 := 0x0502
def evThermal : W16 := 0x0503
def evSupplyLow : W16 := 0x0504
def evPwrWarn : W16 := 0x0505
def evPresenceOpen : W16 := 0x0600
def evPresenceClosed : W16 := 0x0601
def evSealBroken : W16 := 0x0602
def evWitnessLag : W16 := 0x0700
def evJournalFull : W16 := 0x0701

/-! ### Opcodes (R577) -/

def opNop : Nat := 0x0000
def opFence : Nat := 0x0001
def opAdmit : Nat := 0x0010
def opAppend : Nat := 0x0011
def opFreeze : Nat := 0x0012
def opThaw : Nat := 0x0013
def opCancel : Nat := 0x0014
def opSetDeadline : Nat := 0x0015
def opRestore : Nat := 0x0016
def opMigrate : Nat := 0x0017
def opLoad : Nat := 0x0020
def opPull : Nat := 0x0021
def opBroadcast : Nat := 0x0022
def opStage : Nat := 0x0023
def opTrapeze : Nat := 0x0024
def opSwap : Nat := 0x0025
def opEvict : Nat := 0x0026
def opInstallKey : Nat := 0x0027
def opSetRecipe : Nat := 0x0030
def opSetExpert : Nat := 0x0031
def opSetSpec : Nat := 0x0032
def opSetAttn : Nat := 0x0033
def opGraph : Nat := 0x0040
def opCopy : Nat := 0x0041
def opQueryAcct : Nat := 0x0050
def opQueryExperts : Nat := 0x0051
def opReadMap : Nat := 0x0060
def opWriteMap : Nat := 0x0061
def opSelfTest : Nat := 0x0062
def opFlash : Nat := 0x0070
def opFuse : Nat := 0x0071
def opDebug : Nat := 0x0072
def opAttest : Nat := 0x0073

/-- The opcodes that the package recognises (R577). -/
def opcodes : List Nat :=
  [opNop, opFence, opAdmit, opAppend, opFreeze, opThaw, opCancel, opSetDeadline, opRestore, opMigrate, opLoad, opPull,
   opBroadcast, opStage, opTrapeze, opSwap, opEvict, opInstallKey, opSetRecipe, opSetExpert, opSetSpec, opSetAttn,
   opGraph, opCopy, opQueryAcct, opQueryExperts, opReadMap, opWriteMap, opSelfTest, opFlash, opFuse, opDebug, opAttest]

/-- The package-wide opcodes, marked PF in the table of R577: refused on a partition served by a VF (R524). -/
def pfOnly : List Nat := [opInstallKey, opReadMap, opWriteMap, opSelfTest, opFlash, opFuse, opDebug]

/-! ### Flags of a token record (R574) -/

def tokCommitted : BitVec 16 := 1
def tokLate : BitVec 16 := 2
def tokEarlyExit : BitVec 16 := 4
def tokDraftAccepted : BitVec 16 := 8
def tokFinal : BitVec 16 := 16


end Sys2Proof.Machine
end

