-- ==== Sys2Proof/Machine/Regs.lean ====
section
/-! DEFINITION. Reading and writing the values that registers hold, and the counters of access RC. -/

namespace Sys2Proof.Machine

/-- Key of register `n` with flattened index `i`. -/
def regKey (n : RegName) (i : Nat) : Nat := n.ctorIdx * 65536 + i

/-- The table row of a register. -/
def regRow (n : RegName) : RegRow := (regTable.find? (fun r => decide (r.name = n))).getD default

/-- The Reset column of register `n`, index `i` (R19). Bounds of KV_BUCKET k ≤ 10 are 0x400 × 2^k (R362). -/
def regReset (n : RegName) (i : Nat) : Nat :=
  match n with
  | .kvBucket => if i % 16 ≤ 10 then 0x400 * 2 ^ (i % 16) else 0
  | _ => (regRow n).reset

/-- The value register `n`, index `i`, holds. -/
def State.reg (s : State) (n : RegName) (i : Nat := 0) : Nat :=
  (dget s.regs (regKey n i) (BitVec.ofNat 64 (regReset n i))).toNat

/-- Bits of a register. -/
def State.regBits (s : State) (n : RegName) (i lo w : Nat) : Nat := bitsOf (s.reg n i) lo w

/-- Set the value of a register. -/
def State.setReg (s : State) (n : RegName) (i v : Nat) : State :=
  { s with regs := dset s.regs (regKey n i) (BitVec.ofNat 64 v) }

/-- Replace bits `lo` to `lo + w − 1` of a number. -/
def setBits (v lo w x : Nat) : Nat := v % 2 ^ lo + (x % 2 ^ w) * 2 ^ lo + v / 2 ^ (lo + w) * 2 ^ (lo + w)

/-- Set bits of a register. -/
def State.setRegBits (s : State) (n : RegName) (i lo w x : Nat) : State := s.setReg n i (setBits (s.reg n i) lo w x)

/-- The package counts `k` events in an RC counter (R13). What a count past the counter's width shows is not stated;
it is a free value (log entry 4). -/
def State.count (s : State) (n : RegName) (i k : Nat) : State :=
  let v := s.reg n i + k
  s.setReg n i (if v < 2 ^ (8 * (regRow n).bytes) then v else (Config.counterPastEnd v).toNat)

/-- Set a register back to its Reset column. -/
def State.clearReg (s : State) (n : RegName) (i : Nat) : State :=
  { s with regs := derase s.regs (regKey n i) }

/-- Flattened index of ring `n` of partition `p`. -/
def ringIx (p : Part) (n : RingNo) : Nat := p.val * 13 + n.val

/-- One index level of a register array: the index, and what is left of the offset. -/
def peel : List (Nat × Nat) → Nat → Nat → Option (Nat × Nat)
  | [], rel, ix => some (ix, rel)
  | (c, st) :: t, rel, ix => if rel / st < c then peel t (rel % st) (ix * c + rel / st) else none

/-- The flattened index of the register of row `r` that holds byte offset `off`, and the byte within it. -/
def RegRow.locate (r : RegRow) (off : Nat) : Option (Nat × Nat) :=
  if off < r.base then none
  else
    match peel r.strides (off - r.base) 0 with
    | some (ix, rest) => if rest < r.bytes then some (ix, rest) else none
    | none => none

/-- A model slot of R672: 0 to 4, and 16 + v for v from 1 to 63. -/
def isSlot (n : Nat) : Bool := decide (n ≤ 4) || (decide (17 ≤ n) && decide (n ≤ 79))

/-- The array of row `r` holds a register at flattened index `i`: slot registers exist for the slots of R672 (R724). -/
def RegRow.holds (r : RegRow) (i : Nat) : Bool :=
  match r.name with
  | .wgtSlotState | .wgtSlotShard | .wgtSlotBase | .wgtSlotChunks | .wgtSlotUnverified => isSlot (i % 80)
  | .wgtSlotRoot => isSlot (i / 4 % 80)
  | _ => true

/-- The register at BAR0 offset `off`: its row, flattened index, and byte within it (R515: none where none lies). -/
def findReg (off : Nat) : Option (RegRow × Nat × Nat) :=
  regTable.findSome? (fun r => ((r.locate off).filter (fun x => r.holds x.1)).map (fun x => (r, x.1, x.2)))

/-- BAR0 offset of register `n` with the given indices, outermost first. -/
def regOffset (n : RegName) (ixs : List Nat) : Nat :=
  (regRow n).base + ((regRow n).strides.zip ixs).foldl (fun a x => a + x.1.2 * x.2) 0

end Sys2Proof.Machine
end

