-- ==== Sys2Proof/Machine/Ops.lean ====
section
/-! DEFINITION. The operations that every chapter shares: parts of the state by name, when a command has an effect,
interrupts, events, ring entries, the status page and completions. -/

namespace Sys2Proof.Machine

/-- Outcome of a step of this machine. -/
abbrev Out := Host.Outcome State Fault Refusal

/-! ### Parts of the state -/

/-- Partition `p`. -/
def State.part (s : State) (p : Part) : Partition := s.parts.get p

/-- Replace partition `p`. -/
def State.setPart (s : State) (p : Part) (x : Partition) : State := { s with parts := s.parts.set p x }

/-- Change partition `p`. -/
def State.modPart (s : State) (p : Part) (f : Partition → Partition) : State := s.setPart p (f (s.part p))

/-- Logical tile `t`. -/
def State.tile (s : State) (t : Nat) : Tile := dget s.tiles t {}

/-- Replace logical tile `t`. -/
def State.setTile (s : State) (t : Nat) (x : Tile) : State := { s with tiles := dset s.tiles t x }

/-- Change logical tile `t`. -/
def State.modTile (s : State) (t : Nat) (f : Tile → Tile) : State := s.setTile t (f (s.tile t))

/-- Ring `n` of partition `p`. -/
def State.ring (s : State) (p : Part) (n : RingNo) : Ring := (s.part p).rings.get n

/-- Change ring `n` of partition `p`. -/
def State.modRing (s : State) (p : Part) (n : RingNo) (f : Ring → Ring) : State :=
  s.modPart p (fun x => { x with rings := x.rings.set n (f (x.rings.get n)) })

/-- Uagor port `u`. -/
def State.port (s : State) (u : PortNo) : Port := s.fabric.ports.get u

/-- Change Uagor port `u`. -/
def State.modPort (s : State) (u : PortNo) (f : Port → Port) : State :=
  { s with fabric := { s.fabric with ports := s.fabric.ports.set u (f (s.fabric.ports.get u)) } }

/-- All partitions, all ports. -/
def allParts : List Part := List.finRange 16
def allPorts : List PortNo := List.finRange 8

/-! ### When a command has an effect -/

/-- The package answers with state `t`, unless EXTEST, INTEST or CLAMP holds the lands: then its behaviour is undefined
until the next reset of the whole package (R966). -/
def served (s t : State) : Out := if s.boot.landsTaken then .fault .landsTaken else .next t

/-- An operation of the package in service: it has an effect once READY is set, and none before or when the supply is
off (R26, R919, R920). -/
def inService (s : State) (f : State → State) : Out := served s (if s.boot.phase = .ready then f s else s)

/-- An operation of the package in service whose reads of HBM and firn find the DPAs `ue` uncorrectable (R276). -/
def inServiceUe (s : State) (ue : List Nat) (f : State → State) : Out :=
  inService s (fun s => { f { s with found := ue } with found := s.found })

/-- Draw a free value. -/
def State.drawFree (s : State) : W64 × State := (Config.freeValue s.free, { s with free := s.free + 1 })

/-! ### Interrupts (R589 to R595) -/

/-- The VF that serves partition `p`, if its binding is in force (R513, PART_CFG). -/
def State.vfOf (s : State) (p : Part) : Option (Fin 16) :=
  let v := s.reg .partCfg p.val
  if bitOf v 5 then some (Fin.ofNat 16 (bitsOf v 1 4)) else none

/-- The partition bound to VF `n`: the one that is not OFF, of which there is at most one (R602), else the lowest. -/
def State.partOf (s : State) (n : Fin 16) : Option Part :=
  match allParts.find? (fun p => decide (s.vfOf p = some n) && decide ((s.part p).fn.st ≠ .off)) with
  | some p => some p
  | none => allParts.find? (fun p => decide (s.vfOf p = some n))

/-- Index of a function's configuration space: 0 PF, 1 + n VF n. -/
def funcIx : Func → Fin 17
  | .pf => 0
  | .vf n => ⟨n.val + 1, by omega⟩

/-- Key of vector `v` of a function in the MSI-X tables. -/
def msixKey : Func → Nat → Nat
  | .pf, v => v
  | .vf n, v => 256 + 16 * n.val + v

/-- The function and vector by which partition `p` signals vector `v` (R590). -/
def State.vectorOf (s : State) (p : Part) (v : Nat) : Func × Nat :=
  match s.vfOf p with
  | some n => (.vf n, v)
  | none => (.pf, 16 * p.val + v)

/-- Signal vector `v` of function `f`: a message, or the pending bit where the vector or the function is masked
(R595). -/
def State.signal (s : State) (f : Func) (v : Nat) : State :=
  let c := s.host.space.get (funcIx f)
  let e := dget s.host.msix (msixKey f v) {}
  if !c.msixEnable then s
  else if e.masked || c.funcMask then
    { s with host := { s.host with msix := dset s.host.msix (msixKey f v) { e with pending := true } } }
  else { s with host := { s.host with msgs := (e.addr, e.data) :: s.host.msgs } }

/-- Signal vector `v` of partition `p` (R589, R590). -/
def State.signalPart (s : State) (p : Part) (v : Nat) : State :=
  let x := s.vectorOf p v
  s.signal x.1 x.2

/-- MSI-X Enable of the function that serves partition `p`. -/
def State.msixOn (s : State) (p : Part) : Bool := (s.host.space.get (funcIx (s.vectorOf p 0).1)).msixEnable

/-- The vector of a ring: CPL0 to CPL3 0 to 3, TOK 4 and 5, EVT 6, JNL 7, WIT 8 (R589). -/
def ringVector (n : RingNo) : Nat := n.val - 4

/-- Test the conditions of R592 and send the ring's message when they hold. -/
def State.moderate (s : State) (p : Part) (n : RingNo) : State :=
  let r := s.ring p n
  let mc := s.regBits .ringCfg (ringIx p n) 8 8
  let mt := s.regBits .ringCfg (ringIx p n) 16 10
  if 4 ≤ n.val && mc ≠ 0 && 1 ≤ r.pending && (mc ≤ r.pending || (mt ≠ 0 && mt * 1000 ≤ s.now - r.oldest)) &&
      s.msixOn p then
    (s.modRing p n (fun r => { r with pending := 0 })).signalPart p (ringVector n)
  else s

/-- `k` entries of a ring become pending (R591). -/
def State.addPending (s : State) (p : Part) (n : RingNo) (k : Nat) : State :=
  if k = 0 then s
  else
    (s.modRing p n (fun r => { r with pending := r.pending + k, oldest := if r.pending = 0 then s.now else r.oldest })).moderate p n

/-! ### Rings and the status page (R531 to R556) -/

/-- Entry size of a ring (R531). -/
def entryBytes (n : RingNo) : Nat :=
  if n.val < 4 then 64 else if n.val < 8 then 32 else if n.val < 11 then 16 else 32

/-- Entries of a ring (R532). -/
def State.ringEntries (s : State) (p : Part) (n : RingNo) : Nat := 2 ^ s.regBits .ringCfg (ringIx p n) 0 5

/-- Host address of slot `i mod entries` of a ring (R533). -/
def State.slotAddr (s : State) (p : Part) (n : RingNo) (i : Nat) : Nat :=
  s.reg .ringBase (ringIx p n) + i % s.ringEntries p n * entryBytes n

/-- Write host memory. -/
def State.hostWrite (s : State) (a : Nat) (bs : List Byte) : State :=
  { s with host := { s.host with mem := s.host.mem.writeBytes a bs } }

/-- Fabric time as a number. -/
def State.time (s : State) : Nat := s.fabric.time.toNat

/-- Write an index into the status page, with UPDATED (R553, R555). -/
def State.statusWrite (s : State) (p : Part) (off v : Nat) : State :=
  let a := s.reg .ringStatusAddr p.val
  (s.hostWrite (a + off) (leBytes 8 v)).hostWrite (a + 0x088) (leBytes 8 s.time)

/-- Offset of a ring's producer index in the status page (R553). -/
def statusOff (n : RingNo) : Nat :=
  if n.val < 8 then 0x040 + 8 * (n.val - 4) else if n.val < 10 then 0x060 + 8 * (n.val - 8)
  else 0x070 + 8 * (n.val - 10)

/-- A ring can be posted to: ON or QUIESCING. -/
def Ring.live (r : Ring) : Bool := r.fn.st = .on || r.fn.st = .quiescing

/-- The ring has a free entry. -/
def State.ringRoom (s : State) (p : Part) (n : RingNo) : Bool :=
  decide ((s.ring p n).pi - (s.ring p n).ci < s.ringEntries p n)

/-- Write an entry at the producer index of a ring and advance the index; the status page follows (R534). -/
def State.writeEntry (s : State) (p : Part) (n : RingNo) (bs : List Byte) : State :=
  (s.hostWrite (s.slotAddr p n (s.ring p n).pi) bs).modRing p n (fun r => { r with pi := r.pi + 1 })

/-- Publish a ring's producer index, then count `k` of its entries as pending (R555, R591, R593). -/
def State.publish (s : State) (p : Part) (n : RingNo) (k : Nat) : State :=
  (s.statusWrite p (statusOff n) (s.ring p n).pi).addPending p n k

/-- Post one entry of a host-consumed ring. -/
def State.post (s : State) (p : Part) (n : RingNo) (bs : List Byte) : State := (s.writeEntry p n bs).publish p n 1

/-- PHASE of the entry at index `i` of a ring of `n` entries (R535). -/
def phaseAt (i n : Nat) : Nat := (i / n + 1) % 2

/-! ### Events (R549, R575, R576, R588) -/

/-- The bytes of an event record (R575). -/
def eventBytes (code : W16) (package : Bool) (arg subject time : Nat) : List Byte :=
  leBytes 2 code.toNat ++ [if package then 1 else 0, BitVec.ofNat 8 arg] ++ leBytes 4 subject ++ leBytes 8 time

/-- The EVT ring. -/
def evtRing : RingNo := 10

/-- Partition `p`'s EVT ring takes an event: it is ON and not full (R549). -/
def State.evtTakes (s : State) (p : Part) : Bool := (s.ring p evtRing).fn.st = .on && s.ringRoom p evtRing

/-- Raise a partition event (R549, R576). -/
def State.raiseEvent (s : State) (p : Part) (code : W16) (subject : Nat) (arg : Nat := 0) : State :=
  if s.evtTakes p then s.post p evtRing (eventBytes code false (min arg 255) subject s.time)
  else s.count .ringEvtDropped p.val 1

/-- Hand a package-wide event to the EVT ring of one partition. -/
def State.packageEventTo (s : State) (p : Part) (bs : List Byte) : State :=
  if s.evtTakes p then s.post p evtRing bs else s.count .evtGlobalDropped 0 1

/-- Raise a package-wide event (R549, R576): to the partition EVT_GLOBAL names, or with ALL to every partition whose
EVT ring is ON. -/
def State.raisePackage (s : State) (code : W16) (subject : Nat) (arg : Nat := 0) : State :=
  let g := s.reg .evtGlobal
  let bs := eventBytes code true (min arg 255) subject s.time
  if bitOf g 4 then
    match allParts.filter (fun p => decide ((s.ring p evtRing).fn.st = .on)) with
    | [] => s.count .evtGlobalDropped 0 1
    | ps => ps.foldl (fun s p => s.packageEventTo p bs) s
  else s.packageEventTo (Fin.ofNat 16 (bitsOf g 0 4)) bs

/-! ### Commands and their completions (R559 to R573) -/

/-- CMD ring `r` and its CPL ring by ring number (R531). -/
def cmdRing (r : CmdRing) : RingNo := ⟨r.val, by omega⟩
def cplRing (r : CmdRing) : RingNo := ⟨r.val + 4, by omega⟩

/-- A field of `n` bytes of a command's payload, by its descriptor offset (R561, R564). -/
def Cmd.field (c : Cmd) (off n : Nat) : Nat := fieldAt c.payload (off - 0x10) n

/-- Bytes of a command's payload, by descriptor offset. -/
def Cmd.bytes (c : Cmd) (off n : Nat) : List Byte := sliceAt c.payload (off - 0x10) n

/-- The command of partition `p` with the given take order. -/
def State.cmd? (s : State) (p : Part) (order : Nat) : Option Cmd := (s.part p).cmds.find? (fun c => decide (c.order = order))

/-- Change the command with a take order. -/
def State.modCmd (s : State) (p : Part) (order : Nat) (f : Cmd → Cmd) : State :=
  s.modPart p (fun x => { x with cmds := x.cmds.map (fun c => if c.order = order then f c else c) })

/-- Index of CMD ring `r` below which every command has been accepted or has completed (R553, R733). -/
def State.acceptedIndex (s : State) (p : Part) (r : CmdRing) : Nat :=
  ((s.part p).cmds.filter (fun c => decide (c.ring = r) && !c.accepted)).foldl (fun m c => min m c.index)
    (s.ring p (cmdRing r)).ci

/-- Bring CMD_ACCEPTED of ring `r` up to date in the ring and the status page (R553, R556, R733). -/
def State.refreshAccepted (s : State) (p : Part) (r : CmdRing) : State :=
  let a := s.acceptedIndex p r
  if (s.ring p (cmdRing r)).accepted < a then
    (s.modRing p (cmdRing r) (fun x => { x with accepted := a })).statusWrite p (0x020 + 8 * r.val) a
  else s

/-- The bytes of a completion record (R572). -/
def completionBytes (seq : W64) (status : W16) (ring phase info time result : Nat) : List Byte :=
  leBytes 8 seq.toNat ++ leBytes 2 status.toNat ++ [BitVec.ofNat 8 ring, BitVec.ofNat 8 phase] ++ leBytes 4 info ++
    leBytes 8 time ++ leBytes 8 result

/-- Post a completion on the CPL ring paired with CMD ring `r`, where that ring is ON or QUIESCING (R571). -/
def State.postCompletion (s : State) (p : Part) (r : CmdRing) (irq : Bool) (seq : W64) (status : W16)
    (info result : Nat) : State :=
  let n := cplRing r
  if (s.ring p n).live then
    let i := (s.ring p n).pi
    (s.writeEntry p n (completionBytes seq status r.val (phaseAt i (s.ringEntries p n)) info s.time result)).publish p n
      (if irq then 1 else 0)
  else s

/-- A command that is a FENCE starts as soon as it can, and then waits for the commands of its selected rings that
were taken before it and have not completed (R579, R580). -/
def startFence (cmds : List Cmd) (c : Cmd) : Cmd :=
  if c.opcode.toNat = opFence && c.stage = .held &&
      cmds.all (fun x => !(decide (x.ring = c.ring) && decide (x.order < c.order)) ||
        ((x.stage = .started || x.stage = .journalled || x.stage = .running) && x.opcode.toNat ≠ opFence && !c.fenceBefore)) then
    let m := if c.field 0x10 1 % 16 = 0 then 15 else c.field 0x10 1 % 16
    { c with stage := .started,
             waited := some ((cmds.filter (fun x => decide (x.order < c.order) && bitOf m x.ring.val)).map Cmd.order) }
  else c

/-- Start every FENCE that can start. -/
def Partition.startFences (x : Partition) : Partition := { x with cmds := x.cmds.map (startFence x.cmds) }

/-- Complete a command: it leaves the partition, and its completion is posted (R571). -/
def State.finish (s : State) (p : Part) (c : Cmd) (status : W16) (info result : Nat := 0) : State :=
  let s := s.modPart p (fun x => { x with
    cmds := x.cmds.filter (fun y => decide (y.order ≠ c.order)),
    cmdTokens := derase x.cmdTokens c.order, cmdRanges := derase x.cmdRanges c.order, cmdPages := derase x.cmdPages c.order,
    cmdFreeze := derase x.cmdFreeze c.order, cmdRestore := derase x.cmdRestore c.order })
  let s := s.postCompletion p c.ring c.irq c.seq status info result
  (s.refreshAccepted p c.ring).modPart p Partition.startFences

/-- Complete the command with a take order, if it has not completed. -/
def State.finishOrder (s : State) (p : Part) (order : Nat) (status : W16) (info result : Nat := 0) : State :=
  match s.cmd? p order with
  | some c => s.finish p c status info result
  | none => s

/-- Completion of a command with REJECT_MALFORMED: INFO holds the descriptor offset of the field at fault (R573). -/
def State.malformed (s : State) (p : Part) (c : Cmd) (off : Nat) : State := s.finish p c stMalformed off 0

/-- The objects a command names (R568), as kind, first and count: requests (0), model slots (1), layer tags (2) and expert
layers (3). The commands that name tables and DPA ranges act on them as they start. -/
def Cmd.objects (c : Cmd) : List (Nat × Nat × Nat) :=
  let f (o n : Nat) : Nat := c.field o n
  let model (v : Nat) : Nat × Nat × Nat := (1, if v = 0 then 0 else 16 + v, 1)
  let op := c.opcode.toNat
  if op = opAdmit then [(0, f 0x10 4, 1), model (f 0x34 2)]
  else if op = opAppend || op = opCancel || op = opSetDeadline || op = opFreeze || op = opThaw then [(0, f 0x10 4, 1)]
  else if op = opRestore then [(0, f 0x10 4, 1), model (f 0x36 2)]
  else if op = opMigrate then [(0, f 0x18 4, 1)]
  else if op = opLoad || op = opPull || op = opBroadcast || op = opEvict then [(1, f 0x10 1, 1)]
  else if op = opStage || op = opTrapeze then [(1, 2 * f 0x10 1, 2)]
  else if op = opSwap then [(1, 0, 1), (1, 16 + f 0x10 1, 1)]
  else if op = opSetAttn then (if bitOf (f 0x19 1) 0 then [(0, f 0x14 4, 1)] else [])
  else if op = opSetSpec then (if bitOf (f 0x14 1) 0 then [(0, f 0x10 4, 1)] else [])
  else if op = opSetRecipe then [(2, f 0x10 2, f 0x12 2)]
  else if op = opSetExpert || op = opQueryExperts then [(3, f 0x10 2, f 0x12 2)]
  else []

/-- A started command's effect on the objects it names is still to come. A command that begins a turn has had it once it is
accepted; a thaw has it once its pages are rebuilt (R357). -/
def Cmd.effectDue (c : Cmd) : Bool :=
  let op := c.opcode.toNat
  !(c.accepted && (op = opAdmit || op = opAppend || op = opRestore || op = opMigrate))

/-- Two commands name one object. -/
def sharesObject (a b : Cmd) : Bool :=
  a.objects.any (fun x => b.objects.any (fun y => decide (x.1 = y.1) && decide (x.2.1 < y.2.1 + y.2.2) && decide (y.2.1 < x.2.1 + x.2.2)))

/-- A command may start now: the commands before it on its ring have started, no FENCE of its ring is before it, with
FENCE_BEFORE every command before it on its ring has completed, and it waits for the effect of a command before it on an
object that both name (R568, R570, R581). -/
def mayStart (cmds : List Cmd) (c : Cmd) : Bool :=
  cmds.all (fun x => !(decide (x.ring = c.ring) && decide (x.order < c.order)) ||
    (!(x.stage = .held) && !(x.stage = .payload) && !(x.stage = .fetching) && !(x.opcode.toNat = opFence) && !c.fenceBefore &&
      !(x.effectDue && sharesObject x c)))

/-- The command of opcode `op` that is next to start on CMD ring `r`, if one may start now. -/
def Partition.nextCmd (x : Partition) (r : CmdRing) (op : Nat) : Option Cmd :=
  match x.cmds.find? (fun c => decide (c.ring = r) && decide (c.stage = .held)) with
  | some c => if c.opcode.toNat = op && mayStart x.cmds c then some c else none
  | none => none

/-- Run a command of the opcode table: the next command of ring `r` starts, if it has this opcode. -/
def runCmd (s : State) (p : Part) (r : CmdRing) (op : Nat) (f : State → Cmd → State) : State :=
  match (s.part p).nextCmd r op with
  | some c =>
    (f (s.modCmd p c.order (fun c => { c with stage := .started })) { c with stage := .started }).modPart p
      Partition.startFences
  | none => s

/-- A command is accepted without a journal record, and goes on (R733). -/
def State.setStage (s : State) (p : Part) (order : Nat) (st : CmdStage) : State :=
  s.modCmd p order (fun c => { c with stage := st })

end Sys2Proof.Machine
end

