-- ==== Sys2Proof/Machine/Memory.lean ====
section
/-! DEFINITION. The device physical address map, partition extents, where a byte lies in HBM, withdrawn granules and
the record of uncorrectable reads (chapter 05). `State.mem` is addressed by place: channel c of stack h holds its
addressable bytes from (32 h + c) × 1,984 MiB on, firn channel F its bytes from 2^40 + 2^36 F on, and the tile windows lie at
their DPA. -/

namespace Sys2Proof.Machine

/-! ### The map (R235, R236) -/

def hbmEnd : Nat := 0xBA00000000
def sliceBytes : Nat := 0x3E0000000
def firnBase : Nat := 0x10000000000
def firnEnd : Nat := 0x20000000000
def windowBase : Nat := 0x400000000000
def windowBytes : Nat := 0x4000000
def internalBase : Nat := 0x7F0000000000
/-- Scratchpad bytes of a tile (R90). -/
def padBytes : Nat := 0x400000
/-- Addressable bytes of an HBM channel (R238), and its pages. -/
def chanBytes : Nat := 0x7C000000
def chanPages : Nat := 31744

/-- DPA of the window of logical tile `t` (R236). -/
def windowOf (t : Nat) : Nat := windowBase + t * windowBytes

/-- Numbers of the bits set in a mask of `n` bits. -/
def bitsSet (n v : Nat) : List Nat := (List.range n).filter (bitOf v)

/-! ### Extents (R241, R245, R272) -/

/-- Groups of partition `p` by MEM_HBM_MAP, in ascending number. -/
def State.groups (s : State) (p : Part) : List Nat := bitsSet 48 (s.reg .memHbmMap p.val)

/-- VALID of MEM_HBM_MAP. -/
def State.hbmValid (s : State) (p : Part) : Bool := bitOf (s.reg .memHbmMap p.val) 63

/-- First DPA of the HBM extent. -/
def State.hbmBase (s : State) (p : Part) : Nat := s.regBits .memHbmMap p.val 48 6 * sliceBytes

/-- Bytes of the HBM extent. -/
def State.hbmBytes (s : State) (p : Part) : Nat := (s.groups p).length * sliceBytes

/-- First DPA of the host region: the top HOST_MIB MiB of the extent (R245). -/
def State.hostRegion (s : State) (p : Part) : Nat :=
  s.hbmBase p + s.hbmBytes p - s.regBits .memHostRegion p.val 0 16 * 1048576

/-- The range lies in the partition's HBM extent. -/
def State.inHbm (s : State) (p : Part) (a n : Nat) : Bool :=
  s.hbmValid p && decide (s.hbmBase p ≤ a) && decide (a + n ≤ s.hbmBase p + s.hbmBytes p)

/-- The range lies in the partition's host region. -/
def State.inHostRegion (s : State) (p : Part) (a n : Nat) : Bool := s.inHbm p a n && decide (s.hostRegion p ≤ a)

def State.firnValid (s : State) (p : Part) : Bool := bitOf (s.reg .memFirnMap p.val) 31
def State.firnFirst (s : State) (p : Part) : Nat := firnBase + s.regBits .memFirnMap p.val 0 14 * windowBytes
def State.firnBytes (s : State) (p : Part) : Nat := s.regBits .memFirnMap p.val 16 15 * windowBytes

/-- The range lies in the partition's firn extent. -/
def State.inFirnExtent (s : State) (p : Part) (a n : Nat) : Bool :=
  s.firnValid p && decide (s.firnFirst p ≤ a) && decide (a + n ≤ s.firnFirst p + s.firnBytes p)

/-- Bytes of the mapped firn tier (R271). -/
def State.firnMapped (s : State) : Nat :=
  if s.repair.firnDensity = 0 then 0 else s.repair.firnChannels * 2 ^ (32 + s.repair.firnDensity)

/-- The partition whose HBM or firn extent holds `a`. -/
def State.extentOf (s : State) (a : Nat) : Option Part := allParts.find? (fun p => s.inHbm p a 1 || s.inFirnExtent p a 1)

/-! ### Where a byte lies (R239, R242) -/

/-- The channels of a list of groups, as 32 × stack + channel: group g holds 8 g to 8 g + 7 (R239). -/
def chanAt (groups : List Nat) (k : Nat) : Nat := 8 * groups.getD (k / 8) 0 + k % 8

/-- The rotation of granule row `r` over `m` channels (R242). -/
def rotation (m r : Nat) : Nat := (r ^^^ (r / 2 ^ 5) ^^^ (r / 2 ^ 10) ^^^ (r / 2 ^ 15)) % m

/-- List position of the channel and channel offset of extent offset `o` over `m` channels (R242). -/
def locate (m o : Nat) : Nat × Nat :=
  let g := o / 4096
  ((g % m + rotation m (g / m)) % m, g / m * 4096 + o % 4096)

/-- Extent offset of the granule that list position `k` holds in granule row `r`: the inverse of `locate`. -/
def granuleOffset (m k r : Nat) : Nat := (r * m + (k + m - rotation m r) % m) * 4096

/-- Number of the firn channel at list position `k`, of 8 populated channels or 16 (R268). -/
def firnChanAt (m k : Nat) : Nat := if m = 8 && 4 ≤ k then k + 4 else k

/-- Place of a DPA of the mapped firn tier (R271). -/
def State.firnAt (s : State) (a : Nat) : Nat :=
  let x := locate s.repair.firnChannels (a - firnBase)
  firnBase + firnChanAt s.repair.firnChannels x.1 * 2 ^ 36 + x.2

/-- Place of a DPA in `State.mem`, `none` where nothing is mapped (R235, R244, R92). -/
def State.place (s : State) (a : Nat) : Option Nat :=
  if a < hbmEnd then
    match allParts.find? (fun p => s.inHbm p a 1) with
    | some p =>
      let x := locate (8 * (s.groups p).length) (a - s.hbmBase p)
      some (chanAt (s.groups p) x.1 * chanBytes + x.2)
    | none => none
  else if firnBase ≤ a && a < firnBase + s.firnMapped then some (s.firnAt a)
  else if windowBase ≤ a && a < windowOf 544 && (a - windowBase) % windowBytes < padBytes then some a
  else none

/-- The DPA of an HBM place, where a partition's map covers it. -/
def State.dpaOfPlace (s : State) (x : Nat) : Option Nat :=
  let c := x / chanBytes
  (allParts.find? (fun p => s.hbmValid p && (s.groups p).contains (c / 8))).map (fun p =>
    s.hbmBase p + granuleOffset (8 * (s.groups p).length) (8 * (s.groups p).idxOf (c / 8) + c % 8) (x % chanBytes / 4096) +
      x % 4096)

/-- Every byte of the range is mapped. -/
def State.mapped (s : State) (a n : Nat) : Bool := (List.range n).all (fun i => (s.place (a + i)).isSome)

/-! ### Withdrawn granules (R264 to R266) -/

/-- A place of HBM is withdrawn: its page, channel or stack is. -/
def Repair.withdrawnAt (r : Repair) (x : Nat) : Bool :=
  let c := x / chanBytes
  r.lostStacks.contains (c / 32) || r.lostChans.contains (c / 32, c % 32) ||
    r.withdrawnPages.contains (c / 32, c % 32, x % chanBytes / 65536)

/-- A DPA lies in a withdrawn granule. -/
def State.withdrawnDpa (s : State) (a : Nat) : Bool :=
  match s.place a with
  | some x =>
    if a < hbmEnd then s.repair.withdrawnAt x else decide (a < firnEnd) && s.repair.withdrawnFirn.contains ((a - firnBase) / 4096)
  | none => false

/-- The first DPA in each 4 KiB granule that a range touches. -/
def granulesOf (a n : Nat) : List Nat :=
  (List.range ((a % 4096 + n + 4095) / 4096)).map (fun i => max a ((a / 4096 + i) * 4096))

/-- The page copy that holds the requests to a place of HBM (R253). -/
def PageCopy.covers (c : PageCopy) (x : Nat) : Bool := decide (((32 * c.stack + c.chan) * chanBytes + 65536 * c.page) / 65536 = x / 65536)

/-- Requests to a DPA are held: its page is being copied (R253, R848), or its channel or firn granule is under test (R845). -/
def State.heldDpa (s : State) (a : Nat) : Bool :=
  match s.place a with
  | some x =>
    if a < hbmEnd then s.repair.copies.any (·.covers x) || s.repair.tests.contains (.chan (x / chanBytes / 32) (x / chanBytes % 32))
    else decide (a < firnEnd) && s.repair.tests.contains (.granule ((a - firnBase) / 4096))
  | none => false

/-- Some request to the range is held. -/
def State.heldAt (s : State) (a n : Nat) : Bool :=
  !(s.repair.copies.isEmpty && s.repair.tests.isEmpty) && n ≠ 0 && (granulesOf a n).any s.heldDpa

/-- The first withdrawn byte of a range. -/
def State.withdrawnIn (s : State) (a n : Nat) : Option Nat := ((List.range n).map (a + ·)).find? s.withdrawnDpa

/-- Withdrawn granules in the partition's extents (MEM_WITHDRAWN). -/
def State.withdrawnGranules (s : State) (p : Part) : Nat :=
  let r := s.repair
  let hbm := if s.hbmValid p then
      let chans := (s.groups p).flatMap (fun g => (List.range 8).map (fun i => 8 * g + i))
      let lost := chans.filter (fun c => r.lostStacks.contains (c / 32) || r.lostChans.contains (c / 32, c % 32))
      lost.length * (16 * chanPages) + 16 * (r.withdrawnPages.filter (fun x =>
        chans.contains (32 * x.1 + x.2.1) && !lost.contains (32 * x.1 + x.2.1))).length
    else 0
  let firn := if s.firnValid p then
      (r.withdrawnFirn.filter (fun g => s.inFirnExtent p (firnBase + 4096 * g) 1)).length
    else 0
  hbm + firn

/-! ### Access -/

/-- The byte at a DPA; an unmapped one has none. -/
def State.byteAt (s : State) (a : Nat) : Option Byte := (s.place a).map s.mem.read

/-- `n` bytes from DPA `a`, 0 where nothing is mapped: for reads whose range is known to be mapped. -/
def State.readDpa (s : State) (a n : Nat) : List Byte := (List.range n).map (fun i => (s.byteAt (a + i)).getD 0)

/-- Write one byte at a place. -/
def State.writePlace (s : State) (x : Nat) (b : Byte) : State := { s with mem := s.mem.write x b }

/-- A held write of a byte goes to the slot its page is being copied into (R253). -/
def Repair.noteWrite (r : Repair) (x : Nat) : Repair :=
  { r with copies := r.copies.map (fun c => if c.covers x then { c with written := x % 65536 :: c.written } else c) }

/-- The bytes of a range that pages under copy hold are written to their slots. -/
def State.noteWrites (s : State) (a n : Nat) : State :=
  if s.repair.copies.isEmpty then s
  else (List.range n).foldl (fun (s : State) i =>
    match s.place (a + i) with
    | some x => if a + i < hbmEnd then { s with repair := s.repair.noteWrite x } else s
    | none => s) s

/-- Write bytes from DPA `a` on: a write to a withdrawn granule is discarded and counted, once a granule (R265). -/
def State.writeDpa (s : State) (a : Nat) (bs : List Byte) : State :=
  let s := (bs.zipIdx).foldl (fun s x =>
    match s.place (a + x.2) with
    | some y => if s.withdrawnDpa (a + x.2) then s else s.writePlace y x.1
    | none => s) (s.noteWrites a bs.length)
  (granulesOf a bs.length).foldl (fun s d =>
    if bs ≠ [] && s.withdrawnDpa d then
      match s.extentOf d with
      | some p => s.count .memUeCount p.val 1
      | none => s
    else s) s

/-- Leave a range of places undefined, under a new generation. -/
def State.openPlaces (s : State) (lo len : Nat) : State :=
  { s with mem := s.mem.leaveOpen lo len s.free, free := s.free + 1 }

/-- Leave a range of DPAs undefined, granule by granule where HBM and the firn tier scatter them. -/
def State.openDpa (s : State) (a n : Nat) : State :=
  if windowBase ≤ a then s.openPlaces a n
  else
    -- one range of places for each granule of the range
    let t := (granulesOf a n).foldl (fun (s : State) d =>
      match s.place d with
      | some x => { s with mem := s.mem.leaveOpen x (min (a + n - d) (4096 - d % 4096)) s.free }
      | none => s) s
    { t with free := s.free + 1 }

/-- A tile's scratchpad contents become undefined (R842, R932). -/
def State.openPad (s : State) (t : Nat) : State := s.openPlaces (windowOf t) padBytes

/-! ### Uncorrectable reads (R276) -/

/-- Record an uncorrectable read of a DPA, or a read of a withdrawn granule, in MEM_UE_LOG, MEM_UE_TOTAL and
MEM_UE_COUNT. -/
def State.recordUe (s : State) (a : Nat) : State :=
  let p := s.extentOf a
  let rec_ := (a, decide (firnBase ≤ a), p)
  let s := if s.repair.ueLog.isSome then s
    else { s with repair := { s.repair with ueLog := some rec_, ueLast := rec_ } }
  let s := s.count .memUeTotal 0 1
  match p with
  | some p => s.count .memUeCount p.val 1
  | none => s

/-- The byte at DPA `a` lies in a sector of HBM or firn that the command under way finds uncorrectable (R276). -/
def State.foundAt (s : State) (a : Nat) : Bool :=
  s.found.any (fun d => decide (d / 64 = a / 64)) && (s.place a).isSome && decide (a < windowBase)

/-- The first byte of a range that cannot be read: it is withdrawn (R264, R265), or found uncorrectable (R276). -/
def State.unreadableIn (s : State) (a n : Nat) : Option Nat :=
  ((List.range n).map (a + ·)).find? (fun d => s.withdrawnDpa d || s.foundAt d)

/-- The first bad byte of a read: the first withdrawn one, or the one found uncorrectable, whichever comes first. -/
def State.badByte (s : State) (a n : Nat) (ue : Option Nat) : Option Nat :=
  let inRange := ue.filter (fun d => decide (a ≤ d) && decide (d < a + n) && (s.place d).isSome && decide (d < windowBase))
  match s.withdrawnIn a n, inRange with
  | some x, some y => some (min x y)
  | some x, none => some x
  | none, y => y

end Sys2Proof.Machine
end

