-- ==== Sys2Proof/Machine/Reset.lean ====
section
/-! DEFINITION. What a loss of supply and a stop leave: fuses, flash and what lies outside the package (R26, R782,
R925). -/

namespace Sys2Proof.Machine

/-- What survives the loss of everything volatile: fuses and the two flash slots (R30 note, R873, R877). -/
def Security.persistent (x : Security) : Security :=
  { uds := x.uds, vendorDigest := x.vendorDigest, devidDigest := x.devidDigest, fuses := x.fuses, slotA := x.slotA,
    slotB := x.slotB, presLevel := x.presLevel }

/-- The host's side of the link after the package falls silent: its memory and the messages it received stay. -/
def HostSide.persistent (h : HostSide) : HostSide := { mem := h.mem, msgs := h.msgs, aer := h.aer }

/-- Every function ceases (R782): nothing is kept but fuses, flash and what lies outside the package. A fuse record
whose commit word is not burned stays as it is (R790), and so does a slot whose first page is not programmed (R789).
`trip`: THERMTRIP_N is asserted (R830). -/
def State.powerDown (s : State) (trip : Bool) : State :=
  { pending := s.pending, boot := { faultN := true, thermtripN := trip }, host := s.host.persistent,
    sec := s.sec.persistent, now := s.now, free := s.free }

end Sys2Proof.Machine
end

