-- ==== Sys2Proof/Machine/Power.lean ====
section
/-! DEFINITION. Supply, estimate, caps and leases, safe step, ramp limits and thermal limits (chapter 13), and the two
management ports (R811, R912, R961). -/

namespace Sys2Proof.Machine

/-! ### Ratios -/

/-- `r ≤ n` watts. -/
def Ratio.le (r : Ratio) (n : Nat) : Bool := decide (r.num ≤ n * r.den)

/-- `a ≤ b`. -/
def Ratio.leR (a b : Ratio) : Bool := decide (a.num * b.den ≤ b.num * a.den)

/-- Sum. -/
def Ratio.add (a b : Ratio) : Ratio :=
  if a.den = b.den then ⟨a.num + b.num, a.den⟩ else ⟨a.num * b.den + b.num * a.den, a.den * b.den⟩

/-- Difference, 0 where it would be negative. -/
def Ratio.sub (a b : Ratio) : Ratio := ⟨a.num * b.den - b.num * a.den, a.den * b.den⟩

/-- Whole part. -/
def Ratio.floor (r : Ratio) : Nat := r.num / r.den

/-! ### Power state -/

/-- Change the power state. -/
def State.modPower (s : State) (f : Power → Power) : State := { s with power := f s.power }

/-- Good converters (R779, R780). -/
def Power.goodCount (p : Power) : Nat := ((List.range 9).filter (fun i => p.goodConv.getLsbD i)).length

/-- PWR_STATUS.CONV_LIMIT: seven good converters are left (R780). -/
def Power.convLimit (p : Power) : Bool := p.goodCount ≤ 7

/-- Fallback cap and ramp rates (PWR_FALLBACK). -/
def State.fallbackCap (s : State) : Nat := s.regBits .pwrFallback 0 0 12
def State.fallbackUp (s : State) : Nat := s.regBits .pwrFallback 0 12 10
def State.fallbackDown (s : State) : Nat := s.regBits .pwrFallback 0 22 10

/-- The lowest cap among the unexpired leases with its source, or the fallback cap (R807). Of two equal caps lease A
is named (DESIGN CHOICE, log entry 6). -/
def State.baseCap (s : State) : Nat × CapSource :=
  let a := s.power.leaseA
  let b := s.power.leaseB
  if a.held && (!b.held || a.cap ≤ b.cap) then (a.cap, .leaseA)
  else if b.held then (b.cap, .leaseB)
  else (s.fallbackCap, .fallback)

/-- The effective cap (R807). -/
def State.effectiveCap (s : State) : Nat := min s.baseCap.1 (if s.power.convLimit then 2100 else 2400)

/-- Code of a cap source in PWR_STATUS.SOURCE and in CAP_CHANGED (R808, R836). -/
def sourceCode : CapSource → Nat
  | .leaseA => 0
  | .leaseB => 1
  | .fallback => 2

/-! ### Tiles as the power policy sees them -/

/-- The site of a logical tile at index 24 y + x. -/
def State.siteOf (s : State) (t : Nat) : Option Nat := (s.repair.sites.find? (fun e => decide (e.2.tile = some t))).map Prod.fst

/-- Voltage band of a site (R25): three rows of sites each. -/
def bandOfSite (i : Nat) : Nat := i / 24 / 3

/-- Voltage band of a logical tile. -/
def State.bandOfTile (s : State) (t : Nat) : Nat := bandOfSite ((s.siteOf t).getD 0)

/-- Logical tiles on sites. -/
def State.mappedTiles (s : State) : List Nat := s.repair.sites.filterMap (fun e => e.2.tile)

/-- Logical tiles of a band. -/
def State.bandTiles (s : State) (b : Nat) : List Nat :=
  (s.repair.sites.filter (fun e => decide (bandOfSite e.1 = b))).filterMap (fun e => e.2.tile)

/-- The tile runs an LC task. -/
def Tile.runsLc (t : Tile) : Bool := match t.run with | some r => decide (r.task.desc.cls = 0) | none => false

/-- Change a list of tiles. -/
def State.modTiles (s : State) (ts : List Nat) (f : Tile → Tile) : State := ts.foldl (fun s t => s.modTile t f) s

/-- Every tile at one ceiling and issue ratio. -/
def State.setAllTiles (s : State) (ceiling issue : Nat) : State :=
  s.modTiles s.mappedTiles (fun t => { t with ceiling := ceiling, issueLog2 := issue })

/-- Table voltage of a ceiling step in a band (R798); a band with no table entry needs the highest voltage. -/
def Power.tableVolt (p : Power) (b step : Nat) : Nat := ((p.vf.getD b []).getD step 60)

/-- Highest ceiling among a band's tiles (PWR_BAND.FMAX). -/
def State.bandMax (s : State) (b : Nat) : Nat := (s.bandTiles b).foldl (fun m t => max m (s.tile t).ceiling) 0

/-- Change band `b`. -/
def Power.modBand (p : Power) (b : Nat) (f : Band → Band) : Power :=
  if h : b < 8 then { p with bands := p.bands.set b (f (p.bands[b])) } else p

def Power.band (p : Power) (b : Nat) : Band := p.bands.toList.getD b {}

/-- The floor setting of R796: every tile at 0.85 GHz and issue ratio 1/16, every band at its lowest table voltage. -/
def State.applyFloorSetting (s : State) : State :=
  (s.setAllTiles 0 4).modPower (fun p => (List.range 8).foldl (fun p b => p.modBand b (fun x => { x with target := p.tableVolt b 0 })) p)

/-- Setting of the safe step of a cap (R813): ceiling step and log2 of the issue divisor; the floor setting where
firmware has not computed one yet. -/
def Power.safeSetting (p : Power) (cap : Nat) : Nat × Nat := p.safeTable.getD (cap - 800) (0, 4)

/-- Apply the safe step of a cap to every tile (R814, R816). -/
def State.applySafeStep (s : State) (cap : Nat) : State :=
  let x := s.power.safeSetting cap
  ((s.setAllTiles x.1 x.2).modPower (fun p => { p with safeStep := true, climbing := false })).count .pwrSafeCount 0 1

/-- Enter or leave the condition of R818: the effective cap is below the floor, until it is at least 102 % of it. -/
def State.judgeFloor (s : State) : State :=
  let p := s.power
  if p.unreachable then
    if 102 * p.floor ≤ 100 * p.cap then s.modPower (fun p => { p with unreachable := false }) else s
  else if p.cap < p.floor then
    ((s.modPower (fun p => { p with unreachable := true })).raisePackage evCapUnreachable
      (p.cap + 65536 * p.floor)).applyFloorSetting
  else s

/-- Stop floor load. -/
def State.stopFloorLoad (s : State) : State :=
  (s.modTiles ((s.tiles.filter (fun e => e.2.floorLoad)).map Prod.fst) (fun t => { t with floorLoad := false })).modPower
    (fun p => { p with floorLoad := false })

/-- Bring the effective cap up to date after a change (R807, R808): CAP_CHANGED unless only the conversion limit moved
it, RAMP_OVERRIDDEN and the safe step where they apply (R814, R825), the floor (R818). A rise applies no safe step
(R817). -/
def State.recap (s : State) (byConversion : Bool := false) : State :=
  let old := s.power.cap
  let oldSrc := s.power.source
  let new := s.effectiveCap
  let src := s.baseCap.2
  let s := s.modPower (fun p => { p with cap := new, source := src })
  let s := if !byConversion && (decide (new ≠ old) || decide (src ≠ oldSrc)) then
    s.raisePackage evCapChanged new (sourceCode src) else s
  let s := match s.power.lo with
    | some lo => if new < old && !lo.le new then (s.raisePackage evRampOverridden new).stopFloorLoad else s
    | none => s
  let s := if new < old && !s.power.est.le new then s.applySafeStep new else s
  s.judgeFloor

/-! ### Supply -/

/-- Supply low begins: a flash or fuse write under way halts at its next safe point (R785, R788). -/
def State.enterSupplyLow (s : State) : State :=
  let s := s.modPower (fun p => { p with supplyLow := true })
  { s with sec := { s.sec with flash := s.sec.flash.map (fun j => { j with halt := true }),
                               fuse := s.sec.fuse.map (fun j => { j with halt := true }) } }

/-- VIN stays above 66.0 V for 10 µs: the package stops (R783). -/
def execVinOvervoltageStop (s : State) : Out := .next (if s.boot.phase = .off then s else s.powerDown false)

/-- VIN stays below 42.0 V for 50 µs: the package stops (R792). -/
def execVinUndervoltageStop (s : State) : Out := .next (if s.boot.phase = .off then s else s.powerDown false)

/-- Averaged VIN falls below 47.0 V (R785, R786): supply low begins, and SUPPLY_LOW is raised when it had not begun. -/
def execSupplyLowEnter (mv : Nat) (s : State) : Out :=
  inService s (fun s =>
    let t := s.modPower (fun p => { p with vinMv := mv })
    if mv < 47000 then
      let t := t.modPower (fun p => { p with vinLow := true })
      if s.power.supplyLow then t else t.enterSupplyLow.raisePackage evSupplyLow mv
    else t)

/-- VIN has been at least 48.0 V with PWR_WARN_N released for 10 ms: supply low ends (R785). -/
def execSupplyLowExit (mv : Nat) (s : State) : Out :=
  inService s (fun s =>
    let t := s.modPower (fun p => { p with vinMv := mv })
    if 48000 ≤ mv && !s.power.pwrWarn then t.modPower (fun p => { p with vinLow := false, supplyLow := false }) else t)

/-- PWR_WARN_N is asserted or released (R785, R786): PWR_WARN is raised; an assertion begins supply low. -/
def execPwrWarnNEdge (asserted : Bool) (s : State) : Out :=
  inService s (fun s =>
    if s.power.pwrWarn = asserted then s
    else
      let t := s.modPower (fun p => { p with pwrWarn := asserted })
      let t := if asserted then t.enterSupplyLow else t
      t.raisePackage evPwrWarn 0 (if asserted then 1 else 0))

/-! ### The estimate and the power policy -/

/-- D in µW: the events of each class by the class's weight (R793). -/
def dynamicPower (counts : List Nat) : Nat := (counts.take 9).zipIdx.foldl (fun a x => a + Config.classWeight x.2 * x.1) 0

/-- E = g × D + S (R793), D in µW and S in W. -/
def Power.estimate (p : Power) (d st : Nat) : Ratio := ⟨p.gain.num * d + st * p.gain.den * 1000000, p.gain.den * 1000000⟩

/-- The highest estimate the policy allows in this window: the lower of hi and the effective cap (R822). -/
def Power.within (p : Power) (r : Ratio) : Bool := r.le p.cap && (match p.hi with | some h => r.leR h | none => true)

/-- Lower ceilings other than under the safe step (R804): tiles running no LC task go to 0.85 GHz first; an LC tile is
lowered by one step only when none of them is above it. -/
def State.lowerCeilings (s : State) (ts : List Nat) (byStep : Bool) : State :=
  let others := ts.filter (fun t => !(s.tile t).runsLc && decide (0 < (s.tile t).ceiling))
  if others.isEmpty then s.modTiles (ts.filter (fun t => (s.tile t).runsLc)) (fun t => { t with ceiling := t.ceiling - 1 })
  else s.modTiles others (fun t => { t with ceiling := if byStep then t.ceiling - 1 else 0 })

/-- A tile's ceiling may go up one step: below 2.00 GHz, its band not throttled, the band voltage settled at what the
step needs (R799, R828). -/
def State.mayRaise (s : State) (t : Nat) : Bool :=
  let b := s.bandOfTile t
  let c := (s.tile t).ceiling
  let x := s.power.band b
  c < 46 && !x.throttled && x.volt = x.target && s.power.tableVolt b (c + 1) ≤ x.volt

/-- Raise ceilings by one step per tile, LC tiles first (R804, R816). -/
def State.raiseCeilings (s : State) : State :=
  let ts := s.mappedTiles.filter s.mayRaise
  let up (t : Tile) : Tile := { t with ceiling := t.ceiling + 1 }
  (s.modTiles (ts.filter (fun t => (s.tile t).runsLc)) up).modTiles (ts.filter (fun t => !(s.tile t).runsLc)) up

/-- Band target voltages as firmware chooses them, never below what the band's highest ceiling needs (R799). -/
def State.setTargets (s : State) (targets : List Nat) : State :=
  s.modPower (fun p => (List.range 8).foldl (fun p b =>
    p.modBand b (fun x => { x with target := max (min (targets.getD b x.target) 60) (p.tableVolt b (s.bandMax b)) })) p)

/-- Run floor load on the free tiles while the estimate is below lo and within hi and the cap, and stop it once it is
not (R823, R824). -/
def State.judgeFloorLoad (s : State) : State :=
  match s.power.lo with
  | some lo =>
    if !lo.leR s.power.est && s.power.within s.power.est then
      (s.modTiles (s.mappedTiles.filter (fun t => (s.tile t).mode = .free)) (fun t => { t with floorLoad := true })).modPower
        (fun p => { p with floorLoad := true })
    else s.stopFloorLoad
  | none => if s.power.floorLoad then s.stopFloorLoad else s

/-- The climb after a safe step (R816): bands slew to the voltages for the new cap, then issue ratio 1, then one ceiling
step per epoch while the next keeps the estimate at or below 98 % of the cap. -/
def State.climb (s : State) (e : Estimate) : State :=
  if !s.power.climbing then
    if s.power.est.le s.power.cap then (s.modPower (fun p => { p with climbing := true })).setTargets e.targets else s
  else if !(List.range 8).all (fun b => (s.power.band b).volt = (s.power.band b).target) then s
  else
    let s := s.modTiles s.mappedTiles (fun t => { t with issueLog2 := 0 })
    if 100 * e.nextStepW ≤ 98 * s.power.cap && s.mappedTiles.any s.mayRaise then s.raiseCeilings
    else s.modPower (fun p => { p with safeStep := false, climbing := false })

/-- The decision of an estimate epoch on voltages and ceilings (R799, R804, R816, R818, R822, R828). -/
def State.policy (s : State) (e : Estimate) : State :=
  if s.power.unreachable then s.applyFloorSetting
  else
    let s := if s.power.safeStep then s.climb e
      else
        let s := s.setTargets e.targets
        if !s.power.within s.power.est then s.lowerCeilings s.mappedTiles false
        else if s.power.within ⟨e.nextStepW, 1⟩ then
          -- what a floor setting throttled is restored before a ceiling is raised, as in a climb
          (if s.mappedTiles.any (fun t => decide ((s.tile t).issueLog2 ≠ 0)) then s.modTiles s.mappedTiles (fun t => { t with issueLog2 := 0 })
          else s.raiseCeilings)
        else s
    (List.range 8).foldl (fun s b => if (s.power.band b).throttled then s.lowerCeilings (s.bandTiles b) true else s) s

/-- An estimate epoch closes (R793): the estimate is formed and the policy adjusts the actuators. -/
def execEstimateEpoch (e : Estimate) (s : State) : Out :=
  inService s (fun s =>
    let d := dynamicPower e.counts
    let est := s.power.estimate d e.staticW
    let s := s.modPower (fun p => { p with dSum := p.dSum + d, sSum := p.sSum + e.staticW, epochs := p.epochs + 1, est := est, winSum := p.winSum.add est, winCount := p.winCount + 1, lastEpoch := s.time })
    (s.policy e).judgeFloorLoad)

/-- The gain after a calibration (R794): `d` µW and `st` W are the sums of D and S over the `n` epochs of the interval, and `m` W
the measured power. -/
def calibrated (g : Ratio) (d st n m : Nat) : Ratio :=
  if n = 0 || decide (d * g.num < 100000000 * g.den * n) then g
  else
    -- g + ((M − S̄) / D̄ − g) / 4 over the common denominator
    let den := 4 * g.den * d
    let num : Int := 3 * g.num * d + ((m * n : Int) - st) * 1000000 * g.den
    if 1000 * num < 800 * (den : Int) then ⟨4, 5⟩
    else if 1250 * (den : Int) < 1000 * num then ⟨5, 4⟩
    else ⟨num.toNat, den⟩

/-- Every 1.024 ms Nelnus firmware updates the gain, the floor and the safe steps (R794, R796, R813, R818). -/
def execCalibrate (c : Calibration) (s : State) : Out :=
  inService s (fun s =>
    (s.modPower (fun p => { p with gain := calibrated p.gain p.dSum p.sSum p.epochs c.measuredW, dSum := 0, sSum := 0, epochs := 0, meas := c.measuredW, iin := c.iin10mA, floor := c.floorW,
                                   safeTable := c.safe })).judgeFloor)

/-! ### Leases -/

/-- The lease of a management port. -/
def Power.lease (p : Power) : MgmtPort → Lease
  | .a => p.leaseA
  | .b => p.leaseB

def Power.setLease (p : Power) (m : MgmtPort) (l : Lease) : Power :=
  match m with
  | .a => { p with leaseA := l }
  | .b => { p with leaseB := l }

def State.mgmt (s : State) : MgmtPort → Mgmt
  | .a => s.mgmtA
  | .b => s.mgmtB

def State.setMgmt (s : State) (m : MgmtPort) (x : Mgmt) : State :=
  match m with
  | .a => { s with mgmtA := x }
  | .b => { s with mgmtB := x }

/-- A management port answers a message. -/
def State.mgmtAnswer (s : State) (m : MgmtPort) (code : Byte) (v : Nat) : State :=
  s.setMgmt m { s.mgmt m with answers := (code, v) :: (s.mgmt m).answers }

/-- Start or renew a lease from the effecters' values (R805, R806). -/
def Lease.renew (l : Lease) (fallback now : Nat) : Lease :=
  { l with held := true, cap := l.effCap.getD fallback, up := l.effUp.getD 0, down := l.effDown.getD 0,
           expiry := now + l.effLease.getD 5 * 1000000000 }

/-- The range of an effecter, and the lease with its new value (R811). -/
def Lease.setEffecter (l : Lease) (id v : Nat) : Option Lease :=
  if id = 0x0001 then if 800 ≤ v && v ≤ 2400 then some { l with effCap := some v } else none
  else if id = 0x0002 then if 1 ≤ v && v ≤ 60 then some { l with effLease := some v } else none
  else if id = 0x0003 then if v ≤ 1023 then some { l with effUp := some v } else none
  else if id = 0x0004 then if v ≤ 1023 then some { l with effDown := some v } else none
  else none

/-- The management port takes messages: the package has power and the port its dynamic address (R26, R962). -/
def State.mgmtOn (s : State) (m : MgmtPort) : Bool := !(s.boot.phase = .off) && (s.mgmt m).dynAddr.isSome

/-- A manager writes an effecter (R805, R806, R812): its lease starts or renews and the effective cap follows. PRESUMED
(DSP0248): completion codes 0x00 SUCCESS, 0x02 ERROR_INVALID_DATA, 0x80 INVALID_EFFECTER_ID. -/
def execSetNumericEffecterValue (m : MgmtPort) (id value : Nat) (s : State) : Out :=
  served s (
    if !s.mgmtOn m then s
    else if !(1 ≤ id && id ≤ 4) then s.mgmtAnswer m 0x80 0
    else
      match (s.power.lease m).setEffecter id value with
      | none => s.mgmtAnswer m 0x02 0
      | some l => ((s.modPower (fun p => p.setLease m (l.renew s.fallbackCap s.now))).recap).mgmtAnswer m 0x00 0)

/-- The value ID_STEPPING reads (R33, R35): TILES_ENABLED counts the good sites, 544 from READY on. -/
def State.idStepping (s : State) : Nat :=
  0x11 + 576 * 2 ^ 8 + (if s.boot.phase = .ready then 544 else s.boot.goodSites) % 1024 * 2 ^ 18

/-- Reading of a numeric sensor (R811). -/
def State.sensor (s : State) (id : Nat) : Option Nat :=
  let p := s.power
  let tj := p.bands.toList.foldl (fun m b => max m b.temp) p.hubMax
  if id = 0x0010 then some p.meas else if id = 0x0011 then some p.vinMv else if id = 0x0012 then some tj
  else if id = 0x0013 then some p.hbmMax else if id = 0x0014 then some p.cap else if id = 0x0015 then some p.floor
  else if id = 0x0016 then some p.est.floor else if id = 0x0020 then some 0x4C4B0105
  else if id = 0x0021 then some s.idStepping else none

/-- A manager reads a numeric sensor (R811); the sensors read the same on both ports. PRESUMED (DSP0248): completion
code 0x80 INVALID_SENSOR_ID for an ID of no sensor. -/
def execGetSensorReading (m : MgmtPort) (id : Nat) (s : State) : Out :=
  served s (
    if s.mgmtOn m then
      match s.sensor id with
      | some v => s.mgmtAnswer m 0x00 v
      | none => s.mgmtAnswer m 0x80 0
    else s)

/-- A management port refuses any other MCTP message type (R912). -/
def execMctpOtherMessage (m : MgmtPort) (typ : Byte) (s : State) : Out :=
  served s (if s.mgmtOn m then s.mgmtAnswer m (Config.mctpError typ) 0 else s)

/-- The 48-bit provisional ID of a management port (R961). -/
def provisionalId (m : MgmtPort) : BitVec 48 :=
  Config.mipiId ++ (0 : BitVec 1) ++ Config.serial.extractLsb' 0 31 ++ (match m with | .a => (0 : BitVec 1) | .b => 1)

/-- A management port shows its provisional ID and obtains its dynamic address (R961, R962). -/
def execEntdaa (m : MgmtPort) (addr : Byte) (s : State) : Out :=
  served s (if s.boot.phase = .off then s
    else s.setMgmt m { s.mgmt m with dynAddr := some addr, provisional := some (provisionalId m) })

/-- A management port serves an MCTP control message (R811, R912). PRESUMED (DSP0233): an endpoint ID of 0 or 0xFF is
refused with ERROR_INVALID_DATA; the message types are 0x00 control and 0x01 PLDM; ERROR_UNSUPPORTED_CMD is 0x05. -/
def execMctpControlMessage (m : MgmtPort) (c : MctpControl) (s : State) : Out :=
  served s (
    if s.mgmtOn m then
      match c with
      | .setEndpointId eid =>
        if eid = 0 || eid = 0xFF then s.mgmtAnswer m 0x02 0
        else (s.setMgmt m { s.mgmt m with eid := eid }).mgmtAnswer m 0x00 eid.toNat
      | .getEndpointId => s.mgmtAnswer m 0x00 (s.mgmt m).eid.toNat
      | .getMessageTypes => s.mgmtAnswer m 0x00 0x0100
      | .other _ => s.mgmtAnswer m 0x05 0
    else s)

/-- The clock reaches a due time, where it has not passed it yet: local time and fabric time move together. -/
def State.advanceTo (s : State) (t : Nat) : State :=
  { s with now := max s.now t, fabric := { s.fabric with time := s.fabric.time + BitVec.ofNat 64 (t - s.now) } }

/-- A lease reaches its expiry time (R807, R809). -/
def execLeaseExpiry (m : MgmtPort) (s : State) : Out :=
  inService s (fun s =>
    let l := s.power.lease m
    if l.held then ((s.advanceTo l.expiry).modPower (fun p => p.setLease m { l with held := false })).recap else s)

/-- The host writes PWR_FALLBACK (R8, R807, R836): a cap outside 800 to 2,400 leaves the register unchanged. -/
def State.writeFallback (s : State) (v : W32) : State :=
  let c := bitsOf v.toNat 0 12
  if 800 ≤ c && c ≤ 2400 then (s.setReg .pwrFallback 0 v.toNat).recap else s

def execPwrFallbackWrite (v : W32) (s : State) : Out := inService s (fun s => s.writeFallback v)

/-! ### Ramp windows -/

/-- The effective rate of one side (R820): the smallest non-zero among the unexpired leases, else the fallback's. -/
def effectiveRate (a b : Lease) (rate : Lease → Nat) (fallback : Nat) : Nat :=
  match ([a, b].filter (fun l => l.held && rate l ≠ 0)).map rate with
  | [] => fallback
  | x :: xs => xs.foldl min x

/-- A ramp window begins (R821): hi and lo from the mean estimate of the window before; a window that ended below its lo
is counted (R823). A rate of 0 sets no bound. -/
def State.rampWindow (s : State) : State :=
    let p := s.power
    let a : Ratio := if p.winCount = 0 then p.est else ⟨p.winSum.num, p.winSum.den * p.winCount⟩
    let up := effectiveRate p.leaseA p.leaseB Lease.up s.fallbackUp
    let down := effectiveRate p.leaseA p.leaseB Lease.down s.fallbackDown
    let missed := match p.lo with | some lo => decide (0 < p.winCount) && !lo.leR a | none => false
    let s := if missed then s.count .pwrRampMiss 0 1 else s
    let s := s.modPower (fun p => { p with
      hi := if up = 0 then none else some (a.add ⟨up * 131072, 1000000⟩),
      lo := if down = 0 then none else some (a.sub ⟨down * 131072, 1000000⟩),
      winSum := {}, winCount := 0 })
    s.judgeFloorLoad

/-- RAMP_WINDOW_START: every 131,072 ns of fabric time (R821). -/
def execRampWindowStart (s : State) : Out := inService s (fun s => s.rampWindow)

/-! ### Thermal limits -/

/-- One band's throttle after a reading (R828, R829): it begins when a sensor of the band or an HBM stack reads 95 °C or
more, and ends when every sensor of the band reads below 93 °C and no stack 95 °C. -/
def State.judgeBand (s : State) (b temp hbm : Nat) : State :=
  let x := s.power.band b
  let s := s.modPower (fun p => p.modBand b (fun x => { x with temp := temp }))
  if !x.throttled && (95 ≤ temp || 95 ≤ hbm) then
    (s.modPower (fun p => p.modBand b (fun x => { x with throttled := true, byHbm := decide (temp < 95) }))).raisePackage
      evThermal b (if 95 ≤ temp then temp else hbm)
  else if x.throttled && temp < 93 && hbm < 95 then
    s.modPower (fun p => p.modBand b (fun x => { x with throttled := false, byHbm := false }))
  else s

/-- The 16 µs sensor read (R827 to R829). -/
def execThermalSample (t : Temps) (s : State) : Out :=
  inService s (fun s =>
    let hbm := t.hbm.foldl max 0
    let s := s.modPower (fun p => { p with hbmMax := hbm, hubMax := t.hub })
    (List.range 8).foldl (fun s b => s.judgeBand b (t.bands.getD b 0) hbm) s)

/-- A sensor reaches 115 °C (R830, R958): THERMTRIP_N is asserted and the package stops. -/
def execThermtrip (s : State) : Out := .next (if s.boot.phase = .off then s else s.powerDown true)

/-- Each band voltage moves one 5 mV step toward its target: what one microsecond of slew does (R800, R803). -/
def Power.slew (p : Power) : Power :=
  { p with bands := p.bands.map (fun b =>
      { b with volt := if b.volt < b.target then b.volt + 1 else if b.target < b.volt then b.volt - 1 else b.volt }) }

end Sys2Proof.Machine
end

