-- ==== Sys2Proof/Machine/Spares.lean ====
section
/-! DEFINITION. Spare parts, targeted tests and the repair map (chapters 05 and 14), up to a test's verdict. -/

namespace Sys2Proof.Machine

/-- Change the repair state. -/
def State.modRepair (s : State) (f : Repair → Repair) : State := { s with repair := f s.repair }

/-! ### Parts (R860, R861) -/

/-- KIND and LOC of a part; a tile site has KIND 0 as in RUN_SELF_TEST (R868). -/
def kindLoc : PartId → Nat × Nat
  | .tile x y => (0, x + 32 * y)
  | .row x y b r => (1, x + 32 * y + 1024 * b + 16384 * r)
  | .page h c p => (2, h + 16 * c + 512 * p)
  | .chan h c => (3, h + 16 * c)
  | .granule i => (4, i)
  | .lane u l => (5, u + 8 * l)
  | .core c => (6, c)
  | .sm3 l => (7, l)
  | .conv c => (8, c)

/-- The part that KIND and LOC name, if LOC is in its range. -/
def State.partAt (s : State) (kind loc : Nat) : Option PartId :=
  let ok (b : Bool) (p : PartId) : Option PartId := if b then some p else none
  if kind = 0 then ok (loc % 32 < 24 && loc / 32 < 24) (.tile (loc % 32) (loc / 32))
  else if kind = 1 then
    ok (loc % 32 < 24 && loc / 32 % 32 < 24 && loc < 2 ^ 24) (.row (loc % 32) (loc / 32 % 32) (bitsOf loc 10 4) (bitsOf loc 14 10))
  else if kind = 2 then
    ok (loc % 16 < 12 && loc / 512 < chanPages) (.page (loc % 16) (bitsOf loc 4 5) (loc / 512))
  else if kind = 3 then ok (loc % 16 < 12 && loc < 512) (.chan (loc % 16) (loc / 16))
  else if kind = 4 then ok (loc < s.firnMapped / 4096) (.granule loc)
  else if kind = 5 then ok (loc / 8 < 9) (.lane (loc % 8) (loc / 8))
  else if kind = 6 then ok (loc < 8) (.core loc)
  else if kind = 7 then ok (loc < 52) (.sm3 loc)
  else if kind = 8 then ok (loc < 9) (.conv loc)
  else none

def partKey (p : PartId) : Nat := 2 ^ 32 * (kindLoc p).1 + (kindLoc p).2

/-- The entry of a part that is not a tile site. -/
def Repair.ent (r : Repair) (p : PartId) : PartEnt := dget r.parts (partKey p) ⟨p, 0, 0, 0⟩

/-- Set STATE and AUX of a part's entry. -/
def Repair.setEnt (r : Repair) (p : PartId) (st aux : Nat) : Repair :=
  { r with parts := dset r.parts (partKey p) { r.ent p with st := st, aux := aux } }

/-- The site at index 24 y + x. -/
def Repair.site (r : Repair) (i : Nat) : Site := dget r.sites i {}

def Repair.setSite (r : Repair) (i : Nat) (x : Site) : Repair := { r with sites := dset r.sites i x }

/-- Transient count of a part (R851). -/
def Repair.transients (r : Repair) : PartId → Nat
  | .tile x y => (r.site (24 * y + x)).count
  | p => (r.ent p).count

/-- Set the transient count of a part; it saturates at 7 (R851). -/
def Repair.setTransients (r : Repair) (p : PartId) (n : Nat) : Repair :=
  match p with
  | .tile x y => r.setSite (24 * y + x) { r.site (24 * y + x) with count := min n 7 }
  | p => { r with parts := dset r.parts (partKey p) { r.ent p with count := min n 7 } }

/-- The part is retired or withdrawn. -/
def Repair.retired (r : Repair) : PartId → Bool
  | .tile x y => decide ((r.site (24 * y + x)).st = .retired)
  | .page h c p =>
    decide ((r.ent (.page h c p)).st ≠ 0) || r.lostStacks.contains h || r.lostChans.contains (h, c) ||
      r.withdrawnPages.contains (h, c, p)
  | .row x y b w => decide ((r.ent (.row x y b w)).st ≠ 0) || decide ((r.site (24 * y + x)).st = .retired)
  | p => decide ((r.ent p).st ≠ 0)

/-! ### HBM slots and sparing (R251 to R262) -/

/-- A channel of a stack has failed. -/
def Repair.chanFailed (r : Repair) (h c : Nat) : Bool :=
  r.lostStacks.contains h || r.lostChans.contains (h, c) || decide (dget? r.sparedChan h = some c)

/-- Slots of channel `c` of stack `h` that are taken or condemned. -/
def Repair.usedSlots (r : Repair) (h c : Nat) : List Nat :=
  (r.remaps.filter (fun x => decide (x.1 = h) && decide (x.2.2.2.1 = c))).map (fun x => x.2.2.2.2) ++
    (r.condemned.filter (fun x => decide (x.1 = h) && decide (x.2.1 = c))).map (fun x => x.2.2) ++
    (r.copies.filter (fun x => decide (x.stack = h) && decide (x.slotChan = c))).map PageCopy.slot ++
    (r.retests.filter (fun x => decide (x.1 = h) && decide (x.2.2.2.1 = c))).map (fun x => x.2.2.2.2)

/-- Free slots of one channel, in ascending index. -/
def Repair.freeIn (r : Repair) (h c : Nat) : List Nat :=
  if r.chanFailed h c then []
  else
    let used := r.usedSlots h c
    (List.range 1024).filter (fun i => !used.contains i)

/-- Free slots of a stack, in ascending order of channel and then slot. -/
def Repair.freeSlots (r : Repair) (h : Nat) : List (Nat × Nat) :=
  (List.range 32).flatMap (fun c => (r.freeIn h c).map (fun i => (c, i)))

/-- The slot a page of channel `c` retires into (R251). -/
def Repair.slotFor (r : Repair) (h c : Nat) : Option (Nat × Nat) :=
  match (r.freeIn h c).head? with
  | some i => some (c, i)
  | none => (r.freeSlots h).head?

/-- The slot that holds a page now. -/
def Repair.slotOf (r : Repair) (h c p : Nat) : Option (Nat × Nat) :=
  (r.remaps.find? (fun x => decide (x.1 = h) && decide (x.2.1 = c) && decide (x.2.2.1 = p))).map (fun x => x.2.2.2)

/-- Remove a page's remap into a slot. -/
def Repair.unmap (r : Repair) (h c p : Nat) (slot : Nat × Nat) : Repair :=
  { r with remaps := r.remaps.erase (h, c, p, slot) }

/-- Withdraw a page (R257, R259, R260). -/
def Repair.withdrawPage (r : Repair) (h c p : Nat) : Repair :=
  { r.setEnt (.page h c p) 2 0 with withdrawnPages := if r.withdrawnPages.contains (h, c, p) then r.withdrawnPages
                                      else (h, c, p) :: r.withdrawnPages }

/-- AUX of a page entry (R861). -/
def slotAux (x : Nat × Nat) : Nat := x.1 + 32 * x.2

/-- Retire a page into a free slot at once, or withdraw it (R251, R260). -/
def Repair.retirePage (r : Repair) (h c p : Nat) : Repair :=
  match r.slotFor h c with
  | some x => { r.setEnt (.page h c p) 1 (slotAux x) with remaps := (h, c, p, x.1, x.2) :: r.remaps }
  | none => r.withdrawPage h c p

/-- The copies and tests of slots under way when channel `c` of stack `h` fails: those of its own pages end, and a copy into its
spare area goes on into another slot, or ends where none is free. DESIGN CHOICE (log entry 107): the manual does not say. -/
def Repair.moveCopies (r : Repair) (h c : Nat) : Repair :=
  let here (k : PageCopy) : Bool := decide (k.stack = h) && (decide (k.chan = c) || decide (k.slotChan = c))
  (r.copies.filter here).foldl (fun (r : Repair) k =>
    if k.chan = c then r
    else
      match r.slotFor h k.chan with
      | some x => { r with copies := r.copies ++ [{ k with slotChan := x.1, slot := x.2 }] }
      | none => r)
    { r with copies := r.copies.filter (fun k => !here k),
             retests := r.retests.filter (fun x => !(decide (x.1 = h) && (decide (x.2.1 = c) || decide (x.2.2.2.1 = c)))) }

/-- Re-home the pages of a stack whose backing lies in failed channel `c` (R256, R257). -/
def Repair.spareChannel (r : Repair) (h c : Nat) : Repair :=
  let inArea := r.remaps.filter (fun x => decide (x.1 = h) && decide (x.2.2.2.1 = c))
  let others := sortBy (fun a b => decide (a.1 < b.1) || (decide (a.1 = b.1) && decide (a.2 ≤ b.2)))
    ((inArea.filter (fun x => decide (x.2.1 ≠ c))).map (fun x => (x.2.1, x.2.2.1)))
  let elsewhere := (r.remaps.filter (fun x => decide (x.1 = h) && decide (x.2.1 = c) && decide (x.2.2.2.1 ≠ c))).map (fun x => x.2.2.1)
  let gone := (r.withdrawnPages.filter (fun x => decide (x.1 = h) && decide (x.2.1 = c))).map (fun x => x.2.2)
  let own := ((List.range chanPages).filter (fun p => !elsewhere.contains p && !gone.contains p)).map (fun p => (c, p))
  let r := { r.setEnt (.chan h c) 1 0 with
    sparedChan := dset r.sparedChan h c, remaps := r.remaps.filter (fun x => !(decide (x.1 = h) && decide (x.2.2.2.1 = c))) }
  let pages := others ++ own
  let free := r.freeSlots h
  let r := { r with remaps := (pages.zip free).map (fun x => (h, x.1.1, x.1.2, x.2.1, x.2.2)) ++ r.remaps }
  -- the entries of retired pages name their new slots
  let r := (pages.zip free).foldl (fun (r : Repair) x =>
    if (r.ent (.page h x.1.1 x.1.2)).st = 1 then r.setEnt (.page h x.1.1 x.1.2) 1 (slotAux x.2) else r) r
  (pages.drop free.length).foldl (fun r x => r.withdrawPage h x.1 x.2) r

/-- A further channel of a stack fails (R258, R259). -/
def Repair.loseChannel (r : Repair) (h c : Nat) : Repair :=
  let inArea := r.remaps.filter (fun x => decide (x.1 = h) && decide (x.2.2.2.1 = c))
  let r := { r.setEnt (.chan h c) 2 0 with lostChans := (h, c) :: r.lostChans, remaps := r.remaps.filter (fun x => !inArea.contains x) }
  (inArea.filter (fun x => decide (x.2.1 ≠ c))).foldl (fun r x => r.withdrawPage h x.2.1 x.2.2.1) r

/-- A channel fails as a whole: the stack spares it, or loses it when it has spared one already (R256, R258). -/
def Repair.failChannel (r : Repair) (h c : Nat) : Repair :=
  if r.chanFailed h c then r
  else (if (dget? r.sparedChan h).isNone then r.spareChannel h c else r.loseChannel h c).moveCopies h c

/-- A whole stack fails (R262): its channels are withdrawn. -/
def Repair.failStack (r : Repair) (h : Nat) : Repair :=
  if r.lostStacks.contains h then r
  else (List.range 32).foldl (fun r c => r.setEnt (.chan h c) 2 0)
    { r with lostStacks := h :: r.lostStacks, copies := r.copies.filter (fun k => decide (k.stack ≠ h)),
             retests := r.retests.filter (fun x => decide (x.1 ≠ h)) }

/-- The contents that a failing channel takes with it (R261): its own pages that no other channel's area holds, and
pages that its spare area holds. -/
def State.loseContents (s : State) (h c : Nat) : State :=
  let base := (32 * h + c) * chanBytes
  let kept := (s.repair.remaps.filter (fun x => decide (x.1 = h) && decide (x.2.1 = c) && decide (x.2.2.2.1 ≠ c))).map (fun x => x.2.2.1)
  let held := s.repair.remaps.filter (fun x => decide (x.1 = h) && decide (x.2.2.2.1 = c) && decide (x.2.1 ≠ c))
  let s := if kept.isEmpty then s.openPlaces base chanBytes
    else ((List.range chanPages).filter (fun p => !kept.contains p)).foldl (fun s p => s.openPlaces (base + 65536 * p) 65536) s
  held.foldl (fun s x => s.openPlaces ((32 * h + x.2.1) * chanBytes + 65536 * x.2.2.1) 65536) s

/-! ### Tile sites (R839 to R843, R855) -/

/-- Indices of the sites that are free spares, in order of y and then x. -/
def Repair.freeSites (r : Repair) : List Nat := (List.range 576).filter (fun i => decide ((r.site i).st = .spare))

/-- The spare site for a retired site (R839). -/
def Repair.spareFor (r : Repair) (i : Nat) : Option Nat :=
  match r.freeSites.find? (fun j => decide (bandOfSite j = bandOfSite i)) with
  | some j => some j
  | none => r.freeSites.head?

/-- SUBJECT of TILE_RETIRED and TILE_TRANSIENT (R588); a site without a number shows 0x3FF. DEDUCED from SITE of
R859. -/
def Repair.tileSubject (r : Repair) (i : Nat) : Nat :=
  ((r.site i).tile).getD 0x3FF + 65536 * (i % 24) + 2 ^ 24 * (i / 24)

/-- A tile as its number passes to another site (R841): no code cached, no run; the power policy's settings stay. -/
def Tile.fresh (t : Tile) : Tile := { ceiling := t.ceiling, issueLog2 := t.issueLog2 }

/-- A tile site is retired (R839, R841, R843): its logical number passes to a spare site, or is withdrawn. -/
def State.retireSite (s : State) (i : Nat) : State :=
  let x := s.repair.site i
  let s := s.modRepair (fun r => r.setSite i { x with st := .retired, tile := none })
  match x.tile with
  | none => s
  | some n =>
    match s.repair.spareFor i with
    | some j =>
      let s := s.modRepair (fun r => r.setSite j { r.site j with st := .enabled, tile := some n })
      let s := (s.modTile n Tile.fresh).openPad n
      s.modPower (fun p =>
        let b := bandOfSite j
        p.modBand b (fun x => { x with target := max x.target (p.tableVolt b (s.tile n).ceiling) }))
    | none =>
      (s.modRepair (fun r => { r with withdrawnTiles := n :: r.withdrawnTiles })).modTile n (fun t => { t with mode := .retired, run := none })

/-! ### Other parts -/

/-- The lowest number of a list that is not in another. -/
def lowestFree (all used : List Nat) : Option Nat := all.find? (fun i => !used.contains i)

/-- Parts of a kind by number that are retired. -/
def Repair.retiredOf (r : Repair) (n : Nat) (f : Nat → PartId) : List Nat := (List.range n).filter (fun i => r.retired (f i))

/-- The spare core that may take work: not in service, not retired, not under test. -/
def Repair.freeCore (r : Repair) : Option Nat :=
  lowestFree (List.range 8) (r.coresUsed ++ r.retiredOf 8 .core ++ r.coreSubs.map Prod.fst)

/-- Free spare SM3 lanes. -/
def Repair.freeSm3 (r : Repair) : List Nat :=
  (List.range 52).filter (fun i => !r.sm3Lanes.contains i && !r.retired (.sm3 i) && !r.tests.contains (.sm3 i))

/-- A control core goes out of use, and its work moves to a spare core (R844, R845). -/
def Repair.moveCore (r : Repair) (c : Nat) : Repair :=
  if r.coresUsed.contains c then
    let sub := r.freeCore
    { r with coresUsed := (r.coresUsed.erase c) ++ sub.toList, coreSubs := (c, sub) :: r.coreSubs }
  else r

/-- Raise an event only for a part that fails in service; power-up and a map load raise none (DEDUCED: log entry 14). -/
def State.raiseIf (s : State) (live : Bool) (code : W16) (subject : Nat) (arg : Nat := 0) : State :=
  if live then s.raisePackage code subject arg else s

/-- A converter is retired (R779, R780). -/
def State.loseConverter (s : State) (i : Nat) : State :=
  if s.power.goodConv.getLsbD i then
    let g := s.power.goodConv &&& ~~~(BitVec.ofNat 9 (2 ^ i))
    let s := s.modRepair (fun r => r.setEnt (.conv i) (if s.power.goodConv = 0x1FF then 1 else 2) 0)
    let s := s.modPower (fun p => { p with goodConv := g, spareConv := g.getLsbD 8 && decide (g ≠ 0x1FF) })
    if s.power.goodCount ≤ 6 then s.powerDown false else s.recap true
  else s

/-- Retire a part, taking a spare under the rules of its kind (R838, R845). `live`: in service, with its event. A page is
retired without copying. -/
def State.retirePart (s : State) (part : PartId) (live : Bool) : State :=
  if s.repair.retired part then s
  else
    match part with
    | .tile x y =>
      let i := 24 * y + x
      let sub := s.repair.tileSubject i
      (s.retireSite i).raiseIf live evTileRetired sub
    | .row x y b w =>
      let i := 24 * y + x
      let used := (s.repair.rows.filter (fun z => decide (z.1 = i) && decide (z.2.1 = b))).map (fun z => z.2.2.2)
      match lowestFree (List.range 16) used with
      | some k =>
        (s.modRepair (fun r => { r.setEnt part 1 k with rows := (i, b, w, k) :: r.rows })).raiseIf live evRowSpared
          (((s.repair.site i).tile).getD 0x3FF + 1024 * b + 16384 * w)
      | none =>
        let sub := s.repair.tileSubject i
        ((s.modRepair (fun r => r.setEnt part 2 0)).retireSite i).raiseIf live evTileRetired sub
    | .page h c p => s.modRepair (fun r => r.retirePage h c p)
    | .chan h c =>
      let first := (dget? s.repair.sparedChan h).isNone
      let s := (s.loseContents h c).modRepair (fun r => r.failChannel h c)
      s.raiseIf (live && first) evChannelSpared (h + 16 * c)
    | .granule i => s.modRepair (fun r => { r.setEnt part 2 0 with withdrawnFirn := i :: r.withdrawnFirn })
    | .lane u _ =>
      let s := s.modRepair (fun r => r.setEnt part 1 0)
      if h : u < 8 then s.modPort ⟨u, h⟩ (fun x => { x with spareUsed := true }) else s
    | .core c =>
      let s := s.modRepair (fun r => r.moveCore c)
      let sub := (s.repair.coreSubs.find? (fun x => decide (x.1 = c))).bind Prod.snd
      let s := s.modRepair (fun r => { r.setEnt part (if sub.isSome then 1 else 2) (sub.getD 0) with
        coreSubs := r.coreSubs.filter (fun x => decide (x.1 ≠ c)) })
      match sub with
      | some k => s.raiseIf live evCoreSpared (c + 8 * k)
      | none => s
    | .sm3 l =>
      let s := s.modRepair (fun r => { r with tests := r.tests.erase part })
      let sub := s.repair.freeSm3.find? (fun k => decide (k ≠ l))
      let wasUsed := decide (s.repair.sm3Lanes.length < 48) || s.repair.sm3Lanes.contains l
      let s := s.modRepair (fun r => { r.setEnt part (if sub.isSome then 1 else 2) 0 with sm3Lanes := r.sm3Lanes.erase l })
      match sub with
      | some k => if wasUsed then (s.modRepair (fun r => { r with sm3Lanes := r.sm3Lanes ++ [k] })).raiseIf live evSm3Spared l else s
      | none => s
    | .conv i => s.loseConverter i

/-! ### Starting a test (R845, R848, R852, R866) -/

/-- The logical tile on a site. -/
def Repair.tileAt (r : Repair) (x y : Nat) : Option Nat := (r.site (24 * y + x)).tile

/-- A test begins and is counted. -/
def State.addTest (s : State) (part : PartId) : State :=
  (s.modRepair (fun r => { r with tests := r.tests ++ [part] })).count .sprTestsRun 0 1

/-- Start the targeted test of a part after an error, or join the one that runs (R852). `counted`: the sector of a page
whose uncorrectable read is counted already (R252). -/
def State.startTest (s : State) (part : PartId) (counted : Option Nat := none) : State :=
  let r := s.repair
  if r.tests.contains part || r.mapWait.isSome || r.copies.any (fun c => decide (PartId.page c.stack c.chan c.page = part)) then s
  else
    match part with
    | .page h c p =>
      -- a retired page is tested again where its slot fails (R255)
      if r.retired part && (r.slotOf h c p).isNone then s
      else
        match r.slotFor h c with
        | some x =>
          (s.modRepair (fun r => { r with copies := r.copies ++ [⟨h, c, p, x.1, x.2, true, counted, []⟩] })).addTest part
        | none => s.modRepair (fun r => r.withdrawPage h c p)
    | .tile x y | .row x y _ _ =>
      if r.retired part then s
      else
        match r.tileAt x y with
        | some n =>
          if (s.tile n).run.isSome then
            s.modTile n (fun t => if t.testAfterRun.contains part then t else { t with testAfterRun := t.testAfterRun ++ [part] })
          else (s.modTile n (fun t => { t with mode := .fenced })).addTest part
        | none => s.addTest part
    | .core c => if r.retired part then s else (s.modRepair (fun r => r.moveCore c)).addTest part
    | .sm3 l =>
      if r.retired part then s else (s.modRepair (fun r => { r with sm3Lanes := r.sm3Lanes.erase l })).addTest part
    | .conv _ => s
    | _ => if r.retired part then s else s.addTest part

/-- Start the test of what holds the sector of an uncorrectable read (R276): a page of HBM or a granule of the firn
tier. A withdrawn granule starts none. -/
def State.testOfDpa (s : State) (a : Nat) : State :=
  match s.place a with
  | some x =>
    if s.withdrawnDpa a || windowBase ≤ a then s
    else if a < hbmEnd then
      let c := x / chanBytes
      s.startTest (.page (c / 32) (c % 32) (x % chanBytes / 65536)) (some (x % 65536 / 64))
    else s.startTest (.granule ((a - firnBase) / 4096))
  | none => s

/-- An uncorrectable read at a DPA (R276). -/
def State.uncorrectable (s : State) (a : Nat) : State := (s.recordUe a).testOfDpa a

/-- A read that met a byte it could not read is recorded; an uncorrectable sector's part is tested (R265, R276). -/
def State.noteUnreadable (s : State) (a : Nat) : State := if s.withdrawnDpa a then s.recordUe a else s.uncorrectable a

/-- A lane is replaced by its port's spare, physical lane 8 (R426, R436, R437). -/
def State.substituteLane (s : State) (u : PortNo) (lane : Nat) : State :=
  let p := s.port u
  if p.lanes.contains lane && p.lanes.length = 8 && !p.spareUsed && p.trained.contains 8 && !s.repair.retired (.lane u.val 8) then
    (s.modPort u (fun x => { x with lanes := x.lanes.map (fun l => if l = lane then 8 else l), spareUsed := true, sparedLane := lane })).raisePackage
      evLaneSpared (u.val + 8 * lane)
  else s

/-! ### The repair map (R859 to R862) -/

/-- A SITE entry (R859). -/
def Site.word (x : Site) : Nat :=
  x.tile.getD 0x3FF + 1024 * (match x.st with | .enabled => 0 | .spare => 1 | .retired => 2) + 8192 * x.count

/-- The part entries that the map carries (R862). -/
def Repair.mapEntries (r : Repair) : List PartEnt :=
  (r.parts.map Prod.snd).filter (fun e => !(decide (e.st = 0) && decide (e.count = 0)))

/-- A part entry (R860). -/
def PartEnt.bytes (e : PartEnt) : List Byte :=
  let k := kindLoc e.part
  [BitVec.ofNat 8 k.1, BitVec.ofNat 8 e.st, BitVec.ofNat 8 e.count, 0] ++ leBytes 4 k.2 ++ leBytes 4 e.aux ++ leBytes 4 0

/-- The repair map at this instant (R859). -/
def State.repairMap (s : State) : List Byte :=
  let es := s.repair.mapEntries
  leBytes 4 0x4D524B4C ++ leBytes 2 1 ++ leBytes 2 0 ++ leBytes 4 es.length ++ leBytes 4 (0x4C0 + 16 * es.length) ++
    leBytes 4 0x4C4B0105 ++ leBytes 4 s.idStepping ++ leBytes 8 Config.serial.toNat ++ leBytes 8 s.time ++ leBytes 24 0 ++
    (List.range 576).flatMap (fun i => leBytes 2 (s.repair.site i).word) ++ es.flatMap PartEnt.bytes

/-- READ_REPAIR_MAP (R862 to R864). -/
def execReadRepairMap (p : Part) (ring : CmdRing) (s : State) : Out :=
  inService s (fun s => runCmd s p ring opReadMap (fun s c =>
    let m := s.repairMap
    if c.field 0x10 8 % 64 ≠ 0 then s.malformed p c 0x10
    else if c.field 0x18 8 < m.length then s.finish p c stNoCapacity m.length 0
    else (s.hostWrite (c.field 0x10 8) m).finish p c stOk 0 m.length))

/-- Parts of a map: its sites with STATE and count, then its entries with STATE and count. -/
def State.mapParts (s : State) (m : List Byte) : List (PartId × Nat × Nat) :=
  (List.range 576).map (fun i =>
    let w := fieldAt m (0x40 + 2 * i) 2
    (PartId.tile (i % 24) (i / 24), bitsOf w 10 3, bitsOf w 13 3)) ++
  (List.range (fieldAt m 0x08 4)).filterMap (fun i =>
    let b := 0x4C0 + 16 * i
    (s.partAt (fieldAt m b 1) (fieldAt m (b + 4) 4)).map (fun p => (p, fieldAt m (b + 1) 1, fieldAt m (b + 2) 1)))

/-- The map is well formed (first row of R865); `bytes` is HOST_BYTES. -/
def State.mapFormOk (s : State) (m : List Byte) (bytes : Option Nat) : Bool :=
  let n := fieldAt m 0x08 4
  decide (fieldAt m 0x00 4 = 0x4D524B4C) && decide (fieldAt m 0x04 2 = 1) && decide (fieldAt m 0x06 2 = 0) &&
    allZero (sliceAt m 0x28 24) && decide (n ≤ 131072) && decide (fieldAt m 0x0C 4 = 0x4C0 + 16 * n) &&
    decide (m.length = 0x4C0 + 16 * n) && (match bytes with | some b => decide (0x4C0 + 16 * n ≤ b) | none => true) &&
    (List.range 576).all (fun i =>
      let w := fieldAt m (0x40 + 2 * i) 2
      decide (bitsOf w 10 3 ≤ 2)) &&
    (List.range n).all (fun i =>
      let b := 0x4C0 + 16 * i
      let k := fieldAt m b 1
      decide (1 ≤ k) && (s.partAt k (fieldAt m (b + 4) 4)).isSome && decide (fieldAt m (b + 1) 1 ≤ 2) &&
        decide (fieldAt m (b + 2) 1 ≤ 7) && decide (fieldAt m (b + 3) 1 = 0) && decide (fieldAt m (b + 12) 4 = 0))

/-- The map is this package's (second row of R865). -/
def State.mapMine (s : State) (m : List Byte) : Bool :=
  decide (fieldAt m 0x10 4 = 0x4C4B0105) && decide (fieldAt m 0x14 4 = s.idStepping) &&
    decide (fieldAt m 0x18 8 = Config.serial.toNat)

/-- A partition has neither a live request, nor a slot in use, nor a task. -/
def State.partIdle (s : State) (p : Part) : Bool :=
  let x := s.part p
  x.requests.isEmpty && x.slots.all (fun e => decide (e.2.st = .empty)) && x.lcQ.isEmpty && x.beQ.isEmpty &&
    s.tiles.all (fun e => match e.2.run with | some r => decide (r.part ≠ p) | none => true)

/-- The map spares or withdraws a channel in a group of partition `p`. -/
def State.mapHitsGroups (s : State) (p : Part) (parts : List (PartId × Nat × Nat)) : Bool :=
  parts.any (fun x => match x.1 with
    | .chan h c => decide (x.2.1 ≠ 0) && s.hbmValid p && (s.groups p).contains (4 * h + c / 8)
    | _ => false)

/-- Apply one entry of a map (R856, R858). -/
def State.applyEntry (s : State) (x : PartId × Nat × Nat) : State :=
  let s := s.modRepair (fun r => r.setTransients x.1 (max (r.transients x.1) x.2.2))
  let retire : Bool := match x.1 with | .tile _ _ => decide (x.2.1 = 2) | _ => decide (x.2.1 ≠ 0)
  if !retire || s.repair.retired x.1 then s
  else
    match x.1 with
    | .page h c p =>
      if s.boot.hbmRetained then
        match s.repair.slotFor h c with
        | some y =>
          s.modRepair (fun r => { r.setEnt x.1 1 (slotAux y) with copies := r.copies ++ [⟨h, c, p, y.1, y.2, false, none, []⟩] })
        | none => s.retirePart x.1 false
      else s.retirePart x.1 false
    | _ => s.retirePart x.1 false

/-- Number of retired parts. -/
def Repair.retiredCount (r : Repair) : Nat :=
  ((List.range 576).filter (fun i => decide ((r.site i).st = .retired))).length + (r.parts.filter (fun e => decide (e.2.st ≠ 0))).length

/-- Withdraw logical numbers from the highest down, so that no number is left without a site (R857): the numbers of
retired sites that found no spare pass to the sites that hold the highest numbers. -/
def State.compactTiles (s : State) : State :=
  (List.range s.repair.withdrawnTiles.length).foldl (fun s _ =>
    match (sortBy (fun a b => decide (a ≤ b)) s.repair.withdrawnTiles).head? with
    | some n =>
      match (s.repair.sites.filterMap (fun e => e.2.tile.map (fun t => (t, e.1)))).foldl
          (fun (m : Option (Nat × Nat)) x => match m with | some y => if y.1 < x.1 then some x else m | none => some x) none with
      | some (top, i) =>
        if n < top then
          let s := s.modRepair (fun r => { r.setSite i { r.site i with tile := some n } with
            withdrawnTiles := top :: r.withdrawnTiles.erase n })
          ((s.modTile n Tile.fresh).openPad n).modTile top (fun t => { t with mode := .retired, run := none })
        else s
      | none => s
    | none => s) s

/-- Perform a map load (R856): newly retired parts, and logical tiles withdrawn by it. -/
def State.applyMap (s : State) (m : List Byte) : State × Nat × Nat :=
  let before := s.repair.withdrawnTiles.length
  let t := ((s.mapParts m).foldl (fun s x => s.applyEntry x) s).compactTiles
  (t, t.repair.retiredCount - s.repair.retiredCount, t.repair.withdrawnTiles.length - before)

/-- What a map load answers (R865): the checks for the issuing partition, or for every partition (R867). -/
def State.judgeMap (s : State) (issuer : Option Part) (m : List Byte) (bytes : Option Nat) : W16 :=
  let mine := match issuer with | some p => [p] | none => allParts
  let parts := s.mapParts m
  if !s.mapFormOk m bytes then stMalformed
  else if !s.mapMine m then stState
  else if allParts.any (fun q => decide (issuer ≠ some q) && (decide ((s.part q).fn.st ≠ .off) || s.hbmValid q)) then stState
  else if mine.any (fun q => !s.partIdle q || s.mapHitsGroups q parts) then stState
  else stOk

/-- Apply a judged map and report: to the command, or in SPR_MAP_CTRL (R865, R867). -/
def State.finishMap (s : State) (who : Option (Part × Nat)) (m : List Byte) : State :=
  let x := s.applyMap m
  let s := x.1.modRepair (fun r => { r with mapWait := none, mapBusy := false, mapLoaded := true })
  match who with
  | some (p, order) => s.finishOrder p order stOk x.2.2 x.2.1
  | none => s.modRepair (fun r => { r with mapResult := 1 })

/-- Begin a judged map load: it waits for the tests in progress (R866). -/
def State.beginMap (s : State) (who : Option (Part × Nat)) (m : List Byte) : State :=
  if s.repair.tests.isEmpty then s.finishMap who m
  else s.modRepair (fun r => { r with mapWait := some (who, m), mapBusy := decide (who = none) })

/-- WRITE_REPAIR_MAP (R863, R865, R866). A command that comes while another load waits completes REJECT_STATE
(DESIGN CHOICE, log entry 15). -/
def execWriteRepairMap (p : Part) (ring : CmdRing) (map : HostData) (s : State) : Out :=
  inService s (fun s => runCmd s p ring opWriteMap (fun s c =>
    match map with
    | .failed => s.malformed p c 0x10
    | .bytes m =>
      if c.field 0x10 8 % 64 ≠ 0 then s.malformed p c 0x10
      else
        let st := s.judgeMap (some p) m (some (c.field 0x18 8))
        if st = stMalformed then s.malformed p c 0x10
        else if st ≠ stOk || s.repair.mapWait.isSome then s.finish p c stState
        else (s.setStage p c.order .running).beginMap (some (p, c.order)) m))

/-- A write of SPR_MAP_CTRL.GO (R867): ignored while BUSY. -/
def State.sprMapLoad (s : State) (map : HostData) : State :=
  if s.repair.mapBusy || s.repair.mapWait.isSome then s
  else
    match map with
    | .failed => s.modRepair (fun r => { r with mapResult := 2 })
    | .bytes m =>
      let st := s.judgeMap none m none
      if st = stMalformed then s.modRepair (fun r => { r with mapResult := 2 })
      else if st ≠ stOk then s.modRepair (fun r => { r with mapResult := 3 })
      else s.beginMap none m

def execSprMapLoad (map : HostData) (s : State) : Out := inService s (fun s => s.sprMapLoad map)

/-- RUN_SELF_TEST (R868 to R870). -/
def execRunSelfTest (p : Part) (ring : CmdRing) (s : State) : Out :=
  inService s (fun s => runCmd s p ring opSelfTest (fun s c =>
    let kind := c.field 0x10 1
    let mode := c.field 0x11 1
    match (if kind = 8 then none else if 8 < kind then none else some kind), s.partAt kind (c.field 0x14 4) with
    | none, _ => s.malformed p c 0x10
    | some _, none => if 1 < mode then s.malformed p c 0x11 else s.malformed p c 0x14
    | some _, some part =>
      if 1 < mode then s.malformed p c 0x11
      else
        let r := s.repair
        let laneBusy : Bool := match part with
          | .lane u _ => if h : u < 8 then (s.port ⟨u, h⟩).spareUsed else false
          | _ => false
        let noSlot : Bool := match part with | .page h _ _ => (r.freeSlots h).isEmpty | _ => false
        let waiting := s.tiles.any (fun e => e.2.testAfterRun.contains part)
        if r.retired part || r.tests.contains part || waiting || laneBusy || noSlot || r.mapWait.isSome then s.finish p c stState
        else
          let s := match part with
            | .lane u l => if h : u < 8 then (if (s.port ⟨u, h⟩).lanes.contains l then s.substituteLane ⟨u, h⟩ l else s) else s
            | _ => s
          ((s.modRepair (fun r => { r with asked := r.asked ++ [(p, c.order, part, decide (mode = 1))] })).setStage p c.order .running).startTest part))

end Sys2Proof.Machine
end

