-- ==== Sys2Proof/Machine/Link.lean ====
section
/-! DEFINITION. Packets, end-to-end transfers, routing, credits and the link level of the Uagor ports (chapter 08). -/

namespace Sys2Proof

open Sys2Proof.Machine (leBytes)

/-- Bytes of a header (R455), with DL and HOPS as given. -/
def Packet.header (k : Packet) (dl : Bool) (hops : Nat) : List Byte :=
  [k.typ, BitVec.ofNat 8 (k.tc.val + (if dl then 4 else 0) + (if k.resend then 8 else 0))] ++ leBytes 2 k.dst.val ++
    leBytes 2 k.src.val ++ [BitVec.ofNat 8 k.part.val, BitVec.ofNat 8 hops] ++ leBytes 2 k.payload.length ++ leBytes 2 0 ++
    leBytes 4 k.xid.toNat ++ leBytes 8 k.addr.toNat ++ leBytes 4 k.arg.toNat ++ leBytes 4 0

/-- One byte of CRC-32 with the IEEE 802.3 polynomial. PRESUMED: least significant bit first. -/
def crc32Byte (crc : W32) (b : Byte) : W32 :=
  (List.range 8).foldl (fun (c : W32) _ => if c.getLsbD 0 then (c >>> 1) ^^^ 0xEDB88320 else c >>> 1) (crc ^^^ b.setWidth 32)

/-- CRC-32 as IEEE 802.3 forms it. PRESUMED: initial value and final inversion all ones. -/
def crc32 (bs : List Byte) : W32 := ~~~(bs.foldl crc32Byte 0xFFFFFFFF)

/-- ECRC of a packet (R456): over header and payload, with DL and HOPS taken as zero. -/
def Packet.makeEcrc (k : Packet) : W32 := crc32 (k.header false 0 ++ k.payload)

/-- Bytes of a packet on a link: padded with zeros to a multiple of 8 (R455). -/
def Packet.bytes (k : Packet) : List Byte :=
  let b := k.header k.dl k.hops ++ k.payload ++ leBytes 4 k.ecrc.toNat
  b ++ List.replicate ((8 - b.length % 8) % 8) 0

/-- Size of a packet on a link. -/
def packetSize (payload : Nat) : Nat := (36 + payload + 7) / 8 * 8

/-- Credits of a packet (R452). -/
def Packet.credits (k : Packet) : Nat := (packetSize k.payload.length + 63) / 64

/-- VC of a packet (R451). -/
def Packet.vc (k : Packet) : Nat := 2 * k.tc.val + (if k.dl then 1 else 0)

end Sys2Proof

namespace Sys2Proof.Machine

/-- Change the fabric state. -/
def State.modFabric (s : State) (f : Fabric → Fabric) : State := { s with fabric := f s.fabric }

/-! ### Packets (R455, R456) -/

def tyWrite : Byte := 0x01
def tyRead : Byte := 0x02
def tyReadData : Byte := 0x03
def tyAck : Byte := 0x04
def tyNack : Byte := 0x05
def tyExchange : Byte := 0x06
def tyColl : Byte := 0x07
def tyTime : Byte := 0x08
def tyRoute : Byte := 0x09
def tyMsg : Byte := 0x0A

/-- This node's ID. -/
def State.self (s : State) : Node := Fin.ofNat 512 (s.regBits .uagNode 0 0 9)

/-- UAG_NODE.VALID. -/
def State.nodeValid (s : State) : Bool := bitOf (s.reg .uagNode) 31

/-! ### Routes (R471, R472) -/

/-- Candidate `b` (false A, true B) of a destination: its port, where EN is set. -/
def State.candidate (s : State) (dst : Node) (b : Bool) : Option PortNo :=
  let r := s.reg .uagRoute dst.val
  if bitOf r (if b then 7 else 3) then some (Fin.ofNat 8 (bitsOf r (if b then 4 else 0) 3)) else none

/-- A port can carry traffic for a destination: ON, and no withdrawal has arrived on it. -/
def State.portUsable (s : State) (u : PortNo) (dst : Node) : Bool :=
  decide ((s.port u).fn.st = .on) && !(s.port u).withdrawn.contains dst

/-- USABLE_A or USABLE_B: the usable candidate. -/
def State.usable (s : State) (dst : Node) (b : Bool) : Option PortNo :=
  (s.candidate dst b).filter (fun u => s.portUsable u dst)

/-- The destination has a usable candidate. -/
def State.reachable (s : State) (dst : Node) : Bool := (s.usable dst false).isSome || (s.usable dst true).isSome

/-- Free credits of a port's neighbour in a VC. -/
def Port.creditOf (p : Port) (vc : Nat) : Nat := p.credits.getD vc 0

/-- DL of a packet that leaves by candidate `b` (R473); `from_` is the port it arrived on. -/
def State.leaveDl (s : State) (k : Packet) (b : Bool) (u : PortNo) (from_ : Option PortNo) : Bool :=
  let dim (u : PortNo) : Nat := s.regBits .uagPortCtrl u.val 3 2
  let kept := match from_ with
    | some q => k.dl && decide (dim q = dim u)
    | none => false
  kept || bitOf (s.reg .uagRoute k.dst.val) (if b then 9 else 8)

/-- The candidate a packet leaves by (R472): its port and whether it is B. -/
def State.choose (s : State) (k : Packet) (from_ : Option PortNo) : Option (PortNo × Bool) :=
  match s.usable k.dst false, s.usable k.dst true with
  | some a, some b =>
    if k.tc = 0 || !bitOf (s.reg .uagRoute k.dst.val) 10 then some (a, false)
    else
      let free (u : PortNo) (x : Bool) : Nat :=
        (s.port u).creditOf ({ k with dl := s.leaveDl k x u from_ } : Packet).vc
      if free a false < free b true then some (b, true) else some (a, false)
  | some a, none => some (a, false)
  | none, some b => some (b, true)
  | none, none => none

/-! ### Sending (R441 to R454) -/

/-- Flits of a retry buffer (R445). -/
def retryFlits : Nat := 4096

/-- What the registers say of turns: this node, the weights of TC1 to TC3, and the injection weights of the partitions. -/
structure Turns where
  self : Node
  tc : List Nat
  part : List Nat
deriving DecidableEq, Repr, Inhabited

/-- What is left of the turn of partition `q` in class `tc`. -/
def Port.share (p : Port) (tc q : Nat) : Int := dget p.shares (16 * tc + q) 0

/-- The oldest packet that this node injects, of the partition whose turn it is among those with packets, with the turns left
(R641); a partition of weight 0 goes only where no other has packets (R249). -/
def Port.ownFirst (p : Port) (w : Turns) (tc : Nat) (own : List Packet) : Option (Packet × Port) :=
  let all := (List.range 16).filter (fun q => own.any (fun k => decide (k.part.val = q)))
  let paid := all.filter (fun q => decide (w.part.getD q 0 ≠ 0))
  let ready := if paid.isEmpty then all else paid
  let due (x : Port) : Option Nat := ready.find? (fun q => decide (0 < x.share tc q))
  let of (q : Option Nat) (x : Port) : Option (Packet × Port) :=
    (q.bind (fun q => own.find? (fun k => decide (k.part.val = q)))).map (fun k => (k, x))
  match due p with
  | some q => of (some q) p
  | none =>
    let x := { p with shares := ready.foldl (fun m q =>
      let v : Int := w.part.getD q 0
      dset m (16 * tc + q) (min v (p.share tc q + v))) p.shares }
    of ((due x).or ready.head?) x

/-- The packet of a VC that goes first, with credits for the whole of it, and the turns left (R452, R454); what this node injects and
what is in transit alternate by units (R641). -/
def Port.first (p : Port) (w : Turns) (vc : Nat) : Option (Packet × Port) :=
  let ks := p.out.filter (fun k => decide (k.vc = vc))
  let transit := ks.find? (fun k => decide (k.src ≠ w.self))
  let own := p.ownFirst w (vc / 2) (ks.filter (fun k => decide (k.src = w.self)))
  let pick : Option (Packet × Port) := match transit, own with
    | some k, some o => if 0 < p.lead.getD (vc / 2) 0 then some (k, p) else some o
    | some k, none => some (k, { p with lead := modAt p.lead (vc / 2) (fun _ => 0) })
    | none, some o => some (o.1, { o.2 with lead := modAt p.lead (vc / 2) (fun _ => 0) })
    | none, none => none
  pick.filter (fun x => decide (x.1.credits ≤ p.creditOf vc))
where
  /-- Change entry `i` of a list. -/
  modAt (xs : List Int) (i : Nat) (f : Int → Int) : List Int := xs.zipIdx.map (fun x => if x.2 = i then f x.1 else x.1)

/-- The packet of a class that goes next: its VCs alternate (R454). -/
def Port.nextOf (p : Port) (w : Turns) (tc : Nat) : Option (Packet × Port) :=
  let odd := p.alt.getD tc false
  match p.first w (2 * tc + (if odd then 1 else 0)) with
  | some k => some k
  | none => p.first w (2 * tc + (if odd then 0 else 1))

/-- The class that is served next: TC0 first, then the weighted round robin of TC1 to TC3 (R454), and the turns left. -/
def Port.serve (p : Port) (w : Turns) : Option (Nat × Port) :=
  if (p.nextOf w 0).isSome then some (0, p)
  else
    let ready := [1, 2, 3].filter (fun c => (p.nextOf w c).isSome)
    let due (x : Port) : Option Nat := ready.find? (fun c => decide (0 < x.wrr.getD (c - 1) 0))
    match due p with
    | some c => some (c, p)
    | none =>
      -- a new round: each class gets its weight in units of 64 B
      let x := { p with wrr := (List.range 3).map (fun i => min (w.tc.getD i 0 : Int) (p.wrr.getD i 0 + w.tc.getD i 0)) }
      match due x with
      | some c => some (c, x)
      | none => ready.head?.map (fun c => (c, x))

/-- Put a packet on the wire: DATA flits into the retry buffer; the rest of its last flit is padding (R443; a packet
begins a new flit: DESIGN CHOICE, log entry 21). -/
def Port.transmit (p : Port) (w : Turns) (k : Packet) : Port :=
  let bs := k.bytes
  let n := (bs.length + 241) / 242
  let flits := (List.range n).map (fun i =>
    ({ fseq := p.txSeq + BitVec.ofNat 16 i, ack := p.rxSeq, vc := 0, ftype := .data, credits := 0,
       payload := padTo (sliceAt bs (242 * i) 242) 242, fcrc := 0 } : Flit).seal)
  { p with out := p.out.erase k, txSeq := p.txSeq + BitVec.ofNat 16 n, retry := p.retry ++ flits.map (fun f => (f, 0)),
           wire := flits.reverse ++ p.wire, credits := modAt p.credits k.vc (· - k.credits), unacked := 0,
           wrr := if k.tc = 0 then p.wrr else modAt p.wrr (k.tc.val - 1) (· - k.credits),
           alt := modAt p.alt k.tc.val (fun _ => !k.dl),
           shares := if k.src = w.self then dset p.shares (16 * k.tc.val + k.part.val) (p.share k.tc.val k.part.val - k.credits) else p.shares,
           lead := modAt p.lead k.tc.val (fun n => if k.src = w.self then n + k.credits else n - k.credits) }
where
  /-- Change entry `i` of a list. -/
  modAt {α : Type} (xs : List α) (i : Nat) (f : α → α) : List α := xs.zipIdx.map (fun x => if x.2 = i then f x.1 else x.1)

/-- Send what a port can send. -/
def Port.pump (w : Turns) : Nat → Port → Port
  | 0, p => p
  | n + 1, p =>
    match p.serve w with
    | none => p
    | some (c, q) =>
      match q.nextOf w c with
      | none => p
      | some (k, x) =>
        if retryFlits < q.retry.length + (packetSize k.payload.length + 241) / 242 then p
        else Port.pump w n (x.transmit w k)

/-- Send what port `u` can send, while it is ON. -/
def State.pump (s : State) (u : PortNo) : State :=
  if (s.port u).fn.st = .on || (s.port u).fn.st = .quiescing then
    let w : Turns := ⟨s.self, [s.regBits .uagTcWeight 0 0 4, s.regBits .uagTcWeight 0 4 4, s.regBits .uagTcWeight 0 8 4],
      (List.range 16).map (fun q => s.regBits .partFabric q 0 4)⟩
    s.modPort u (fun p => Port.pump w p.out.length p)
  else s

/-- Queue a packet on a port, with the links it has crossed. -/
def State.enqueue (s : State) (u : PortNo) (k : Packet) : State :=
  (s.modPort u (fun p => { p with out := p.out ++ [{ k with hops := k.hops + 1 }] })).pump u

/-- Route a packet: injected here, or in transit from a port. Without a usable candidate it is discarded at a transit node
(R476); a source holds its own (R467). -/
def State.route (s : State) (k : Packet) (from_ : Option PortNo) : State :=
  match s.choose k from_ with
  | some (u, b) => s.enqueue u { k with dl := s.leaveDl k b u from_ }
  | none => s

/-! ### End to end (R463 to R470) -/

/-- A transfer of this node: destination, class and XID in one number. -/
def xidKey (dst : Node) (tc : Fin 4) (xid : W32) : Nat := (4 * dst.val + tc.val) * 2 ^ 32 + xid.toNat

/-- A packet of this node. -/
def State.makePacket (s : State) (typ : Byte) (tc : Fin 4) (dst : Node) (p : Part) (xid : W32) (addr : W64) (arg : W32)
    (payload : List Byte) : Packet :=
  let k : Packet := { typ := typ, tc := tc, dl := false, resend := false, reservedZero := true, dst := dst, src := s.self,
                      part := p, hops := 0, xid := xid, addr := addr, arg := arg, payload := payload, ecrc := 0 }
  { k with ecrc := k.makeEcrc }

/-- Send a packet that is not acknowledged. -/
def State.sendPlain (s : State) (typ : Byte) (tc : Fin 4) (dst : Node) (p : Part) (xid : W32) (addr : W64) (arg : W32)
    (payload : List Byte) : State :=
  if s.fabric.fenced.contains dst then s else s.route (s.makePacket typ tc dst p xid addr arg payload) none

/-- Record the outcome of a transfer. -/
def State.answer (s : State) (key : Nat) (st : W16) (data : List Byte) : State :=
  s.modFabric (fun f => { f with answers := dset f.answers key (st, data) })

/-- Send an acknowledged packet, kept until its acknowledgement (R463 to R467); one to a fenced node fails at once (R495).
Answers its key. -/
def State.sendAcked (s : State) (typ : Byte) (tc : Fin 4) (dst : Node) (p : Part) (addr : W64) (arg : W32)
    (payload : List Byte) (run : Option (Part × W32) := none) : Nat × State :=
  let i := 4 * dst.val + tc.val
  let xid := dget s.fabric.xids i 0
  let key := xidKey dst tc xid
  if s.fabric.fenced.contains dst then (key, s.answer key stNodeLost [])
  else
    let k := s.makePacket typ tc dst p xid addr arg payload
    let s := s.modFabric (fun f => { f with
      xids := dset f.xids i (xid + 1),
      held := f.held ++ [{ pkt := k, sentAt := s.now, waiting := !s.reachable dst, run := run }] })
    (key, s.route k none)

/-- Key of a held packet. -/
def Held.key (h : Held) : Nat := xidKey h.pkt.dst h.pkt.tc h.pkt.xid

/-- A transfer is still unacknowledged. -/
def State.unacked (s : State) (key : Nat) : Bool := s.fabric.held.any (fun h => decide (h.key = key))

/-- Take a transfer's outcome, if it has one. -/
def State.outcome? (s : State) (key : Nat) : Option (W16 × List Byte) := dget? s.fabric.answers key

/-- Forget outcomes that have been used. -/
def State.dropAnswers (s : State) (keys : List Nat) : State :=
  s.modFabric (fun f => { f with answers := keys.foldl derase f.answers })

/-- Send again the held packets of a destination whose route has returned (R467). -/
def State.resendWaiting (s : State) (dst : Node) : State :=
  let hs := s.fabric.held.filter (fun h => decide (h.pkt.dst = dst) && h.waiting)
  let s := s.modFabric (fun f => { f with held := f.held.map (fun h => if h.pkt.dst = dst then { h with waiting := false } else h) })
  hs.foldl (fun s h => s.route h.pkt none) s

/-! ### Usability changes (R476 to R478, R493) -/

/-- A ROUTE payload (R477): node IDs of 2 bytes, bit 15 set for a restoration. -/
def routePayload (ds : List (Node × Bool)) : List Byte := ds.flatMap (fun x => leBytes 2 (x.1.val + if x.2 then 32768 else 0))

/-- Send a ROUTE packet to the neighbour on each ON port, for up to 64 destinations. -/
def State.announceRoutes (s : State) (ds : List (Node × Bool)) : State :=
  if ds.isEmpty then s
  else
    (allPorts.filter (fun u => decide ((s.port u).fn.st = .on))).foldl (fun s u =>
      (blocks ds).foldl (fun s b => s.enqueue u (s.makePacket tyRoute 0 (s.port u).neighbour 0 0 0 0 (routePayload b))) s) s
where
  /-- Cut into lists of 64. -/
  blocks (ds : List (Node × Bool)) : List (List (Node × Bool)) :=
    (List.range ((ds.length + 63) / 64)).map (fun i => (ds.drop (64 * i)).take 64)

/-- All destinations with a route entry in force, this node left out. -/
def State.destinations (s : State) : List Node :=
  (List.finRange 512).filter (fun n => decide (n ≠ s.self) && ((s.candidate n false).isSome || (s.candidate n true).isSome))

/-- Follow a change of usability from state `old` (R477, R493): destinations that have lost their last usable candidate
start their grace timer, those that have one again cancel it and get their held packets; the neighbours are told. -/
def State.followRoutes (s old : State) : State :=
  let ds := (List.finRange 512).filter (fun n => decide (n ≠ s.self) && decide (s.reachable n ≠ old.reachable n))
  let s := ds.foldl (fun (s : State) n =>
    if s.reachable n then
      (s.modFabric (fun f => { f with losing := derase f.losing n.val })).resendWaiting n
    else
      s.modFabric (fun f => { f with losing := if f.fenced.contains n then f.losing else dset f.losing n.val s.now })) s
  s.announceRoutes (ds.map (fun n => (n, s.reachable n)))

/-! ### Receiving flits (R440 to R449, R452, R453) -/

/-- Cut whole packets out of received bytes: a zero byte where a packet would begin is padding to the end (R443). -/
def cutPackets : Nat → List Byte → List (List Byte) × List Byte
  | 0, bs => ([], bs)
  | n + 1, bs =>
    match bs with
    | [] => ([], [])
    | b :: _ =>
      if b = 0 then ([], [])
      else if bs.length < 32 then ([], bs)
      else
        let size := packetSize (fieldAt bs 8 2)
        if bs.length < size then ([], bs)
        else
          let r := cutPackets n (bs.drop size)
          (bs.take size :: r.1, r.2)

/-- The other end has accepted every flit up to `ack`: they leave the retry buffer (R445). -/
def Port.acked (p : Port) (ack : W16) : Port :=
  { p with retry := p.retry.filter (fun x => decide ((x.1.fseq - ack - 1).toNat < 32768)) }

/-- Send an IDLE or NAK flit; an IDLE flit returns the credits freed in one VC (R442, R444, R453). -/
def Port.sendControl (p : Port) (t : FlitType) : Port :=
  let vc := (p.freed.findIdx? (fun n => decide (0 < n))).getD 0
  let n := if t = .idle then min (p.freed.getD vc 0) 4095 else 0
  { p with wire := ({ fseq := p.txSeq, ack := p.rxSeq, vc := Fin.ofNat 8 vc, ftype := t, credits := n,
                      payload := List.replicate 242 0, fcrc := 0 } : Flit).seal :: p.wire,
           freed := p.freed.zipIdx.map (fun x => if x.2 = vc then x.1 - n else x.1), unacked := 0 }

/-- Refuse a flit: a NAK naming the last flit accepted, unless one is out (R446). -/
def Port.nak (p : Port) : Port := if p.nakOut then p else { p.sendControl .nak with nakOut := true }

/-- Replay every flit after the one named (R447). -/
def Port.replay (p : Port) : Port :=
  { p with retry := p.retry.map (fun x => (x.1, x.2 + 1)), wire := (p.retry.map Prod.fst).reverse ++ p.wire }

/-- A whole packet that is received leaves its buffer: its credits are freed (R453). -/
def Port.takeRx (p : Port) (k : Packet) : Port :=
  let b := k.bytes
  if p.rx.contains b then
    { p with rx := p.rx.erase b, freed := p.freed.zipIdx.map (fun x => if x.2 = k.vc then x.1 + k.credits else x.1) }
  else p

end Sys2Proof.Machine
end

