-- ==== Sys2Proof/Machine/Carousel.lean ====
section
/-! DEFINITION. Scratchpads, carousels, the order in which a stream visits its units, and where a unit's bytes lie
(chapter 03, and R298 to R307 for paged streams). -/

namespace Sys2Proof.Machine

/-! ### Scratchpad (R90, R91) -/

/-- Read `n` bytes of tile `t`'s scratchpad. -/
def State.padRead (s : State) (t a n : Nat) : List Byte := s.mem.readBytes (windowOf t + a % padBytes) n

/-- Write bytes of tile `t`'s scratchpad. -/
def State.padWrite (s : State) (t a : Nat) (bs : List Byte) : State :=
  { s with mem := s.mem.writeBytes (windowOf t + a % padBytes) bs }

/-! ### Carousels (R115 to R128, R976) -/

/-- Scratchpad address of row `r` of the slot that pointer `ptr` names (R115, R116, R120). -/
def CarouselCfg.rowAddr (c : CarouselCfg) (ptr r : Nat) : Nat :=
  let n := ptr % c.slots * c.slotRows + r
  if c.interleaved then
    let span := 2 ^ c.log2Span
    (c.bank + n % span) * 2 ^ 18 + (c.baseRow + n / span) * 256
  else c.bank * 2 ^ 18 + (c.baseRow + n) * 256

/-- Cut the byte range from `off` of `n` bytes at row boundaries: row, byte within it, length. -/
def rowPieces (off n : Nat) : List (Nat × Nat × Nat) :=
  (List.range ((off % 256 + n + 255) / 256)).map (fun i =>
    let lo := max off ((off / 256 + i) * 256)
    let hi := min (off + n) ((off / 256 + i + 1) * 256)
    (lo / 256, lo % 256, hi - lo))

/-- Read `n` bytes of a slot from byte `off` on. -/
def State.slotRead (s : State) (t : Nat) (c : CarouselCfg) (ptr off n : Nat) : List Byte :=
  (rowPieces off n).flatMap (fun x => s.padRead t (c.rowAddr ptr x.1 + x.2.1) x.2.2)

/-- Scratchpad addresses of the segments that hold `n` bytes of a slot from byte `off` on (R91). -/
def CarouselCfg.segments (c : CarouselCfg) (ptr off n : Nat) : List Nat :=
  (List.range ((off % 32 + n + 31) / 32)).map (fun i => (c.rowAddr ptr ((off / 32 + i) / 8) + 32 * ((off / 32 + i) % 8)) % padBytes)

/-- Write bytes of a slot from byte `off` on. -/
def State.slotWrite (s : State) (t : Nat) (c : CarouselCfg) (ptr off : Nat) (bs : List Byte) : State :=
  (rowPieces off bs.length).foldl (fun s x => s.padWrite t (c.rowAddr ptr x.1 + x.2.1)
    (sliceAt bs (256 * x.1 + x.2.1 - off) x.2.2)) s

/-- The stamp that is current for a pointer (R122). -/
def stampFor (c : CarouselCfg) (ptr : Nat) : Nat := ptr / c.slots % 255 + 1

/-- Number of FILLs and DRAINs that the slot of `ptr` carries. -/
def Carousel.busyCount (c : Carousel) (ptr : Nat) : Nat := dget c.busy (ptr % c.cfg.slots) 0

/-- The slot of `ptr` is BUSY. -/
def Carousel.isBusy (c : Carousel) (ptr : Nat) : Bool := decide (0 < c.busyCount ptr)

/-- A FILL or DRAIN takes the slot of `ptr`. -/
def Carousel.take (c : Carousel) (ptr : Nat) : Carousel :=
  { c with busy := dset c.busy (ptr % c.cfg.slots) (c.busyCount ptr + 1) }

/-- A FILL or DRAIN leaves the slot of `ptr`; BUSY clears with the last (R976). -/
def Carousel.release (c : Carousel) (ptr : Nat) : Carousel :=
  if c.busyCount ptr ≤ 1 then { c with busy := derase c.busy (ptr % c.cfg.slots) }
  else { c with busy := dset c.busy (ptr % c.cfg.slots) (c.busyCount ptr - 1) }

/-- Stamp the slot of `ptr` as current (R123, R124). -/
def Carousel.stamp (c : Carousel) (ptr : Nat) : Carousel :=
  { c with stamps := dset c.stamps (ptr % c.cfg.slots) (stampFor c.cfg ptr) }

/-- An engine read or a DRAIN addresses the slot of `ptr`: an underrun where it is neither BUSY nor current (R128). -/
def Carousel.touch (c : Carousel) (ptr : Nat) : Carousel :=
  if !c.isBusy ptr && decide (dget c.stamps (ptr % c.cfg.slots) 0 ≠ stampFor c.cfg ptr) then { c with underruns := c.underruns + 1 }
  else c

/-- Count an overrun where TAIL leads HEAD by more than SLOTS (R127). -/
def Carousel.checkOverrun (c : Carousel) : Carousel :=
  if (c.cfg.slots : Int) < (c.tail - c.head).toInt then { c with overruns := c.overruns + 1 } else c

/-- A pointer `n` slots ahead: the counters run free in 32 bits (R119). -/
def ptrPlus (p : W32) (n : Nat) : Nat := (p + BitVec.ofNat 32 n).toNat

/-- Change carousel `i` of a list. -/
def modAt {α : Type} (xs : List α) (i : Nat) (f : α → α) : List α := xs.zipIdx.map (fun x => if x.2 = i then f x.1 else x.1)

/-! ### Streams (R146 to R153) -/

/-- Number of units a stream visits. -/
def Stream.total (x : Stream) : Nat := x.innerCount * x.outerCount

/-- The unit at position `i` of a stream's order (R147), exact. -/
def Stream.unitAt (x : Stream) (i : Nat) : Int :=
  x.first + (i / x.innerCount : Nat) * x.outerStride + (i % x.innerCount : Nat) * x.innerStride

/-- The least and greatest unit a stream can visit: at the corners of its two loops. -/
def Stream.bounds (x : Stream) : Int × Int :=
  let a := x.first
  let b : Int := ((x.innerCount : Int) - 1) * x.innerStride
  let c : Int := ((x.outerCount : Int) - 1) * x.outerStride
  (a + min 0 b + min 0 c, a + max 0 b + max 0 c)

/-- A paged stream (R304), and whether it reads V. -/
def Stream.paged (x : Stream) : Bool := x.base.getLsbD 63
def Stream.pagedV (x : Stream) : Bool := x.base.getLsbD 62

/-- Node of a global address. -/
def nodeOf (a : W64) : Node := Fin.ofNat 512 (bitsOf a.toNat 48 9)

/-- DPA of a global address. -/
def dpaOf (a : W64) : Nat := a.toNat % 2 ^ 48

/-- The global address of a DPA of this package: it carries this node's ID in bits [56:48]. -/
def State.globalOf (s : State) (dpa : Nat) : Nat := s.regBits .uagNode 0 0 9 * 2 ^ 48 + dpa

/-- Scale bytes of a unit (R150). -/
def Stream.scaleBytes (x : Stream) (b : Nat) : Nat :=
  if scaleGroup x.format b = 0 then 0 else x.unitBytes * 8 / (elemBits x.format * scaleGroup x.format b)

/-- Rows of a unit's data. -/
def rowsOf (n : Nat) : Nat := (n + 255) / 256

/-- Byte offset of the scale rows in a slot of `slotRows` rows (R151): they are its last rows. -/
def Stream.scaleOff (x : Stream) (slotRows b : Nat) : Nat := 256 * (slotRows - rowsOf (x.scaleBytes b))

/-- Blocks of a panel (R51). -/
def panelBlocks (b : Nat) : Nat := 2048 / b

/-- CORR is read for a run at this width (R58). -/
def LbpHeader.readsCorr (h : LbpHeader) (w : Nat) : Bool := h.corr && decide (w < h.wStore)

/-- Rows that a stream's unit occupies, an LBP unit at width `w` (R151, R152). -/
def Stream.rows (x : Stream) (b w : Nat) : Nat :=
  if x.kind = 1 then w + 1 + (match x.header with | some h => if h.offset then 1 else 0 | none => 0)
  else rowsOf x.unitBytes + rowsOf (x.scaleBytes b)

/-- Regions of a KV frame (R298): offsets of K data, K scales, V data, V scales, and the end. -/
def kvRegions (fmt b kv vv : Nat) : Nat × Nat × Nat × Nat × Nat :=
  let a := if fmt = 1 then 4 else 8
  let up (n : Nat) : Nat := (n + 255) / 256 * 256
  let ks := up (128 * kv * a / 8)
  let vd := up (ks + if fmt ≤ 1 then 128 * kv / b else 0)
  let vs := up (vd + vv * 128 * a / 8)
  (0, ks, vd, vs, vs + if fmt ≤ 1 then vv * 128 / b else 0)

/-- The frame of page `n` in a snapshot: published, with its DPA (R301, R302). `blocks` are the list blocks that the run has read. -/
def State.pageFrame (s : State) (blocks : Dict (List Byte)) (x : Snapshot) (n : Nat) : Option Nat :=
  if n < x.pages then
    match x.lists.getD (n / 512) none with
    | some l =>
      let e := match dget? blocks l with
        | some b => fieldAt b (8 * (n % 512)) 8
        | none => leNat (s.readDpa (l + 8 * (n % 512)) 8)
      if bitOf e 48 then some (e % 2 ^ 48) else none
    | none => none
  else none

/-- The list block that names the page of unit `u` of a paged stream (R302, R306). -/
def Stream.blockOf (x : Stream) (u : Nat) : Option Nat :=
  if x.paged then
    x.snapshot.bind (fun d =>
      let n := u / (if x.pagedV then d.vValues else 128)
      if n < d.pages then d.lists.getD (n / 512) none else none)
  else none

/-- A piece of a unit: global address, bytes, and byte offset in the slot. -/
abbrev Piece := Nat × Nat × Nat

/-- The pieces of unit `u` of a stream in a slot of `slotRows` rows at block length `b` (R148 to R153, R306); `none` for a
page that is not published (R307). -/
def State.unitPieces (s : State) (x : Stream) (u slotRows b : Nat) : Option (List Piece) :=
  if x.paged then
    match x.snapshot with
    | some d =>
      let b := blockLenOf d.blockLen
      let g := kvRegions d.kvFmt b d.kValues d.vValues
      let a := if d.kvFmt = 1 then 4 else 8
      let per := if x.pagedV then d.vValues else 128
      let i := u % per
      ((s.pageFrame x.blocks d (u / per)).map s.globalOf).map (fun f =>
        let scales := if d.kvFmt ≤ 1 then (if x.pagedV then 128 / b else d.kValues / b) else 0
        if x.pagedV then
          (f + g.2.2.1 + i * (128 * a / 8), 16 * a, 0) :: (if scales = 0 then [] else [(f + g.2.2.2.1 + i * scales, scales, x.scaleOff slotRows b)])
        else
          (f + i * (d.kValues * a / 8), d.kValues * a / 8, 0) ::
            (if scales = 0 then [] else [(f + g.2.1 + i * scales, scales, x.scaleOff slotRows b)]))
    | none => none
  else if x.kind = 1 then
    match x.header with
    | some h =>
      let p := panelBlocks b
      let n := min p (h.kBlocks * h.n - u * p)
      let last := 256 * (slotRows - 1)
      -- the bases of the header are DPAs of this package (R52, R55)
      let g := s.globalOf
      some ((List.range x.width).map (fun r => (g (h.planeBase + (u * h.wStore + r) * 256), 256, 256 * r)) ++
        (if h.offset then [(g (h.offsetBase + u * p), n, last - 256)] else []) ++ [(g (h.scaleBase + u * p), n, last)] ++
        (if h.readsCorr x.width then [(g (h.corrBase + u * p), n, last + 128)] else []))
    | none => none
  else
    let sc := x.scaleBytes b
    some ((x.base.toNat + u * x.unitBytes, x.unitBytes, 0) ::
      (if sc = 0 then [] else [(x.auxBase.toNat + u * sc, sc, x.scaleOff slotRows b)]))

end Sys2Proof.Machine
end

