-- ==== Sys2Proof/Machine/Pages.lean ====
section
/-! DEFINITION. KV pages as bytes: the drift block, quantising a page, a page's layout in its frame, the re-encoding of a LOSSY ice
core, and the bytes of page tables (R295 to R303, R319, R324, R344, R345, R349). -/

namespace Sys2Proof.Machine

/-! ### What a model program fixes (R296, R297, R299, R364) -/

/-- Bytes of a frame (R299, R300). -/
def frameBytes (code : Nat) : Nat := 16384 * 2 ^ code

/-- Format code of a KV_FMT code (R305). -/
def kvFormat (k : Nat) : Nat := if k = 0 then 0x00 else if k = 1 then 0x01 else if k = 2 then 0x04 else 0x05

/-- KV pages of a KV_FMT code have scale regions (R298). -/
def kvScaled (k : Nat) : Bool := decide (k ≤ 1)

/-- Bytes of a page's layout, up to the end of V scales (R298). -/
def pageBytes (m : ModelInfo) : Nat := (kvRegions m.kvFmt (blockLenOf m.blockLen) m.kValues m.vValues).2.2.2.2

/-- The bounds that the manual sets a model program: KV format, block length, values per position and frame size, and the experts
and choices of each expert layer. -/
def modelBounds (m : ModelInfo) : Bool :=
  decide (m.kvFmt ≤ 3) && decide (m.blockLen ≤ 3) && decide (m.frame ≤ 4) && decide (m.kValues % 64 = 0) && decide (64 ≤ m.kValues) &&
    decide (m.kValues ≤ 4096) && decide (m.vValues % 64 = 0) && decide (64 ≤ m.vValues) && decide (m.vValues ≤ 4096) &&
    decide (pageBytes m ≤ frameBytes m.frame) &&
    m.expertShapes.all (fun x => decide (1 ≤ x.experts) && decide (x.experts ≤ 4096) && decide (1 ≤ x.choices) && decide (x.choices ≤ 16))

/-! ### Keys and values of positions (R319, R324) -/

/-- The exact values of BF16 codes. -/
def bf16Values (ws : List W16) : List FVal := ws.map (fun w => bf16.decode w.toNat)

/-- BF16 codes as bytes, and back. -/
def bf16Bytes (ws : List W16) : List Byte := ws.flatMap (fun w => leBytes 2 w.toNat)
def bf16Words (bs : List Byte) : List W16 := (piecesOf 2 bs).map (fun b => BitVec.ofNat 16 (leNat b))

/-- Values of `n` channels at 128 positions, position by position, taken channel by channel. -/
def byChannel {α : Type} (zero : α) (n : Nat) (xs : List α) : List α :=
  (List.range n).flatMap (fun c => (List.range 128).map (fun t => xs.getD (n * t + c) zero))

/-- DPA of the K entry and of the V entry of a position in a layer's drift block (R319). -/
def driftK (m : ModelInfo) (drift p : Nat) : Nat := drift + 2 * m.kValues * (p % 128)
def driftV (m : ModelInfo) (drift p : Nat) : Nat := drift + 256 * m.kValues + 2 * m.vValues * (p % 128)

/-- Bytes of a drift block (R319). -/
def driftBytes (m : ModelInfo) : Nat := 256 * (m.kValues + m.vValues)

/-! ### Pages (R298, R324) -/

/-- Quantise values in blocks of `b` in their order (R324): data and scale bytes. `mx` is the largest finite value of the source. -/
def encodeKv (fmt b : Nat) (mx : Nat × Int) (xs : List FVal) : List Byte × List Byte :=
  if kvScaled fmt then
    let a := if fmt = 1 then 4 else 8
    let qs := (piecesOf b xs).map (fun x => quantise x a mx)
    (packBits a (qs.flatMap (fun q => q.2.map (wrapTo a))), qs.map (fun q => BitVec.ofNat 8 q.1))
  else (xs.map (fun x => BitVec.ofNat 8 ((elemFmt (kvFormat fmt)).encodeSat 0x7F x)), [])

/-- The four regions of a page, laid out as in a frame up to the end of V scales (R298). -/
def pageLayout (m : ModelInfo) (k v : List Byte × List Byte) : List Byte :=
  let g := kvRegions m.kvFmt (blockLenOf m.blockLen) m.kValues m.vValues
  padTo k.1 g.2.1 ++ padTo k.2 (g.2.2.1 - g.2.1) ++ padTo v.1 (g.2.2.2.1 - g.2.2.1) ++ padTo v.2 (g.2.2.2.2 - g.2.2.2.1)

/-- A page from exact values, K position by position and V channel by channel (R324). -/
def pageOfValues (m : ModelInfo) (mx : Nat × Int) (ks vs : List FVal) : List Byte :=
  let b := blockLenOf m.blockLen
  pageLayout m (encodeKv m.kvFmt b mx ks) (encodeKv m.kvFmt b mx vs)

/-- A page from the BF16 keys and values of its 128 positions, each position by position (R324, R326). -/
def pageImage (m : ModelInfo) (ks vs : List W16) : List Byte :=
  pageOfValues m (sourceMax 0x06) (bf16Values ks) (byChannel (.fin false 0 0) m.vValues (bf16Values vs))

/-- The exact values of a page: K position by position, V channel by channel. -/
def pageValues (m : ModelInfo) (page : List Byte) : List FVal × List FVal :=
  let b := blockLenOf m.blockLen
  let g := kvRegions m.kvFmt b m.kValues m.vValues
  let f := kvFormat m.kvFmt
  (decodeValues f (page.take g.2.1) (sliceAt page g.2.1 (g.2.2.1 - g.2.1)) (128 * m.kValues) b,
   decodeValues f (sliceAt page g.2.2.1 (g.2.2.2.1 - g.2.2.1)) (page.drop g.2.2.2.1) (128 * m.vValues) b)

/-! ### Pages in an ice core (R344, R345, R349, R357) -/

/-- The largest finite value of a KV format as a source of R69. -/
def kvSourceMax (fmt : Nat) : Nat × Int := sourceMax (kvFormat fmt)

/-- A page re-encoded at width `b`: the values of every K block and then of every V block as one bit stream, then their scale bytes
in the same order (R344; log entry 103). -/
def lossyPage (m : ModelInfo) (b : Nat) (page : List Byte) : List Byte :=
  let v := pageValues m page
  let qs := (piecesOf (blockLenOf m.blockLen) v.1 ++ piecesOf (blockLenOf m.blockLen) v.2).map (fun x => quantise x b (kvSourceMax m.kvFmt))
  packBits b (qs.flatMap (fun q => q.2.map (wrapTo b))) ++ qs.map (fun q => BitVec.ofNat 8 q.1)

/-- Bytes of a re-encoded page. -/
def lossyBytes (m : ModelInfo) (b : Nat) : Nat :=
  let n := blockLenOf m.blockLen
  (128 * (m.kValues + m.vValues) * b + 7) / 8 + (128 * m.kValues + n - 1) / n + (128 * m.vValues + n - 1) / n

/-- A page rebuilt from its re-encoded form: decoded to exact values and quantised into KV_FMT (R357). -/
def unlossyPage (m : ModelInfo) (b : Nat) (bs : List Byte) : List Byte :=
  let n := blockLenOf m.blockLen
  let count := 128 * (m.kValues + m.vValues)
  let scales := bs.drop ((count * b + 7) / 8)
  let kBlocks := (128 * m.kValues + n - 1) / n
  let value (i code : Nat) : FVal :=
    let j := if i < 128 * m.kValues then i / n else kBlocks + (i - 128 * m.kValues) / n
    let sc := (scales.getD j 0).toNat
    if sc = 0xFF then .nan else ofInt (signedOf b code) ((sc : Int) - 127)
  let xs := (unpack bs b count).zipIdx.map (fun x => value x.2 x.1)
  pageOfValues m (kvSourceMax m.kvFmt) (xs.take (128 * m.kValues)) (xs.drop (128 * m.kValues))

/-- Bits as bytes, least significant bit first. -/
def bitBytes (bs : List Bool) : List Byte := packBits 1 (bs.map Bool.toNat)

/-- A page of a layer of `pages` pages is stored verbatim: every page when LOSSLESS (`b` = 0), else the newest `keep` published
pages (R345). `on` says which pages are published. -/
def keptVerbatim (b keep : Nat) (on : List Bool) (n : Nat) : Bool :=
  decide (b = 0) || decide (((on.drop (n + 1)).filter id).length < keep)

/-- A layer section before its compression (R349): a bitmap of published pages, then their encodings in page order. -/
def layerSection (m : ModelInfo) (b keep : Nat) (pages : List (Option (List Byte))) : List Byte :=
  let on := pages.map Option.isSome
  bitBytes on ++ pages.zipIdx.flatMap (fun x => match x.1 with
    | some y => if keptVerbatim b keep on x.2 then padTo y (pageBytes m) else lossyPage m b y
    | none => [])

/-- Cut a layer section's encodings into pages; `none` where it is too short. -/
def readPages (m : ModelInfo) (b keep : Nat) (on : List Bool) : List Nat → List Byte → Option (List (Option (List Byte)))
  | [], _ => some []
  | n :: ns, bs =>
    if !on.getD n false then (readPages m b keep on ns bs).map (none :: ·)
    else
      let whole := keptVerbatim b keep on n
      let size := if whole then pageBytes m else lossyBytes m b
      if bs.length < size then none
      else
        let page := if whole then bs.take size else unlossyPage m b (bs.take size)
        (readPages m b keep on ns (bs.drop size)).map (some page :: ·)

/-- The pages of a layer section of `n` pages (R349, R357). -/
def sectionPages (m : ModelInfo) (b keep n : Nat) (bs : List Byte) : Option (List (Option (List Byte))) :=
  let on := (List.range n).map (fun i => bitOf (bs.getD (i / 8) 0).toNat (i % 8))
  readPages m b keep on (List.range n) (bs.drop ((n + 7) / 8))

/-! ### Page tables as bytes (R300 to R303) -/

/-- Bytes of a page-list entry (R301). -/
def PageEnt.word (e : PageEnt) : List Byte :=
  leBytes 8 (e.frame % 2 ^ 48 + (if e.present then 2 ^ 48 else 0) + (if e.pinned then 2 ^ 49 else 0) + (if e.firn then 2 ^ 50 else 0))

/-- Entries of page-list block `i`. -/
def LayerKv.entries (l : LayerKv) (i : Nat) : List PageEnt := (l.pages.drop (512 * i)).take 512

/-- Bytes of page-list block `i` of a layer (R301). -/
def LayerKv.block (l : LayerKv) (i : Nat) : List Byte := padTo ((l.entries i).flatMap PageEnt.word) 4096

/-- Block `i` holds a present entry. -/
def LayerKv.blockUsed (l : LayerKv) (i : Nat) : Bool := (l.entries i).any PageEnt.present

/-- Bytes of a layer's page directory (R300). -/
def LayerKv.directory (l : LayerKv) (m : ModelInfo) : List Byte :=
  leBytes 4 l.pages.length ++ ([BitVec.ofNat 8 m.kvFmt, BitVec.ofNat 8 m.blockLen, BitVec.ofNat 8 m.frame, 1] : List Byte) ++
    leBytes 2 m.kValues ++ leBytes 2 m.vValues ++ List.replicate 4 (0 : Byte) ++ leBytes 8 l.drift ++ List.replicate 8 (0 : Byte) ++
    (List.range 16).flatMap (fun i => match dget? l.blocks i with
      | some (a :: _) => leBytes 8 (a % 2 ^ 48 + 2 ^ 63)
      | _ => List.replicate 8 (0 : Byte)) ++ List.replicate 96 (0 : Byte)

end Sys2Proof.Machine
end

