-- ==== Sys2Proof/Machine/Tasks.lean ====
section
/-! DEFINITION. The dispatcher: descriptors and their checks, queues, semaphores, placement, promotion, task graphs and
accounting (chapter 10, and R174 to R177 and R208 to R218 for tasks and their replays). -/

namespace Sys2Proof.Machine

/-! ### Descriptors and tables as bytes (R114, R146, R174, R60) -/

/-- Valid WAIT or SIGNAL entries at `off`. -/
def parseSems (b : List Byte) (off : Nat) : List SemRef :=
  ((List.range 4).map (fun i => fieldAt b (off + 4 * i) 4)).filterMap (fun v =>
    if bitOf v 12 then some ⟨bitsOf v 0 12, bitsOf v 16 16⟩ else none)

/-- A tile task descriptor (R174). -/
def parseTask (b : List Byte) : TaskDesc :=
  let f (o n : Nat) : Nat := fieldAt b o n
  { taskId := BitVec.ofNat 64 (f 0x00 8), program := f 0x08 8, programLen := f 0x10 4, entry := f 0x14 4,
    carouselTable := f 0x18 8, streamTable := f 0x20 8, completionAddr := f 0x28 8, carousels := f 0x30 1,
    inStreams := f 0x31 1 % 16, outStreams := f 0x31 1 / 16, flat := bitOf (f 0x32 1) 0, cls := b.getD 0x33 0,
    partition := b.getD 0x34 0, actWidth := b.getD 0x35 0, blockLen := b.getD 0x36 0, widenStep := b.getD 0x37 0,
    widths := (List.range 6).map (fun i => bitsOf (f 0x38 4) (4 * i) 4), replayWiden := bitOf (f 0x3C 2) 0,
    check := bitOf (f 0x3C 2) 1, layerTag := f 0x3E 2, epoch := BitVec.ofNat 32 (f 0x40 4), limitThin := f 0x44 1,
    limitWhite := f 0x45 1, limitZero := f 0x46 1, waits := parseSems b 0x48, signals := parseSems b 0x58,
    boundNs := f 0x68 4,
    reservedZero := decide (f 0x32 1 ≤ 1) && decide (f 0x3B 1 = 0) && decide (f 0x3C 2 ≤ 3) && decide (f 0x47 1 = 0) &&
      allZero (sliceAt b 0x6C 20) && (List.range 8).all (fun i => decide (bitsOf (f (0x48 + 4 * i) 4) 13 3 = 0)) }

/-- A task as a queue takes it. -/
def freshTask (d : TaskDesc) (graph : Option Nat) (clients : List Nat) (ord : Nat) : Task :=
  { desc := d, graph := graph, clients := clients, ord := ord, widths := d.widths, actWidth := d.actWidth.toNat }

/-- Ranges and alignments of a descriptor by itself (R174). -/
def TaskDesc.ok (d : TaskDesc) : Bool :=
  d.reservedZero && decide (d.program % 256 = 0) && decide (d.programLen % 32 = 0) && decide (32 ≤ d.programLen) &&
    decide (d.programLen ≤ 65536) && decide (d.entry < d.programLen / 32) && decide (d.carouselTable % 256 = 0) &&
    decide (d.streamTable % 256 = 0) && decide (d.completionAddr % 64 = 0) && decide (d.carousels ≤ 32) &&
    decide (d.inStreams ≤ 6) && decide (d.outStreams ≤ 4) && decide (d.cls.toNat ≤ 1) && decide (d.partition.toNat ≤ 15) &&
    decide (d.actWidth.toNat ≤ 2) && decide (d.blockLen.toNat ≤ 3) &&
    (if d.replayWiden then decide (d.widenStep = 1) || decide (d.widenStep = 2) else decide (d.widenStep = 0))

/-- A carousel entry (R114). -/
def parseCarousel (b : List Byte) : CarouselCfg :=
  let l := fieldAt b 1 1
  { bank := fieldAt b 0 1, interleaved := decide (l % 4 = 1), log2Span := bitsOf l 2 3, baseRow := fieldAt b 2 2,
    slots := fieldAt b 4 2, slotRows := fieldAt b 6 1,
    reservedZero := decide (l % 4 ≤ 1) && decide (l / 32 = 0) && decide (fieldAt b 7 1 = 0) }

/-- A carousel entry is well formed (R114, R117). -/
def CarouselCfg.ok (c : CarouselCfg) : Bool :=
  let last := c.slots * c.slotRows - 1
  c.reservedZero && decide (c.bank ≤ 15) && decide (1 ≤ c.slots) && decide (c.slots ≤ 1024) && decide (1 ≤ c.slotRows) &&
    decide (c.slotRows ≤ 64) && decide (c.baseRow ≤ 1023) &&
    (if c.interleaved then decide (1 ≤ c.log2Span) && decide (c.log2Span ≤ 4) && decide (c.bank % 2 ^ c.log2Span = 0) &&
        decide (c.baseRow + last / 2 ^ c.log2Span ≤ 1023)
      else decide (c.log2Span = 0) && decide (c.baseRow + last ≤ 1023))

/-- A stream-table entry (R146); `width` is the running width the task gives it. -/
def parseStream (b : List Byte) (width : Nat) : Stream :=
  let base := BitVec.ofNat 64 (fieldAt b 0 8)
  let aux := BitVec.ofNat 64 (fieldAt b 8 8)
  let high (v : W64) : Nat := bitsOf v.toNat 57 7
  { base := base, auxBase := aux, kind := fieldAt b 0x10 1, format := fieldAt b 0x11 1, carousel := fieldAt b 0x12 1,
    unitBytes := fieldAt b 0x14 4, first := fieldAt b 0x18 4, innerCount := fieldAt b 0x1C 4,
    innerStride := signedOf 32 (fieldAt b 0x20 4), outerCount := fieldAt b 0x24 4, outerStride := signedOf 32 (fieldAt b 0x28 4),
    reservedZero := decide (fieldAt b 0x13 1 = 0) && decide (fieldAt b 0x2C 4 = 0) && decide (high aux = 0) &&
      (if base.getLsbD 63 then decide (bitsOf base.toNat 48 14 = 0) else decide (high base = 0)),
    width := width }

/-- An LBP layer header (R59). -/
def parseHeader (b : List Byte) : LbpHeader :=
  let f (o n : Nat) : Nat := fieldAt b o n
  { fmt := b.getD 0 0, wStore := f 1 1, blockLen := f 2 1, offset := bitOf (f 3 1) 0, corr := bitOf (f 3 1) 1,
    kBlocks := f 4 4, n := f 8 4, panels := f 0xC 4, planeBase := f 0x10 8, scaleBase := f 0x18 8, corrBase := f 0x20 8,
    offsetBase := f 0x28 8, reservedZero := decide (f 3 1 < 4) && allZero (sliceAt b 0x30 16) }

/-- A header is well formed (R60). -/
def LbpHeader.ok (h : LbpHeader) : Bool :=
  let p := panelBlocks (blockLenOf h.blockLen)
  h.reservedZero && decide (h.fmt = 0x03) && decide (1 ≤ h.wStore) && decide (h.wStore ≤ 8) && decide (h.blockLen ≤ 3) &&
    decide (1 ≤ h.kBlocks) && decide (1 ≤ h.n) && decide (h.panels = (h.kBlocks * h.n + p - 1) / p) &&
    decide (h.planeBase % 256 = 0) && decide (h.scaleBase % 256 = 0) &&
    (if h.corr then decide (h.corrBase % 256 = 0) else decide (h.corrBase = 0)) &&
    (if h.offset then decide (h.offsetBase % 256 = 0) else decide (h.offsetBase = 0))

/-! ### The checks of a task (R176, R304 to R308, R975) -/

/-- Logical tiles of partition `p` (PART_TILES). -/
def State.tileSet (s : State) (p : Part) : List Nat :=
  ((List.range 17).flatMap (fun n => (bitsSet 32 (s.reg .partTiles (p.val * 17 + n))).map (32 * n + ·))).filter (· < 544)

/-- A global address names this node. -/
def State.isSelf (s : State) (ga : Nat) : Bool := decide (bitsOf ga 48 9 = s.regBits .uagNode 0 0 9)

/-- All pieces of a unit lie in one place that a task of partition `p` may address: its HBM extent, its firn extent, or
the scratchpad of one tile of its tile set (R92, R93, R176). Pieces of another node are checked there (R461). -/
def State.unitOk (s : State) (p : Part) (ps : List Piece) : Bool :=
  let here := ps.filter (fun x => s.isSelf x.1)
  let d (x : Piece) : Nat := x.1 % 2 ^ 48
  here.all (fun x => s.inHbm p (d x) x.2.1) || here.all (fun x => s.inFirnExtent p (d x) x.2.1) ||
    (s.tileSet p).any (fun t => here.all (fun x => decide (windowOf t ≤ d x) && decide (d x + x.2.1 ≤ windowOf t + padBytes)))

/-- Outcome of the checks of a task. -/
inductive Checked where
  | bad
  /-- a read of the checks touches a withdrawn granule (R975) -/
  | unreadable (dpa : Nat)
  | good (cars : List CarouselCfg) (ins outs : List Stream)

/-- Read a structure that must lie in the partition's HBM extent (R975); `.inl` a byte that cannot be read. -/
def State.structRead (s : State) (p : Part) (a n : Nat) : Option (Nat ⊕ List Byte) :=
  if s.inHbm p a n then
    match s.unreadableIn a n with
    | some d => some (.inl d)
    | none => some (.inr (s.readDpa a n))
  else none

/-- Read the entries `is` of a stream table: those beyond the descriptor's counts are not read (R146). -/
def State.entriesRead (s : State) (p : Part) (a : Nat) : List Nat → Option (Nat ⊕ List (List Byte))
  | [] => some (.inr [])
  | i :: is =>
    match s.structRead p (a + 48 * i) 48 with
    | none => none
    | some (.inl d) => some (.inl d)
    | some (.inr b) =>
      match s.entriesRead p a is with
      | some (.inr bs) => some (.inr (b :: bs))
      | r => r

/-- A page directory (R300). -/
def parseSnapshot (b : List Byte) : Snapshot :=
  { pages := fieldAt b 0 4, kvFmt := fieldAt b 4 1, blockLen := fieldAt b 5 1, frame := fieldAt b 6 1, valid := bitOf (fieldAt b 7 1) 0,
    kValues := fieldAt b 8 2, vValues := fieldAt b 0xA 2, drift := fieldAt b 0x10 8,
    lists := (List.range 16).map (fun i =>
      let e := fieldAt b (0x20 + 8 * i) 8
      if bitOf e 63 then some (e % 2 ^ 48) else none) }

/-- What the checks say of one stream, read with its header or directory. -/
def State.streamOk (s : State) (p : Part) (t : Task) (cars : List CarouselCfg) (x : Stream) (isIn : Bool) : Bool :=
  let b := blockLenOf t.desc.blockLen.toNat
  let c := cars.getD x.carousel default
  let widest := match x.header with
    | some h => if t.desc.replayWiden then h.wStore else x.width
    | none => 0
  let rowsFit := decide (x.rows b widest ≤ c.slotRows)
  let common := x.reservedZero && decide (x.carousel < cars.length) && decide (1 ≤ x.innerCount) && decide (1 ≤ x.outerCount) &&
    decide (0 ≤ x.bounds.1) && rowsFit
  if x.paged then
    match x.snapshot with
    | some d =>
      let f := kvFormat d.kvFmt
      let a := if d.kvFmt = 1 then 4 else 8
      common && isIn && t.graph.isNone && decide (d.kvFmt ≤ 3) && decide (x.format = f) && d.valid &&
        decide (x.kind = if d.kvFmt ≤ 1 then 2 else 0) && decide (x.auxBase = 0) &&
        decide (x.unitBytes = if x.pagedV then 16 * a else d.kValues * a / 8)
    | none => false
  else
    let pairing := if x.kind = 1 then decide (x.format = 0x03)
      else if x.kind = 2 then isLbi x.format || isMx x.format
      else decide (x.kind = 0) && decide (0x04 ≤ x.format) && decide (x.format ≤ 0x07)
    let direction := if isIn then formatIn x.format || decide (x.format = 0x07) else formatOut x.format
    let shape := if x.kind = 1 then decide (x.unitBytes = 0) && decide (x.auxBase = 0) && (match x.header with
        | some h => h.ok && decide (h.blockLen = t.desc.blockLen.toNat) && decide (x.bounds.2 < h.panels)
        | none => false)
      else decide (32 ≤ x.unitBytes) && decide (x.unitBytes % 32 = 0) &&
        (if x.kind = 2 then decide (x.unitBytes * 8 % (elemBits x.format * scaleGroup x.format b) = 0) else decide (x.auxBase = 0))
    -- the unit of an LBP stream is the whole panel, W_store rows of it (R52, R148)
    let whole : Stream := match x.header with | some h => { x with width := h.wStore } | none => x
    let one (u : Int) : Bool := match s.unitPieces whole u.toNat c.slotRows b with
      | some ps => s.unitOk p ps
      | none => false
    let span (ga : Nat) (n : Nat) : Bool :=
      let lo := ga + x.bounds.1.toNat * n
      s.inHbm p (lo % 2 ^ 48) (ga + (x.bounds.2.toNat + 1) * n - lo) && s.isSelf ga
    let fast := decide (x.kind ≠ 1) && span x.base.toNat x.unitBytes && decide (x.scaleBytes b = 0)
    common && pairing && direction && shape && (fast || (List.range x.total).all (fun i => one (x.unitAt i)))

/-- Read the header of an LBP stream, or the directory of a paged one; then give the stream its running width (R50). -/
def State.openStream (s : State) (p : Part) (graph : Bool) (x : Stream) : Option (Nat ⊕ Stream) :=
  if x.paged then
    -- a graph's task with a paged stream fails the checks whatever its directory holds (R308)
    if graph then none
    else
    match s.structRead p (dpaOf x.base) 256 with
    | some (.inl d) => some (.inl d)
    | some (.inr b) => some (.inr { x with snapshot := some (parseSnapshot b) })
    | none => none
  else if x.kind = 1 then
    if !s.isSelf x.base.toNat then none
    else
      match s.structRead p (dpaOf x.base) 64 with
      | some (.inl d) => some (.inl d)
      | some (.inr b) =>
        let h := parseHeader b
        some (.inr { x with header := some h, width := min x.width h.wStore })
      | none => none
  else some (.inr x)

/-- Open every stream in turn. -/
def State.openStreams (s : State) (p : Part) (graph : Bool) : List Stream → Option (Nat ⊕ List Stream)
  | [] => some (.inr [])
  | x :: xs =>
    match s.openStream p graph x with
    | none => none
    | some (.inl d) => some (.inl d)
    | some (.inr y) =>
      match s.openStreams p graph xs with
      | some (.inr ys) => some (.inr (y :: ys))
      | r => r

/-- WIDTHS of the input streams: 1 to 8 for an LBP stream, 0 for any other (R174). -/
def widthsOk (t : Task) (ins : List Stream) : Bool :=
  (ins.zip t.desc.widths).all (fun x => if x.1.kind = 1 && !x.1.paged then decide (1 ≤ x.2) && decide (x.2 ≤ 8) else decide (x.2 = 0))

/-- The checks before a task's first bundle (R176). -/
def State.checkTask (s : State) (p : Part) (cls : Nat) (t : Task) : Checked :=
  let d := t.desc
  if !d.ok || d.partition.toNat ≠ p.val || d.cls.toNat ≠ cls then .bad
  else if !s.inHbm p d.program d.programLen then .bad
  else
    match s.structRead p d.carouselTable (8 * d.carousels),
      s.entriesRead p d.streamTable (List.range d.inStreams ++ (List.range d.outStreams).map (6 + ·)) with
    | none, _ => .bad
    | _, none => .bad
    | some (.inl a), _ => .unreadable a
    | _, some (.inl a) => .unreadable a
    | some (.inr cb), some (.inr sb) =>
      let cars := (List.range d.carousels).map (fun i => parseCarousel (sliceAt cb (8 * i) 8))
      let ins := (List.range d.inStreams).map (fun i => parseStream (sb.getD i []) (t.widths.getD i 0))
      let outs := (List.range d.outStreams).map (fun i => parseStream (sb.getD (d.inStreams + i) []) 0)
      if !cars.all CarouselCfg.ok || !widthsOk t ins || outs.any (fun x => decide (x.kind = 1) || x.paged) then .bad
      else
        match s.openStreams p t.graph.isSome ins with
        | none => .bad
        | some (.inl a) => .unreadable a
        | some (.inr ys) =>
          if ys.all (fun x => s.streamOk p t cars x true) && outs.all (fun x => s.streamOk p t cars x false) then .good cars ys outs
          else .bad

/-! ### Semaphores and readiness (R626 to R629) -/

/-- Waits of a task that are not satisfied; a replay does not wait again (R212). -/
def Partition.unsatisfied (x : Partition) (t : Task) : List SemRef :=
  if t.passed then [] else t.desc.waits.filter (fun w => decide (dget x.sems w.sem 0 < w.amount))

/-- A queued task is ready (R626). -/
def Partition.isReady (x : Partition) (t : Task) : Bool := (x.unsatisfied t).isEmpty

/-- Note the moment at which each queued task became ready (R653). -/
def State.markReady (s : State) (p : Part) : State :=
  let m (x : Partition) (t : Task) : Task :=
    if x.isReady t then { t with readyAt := some (t.readyAt.getD s.time) } else { t with readyAt := none }
  s.modPart p (fun x => { x with lcQ := x.lcQ.map (m x), beQ := x.beQ.map (m x) })

/-- SIGNALs of a completed task (R629). -/
def State.signalSems (s : State) (p : Part) (t : Task) : State :=
  (s.modPart p (fun x => { x with
    sems := t.desc.signals.foldl (fun m g => dset m g.sem (min 0xFFFFFFFF (dget m g.sem 0 + g.amount))) x.sems })).markReady p

/-! ### Orders and promotion (R630, R636 to R640) -/

/-- A queued task with its place: `true` for one of the BE queue. -/
abbrev QRef := Bool × Nat × Task

/-- BE holders that a blocked task promotes, each behind those it promotes itself, over at most `n` semaphores
(R636 to R638). -/
def Partition.promotedBy (x : Partition) : Nat → Task → List QRef
  | 0, _ => []
  | n + 1, t => (x.unsatisfied t).flatMap (fun w =>
      ((x.beQ.zipIdx).filter (fun h => h.1.desc.signals.any (fun g => decide (g.sem = w.sem)))).flatMap (fun h =>
        x.promotedBy n h.1 ++ [(true, h.2, h.1)]))

/-- Keep the first of equal references. -/
def firstRefs : List QRef → List (Bool × Nat) → List QRef
  | [], _ => []
  | r :: rs, seen => if seen.contains (r.1, r.2.1) then firstRefs rs seen else r :: firstRefs rs ((r.1, r.2.1) :: seen)

/-- The LC order (R630): the LC queue, replays at its head, with promoted BE tasks ahead of the earliest task they
block. -/
def Partition.lcOrder (x : Partition) : List QRef :=
  firstRefs (x.lcQ.zipIdx.flatMap (fun t => x.promotedBy 8 t.1 ++ [(false, t.2, t.1)])) []

/-- The BE order (R630): the BE queue without promoted tasks. -/
def Partition.beOrder (x : Partition) : List QRef :=
  let up := x.lcOrder.filter (·.1)
  (x.beQ.zipIdx.filter (fun t => !up.any (fun r => decide (r.2.1 = t.2)))).map (fun t => (true, t.2, t.1))

/-! ### Accounting (R652 to R657) -/

/-- Bucket of a queue wait in ns (R657). -/
def waitBucket (ns : Nat) : Nat :=
  if ns < 1000 then 0 else if ns < 4000 then 1 else if ns < 16000 then 2 else if ns < 64000 then 3
  else if ns < 256000 then 4 else if ns < 1000000 then 5 else if ns < 4000000 then 6 else 7

/-- Add to a count of `n` bytes, saturating. -/
def satAdd (n a b : Nat) : Nat := min (a + b) (2 ^ (8 * n) - 1)

/-- One run charged to a record. -/
def Acct.addRun (a : Acct) (wait : Nat) : Acct :=
  { a with runs := satAdd 8 a.runs 1, waitTotal := satAdd 8 a.waitTotal wait, waitMax := min (max a.waitMax wait) 0xFFFFFFFF,
           hist := modAt a.hist (waitBucket wait) (fun n => satAdd 4 n 1) }

/-- Charge clients. -/
def State.charge (s : State) (p : Part) (clients : List Nat) (f : Acct → Acct) : State :=
  s.modPart p (fun x => { x with acct := clients.foldl (fun m c => dmod m c {} f) x.acct })

/-! ### Completing tasks (R177, R210 to R218) -/

/-- What a run reports in the completion record (R177). -/
structure Report where
  tile : Nat := 0
  cycles : Nat := 0
  hold : Nat := 0
  wait : Nat := 0
  codeLoad : Nat := 0
  widths : List Nat := []
  sameRow : Nat := 0
  overrun : Nat := 0
  underrun : Nat := 0
  thin : Nat := 0
  white : Nat := 0
  zero : Nat := 0
  crc : W64 := 0
  cleanSum : Int := 0
  cleanCount : Nat := 0

/-- Bytes that output streams wrote, in stream order and then in unit order (R175). -/
def Run.checkBytes (r : Run) : List Byte :=
  (sortBy (fun a b => decide (a.1 < b.1) || (decide (a.1 = b.1) && decide (a.2.1 ≤ b.2.1))) r.checkData).flatMap (fun x => x.2.2)

/-- The report of a run. -/
def Run.report (r : Run) (tile : Nat) : Report :=
  { tile := tile, cycles := r.cycles, hold := r.holdCycles, wait := r.waitCycles, codeLoad := r.codeLoadCycles,
    widths := r.ins.map (fun x => if x.kind = 1 && !x.paged then x.width else 0), sameRow := r.sameRow,
    overrun := (r.cars.map Carousel.overruns).foldl (· + ·) 0, underrun := (r.cars.map Carousel.underruns).foldl (· + ·) 0,
    thin := r.thin, white := r.white, zero := r.zero, crc := if r.task.desc.check then crc64 r.checkBytes else 0,
    cleanSum := r.cleanSum, cleanCount := r.cleanCount }

/-- Class of a status: its upper byte. -/
def statusClass (st : W16) : Nat := st.toNat / 256

/-- NUM_FLAGS of a task that completes with a status: WIDENED where a widening replay stands (R217). -/
def Task.numFlags (t : Task) (st : W16) : Nat :=
  (if t.everOverflow then 1 else 0) + (if t.everArrayCheck then 2 else 0) + (if t.widened && statusClass st = 0 then 4 else 0) +
    (if t.unwidenable then 8 else 0)

/-- The completion record (R177). -/
def completionRecord (t : Task) (st : W16) (r : Report) (time : Nat) : List Byte :=
  let widths := (r.widths.zipIdx).foldl (fun v x => v + x.1 * 16 ^ x.2) 0
  leBytes 8 t.desc.taskId.toNat ++ leBytes 2 st.toNat ++ leBytes 2 r.tile ++ leBytes 4 t.desc.epoch.toNat ++ leBytes 8 time ++
    leBytes 4 r.cycles ++ leBytes 4 r.hold ++ leBytes 4 r.wait ++ leBytes 4 r.codeLoad ++ leBytes 4 widths ++
    leBytes 2 (min r.sameRow 65535) ++ [BitVec.ofNat 8 (min r.overrun 255), BitVec.ofNat 8 (min r.underrun 255)] ++
    leBytes 2 (min r.thin 65535) ++ leBytes 2 (min r.white 65535) ++ leBytes 2 (min r.zero 65535) ++
    [BitVec.ofNat 8 (t.numFlags st), 0] ++ leBytes 8 r.crc.toNat

/-- SUBJECT of a task's events (R588). -/
def runSubject (tile tag : Nat) : Nat := tile + 65536 * tag

/-- Raise an event for a count that is not zero. -/
def State.raiseCount (s : State) (p : Part) (code : W16) (subject n : Nat) : State :=
  if n = 0 then s else s.raiseEvent p code subject n

/-- WATCH_EN of a partition. -/
def State.watchEn (s : State) (p : Part) : Bool := bitOf (s.reg .numCfg p.val) 20

/-- DPA of a layer tag's EWMA entry (R189). -/
def State.ewmaAt (s : State) (p : Part) (tag : Nat) : Nat := s.reg .numTableBase p.val + 32 * tag

/-- A saturating signed sum of `n` bits. -/
def satSigned (n : Nat) (v : Int) : Int := clampI (-(2 ^ (n - 1))) (2 ^ (n - 1) - 1) v

/-- Rewrite the sector of an EWMA entry as zeros (R197, R281); it can be read from then on. -/
def State.clearEwmaSector (s : State) (a : Nat) : State :=
  let s := s.writeDpa (a / 64 * 64) (List.replicate 64 0)
  { s with found := s.found.filter (fun d => decide (d / 64 ≠ a / 64)) }

/-- Add the clean blocks of the run that stands to the tag's entry (R194); where its sector cannot be read the addition
is lost. -/
def State.ewmaAdd (s : State) (p : Part) (tag : Nat) (sum : Int) (count : Nat) : State :=
  let a := s.ewmaAt p tag
  if !s.watchEn p || count = 0 then s
  else
    match s.unreadableIn a 32 with
    | some d => (s.noteUnreadable d).clearEwmaSector a
    | none =>
      let e := s.readDpa a 32
      (s.writeDpa (a + 0x10) (leBytes 8 (wrapTo 64 (satSigned 64 (signedOf 64 (fieldAt e 0x10 8) + sum))))).writeDpa (a + 0x18)
        (leBytes 4 (min (fieldAt e 0x18 4 + count) 0xFFFFFFFF))

/-- Fold one EWMA entry (R195). -/
def foldEntry (defaultK : Nat) (e : List Byte) : List Byte :=
  let k0 := fieldAt e 4 1
  let k := if 2 ≤ k0 && k0 ≤ 10 then k0 else defaultK
  let mean := roundDiv (signedOf 64 (fieldAt e 0x10 8) * 256) (fieldAt e 0x18 4)
  let old := signedOf 32 (fieldAt e 0 4)
  let flags := fieldAt e 5 1
  let new := if bitOf flags 0 then old + roundDiv (mean - old) (2 ^ k) else mean
  leBytes 4 (wrapTo 32 new) ++ sliceAt e 4 1 ++ [BitVec.ofNat 8 (flags ||| 1)] ++ sliceAt e 6 10 ++ List.replicate 12 0 ++ sliceAt e 0x1C 4

/-- Fold the EWMA table of a partition, while WATCH_EN is set (R195): entries with a count; a sector that cannot be read counts
once for the first of its two entries and is rewritten as zeros, which leaves both not VALID and without a count. -/
def State.foldEwma (s : State) (p : Part) : State :=
  if !s.watchEn p then s
  else
    (List.range 65536).foldl (fun (s : State) t =>
      let a := s.ewmaAt p t
      match s.unreadableIn a 32 with
      | some d => if t % 2 = 0 || !s.withdrawnDpa d then (s.noteUnreadable d).clearEwmaSector a else s
      | none =>
        let e := s.readDpa a 32
        if fieldAt e 0x18 4 = 0 then s else s.writeDpa a (foldEntry (s.regBits .numCfg p.val 0 4) e)) s

/-- The partition runs no serving steps: nothing is ACTIVE in slot 0 (R196, R675). -/
def State.servesNothing (s : State) (p : Part) : Bool :=
  match dget? (s.part p).slots 0 with
  | some y => !(y.st = .active)
  | none => true

/-- The base recipe of a layer tag in a model: width, activation width code and stored width (R221). -/
def baseRecipe (m : ModelInfo) (tag : Nat) : Option (Nat × Nat × Nat) := (m.baseRecipes.find? (fun b => decide (b.1 = tag))).map Prod.snd

/-- The base recipe of a layer tag of the main model, or else of the barker (R221, R222). -/
def State.baseOf (s : State) (p : Part) (tag : Nat) : Option (Nat × Nat × Nat) :=
  [0, 2].findSome? (fun n => ((dget? (s.part p).slots n).bind Slot.info).bind (fun m => baseRecipe m tag))

/-- The recipe state of a tag; until something sets it, its base recipe. -/
def State.recipeOf (s : State) (p : Part) (tag : Nat) : Recipe :=
  match dget? (s.part p).recipes tag with
  | some r => r
  | none =>
    match s.baseOf p tag with
    | some b => { wRun := b.1, aRun := b.2.1 }
    | none => {}

/-- What a layer tag's tasks showed in the step (R221). -/
def State.noteRecipe (s : State) (p : Part) (t : Task) : State :=
  if t.graph.isSome then s
  else
    s.modPart p (fun x => { x with recipes := dmod x.recipes t.desc.layerTag (s.recipeOf p t.desc.layerTag) (fun r => { r with
      ranInStep := true, overInStep := r.overInStep || t.widened || t.unwidenable || t.everOverLimit,
      a4InStep := r.a4InStep || t.a4Widened }) })

/-- Change the graph of a take order. -/
def State.modGraph (s : State) (p : Part) (cmd : Nat) (f : Graph → Graph) : State :=
  s.modPart p (fun x => { x with graphs := x.graphs.map (fun g => if g.cmd = cmd then f g else g) })

/-- Queue a task at the end of its class queue. -/
def Partition.enqueueTask (x : Partition) (t : Task) : Partition :=
  if t.desc.cls = 0 then { x with lcQ := x.lcQ ++ [t] } else { x with beQ := x.beQ ++ [t] }

/-- Room in the queue of a class (R625). -/
def Partition.taskRoom (x : Partition) (cls : Byte) : Bool :=
  decide ((if cls = 0 then x.lcQ.length else x.beQ.length) < 1024)

/-- Queue a graph's descriptors in their order as room allows (R664). -/
def Partition.feedGraph : Nat → Partition → Graph → Partition × Graph
  | 0, x, g => (x, g)
  | n + 1, x, g =>
    match g.unqueued with
    | [] => (x, g)
    | t :: ts => if x.taskRoom t.desc.cls then Partition.feedGraph n (x.enqueueTask t) { g with unqueued := ts } else (x, g)

/-- Tasks of Nelnus firmware in a partition: queued, running, or waiting for recovery. -/
def State.fwTasks (s : State) (p : Part) : List Task :=
  let x := s.part p
  (x.lcQ ++ x.beQ ++ x.fwWait ++ x.recovering.map Prod.fst ++
    s.tiles.filterMap (fun y => y.2.run.bind (fun r => if r.part = p then some r.task else none))).filter (fun t => t.graph.isNone)

/-- An attention task waits for the backfill of its layer for a request that it serves, among the tasks `out` (R406). -/
def awaitsBackfill (out : List Task) (t : Task) : Bool :=
  match t.kind with
  | .attention l _ => out.any (fun b => decide (b.kind = .backfill l) && b.reqs.any t.reqs.contains)
  | _ => false

/-- Queue the tasks of Nelnus firmware in their order as room allows (R625), until one is to wait. -/
def Partition.feedFirmware (waits : Task → Bool) : Nat → Partition → Partition
  | 0, x => x
  | n + 1, x =>
    match x.fwWait with
    | [] => x
    | t :: ts => if x.taskRoom t.desc.cls && !waits t then Partition.feedFirmware waits n ({ x with fwWait := ts }.enqueueTask t) else x

/-- Feed the queues: Nelnus firmware first, then every graph of the partition. -/
def State.feedGraphs (s : State) (p : Part) : State :=
  let out := s.fwTasks p
  let s := s.modPart p (fun x => Partition.feedFirmware (awaitsBackfill out) x.fwWait.length x)
  ((s.part p).graphs.foldl (fun (s : State) g =>
    let r := Partition.feedGraph g.unqueued.length (s.part p) g
    (s.setPart p r.1).modGraph p g.cmd (fun _ => r.2)) s).markReady p

/-- Status, INFO and RESULT of a graph whose tasks are all accounted for (R666). -/
def Graph.verdict (g : Graph) (nodeLoss : Bool) (time : Nat) : W16 × Nat × Nat :=
  let bad := sortBy (fun a b => decide (a.1 ≤ b.1)) g.bad
  let failed := bad.filter (fun b => decide (b.2.2 ≠ 0))
  let st : W16 :=
    if g.discarded then (if nodeLoss then stNodeLost else stExhausted)
    else
      match failed with
      | b :: _ => b.2.2
      | [] => if g.deadline ≠ 0 && decide (g.deadline.toNat ≤ time) then stOkLate else if g.anyWidened then stOkWidened else stOk
  (st, bad.length, match bad with | b :: _ => b.2.1.toNat | [] => 0)

/-- Complete the graphs whose tasks are all accounted for (R196, R666). -/
def State.settleGraphs (s : State) (p : Part) : State :=
  let done := (s.part p).graphs.filter (fun g => decide (g.total ≤ g.done))
  done.foldl (fun s g =>
    let v := g.verdict (s.part p).advance.afterNodeLoss s.time
    let s := if s.servesNothing p then s.foldEwma p else s
    (s.modPart p (fun x => { x with graphs := x.graphs.filter (fun h => decide (h.cmd ≠ g.cmd)) })).finishOrder p g.cmd v.1 v.2.1 v.2.2) s

/-- STOP_ON_FAIL withdraws a graph's unqueued and unplaced tasks without completion records (R665). -/
def State.stopGraph (s : State) (p : Part) (cmd : Nat) : State :=
  let x := s.part p
  let mine (t : Task) : Bool := decide (t.graph = some cmd)
  let gone := (x.lcQ ++ x.beQ).filter mine ++ ((x.graphs.filter (fun g => decide (g.cmd = cmd))).flatMap Graph.unqueued)
  (s.modPart p (fun x => { x with lcQ := x.lcQ.filter (fun t => !mine t), beQ := x.beQ.filter (fun t => !mine t) })).modGraph p cmd
    (fun g => { g with unqueued := [], stopped := true, done := g.done + gone.length,
                       bad := g.bad ++ gone.map (fun t => (t.ord, t.desc.taskId, (0 : W16))) })

/-- A task of a graph has completed. -/
def State.graphTaskDone (s : State) (p : Part) (t : Task) (st : W16) : State :=
  match t.graph with
  | none => s
  | some cmd =>
    let isBad := decide (statusClass st = 1) || decide (statusClass st = 3)
    let s := s.modGraph p cmd (fun g => { g with
      done := g.done + 1, anyWidened := g.anyWidened || decide (st = stOkWidened),
      bad := if isBad then g.bad ++ [(t.ord, t.desc.taskId, st)] else g.bad })
    let s := if isBad && (s.part p).graphs.any (fun g => decide (g.cmd = cmd) && g.stopOnFail && !g.stopped) then s.stopGraph p cmd else s
    (s.settleGraphs p).feedGraphs p

/-- Queued tasks of Nelnus firmware that `which` selects are withdrawn; what their runs showed of their tags counts (R221, R284). -/
def State.withdrawTasks (s : State) (p : Part) (which : Task → Bool) : State :=
  let x := s.part p
  let out (t : Task) : Bool := t.graph.isNone && which t
  let gone := (x.lcQ ++ x.beQ ++ x.fwWait ++ x.recovering.map Prod.fst).filter out
  let s := s.modPart p (fun x => { x with
    lcQ := x.lcQ.filter (fun t => !out t), beQ := x.beQ.filter (fun t => !out t), fwWait := x.fwWait.filter (fun t => !out t),
    recovering := x.recovering.filter (fun t => !out t.1) })
  (gone.filter Task.everOverLimit).foldl (fun s t => s.noteRecipe p t) s

/-- The step's working state is lost (R283, R285): its unplaced tasks are withdrawn, and none is placed until it is issued again
(R284). -/
def State.failStep (s : State) (p : Part) : State :=
  let x := (s.part p).step
  if x.running && !x.checked then
    (s.withdrawTasks p (fun t => !t.chunk)).modPart p (fun x => { x with step := { x.step with failed := true } })
  else s

/-- The working state of a task beside the steps is lost: the unplaced tasks of its kind for its requests are withdrawn, and the
positions of a prefill chunk, or of a barker's prefill, stay to be prefilled (R280, R283, R285; DESIGN CHOICE, log entry 101). -/
def State.failChunk (s : State) (p : Part) (t : Task) : State :=
  let of_ (i : Nat) : Bool := t.reqs.contains i
  let s := s.withdrawTasks p (fun u => decide (u.kind = t.kind) && u.chunk && u.reqs.any of_)
  match t.kind with
  | .chunk => s.modPart p (fun x => { x with
      step := { x.step with chunks := x.step.chunks.filter (fun c => !of_ c.1) },
      requests := x.requests.map (fun e => (e.1, if of_ e.1 && x.step.chunks.any (fun c => decide (c.1 = e.1)) then { e.2 with chunkFails := e.2.chunkFails + 1 } else e.2)) })
  | .barker => s.modPart p (fun x => { x with requests := x.requests.map (fun e => (e.1, if of_ e.1 then { e.2 with warming := false } else e.2)) })
  | _ => s

/-- A task of Nelnus firmware has lost what it worked on. -/
def State.failTask (s : State) (p : Part) (t : Task) : State := if t.chunk then s.failChunk p t else s.failStep p

/-- Complete a task: its record, its events, its signals and its counts (R113, R129, R194, R216 to R218, R233, R292). A task
of Nelnus firmware that is exhausted loses its step's working state (R285). -/
def State.completeTask (s : State) (p : Part) (t : Task) (st : W16) (r : Report) : State :=
  let sub := runSubject r.tile t.desc.layerTag
  let s := s.writeDpa t.desc.completionAddr (completionRecord t st r s.time)
  let s := ((s.raiseCount p evOverrun sub r.overrun).raiseCount p evUnderrun sub r.underrun).raiseCount p evSameRow sub r.sameRow
  let s := if t.unwidenable then s.count .numUnwidenableCount p.val 1 else s
  let s := if st = stOkRecovered then s.count .memRecoveredCount p.val 1 else s
  let s := if st = stExhausted then s.count .numExhaustedCount p.val 1 else s.signalSems p t
  let s := if statusClass st = 0 then s.ewmaAdd p t.desc.layerTag r.cleanSum r.cleanCount else s
  let s := s.noteRecipe p t
  let s := if st = stExhausted && t.graph.isNone then s.failTask p t else s
  s.graphTaskDone p t st

/-- A task is discarded with its epoch, without record or signal (R643). -/
def State.discardTask (s : State) (p : Part) (t : Task) : State :=
  match t.graph with
  | none => s
  | some cmd => s.modGraph p cmd (fun g => { g with done := g.done + 1, discarded := true, bad := g.bad ++ [(t.ord, t.desc.taskId, 0)] })

/-- Put a reissued task at the head of its class queue (R213); one of a step that is to be replayed is withdrawn (R284). -/
def State.reissue (s : State) (p : Part) (t : Task) : State :=
  if t.graph.isNone && !t.chunk && (s.part p).step.failed then (if t.everOverLimit then s.noteRecipe p t else s)
  else
    s.modPart p (fun x =>
      let t := { t with passed := true, readyAt := some s.time }
      if t.desc.cls = 0 then { x with lcQ := t :: x.lcQ } else { x with beQ := t :: x.beQ })

/-! ### Placement (R631 to R633) -/

/-- A task may run on a tile: it is free and its site is not excluded, or every tile of the set is (R214). -/
def State.usableTile (s : State) (p : Part) (t : Task) : Option Nat :=
  let set := (s.tileSet p).filter (fun i => decide ((s.tile i).mode ≠ .retired))
  let excluded (i : Nat) : Bool := match s.siteOf i with | some x => t.excluded.contains x | none => false
  let all := set.all excluded
  set.find? (fun i => decide ((s.tile i).mode = .free) && (s.tile i).run.isNone && (all || !excluded i))

/-- The task holds a paged stream. -/
def State.hasPaged (s : State) (t : Task) : Bool :=
  (List.range t.desc.inStreams).any (fun i => bitOf (leNat (s.readDpa (t.desc.streamTable + 48 * i) 8)) 63)

/-- The task may be placed now: ready, not held by a walker advance (R316), and with a usable tile. -/
def State.placeable (s : State) (p : Part) (t : Task) : Bool :=
  (s.part p).isReady t && !((s.part p).kv.advanceHeld && s.hasPaged t) && (s.usableTile p t).isSome

/-- Tiles of partition `p` that run BE-class tasks. -/
def State.beRunning (s : State) (p : Part) : Nat :=
  (s.tiles.filter (fun e => match e.2.run with | some r => decide (r.part = p) && decide (r.task.desc.cls = 1) | none => false)).length

/-- The task that goes next, by the procedure of R631, and whether it is taken from the LC order. -/
def State.nextTask (s : State) (p : Part) : Option (QRef × Bool) :=
  let x := s.part p
  let ok (r : QRef) : Bool := s.placeable p r.2.2
  let lc := (x.lcOrder.find? ok).map (fun r => (r, true))
  let be := (x.beOrder.find? ok).map (fun r => (r, false))
  let claim := decide (s.beRunning p < min (s.regBits .partBeMin p.val 0 10) (s.tileSet p).length)
  if claim && be.isSome then be else if lc.isSome then lc else be

/-- Remove a queued task. -/
def Partition.dequeue (x : Partition) (r : QRef) : Partition :=
  if r.1 then { x with beQ := x.beQ.eraseIdx r.2.1 } else { x with lcQ := x.lcQ.eraseIdx r.2.1 }

/-- Count what a placement from the LC order does to BE work (R632, R640). -/
def State.countPlacement (s : State) (p : Part) (r : QRef) (fromLc : Bool) : State :=
  if r.1 && fromLc then s.count .partPromoteCount p.val 1
  else if fromLc then
    match (s.part p).beOrder.find? (fun b => (s.part p).isReady b.2.2) with
    | some b => (s.charge p b.2.2.clients (fun a => { a with preemptions := satAdd 4 a.preemptions 1 })).count .partPreemptCount p.val 1
    | none => s
  else s

/-- Bundles of a program. -/
def bundlesOf (bs : List Byte) : List (BitVec 256) :=
  (List.range (bs.length / 32)).map (fun i => BitVec.ofNat 256 (leNat (sliceAt bs (32 * i) 32)))

/-- The programs, most recently started first, that `room` bundles hold: from the first that does not fit on, all are
evicted. -/
def programsWithin : Nat → List CachedProgram → List CachedProgram
  | _, [] => []
  | room, x :: xs => if x.bundles.length ≤ room then x :: programsWithin (room - x.bundles.length) xs else []

/-- Keep a program in the code cache, most recently started first: at most 8 programs and 64 KiB, evicting the least recently
started (R87, R173). -/
def cacheProgram (cache : List CachedProgram) (c : CachedProgram) : List CachedProgram :=
  programsWithin 2048 ((c :: cache.filter (fun x => decide (x.program ≠ c.program))).take 8)

/-- Register a run in the walker epoch (R313). -/
def State.registerWalker (s : State) (p : Part) : State :=
  s.modPart p (fun x => { x with kv := { x.kv with counts := modAt x.kv.counts (x.kv.epoch % 4) (· + 1) } })

/-- The run leaves its counter (R315). -/
def State.leaveWalker (s : State) (p : Part) (e : Option Nat) : State :=
  match e with
  | some e => s.modPart p (fun x => { x with kv := { x.kv with counts := modAt x.kv.counts (e % 4) (· - 1) } })
  | none => s

/-- The EWMA entry as a run reads it (R190, R191, R193); `.inl` an unreadable sector. -/
def State.readEwma (s : State) (p : Part) (tag : Nat) : Nat ⊕ EwmaEntry :=
  let a := s.ewmaAt p tag
  if !s.watchEn p then .inr {}
  else
    match s.unreadableIn a 32 with
    | some d => .inl d
    | none =>
      let e := s.readDpa a 32
      let up := fieldAt e 6 2
      .inr { mean := signedOf 32 (fieldAt e 0 4), k := fieldAt e 4 1, valid := bitOf (fieldAt e 5 1) 0,
             tUp := if up = 0 then s.regBits .numCfg p.val 8 12 else up, tDown := fieldAt e 8 2 }

/-- A DPA lies in the EWMA table of a partition (R189). -/
def State.inEwmaTable (s : State) (p : Part) (d : Nat) : Bool :=
  decide (s.reg .numTableBase p.val ≤ d) && decide (d < s.reg .numTableBase p.val + 2097152)

/-- A task ends on a failed fill (R278 to R280): a graph's task completes with its status, and Nelnus firmware rewrites an EWMA
sector it could not read at once (R197); another task goes to Nelnus firmware. -/
def State.taskFillFailed (s : State) (p : Part) (t : Task) (st : W16) (r : Report) (dpa : Option Nat) : State :=
  if t.graph.isSome then
    let s := match dpa with | some d => if s.watchEn p && s.inEwmaTable p d then s.clearEwmaSector d else s | none => s
    s.completeTask p t st r
  else s.modPart p (fun x => { x with recovering := x.recovering ++ [(t, st, dpa)] })

/-- Place a task of the queue of class `cls` on a tile (R88, R119, R121, R173, R176, R191, R313, R653, R824). The vector
registers start at zero, which no rule gives (DESIGN CHOICE, log entry 92). -/
def State.startRun (s : State) (p : Part) (tile cls : Nat) (t : Task) : State :=
  match s.checkTask p cls t with
  | .bad => s.completeTask p t stMalformed { tile := tile }
  | .unreadable d => (s.noteUnreadable d).taskFillFailed p t stUnrecoverable { tile := tile } (some d)
  | .good cars ins outs =>
    match s.readEwma p t.desc.layerTag with
    | .inl d => (s.noteUnreadable d).taskFillFailed p t stUnrecoverable { tile := tile } (some d)
    | .inr ewma =>
      let wait := s.time - t.readyAt.getD s.time
      let s := s.charge p t.clients (fun a => a.addRun wait)
      let pg := ins.any Stream.paged
      let e := (s.part p).kv.epoch
      let s := if pg then s.registerWalker p else s
      let cached := ((s.tile tile).codeCache.find? (fun c => decide (c.program = t.desc.program) && decide (32 * c.bundles.length = t.desc.programLen))).map
        CachedProgram.bundles
      s.modTile tile (fun x => { x with
        mode := if cached.isSome then .running else .loading, banks := [], floorLoad := false,
        codeCache := match cached with | some b => cacheProgram x.codeCache ⟨t.desc.program, b⟩ | none => x.codeCache,
        run := some { task := { t with passed := true }, part := p, cars := cars.map (fun c => { cfg := c }), ins := ins, outs := outs,
                      bundles := cached.getD [], pc := t.desc.entry, placedAt := s.time, walkEpoch := if pg then some e else none,
                      ewma := ewma } })

/-- Place ready tasks on usable tiles (R631). -/
def State.placeTasks (p : Part) : Nat → State → State
  | 0, s => s
  | n + 1, s =>
    match s.nextTask p with
    | none => s
    | some (r, fromLc) =>
      match s.usableTile p r.2.2 with
      | none => s
      | some i =>
        let s := (s.countPlacement p r fromLc).modPart p (fun x => x.dequeue r)
        State.placeTasks p n ((s.startRun p i (if r.1 then 1 else 0) r.2.2).feedGraphs p)

/-- DISPATCH_PLACE: a tile has become free or a task ready (R631, R642); the reads of the checks find the DPAs `ue`
uncorrectable (R975). -/
def execDispatchPlace (p : Part) (ue : List Nat) (s : State) : Out :=
  inServiceUe s ue (fun s =>
    let x := s.part p
    if x.fn.st = .off || x.advance.running then s
    else State.placeTasks p (x.lcQ.length + x.beQ.length + ((x.graphs.map (fun g => g.unqueued.length)).foldl (· + ·) 0)) (s.markReady p))

/-! ### The length of a freeze (R136 to R141) -/

/-- Nanoseconds as cycles of a tile's clock at its ceiling (R797). -/
def Tile.cyclesOf (x : Tile) (ns : Nat) : Nat := ns * (850 + 25 * x.ceiling) / 1000

/-- Count a freeze up to a local time, each of its two kinds of cause for as long as one of the kind holds (R139). -/
def Freeze.countTo (f : Freeze) (now : Nat) : Freeze :=
  let d := now - f.countedNs
  { f with countedNs := max f.countedNs now,
           lateNs := if f.causes.contains .lateSlot then f.lateNs + d else f.lateNs,
           waitNs := if f.causes.any (fun c => decide (c ≠ .lateSlot)) then f.waitNs + d else f.waitNs }

/-- Late-slot hold cycles of a freeze in force that the counters do not hold yet. -/
def Tile.holdUncounted (x : Tile) (now : Nat) : Nat :=
  match x.run.bind Run.freeze with
  | some f => x.cyclesOf (f.countTo now).lateNs - f.lateCycles
  | none => 0

/-- Bring the counters of a freeze in force up to date (R139, R178). -/
def Tile.countFreeze (x : Tile) (now : Nat) : Tile :=
  match x.run, x.run.bind Run.freeze with
  | some r, some f =>
    let g := f.countTo now
    let late := x.cyclesOf g.lateNs - f.lateCycles
    let wait := x.cyclesOf g.waitNs - f.waitCycles
    { x with dbgHold := x.dbgHold + late, run := some { r with
        holdCycles := r.holdCycles + late, waitCycles := r.waitCycles + wait,
        freeze := some { g with lateCycles := f.lateCycles + late, waitCycles := f.waitCycles + wait } } }
  | _, _ => x

/-- A freeze ends: by the issue of the held bundle, 2 cycles after its last cause cleared, which count for the kinds of cause
that cleared last (R136, DEDUCED: log entry 93), or with its run. A late-slot hold of EVENT_CYCLES or more raises its event
(R140). -/
def State.closeFreeze (s : State) (tile : Nat) (resume : Bool) : State :=
  let x := (s.tile tile).countFreeze s.now
  match x.run, x.run.bind Run.freeze with
  | some r, some f =>
    let more := if resume then 2 else 0
    let last := match f.cleared with | some c => c.1 | none => []
    let upTo := match f.cleared, resume with | some c, true => c.2 | _, _ => s.now
    let late := if last.contains .lateSlot then more else 0
    let wait := if last.any (fun c => decide (c ≠ .lateSlot)) then more else 0
    let s := s.setTile tile { x with mode := if x.mode = .frozen then .running else x.mode, dbgHold := x.dbgHold + late, run := some { r with
      freeze := none, cycles := r.cycles + x.cyclesOf (upTo - f.startNs) + more, holdCycles := r.holdCycles + late,
      waitCycles := r.waitCycles + wait } }
    if 0 < f.lateCycles + late && s.regBits .tileHoldCfg 0 0 20 ≤ f.lateCycles + late then
      s.raiseEvent r.part evLateSlot (runSubject tile r.task.desc.layerTag)
    else s
  | _, _ => s

/-! ### The end of a run (R210) -/

/-- The tile of an ended run: tests that waited for it begin (R845), an internal reset goes on (R635), or it is free. -/
def State.releaseTile (s : State) (tile : Nat) : State :=
  let x := s.tile tile
  let s := s.modTile tile (fun x => { x with
    run := none, testAfterRun := [], mode := if x.resetting || !x.testAfterRun.isEmpty then .fenced else .free })
  x.testAfterRun.foldl (fun s q => s.addTest q) s

/-- One of the counts of a run is over its limit (R208). -/
def Run.overLimit (r : Run) : Bool :=
  let past (limit n : Nat) : Bool := decide (limit ≠ 0xFF) && decide (limit < n)
  past r.task.desc.limitThin r.thin || past r.task.desc.limitWhite r.white || past r.task.desc.limitZero r.zero

/-- The next wider format of a run (R209): widths of its streams and activation width. -/
def Run.wider (r : Run) : List Nat × Nat :=
  let step := r.task.desc.widenStep.toNat
  (r.task.widths.zipIdx.map (fun x => match r.ins[x.2]? with
    | some y => (match y.header with | some h => min (y.width + step) h.wStore | none => x.1)
    | none => x.1),
   if r.task.actWidth = 0 then 1 else r.task.actWidth)

/-- The next wider format differs from the recipe of the run. -/
def Run.canWiden (r : Run) : Bool :=
  r.ins.any (fun y => match y.header with | some h => decide (y.width < min (y.width + r.task.desc.widenStep.toNat) h.wStore) | none => false) ||
    decide (r.task.actWidth = 0)

/-- Pieces of the units that a stream of the run has visited. -/
def State.visited (s : State) (r : Run) (x : Stream) (units : List Nat) : List Piece :=
  units.flatMap (fun u => (s.unitPieces x u (r.cars.getD x.carousel default).cfg.slotRows (blockLenOf r.task.desc.blockLen.toNat)).getD [])

/-- A task that writes bytes it reads and is replayed gives an undefined result (R219, R220): the bytes that it wrote in this
package are left open. -/
def State.openOutputs (s : State) (r : Run) : State :=
  let read := r.ins.zipIdx.flatMap (fun x => s.visited r x.1 ((r.filled.filter (fun f => decide (f.1 = x.2))).map Prod.snd))
  let wrote := r.outs.flatMap (fun x => s.visited r x ((List.range x.done).map (fun i => (x.unitAt i).toNat)))
  if (r.task.relocated || r.task.widened) &&
      wrote.any (fun a => read.any (fun b => decide (a.1 < b.1 + b.2.1) && decide (b.1 < a.1 + a.2.1))) then
    wrote.foldl (fun s a => if s.isSelf a.1 then s.openDpa (a.1 % 2 ^ 48) a.2.1 else s) s
  else s

/-- The decision at the end of a run (R210). -/
def State.judgeRun (s : State) (p : Part) (tile : Nat) (r : Run) (e : RunEnd) : State :=
  let t := { r.task with
    everOverflow := r.task.everOverflow || r.overflow, everArrayCheck := r.task.everArrayCheck || r.arrayCheck,
    everOverLimit := r.task.everOverLimit || r.overLimit }
  let rep := r.report tile
  match e with
  | .arithmetic | .freezeExpired | .watchdog =>
    if t.relocated then s.completeTask p t stExhausted rep
    else
      (s.count .numRelocateCount p.val 1).reissue p { t with
        relocated := true, excluded := match s.siteOf tile with | some x => x :: t.excluded | none => t.excluded }
  | .fillFailed st d => s.taskFillFailed p t st rep d
  | .malformed => s.completeTask p t stMalformed rep
  | .epoch => (s.discardTask p t).settleGraphs p
  | .finished =>
    let st (t : Task) : W16 := if 0 < t.reissues then stOkRecovered else if t.widened then stOkWidened else stOk
    if t.desc.replayWiden && !t.widened && r.overLimit then
      if r.canWiden then
        -- only a relocation excludes tiles (R213, R214)
        (s.count .numWidenCount p.val 1).reissue p { t with
          widened := true, excluded := [], widths := r.wider.1, actWidth := r.wider.2, a4Widened := t.a4Widened || decide (t.actWidth = 0) }
      else
        let t := { t with unwidenable := true }
        (s.openOutputs r).completeTask p t (st t) rep
    else (s.openOutputs r).completeTask p t (st t) rep

/-- A run ends: it leaves its tile and its walker counter, its counts raise their events, and the dispatcher decides. -/
def State.endRun (s : State) (tile : Nat) (r : Run) (e : RunEnd) : State :=
  let p := r.part
  let sub := runSubject tile r.task.desc.layerTag
  -- CYCLES counts up to the completion (R177)
  let r := { r with cycles := max r.cycles (r.endCycles + (s.tile tile).cyclesOf (s.now - r.endNs)) }
  let s := (s.releaseTile tile).leaveWalker p r.walkEpoch
  let s := ((s.raiseCount p evThinIce sub r.thin).raiseCount p evWhiteout sub r.white).raiseCount p evZeroBlock sub r.zero
  (s.judgeRun p tile r e).feedGraphs p

/-- Everything the run and its bundles have started has finished (R172). -/
def Run.quiet (r : Run) : Bool :=
  r.fills.isEmpty && r.drains.isEmpty && r.writes.isEmpty && r.array.isNone && !r.arrayWait && r.vec.isEmpty

/-- TASK_RUN_END: a run whose work is over, or that has ended and whose DRAIN writes have completed (R88, R141, R154,
R172, R205). The read of the EWMA entry for its addition finds the DPAs `ue` uncorrectable (R194). -/
def execTaskRunEnd (t : TileNo) (ue : List Nat) (s : State) : Out :=
  inServiceUe s ue (fun s =>
    match (s.tile t.val).run with
    | none => s
    | some r =>
      match r.ended with
      | some e => if r.writes.isEmpty then s.endRun t.val r e else s
      | none => if r.atEnd && r.quiet then s.endRun t.val r .finished else s)

/-- End a run for a reason: fills and unread drains are discarded, no further bundle issues. The cycles to its completion count
from here, or from its END bundle (R177). -/
def Run.stop (r : Run) (e : RunEnd) (now : Nat) : Run :=
  { r with ended := some (r.ended.getD e), fills := [], drains := [], array := none, arrayWait := false, vec := [],
           endNs := if r.atEnd || r.ended.isSome then r.endNs else now, endCycles := if r.atEnd || r.ended.isSome then r.endCycles else r.cycles }

/-- Stop the run on a tile; a freeze in force ends with it. -/
def State.stopRun (s : State) (tile : Nat) (e : RunEnd) : State :=
  let s := s.closeFreeze tile false
  s.modTile tile (fun x => { x with run := x.run.map (fun r => r.stop e s.now) })

/-! ### Bounds (R634, R635) -/

/-- BOUND_OVER: a run passes its bound; it is counted once (R634). -/
def execBoundOver (t : TileNo) (s : State) : Out :=
  inService s (fun s =>
    match (s.tile t.val).run with
    | some r =>
      let b := if r.task.desc.boundNs = 0 then s.reg .partBound r.part.val else r.task.desc.boundNs
      if r.boundCounted || r.ended.isSome then s
      else
        ((s.advanceTo (s.now + (r.placedAt + b + 1 - s.time))).modTile t.val (fun x => { x with
          run := x.run.map (fun r => { r with boundCounted := true }) })).count .partBoundOver r.part.val 1
    | none => s)

/-- WATCHDOG_EXPIRY: a run passes PART_WATCHDOG and ends; its tile is fenced and reset (R635). -/
def execWatchdogExpiry (t : TileNo) (s : State) : Out :=
  inService s (fun s =>
    match (s.tile t.val).run with
    | some r =>
      if r.ended.isSome then s
      else
        ((s.advanceTo (s.now + (r.placedAt + s.reg .partWatchdog r.part.val + 1 - s.time))).stopRun t.val .watchdog).modTile t.val
          (fun x => { x with resetting := true, mode := .fenced })
    | none => s)

/-- TILE_INTERNAL_RESET_DONE: the reset empties the code cache and leaves the scratchpad undefined (R932). -/
def execTileInternalResetDone (t : TileNo) (s : State) : Out :=
  inService s (fun s =>
    let x := s.tile t.val
    if x.resetting && x.run.isNone then
      let tested := s.repair.tests.any (fun q => match q with
        | .tile a b | .row a b _ _ => decide (s.siteOf t.val = some (24 * b + a))
        | _ => false)
      (s.modTile t.val (fun x => { x with resetting := false, codeCache := [], mode := if tested then .fenced else .free })).openPad t.val
    else s)

/-! ### Placement epochs (R642 to R644) -/

/-- PART_EPOCH advances (R643): queued tasks of another epoch are discarded and their runs end at once. -/
def State.advanceEpoch (s : State) (p : Part) (nodeLoss : Bool) : State :=
  let s := s.modPart p (fun x => { x with epoch := x.epoch + 1, advance := { x.advance with running := true, afterNodeLoss := nodeLoss } })
  let e := (s.part p).epoch
  let x := s.part p
  let old (t : Task) : Bool := decide (t.desc.epoch ≠ e)
  let gone := (x.lcQ ++ x.beQ).filter old ++ (x.graphs.flatMap Graph.unqueued).filter old
  let s := s.modPart p (fun x => { x with
    lcQ := x.lcQ.filter (fun t => !old t), beQ := x.beQ.filter (fun t => !old t), fwWait := [], recovering := x.recovering.filter (fun t => !old t.1),
    graphs := x.graphs.map (fun g => { g with unqueued := g.unqueued.filter (fun t => !old t) }) })
  let s := gone.foldl (fun s t => s.discardTask p t) s
  let runs := s.tiles.filterMap (fun y => match y.2.run with
    | some r => if r.part = p && old r.task then some (y.1, r) else none
    | none => none)
  (runs.foldl (fun s y =>
    let s := s.closeFreeze y.1 false
    match (s.tile y.1).run with
    | some r => s.endRun y.1 r .epoch
    | none => s) s).settleGraphs p

/-- Packets of runs of another epoch still wait for their acknowledgement (R644). -/
def State.epochPackets (s : State) (p : Part) : Bool :=
  s.fabric.held.any (fun h => match h.run with | some (q, e) => decide (q = p) && decide (e ≠ (s.part p).epoch) | none => false)

/-! ### RUN_TASK_GRAPH (R661 to R666) -/

/-- Descriptor offset of the first field at fault of a RUN_TASK_GRAPH payload (R661, R662). -/
def State.graphField (s : State) (p : Part) (c : Cmd) : Option Nat :=
  let a := c.field 0x10 8
  let n := c.field 0x18 4
  if a % 128 ≠ 0 || !s.inHostRegion p a (128 * n) then some 0x10
  else if n = 0 || 65536 < n then some 0x18
  else if c.field 0x1C 2 < 3072 || 4095 < c.field 0x1C 2 then some 0x1C
  else if 1024 < c.field 0x1E 2 || 4096 < c.field 0x1C 2 + c.field 0x1E 2 then some 0x1E
  else none

/-- RUN_TASK_GRAPH. With 64 graphs in progress it keeps its place and starts later (R663). -/
def execRunTaskGraph (p : Part) (ring : CmdRing) (ue : Option Nat) (s : State) : Out :=
  inService s (fun s =>
    if 64 ≤ (s.part p).graphs.length then s
    else
      runCmd s p ring opGraph (fun s c =>
        if (s.part p).fn.st = .quiescing then s.finish p c stState
        else match s.graphField p c with
        | some off => s.malformed p c off
        | none =>
          let a := c.field 0x10 8
          let n := c.field 0x18 4
          match s.badByte a (128 * n) ue with
          | some d => (s.uncorrectable d).finish p c stUnrecoverable
          | none =>
            let ds := (List.range n).map (fun i => parseTask (s.readDpa (a + 128 * i) 128))
            let lo := c.field 0x1C 2
            let k := c.field 0x1E 2
            let taken := (s.part p).graphs.any (fun g => g.names.any (fun n => decide (lo ≤ n) && decide (n < lo + k)))
            if ds.any (fun d => decide (d.partition.toNat ≠ p.val) || (d.waits ++ d.signals).any (fun g => decide (g.sem < 3072))) then
              s.malformed p c 0x10
            else if ds.any (fun d => decide (d.epoch ≠ (s.part p).epoch)) then s.finish p c stEpoch
            else if taken then s.finish p c stState
            else
              let ts := ds.zipIdx.map (fun d => freshTask d.1 (some c.order) [c.client] d.2)
              ((s.setStage p c.order .running).modPart p (fun x => { x with
                sems := (List.range k).foldl (fun m i => derase m (lo + i)) x.sems,
                graphs := x.graphs ++ [{ cmd := c.order, total := n, unqueued := ts, stopOnFail := bitOf (c.field 0x28 1) 0,
                                         deadline := BitVec.ofNat 64 (c.field 0x20 8), semFirst := lo, semCount := k,
                                         names := ds.flatMap (fun d => (d.waits ++ d.signals).map SemRef.sem) }] })).feedGraphs p))

/-! ### QUERY_ACCOUNTING (R658 to R660) -/

/-- An accounting record (R656). -/
def Acct.bytes (a : Acct) : List Byte :=
  leBytes 8 a.runs ++ leBytes 8 a.waitTotal ++ leBytes 4 a.waitMax ++ leBytes 4 a.preemptions ++
    (a.hist.take 8).flatMap (leBytes 4) ++ leBytes 4 a.skipped ++ leBytes 4 0

/-- QUERY_ACCOUNTING. -/
def execQueryAccounting (p : Part) (ring : CmdRing) (s : State) : Out :=
  inService s (fun s => runCmd s p ring opQueryAcct (fun s c =>
    let first := c.field 0x10 2
    let n := c.field 0x12 2
    if 4095 < first then s.malformed p c 0x10
    else if n = 0 || 4096 < n || 4096 < first + n then s.malformed p c 0x12
    else if c.field 0x18 8 % 64 ≠ 0 then s.malformed p c 0x18
    else if c.field 0x20 8 < 64 * n then s.finish p c stNoCapacity
    else
      let recs := (List.range n).flatMap (fun i => (dget (s.part p).acct (first + i) {}).bytes)
      let s := s.hostWrite (c.field 0x18 8) recs
      let s := if bitOf (c.field 0x14 1) 0 then
          s.modPart p (fun x => { x with acct := (List.range n).foldl (fun m i => derase m (first + i)) x.acct })
        else s
      s.finish p c stOk 0 s.time))

end Sys2Proof.Machine
end

