-- ==== Sys2Proof/Machine/Functions.lean ====
section
/-! DEFINITION. The common function state machine of partitions, rings and ports (R934 to R938), with what each kind of
function adds to it (R429 to R438, R492, R537 to R543, R602, R604, R627). -/

namespace Sys2Proof.Machine

/-! ### The state machine (R935) -/

/-- An enable. -/
def Fn.onEnable (f : Fn) : Fn :=
  match f.st with
  | .off => { f with st := .enabling, latch := false, enable := true }
  | .enabling => { f with latch := false, enable := true }
  | .on => { f with enable := true }
  | .quiescing => { f with latch := true, enable := true }

/-- A disable. -/
def Fn.onDisable (f : Fn) : Fn :=
  match f.st with
  | .off => { f with enable := false }
  | .enabling => { f with latch := true, enable := false }
  | .on => { f with st := .quiescing, latch := false, enable := false }
  | .quiescing => { f with latch := false, enable := false }

/-- An event with no row leaves the state and is counted (R23). -/
def Fn.noRow (f : Fn) : Fn := { f with unhandled := min 15 (f.unhandled + 1) }

/-- Bring-up is ready. -/
def Fn.onReady (f : Fn) : Fn :=
  match f.st with
  | .enabling => if f.latch then { f with st := .quiescing, latch := false } else { f with st := .on }
  | _ => f.noRow

/-- The function has drained. -/
def Fn.onDrained (f : Fn) : Fn :=
  match f.st with
  | .quiescing => if f.latch then { f with st := .enabling, latch := false } else { f with st := .off }
  | _ => f.noRow

/-- A failure. -/
def Fn.onFailure (f : Fn) : Fn :=
  match f.st with
  | .enabling => f
  | .on => { f with st := .enabling, latch := false }
  | _ => f.noRow

/-- A reset of the function. -/
def Fn.onReset (f : Fn) : Fn := { f with st := .off, latch := false, enable := false }

/-- PENDING, coded as STATE (R935): equal to STATE when nothing is pending. -/
def Fn.pending (f : Fn) : FnSt :=
  match f.st with
  | .enabling => if f.latch then .off else .enabling
  | .quiescing => if f.latch then .on else .quiescing
  | s => s

/-- Code of a state. -/
def fnCode : FnSt → Nat
  | .off => 0
  | .enabling => 1
  | .on => 2
  | .quiescing => 3

/-! ### Rings (R537 to R543, R938) -/

/-- A ring leaves OFF: both indices become zero (R537). -/
def Ring.leaveOff (r : Ring) : Ring := { r with pi := 0, ci := 0, taken := 0, accepted := 0, owed := 0 }

/-- Follow a change of a ring's function: leaving OFF, and ERROR clearing at OFF (R551). -/
def Ring.follow (old : Ring) (f : Fn) : Ring :=
  let r := { old with fn := f, error := old.error && !(f.st = .off) }
  if old.fn.st = .off && f.st = .enabling then r.leaveOff else r

/-- An enable of a ring. -/
def State.enableRing (s : State) (p : Part) (n : RingNo) : State := s.modRing p n (fun r => r.follow r.fn.onEnable)

/-- A disable of a ring. -/
def State.disableRing (s : State) (p : Part) (n : RingNo) : State := s.modRing p n (fun r => r.follow r.fn.onDisable)

/-- The ring may enter ON (R538). -/
def State.ringReady (s : State) (p : Part) (n : RingNo) : Bool :=
  decide ((s.part p).fn.st = .on) && decide (s.reg .ringDoorbellAddr p.val ≠ 0) && decide (s.reg .ringStatusAddr p.val ≠ 0) &&
    (if h : n.val < 4 then decide ((s.ring p (cplRing ⟨n.val, h⟩)).fn.st = .on) else true)

/-- Zero a ring's fields of the status page, before it takes or posts any entry (R537). -/
def State.zeroStatus (s : State) (p : Part) (n : RingNo) : State :=
  if n.val < 4 then (s.statusWrite p (8 * n.val) 0).statusWrite p (0x020 + 8 * n.val) 0 else s.statusWrite p (statusOff n) 0

/-- A quiescing ring has drained (R539 to R543). -/
def State.ringDrained (s : State) (p : Part) (n : RingNo) : Bool :=
  let x := s.part p
  if h : n.val < 4 then
    decide ((s.ring p n).taken = (s.ring p n).ci) && x.cmds.all (fun c => decide (c.ring ≠ ⟨n.val, h⟩) || c.accepted)
  else if h : n.val < 8 then
    decide ((s.ring p ⟨n.val - 4, by omega⟩).fn.st = .off) && x.cmds.all (fun c => decide (c.ring ≠ ⟨n.val - 4, by omega⟩))
  else if n.val < 10 then x.requests.all (fun e => decide (e.2.tokRing.val ≠ n.val - 8))
  else if n.val = 10 then true
  else if n.val = 11 then x.jnl.recs.all PendRec.witnessOnly
  else x.jnl.witQueue.isEmpty

/-! ### Partitions (R602, R604, R627, R930) -/

/-- An enable of an OFF partition is refused (R602). -/
def State.enableRefused (s : State) (p : Part) : Bool :=
  let set := s.tileSet p
  let others := allParts.filter (fun q => decide (q ≠ p) && decide ((s.part q).fn.st ≠ .off))
  set.isEmpty || others.any (fun q => (s.tileSet q).any set.contains) || !s.hbmValid p ||
    others.any (fun q => (s.vfOf p).isSome && decide (s.vfOf q = s.vfOf p)) ||
    decide (s.hbmBytes p < s.regBits .memHostRegion p.val 0 16 * 1048576)

/-- An enable of a partition; ignored while its reset runs (R930). -/
def State.enablePart (s : State) (p : Part) : State :=
  let x := s.part p
  if x.advance.reset then s
  else if x.fn.st = .off && s.enableRefused p then s.setPart p { x with refused := true, fn := { x.fn with enable := false } }
  else s.setPart p { x with refused := x.refused && !(x.fn.st = .off), fn := x.fn.onEnable }

/-- A disable of a partition. -/
def State.disablePart (s : State) (p : Part) : State :=
  if (s.part p).advance.reset then s else s.modPart p (fun x => { x with fn := x.fn.onDisable })

/-- No tile runs a task of the partition. -/
def State.noRuns (s : State) (p : Part) : Bool :=
  s.tiles.all (fun e => match e.2.run with | some r => decide (r.part ≠ p) | none => true)

/-- A quiescing partition has drained (R604). -/
def State.partDrained (s : State) (p : Part) : Bool :=
  let x := s.part p
  x.requests.isEmpty && x.lcQ.isEmpty && x.beQ.isEmpty && x.fwWait.isEmpty && x.recovering.isEmpty && s.noRuns p && !x.advance.reset &&
    x.rings.toList.all (fun r => decide (r.fn.st = .off))

/-! ### Ports (R429 to R438, R476, R492) -/

/-- Follow a change of the port's function, and of the routes that use it. -/
def State.setPortFn (s : State) (u : PortNo) (f : Fn) : State :=
  let t := s.modPort u (fun p => { p with fn := f, withdrawn := if f.st = .on && p.fn.st ≠ .on then [] else p.withdrawn })
  if ((s.port u).fn.st = .on) = (f.st = .on) then t else t.followRoutes s

/-- What a port drops when it goes down or is switched off (R476, R932): its training, retry buffer and flits. -/
def Port.fresh (p : Port) : Port :=
  { fn := p.fn, rate := p.rate, width4 := p.width4, rx := p.rx, wire := p.wire, neighbour := p.neighbour, withdrawn := p.withdrawn }

/-- A port fails. One that is ON goes down (R438, R476, R492, R932): it retrains on its own, and packets queued for it are routed
again. In any other state the failure has no row of R935, or starts another attempt, and does nothing more (R23). -/
def State.portDown (s : State) (u : PortNo) : State :=
  if (s.port u).fn.st ≠ .on then s.setPortFn u (s.port u).fn.onFailure
  else
  let out := (s.port u).out
  let s := (s.setPortFn u (s.port u).fn.onFailure).modPort u Port.fresh
  let s := out.foldl (fun s k => s.route { k with hops := k.hops - 1 } none) s
  s.raisePackage evLinkDown u.val

/-- PORT_ENABLE. -/
def State.enablePort (s : State) (u : PortNo) : State := s.setPortFn u (s.port u).fn.onEnable

/-- PORT_DISABLE. -/
def State.disablePort (s : State) (u : PortNo) : State := s.setPortFn u (s.port u).fn.onDisable

/-- Training and the identity exchange are complete (R432). -/
def Port.trainedOk (p : Port) : Bool := p.nbValid && !p.dupId && !p.lanes.isEmpty

/-- A quiescing port has sent what was queued for it, and it is acknowledged. -/
def Port.drained (p : Port) : Bool := p.out.isEmpty && p.retry.isEmpty

/-- LINK_DEGRADED when a port enters ON below 224 Gbit/s or at width 4 (R434). -/
def State.degraded (s : State) (u : PortNo) : State :=
  let p := s.port u
  if p.rate ≠ 0 || p.width4 then s.raisePackage evLinkDegraded u.val (p.rate + if p.width4 then 4 else 0) else s

/-! ### Rows -/

def execPartEnable (p : Part) (s : State) : Out := inService s (fun s => s.enablePart p)
def execPartDisable (p : Part) (s : State) : Out := inService s (fun s => s.disablePart p)
def execRingEnable (p : Part) (ring : RingNo) (s : State) : Out := inService s (fun s => s.enableRing p ring)
def execRingDisable (p : Part) (ring : RingNo) (s : State) : Out := inService s (fun s => s.disableRing p ring)
def execPortEnable (u : PortNo) (s : State) : Out := inService s (fun s => s.enablePort u)
def execPortDisable (u : PortNo) (s : State) : Out := inService s (fun s => s.disablePort u)

/-- FUNCTION_READY: a function that is ENABLING has what it needs (R432, R434, R538, R627, R935). -/
def execFunctionReady (f : FnName) (s : State) : Out :=
  inService s (fun s =>
    match f with
    | .part p =>
      s.modPart p (fun x =>
        let g := x.fn.onReady
        { x with fn := g, sems := if x.fn.st = .enabling then [] else x.sems })
    | .ring p n =>
      if (s.ring p n).fn.st = .enabling then
        if s.ringReady p n then (s.zeroStatus p n).modRing p n (fun r => { r with fn := r.fn.onReady }) else s
      else s.modRing p n (fun r => { r with fn := r.fn.onReady })
    | .port u =>
      if (s.port u).fn.st = .enabling then
        if (s.port u).trainedOk && s.nodeValid then ((s.setPortFn u (s.port u).fn.onReady).degraded u).pump u else s
      else s.setPortFn u (s.port u).fn.onReady)

/-- FUNCTION_DRAINED: a quiescing function has nothing left (R539 to R543, R604, R935). -/
def execFunctionDrained (f : FnName) (s : State) : Out :=
  inService s (fun s =>
    match f with
    | .part p =>
      if (s.part p).fn.st = .quiescing && !s.partDrained p then s else s.modPart p (fun x => { x with fn := x.fn.onDrained })
    | .ring p n =>
      if (s.ring p n).fn.st = .quiescing then
        if s.ringDrained p n then
          s.modRing p n (fun r =>
            let g := r.fn.onDrained
            let x := { r with fn := g, error := false }
            if g.st = .enabling then x.leaveOff else x)
        else s
      else s.modRing p n (fun r => { r with fn := r.fn.onDrained })
    | .port u =>
      if (s.port u).fn.st = .quiescing then
        if (s.port u).drained then (s.setPortFn u (s.port u).fn.onDrained).modPort u Port.fresh else s
      else s.setPortFn u (s.port u).fn.onDrained)

/-- The logical lanes of a port from the physical lanes that trained (R431). -/
def logicalLanes (good : List Nat) : List Nat :=
  let first := (List.range 8).filter good.contains
  if 8 ≤ good.length then (List.range 8).map (fun l => if good.contains l then l else 8)
  else if 4 ≤ good.length then ((first ++ (if good.contains 8 then [8] else [])).take 4)
  else []

/-- The rate a port runs at, and its lanes: the first rate from `top` on at which eight lanes train, else the first at which four
do (R430). -/
def chooseRate (t : Training) (top : Nat) (usable : Nat → Bool) : Option (Nat × List Nat) :=
  let at_ := ((List.range 3).filter (fun r => decide (top ≤ r))).map (fun r => (r, ((t.byRate.getD r []).filter usable).eraseDups))
  (at_.find? (fun x => decide (8 ≤ x.2.length))).or (at_.find? (fun x => decide (4 ≤ x.2.length)))

/-- PORT_TRAINED: training and the identity and credit exchanges have ended (R429 to R432). -/
def execPortTrained (u : PortNo) (t : Training) (s : State) : Out :=
  inService s (fun s =>
    let p := s.port u
    match chooseRate t (s.regBits .uagPortCtrl u.val 1 2) (fun l => decide (l < 9) && !s.repair.retired (.lane u.val l)) with
    | none => s
    | some (rate, good) =>
      if p.fn.st ≠ FnSt.enabling || !s.nodeValid then s
      else
      let lanes := logicalLanes good
      let dup := decide (t.identity = some s.self)
      let spared := lanes.idxOf 8
      s.modPort u (fun p => { p.fresh with
        rate := rate, width4 := decide (lanes.length = 4), lanes := lanes, trained := good,
        spareUsed := decide (lanes.length = 8) && lanes.contains 8, sparedLane := if lanes.length = 8 && lanes.contains 8 then spared else 0,
        neighbour := t.identity.getD 0, nbValid := t.identity.isSome && !dup, dupId := dup, rxBytes := [] }))

/-- PORT_RETRAIN_TIMER: a port on which no rate trained tries again (R430). -/
def execPortRetrainTimer (u : PortNo) (s : State) : Out :=
  inService s (fun s =>
    let p := s.port u
    if p.fn.st = .enabling && p.lanes.isEmpty then s.modPort u (fun p => { p with nbValid := false, dupId := false, trained := [] }) else s)

/-- A lane of an ON port loses lock or has too many errors (R436): the spare takes its place and its test starts, and a port
without a free spare goes down (R437, R438). -/
def State.laneFails (s : State) (u : PortNo) (lane : Nat) : State :=
  let p := s.port u
  if p.fn.st ≠ .on || !p.lanes.contains lane then s
  else
    let t := s.substituteLane u lane
    if (t.port u).lanes.contains lane then s.portDown u else t.startTest (.lane u.val lane)

/-- LANE_SPARED: a lane loses lock. -/
def execLaneSpared (u : PortNo) (lane : Fin 9) (s : State) : Out := inService s (fun s => s.laneFails u lane.val)

/-- LINK_DOWN: the neighbour has gone silent (R492). -/
def execLinkDown (u : PortNo) (s : State) : Out := inService s (fun s => s.portDown u)

/-! ### Flits (R440 to R453) -/

/-- The port's link is up. -/
def Port.live (p : Port) : Bool := p.fn.st = .on || p.fn.st = .quiescing

/-- Credits of a neighbour's pool (R451). -/
def poolSize (vc : Nat) : Nat := [128, 128, 768, 768, 512, 512, 640, 640].getD vc 0

/-- Credits come back for a VC. -/
def Port.credit (p : Port) (vc n : Nat) : Port := { p with credits := p.credits.zipIdx.map (fun x => if x.2 = vc then min (x.1 + n) (poolSize vc) else x.1) }

/-- An accepted DATA flit: its bytes join the packet stream, and 32 accepted flits are acknowledged (R443, R446, R448). -/
def Port.acceptData (p : Port) (f : Flit) : Port :=
  let r := cutPackets 256 (p.rxBytes ++ f.payload.take 242)
  let p := { p with rxSeq := f.fseq, nakOut := false, unacked := p.unacked + 1, rxBytes := r.2, rx := p.rx ++ r.1 }
  if 32 ≤ p.unacked then p.sendControl .idle else p

/-- The codewords that a flit is the first to touch. -/
def Port.wordsOf (p : Port) (f : Flit) : List (List (Nat × Nat)) :=
  (List.range (newWords p.fecAt)).map (fun i => f.words.getD i [])

/-- FEC corrected every codeword that a flit touches (R440). -/
def Port.fecOk (p : Port) (f : Flit) : Bool := !(startsInside p.fecAt && p.fecBad) && (p.wordsOf f).all correctable

/-- The place of the next flit in the period, and whether a bad codeword goes on into it. -/
def Port.fecNext (p : Port) (f : Flit) : Port :=
  let last := match (p.wordsOf f).getLast? with | some w => !correctable w | none => p.fecBad
  { p with fecAt := (p.fecAt + 1) % fecPeriod, fecBad := endsInside p.fecAt && last }

/-- Corrected symbol errors of a flit's codewords on physical lane `l`. -/
def Port.symbolErrors (p : Port) (f : Flit) (l : Nat) : Nat :=
  (((p.wordsOf f).filter correctable).flatMap errorsOf).countP (fun i => decide (p.lanes[laneOfSymbol p.lanes.length i]? = some l))

/-- Count what FEC found in the codewords that a flit is the first to touch (R440, R500). DEDUCED: the symbol errors of a codeword
that FEC cannot correct are on no lane it could name, and are not counted there. -/
def State.countFec (s : State) (u : PortNo) (f : Flit) : State :=
  let p := s.port u
  let ws := p.wordsOf f
  let lanes := ((List.range 9).map (fun l => (l, p.symbolErrors f l))).filter (fun e => e.2 ≠ 0)
  let s := lanes.foldl (fun s e => s.count .uagPortLaneErr (9 * u.val + e.1) e.2) s
  let fixed := ws.countP (fun w => correctable w && !(errorsOf w).isEmpty)
  let s := if fixed = 0 then s else s.count .uagPortFecCorr u.val fixed
  let bad := ws.countP (fun w => !correctable w)
  let s := if bad = 0 then s else s.count .uagPortFecUncorr u.val bad
  s.modPort u (fun p => { p.fecNext f with
    errLog := p.errLog.filter (fun e => decide (s.now < e.1 + 1000000)) ++ lanes.map (fun e => (s.now, e.1, e.2)) })

/-- The lanes whose symbol errors in the last ms exceed SPARE_THRESH × 1,024 fail (R436). -/
def State.spareNoisy (s : State) (u : PortNo) : State :=
  let p := s.port u
  let sum (l : Nat) : Nat := ((p.errLog.filter (fun e => decide (e.2.1 = l))).map (fun e => e.2.2)).sum
  (p.lanes.filter (fun l => decide (1024 * s.regBits .uagPortCtrl u.val 6 8 < sum l))).foldl (fun s l =>
    (s.laneFails u l).modPort u (fun p => { p with errLog := p.errLog.filter (fun e => decide (e.2.1 ≠ l)) })) s

/-- FLIT_RECEIVE (R440, R442, R446, R447, R449). -/
def execFlitReceive (u : PortNo) (f : Flit) (s : State) : Out :=
  inService s (fun s =>
    if !(s.port u).live then s
    else
    let whole := (s.port u).fecOk f
    let s := (s.countFec u f).spareNoisy u
    if !(s.port u).live then s
    else if !whole then s.modPort u Port.nak
    else if !f.fcrcOk then s.modPort u Port.nak
    else
      let s := s.modPort u (fun p => (p.acked f.ack).credit f.vc.val f.credits)
      match f.ftype with
      | .data =>
        if f.fseq = (s.port u).rxSeq + 1 then (s.modPort u (fun p => p.acceptData f)).pump u else s.modPort u Port.nak
      | .nak =>
        let n := (s.port u).retry.length
        let s := (s.modPort u Port.replay).count .uagPortReplay u.val n
        if (s.port u).retry.any (fun x => decide (16 ≤ x.2)) then s.portDown u else s
      | _ => s.pump u)

/-- ACK_TIMER: accepted flits are acknowledged at least every 1 µs (R448). -/
def execAckTimer (u : PortNo) (s : State) : Out :=
  inService s (fun s => if (s.port u).live && 0 < (s.port u).unacked then s.modPort u (fun p => p.sendControl .idle) else s)

/-- NAK_HOLDOFF_EXPIRY: 2 µs have passed since a NAK; another may be sent (R446). -/
def execNakHoldoffExpiry (u : PortNo) (s : State) : Out :=
  inService s (fun s => s.modPort u (fun p => { p with nakOut := false }))

/-- IDLE_FLIT_TIMER: 256 ns without a flit to send (R444). -/
def execIdleFlitTimer (u : PortNo) (s : State) : Out :=
  inService s (fun s => if (s.port u).live then s.modPort u (fun p => p.sendControl .idle) else s)

end Sys2Proof.Machine
end

