-- ==== Sys2Proof/Machine/Fabric.lean ====
section
/-! DEFINITION. Packets as they arrive at this node, the collective engine, fabric time, and what the loss of a node does
to the fabric (R455 to R499). -/

namespace Sys2Proof.Machine

/-! ### Arrival (R456 to R458, R472, R495) -/

/-- A packet type of R457. -/
def knownType (t : Byte) : Bool := decide (1 ≤ t.toNat) && decide (t.toNat ≤ 10)

/-- A packet arrives: it leaves its receive buffer, and is dropped, sent on, or found for this node (`true`). -/
def State.arrive (s : State) (u : Option PortNo) (k : Packet) : State × Bool :=
  let s := match u with
    | some u => s.modPort u (fun p => p.takeRx k)
    | none => s
  if s.fabric.fenced.contains k.src then (s.count .uagDropFenced 0 1, false)
  else if !k.reservedZero || !knownType k.typ || 64 ≤ k.hops then (s.count .uagMalformed 0 1, false)
  else if k.dst ≠ s.self then (s.route k u, false)
  else if k.ecrc ≠ k.makeEcrc then (s.count .uagEcrcFail 0 1, false)
  else (s, true)

/-- A packet of one type arrives, and `f` serves it here. A packet of another type of R457 has its own command. -/
def State.arriveAs (s : State) (u : Option PortNo) (k : Packet) (typ : Byte) (f : State → State) : State :=
  if k.typ ≠ typ && knownType k.typ then s
  else
    let r := s.arrive u k
    if r.2 then f r.1 else r.1

/-- The port whose receive buffer holds a packet. -/
def State.portHolding (s : State) (k : Packet) : Option PortNo := allPorts.find? (fun u => (s.port u).rx.contains k.bytes)

/-! ### Acknowledgements (R461 to R470) -/

/-- Acknowledge a packet, in its class. -/
def State.sendAck (s : State) (k : Packet) : State := s.sendPlain tyAck k.tc k.src k.part 0 0 k.xid []

/-- Refuse a packet; the XID field names it (DEDUCED, log entry 31). -/
def State.sendNack (s : State) (k : Packet) (st : W16) : State :=
  s.sendPlain tyNack k.tc k.src k.part k.xid 0 (st.setWidth 32) []

/-- An acknowledgement or refusal of one of this node's transfers: it is settled, once (R465, R470). -/
def State.settle (s : State) (key : Nat) (st : W16) (data : List Byte) : State :=
  if s.unacked key then
    (s.modFabric (fun f => { f with held := f.held.filter (fun h => decide (h.key ≠ key)) })).answer key st data
  else s

/-- E2E_RESEND: the timeout of an unacknowledged packet passes (R466, R467). -/
def execE2eResend (dst : Node) (tc : Fin 4) (xid : W32) (s : State) : Out :=
  inService s (fun s =>
    let key := xidKey dst tc xid
    match s.fabric.held.find? (fun h => decide (h.key = key)) with
    | none => s
    | some h =>
      if h.waiting then s
      else
        let s := s.advanceTo (h.sentAt + 1000 * s.regBits .uagLostCfg 0 16 16)
        let upd (f : Held → Held) : State := s.modFabric (fun x => { x with held := x.held.map (fun g => if g.key = key then f g else g) })
        let again : Packet := { h.pkt with resend := true, ecrc := ({ h.pkt with resend := true } : Packet).makeEcrc }
        if s.reachable dst then ((upd (fun g => { g with pkt := again, sentAt := s.now })).count .uagResend 0 1).route again none
        else upd (fun g => { g with waiting := true }))

/-- What the record of a source's XIDs says of a packet (R468, R469). -/
inductive Receipt where
  /-- it came before -/
  | again
  /-- deliver it -/
  | now
  /-- hold it until the gap fills -/
  | hold
  /-- held already, or no room -/
  | drop

/-- Key of an XID record. -/
def recKey (src : Node) (tc : Fin 4) : Nat := 4 * src.val + tc.val

/-- Judge an acknowledged packet. An XID before the next one in order that the record no longer lists came before. -/
def XidRec.judge (r : XidRec) (k : Packet) : Receipt :=
  if r.seen.contains k.xid then .again
  else if k.tc ≠ 0 || k.xid = r.next then .now
  else if (k.xid - r.next).toNat < 2 ^ 31 then
    if r.heldBack.any (fun h => decide (h.2.xid = k.xid)) || 256 ≤ r.heldBack.length then .drop else .hold
  else .again

/-- Record a packet as received. -/
def XidRec.note (r : XidRec) (k : Packet) : XidRec :=
  let seen := (k.xid :: r.seen).take 4096
  { r with seen := seen, next := if k.tc = 0 then k.xid + 1 else r.next,
           heldBack := r.heldBack.filter (fun h => decide (h.2.xid ≠ k.xid)), refused := r.refused.filter (fun x => seen.contains x.1) }

def State.modRec (s : State) (k : Packet) (f : XidRec → XidRec) : State :=
  s.modFabric (fun x => { x with xidRecs := dmod x.xidRecs (recKey k.src k.tc) {} f })

/-- Refuse a packet, and remember it. -/
def State.refusePacket (s : State) (k : Packet) (st : W16) : State :=
  (s.modRec k (fun r => { r with refused := (k.xid, st) :: r.refused })).sendNack k st

/-- Answer again what came again. -/
def State.answerAgain (s : State) (k : Packet) : State :=
  match (dget s.fabric.xidRecs (recKey k.src k.tc) {}).refused.find? (fun x => decide (x.1 = k.xid)) with
  | some x => s.sendNack k x.2
  | none => s.sendAck k

/-! ### WRITE and READ of this node's memory (R459 to R462) -/

/-- Every byte lies within the partition's HBM extent, firn extent or tile windows at this node. -/
def State.remoteOk (s : State) (p : Part) (ga : W64) (n : Nat) : Bool :=
  let a := dpaOf ga
  decide (nodeOf ga = s.self) &&
    (s.inHbm p a n || s.inFirnExtent p a n ||
      (s.tileSet p).any (fun t => decide (windowOf t ≤ a) && decide (a + n ≤ windowOf t + padBytes)))

/-- Serve a WRITE (R460, R461). -/
def State.serveWrite (s : State) (k : Packet) : State :=
  if s.remoteOk k.part k.addr k.payload.length then (s.writeDpa (dpaOf k.addr) k.payload).sendAck k
  else s.refusePacket k stMalformed

/-- Serve a READ (R460 to R462). -/
def State.serveRead (s : State) (k : Packet) (ue : Option Nat) : State :=
  let n := k.arg.toNat
  if n = 0 || 4096 < n || !s.remoteOk k.part k.addr n then s.sendNack k stMalformed
  else
    match s.badByte (dpaOf k.addr) n ue with
    | some d => (s.uncorrectable d).sendNack k stUnrecoverable
    | none => s.sendPlain tyReadData k.tc k.src k.part 0 0 k.xid (s.readDpa (dpaOf k.addr) n)

/-! ### ROUTE (R477, R478) -/

/-- The destinations a ROUTE payload lists, with whether each is restored. -/
def routeList (bs : List Byte) : List (Node × Bool) :=
  (List.range (min 64 (bs.length / 2))).map (fun i =>
    let v := fieldAt bs (2 * i) 2
    (Fin.ofNat 512 (v % 512), bitOf v 15))

/-- ROUTE: withdrawals and restorations from the neighbour on a port. -/
def execRoute (u : PortNo) (pkt : Packet) (s : State) : Out :=
  inService s (fun s => s.arriveAs u pkt tyRoute (fun s =>
    (s.modPort u (fun p => { p with withdrawn := (routeList pkt.payload).foldl (fun w x =>
      if x.2 then w.filter (fun n => decide (n ≠ x.1)) else if w.contains x.1 then w else x.1 :: w) p.withdrawn })).followRoutes s))

/-! ### The collective engine (R479 to R483) -/

/-- Collective slots of a class (R482). -/
def collSlots (tc : Fin 4) : Nat := [8, 24, 24, 8].getD tc.val 0

/-- Round an FP32 code to BF16, as an FP32 code. -/
def toBf16 (v : W32) : W32 := (BitVec.ofNat 32 (bf16.encodeIeee (fp32.decode v.toNat))) <<< 16

/-- Values as a packet carries them. -/
def collWire (c : CollPlan) (vs : List W32) : List Byte :=
  if c.bf16 then vs.flatMap (fun (v : W32) => leBytes 2 (v.toNat / 65536)) else vs.flatMap (fun v => leBytes 4 v.toNat)

/-- Values of a packet. -/
def collValues (c : CollPlan) (bs : List Byte) : List W32 :=
  if c.bf16 then (List.range (bs.length / 2)).map (fun i => BitVec.ofNat 32 (fieldAt bs (2 * i) 2) <<< 16)
  else (List.range (bs.length / 4)).map (fun i => BitVec.ofNat 32 (fieldAt bs (4 * i) 4))

/-- The partial of a member (R480): own + child 0 + child 1 and so on, element by element, rounded to the wire format. -/
def collReduce (c : CollPlan) (own : List W32) (children : List (List W32)) : List W32 :=
  let sum := children.foldl (fun acc vs => List.zipWith add32 acc vs) own
  if c.bf16 then sum.map toBf16 else sum

/-- Change the collective with an ID. -/
def State.modColl (s : State) (id : W16) (f : Coll → Coll) : State :=
  s.modFabric (fun x => { x with colls := x.colls.map (fun c => if c.plan.id = id then f c else c) })

def State.coll? (s : State) (id : W16) : Option Coll := s.fabric.colls.find? (fun c => decide (c.plan.id = id))

/-- Send a chunk of a collective. -/
def State.sendChunk (s : State) (c : CollPlan) (dst : Node) (chunk : Nat) (vs : List W32) : State :=
  s.sendPlain tyColl c.tc dst c.part 0 0 (BitVec.ofNat 32 (c.id.toNat + 65536 * chunk)) (collWire c vs)

/-- A chunk of the result is here: all-reduce, all-gather and broadcast send it on down the tree. -/
def State.collResult (s : State) (c : CollPlan) (chunk : Nat) (vs : List W32) : State :=
  let s := s.modColl c.id (fun x => { x with result := dset x.result chunk vs })
  match c.op with
  | .allReduce | .allGather | .broadcast => c.children.foldl (fun s n => s.sendChunk c n chunk vs) s
  | _ => s

/-- What this member passes up for a chunk, once it has it. -/
def Coll.partialOf (x : Coll) (self : Node) (chunk : Nat) : Option (List W32) :=
  let c := x.plan
  let from_ (n : Node) : Option (List W32) := (x.got.find? (fun g => decide (g.1 = n) && decide (g.2.1 = chunk))).map (fun g => g.2.2)
  match c.op with
  | .allReduce | .reduceScatter =>
    let cs := c.children.map from_
    if cs.all Option.isSome then some (collReduce c (c.own.getD chunk []) (cs.map (fun v => v.getD []))) else none
  | .allGather => if c.members[chunk]? = some self then some (c.own.getD chunk []) else (c.children.filterMap from_).head?
  | _ => none

/-- Form and pass on the partial of a chunk. -/
def State.collForm (s : State) (id : W16) (chunk : Nat) : State :=
  match s.coll? id with
  | none => s
  | some x =>
    let c := x.plan
    if x.formed.contains chunk then s
    else
      match x.partialOf s.self chunk with
      | none => s
      | some vs =>
        let s := s.modColl id (fun x => { x with formed := chunk :: x.formed })
        match c.parent with
        | some q => s.sendChunk c q chunk vs
        | none =>
          match c.op with
          | .reduceScatter =>
            match c.members[chunk]? with
            | some n => if n = s.self then s.collResult c chunk vs else s.sendChunk c n chunk vs
            | none => s
          | _ => s.collResult c chunk vs

/-- The collective has all it needs at this member. That of a chunk of this package's own broadcast lasts until every receiver that
needs the chunk has digested it (R700, R701). -/
def Coll.complete (x : Coll) (self : Node) : Bool :=
  !(match x.plan.weights with | some w => decide (w.me = 0) | none => false) &&
  match x.plan.op with
  | .reduceScatter => decide (x.formed.length = x.plan.chunks) &&
      (List.range x.plan.chunks).all (fun i => decide (x.plan.members[i]? ≠ some self) || (dget? x.result i).isSome)
  | _ => decide (x.result.length = x.plan.chunks)

/-- A collective leaves its slot with a status. -/
def State.closeColl (s : State) (x : Coll) (st : W16) : State :=
  s.modFabric (fun f => { f with colls := f.colls.filter (fun c => decide (c.plan.id ≠ x.plan.id)),
                                 finished := (x.plan.id, st, x.result) :: f.finished,
                                 early := f.early.filter (fun e => decide (e.1.arg.toNat % 65536 ≠ x.plan.id.toNat)) })

/-- Take a COLL packet of a collective under way here. -/
def State.collTake (s : State) (x : Coll) (k : Packet) (kind : CollKind) : State :=
  let c := x.plan
  let chunk := k.arg.toNat / 65536
  let vs := collValues c k.payload
  if c.chunks ≤ chunk then s
  else
    match kind with
    | .partialSum => (s.modColl c.id (fun x => { x with got := x.got ++ [(k.src, chunk, vs)] })).collForm c.id chunk
    | .result => s.collResult c chunk vs
    | .abort => s

/-- Send a collective's abort to every other member, free its slot and fail it (R483). -/
def State.abortOne (s : State) (x : Coll) (st : W16) : State :=
  let c := x.plan
  ((c.members.filter (fun n => decide (n ≠ s.self))).foldl (fun s n =>
    s.sendPlain tyColl 0 n c.part 0 0 (BitVec.ofNat 32 c.id.toNat) (Config.messageBody [c.id.toNat])) s).closeColl x st

/-- Start a collective that has a slot: what this member contributes sets out, and what came early is taken. -/
def State.openColl (s : State) (c : CollPlan) : State :=
  let s := s.modFabric (fun f => { f with colls := f.colls ++ [{ plan := c }] })
  if c.members.any (fun n => decide (n ≠ s.self) && s.fabric.fenced.contains n) then s.abortOne { plan := c } stCollAborted
  else
    let me := c.members.idxOf s.self
    let s : State := match c.op with
      | .broadcast => if c.parent.isNone then (List.range c.chunks).foldl (fun (s : State) i => s.collResult c i (c.own.getD i [])) s else s
      | .allToAll =>
        (c.members.zipIdx.foldl (fun (s : State) x => if x.1 = s.self then s else s.sendChunk c x.1 me (c.own.getD x.2 [])) s).collResult c me (c.own.getD me [])
      | _ => (List.range c.chunks).foldl (fun (s : State) i => s.collForm c.id i) s
    let mine := s.fabric.early.filter (fun e => decide (e.1.arg.toNat % 65536 = c.id.toNat))
    mine.foldl (fun (s : State) e => match s.coll? c.id with | some x => s.collTake x e.1 e.2 | none => s) s

/-- Finish the collectives that are complete, and start those that wait for a slot of their class, oldest first. -/
def State.settleColls : Nat → State → State
  | 0, s => s
  | n + 1, s =>
    match s.fabric.colls.find? (fun x => x.complete s.self) with
    | some x => State.settleColls n (s.closeColl x stOk)
    | none =>
      match s.fabric.waiting.find? (fun c => decide ((s.fabric.colls.filter (fun x => decide (x.plan.tc = c.tc))).length < collSlots c.tc)) with
      | some c => State.settleColls n ((s.modFabric (fun f => { f with waiting := f.waiting.erase c })).openColl c)
      | none => s

/-- Settle all. -/
def State.collsGoOn (s : State) : State := State.settleColls (2 * (s.fabric.colls.length + s.fabric.waiting.length) + 2) s

/-! ### The tree of BROADCAST_WEIGHTS (R697, R700) -/

/-- The members of a broadcast: the issuing package is member 0 and receiver j - 1 is member j. -/
def castMembers (w : WeightsCast) : List Node := w.root :: w.receivers.map Prod.fst

/-- The parent of member j of the tree. -/
def castParent (j : Nat) : Nat := (j - 1) / 8

/-- Member `i` lies in the subtree of member `j`, `i` itself included. -/
def castBelow (j : Nat) : Nat → Nat → Bool
  | 0, i => decide (i = j)
  | n + 1, i => decide (i = j) || (i ≠ 0 && castBelow j n (castParent i))

/-- The subtree of member `j` holds a receiver whose shard contains the chunk: 506 receivers make four levels at most. -/
def castWanted (w : WeightsCast) (j : Nat) : Bool :=
  w.receivers.zipIdx.any (fun r => r.1.2 && castBelow j 4 (r.2 + 1))

/-- The children of this member down whose subtrees the chunk travels. -/
def castChildren (w : WeightsCast) : List Node :=
  ((List.range 8).map (8 * w.me + 1 + ·)).filterMap (fun j => if castWanted w j then (castMembers w)[j]? else none)

/-- The plan of a collective that carries a chunk of weights: a broadcast on TC3 down the tree (R697, R700). -/
def shapedPlan (c : CollPlan) : CollPlan :=
  match c.weights with
  | none => c
  | some w => { c with op := .broadcast, bf16 := false, tc := 3, members := castMembers w, children := castChildren w,
                       parent := if w.me = 0 then none else (castMembers w)[castParent w.me]? }

/-- Some range of a shard contains a chunk. -/
def Head.inShard (h : Head) (shard chunk : Nat) : Bool :=
  (h.shards.getD shard []).any (fun r => decide (r.1 ≤ chunk) && decide (chunk < r.1 + r.2))

/-- Chunks of a broadcast of this package that are in flight (R700). -/
def State.inFlight (s : State) (p : Part) (order : Nat) : List Nat :=
  (s.fabric.colls.map Coll.plan ++ s.fabric.waiting).filterMap (fun c =>
    match c.weights with
    | some w => if c.part = p && w.me = 0 && w.order = order then some w.chunk else none
    | none => none)

/-- The plan that starts a collective: of a chunk of this package's own broadcast, for the receivers of the command, while at most
three others are in flight (R697, R700); any other plan as it is; none where there is nothing to start. -/
def State.castPlan (s : State) (c : CollPlan) : Option CollPlan :=
  match c.weights with
  | none => some c
  | some w =>
    if w.me ≠ 0 then some (shapedPlan c)
    else
      match (s.part c.part).loads.find? (fun l => decide (l.cmd = w.order) && (match l.path with | .broadcast _ => true | _ => false)) with
      | none => none
      | some l =>
        let out := s.inFlight c.part w.order
        match (dget (s.part c.part).slots l.slot {}).head with
        | none => none
        | some h =>
          if l.todo.contains w.chunk && !out.contains w.chunk && decide (out.length < 4) then
            let rs := (if l.self then l.receivers.dropLast else l.receivers).map (fun r => (r.1, h.inShard r.2.2.2.1 w.chunk))
            some (shapedPlan { c with weights := some { w with root := s.self, receivers := rs } })
          else none

/-- COLLECTIVE_START: Nelnus firmware starts a collective on this member; it takes a slot of its class or waits for one
(R482). -/
def execCollectiveStart (plan : CollPlan) (ue : Option Nat) (s : State) : Out :=
  inService s (fun s =>
    match s.castPlan plan with
    | none => s
    | some plan =>
    if (s.coll? plan.id).isSome || s.fabric.waiting.any (fun c => decide (c.id = plan.id)) then s
    else
      let t := s.modFabric (fun f => { f with
        waiting := f.waiting ++ [plan], finished := f.finished.filter (fun x => decide (x.1 ≠ plan.id)) })
      match ue.filter (fun d => (s.extentOf d).isSome) with
      | some d =>
        -- what the member contributes cannot be read: the operation fails, and the step is to be replayed (R289)
        ((((t.modFabric (fun f => { f with waiting := f.waiting.erase plan })).noteUnreadable d).abortOne { plan := plan }
          stUnrecoverable).failStep plan.part).collsGoOn
      | none => t.collsGoOn)

/-- Take chunks of a broadcast of this package out of flight: they have landed, or the broadcast has ended (R700). -/
def State.endCasts (s : State) (p : Part) (order : Nat) (which : Nat → Bool) : State :=
  let gone (c : CollPlan) : Bool := match c.weights with
    | some w => decide (c.part = p) && decide (w.me = 0) && decide (w.order = order) && which w.chunk
    | none => false
  if (s.fabric.colls.map Coll.plan ++ s.fabric.waiting).any gone then
    (s.modFabric (fun f => { f with
      colls := f.colls.filter (fun x => !gone x.plan), waiting := f.waiting.filter (fun c => !gone c),
      finished := (f.colls.filter (fun x => gone x.plan)).map (fun x => (x.plan.id, stOk, x.result)) ++ f.finished })).collsGoOn
  else s

/-- Abort every collective under way that a node is a member of. -/
def State.abortWith (s : State) (n : Node) : State :=
  (s.fabric.colls.filter (fun x => x.plan.members.contains n)).foldl (fun s x => s.abortOne x stCollAborted) s

/-- COLL: a chunk or an abort arrives (R479 to R483). An uncorrectable read by the engine fails its operation, and the
step is to be replayed (R289). -/
def execColl (u : PortNo) (pkt : Packet) (c : CollKind) (ue : Option Nat) (s : State) : Out :=
  inService s (fun s => s.arriveAs u pkt tyColl (fun s =>
    let id : W16 := pkt.arg.setWidth 16
    match s.coll? id with
    | none =>
      if s.fabric.finished.any (fun f => decide (f.1 = id)) then s
      else s.modFabric (fun f => { f with early := f.early ++ [(pkt, c)] })
    | some x =>
      if c = .abort then (s.abortOne x stCollAborted).collsGoOn
      else
        match ue with
        | some d =>
          if (s.extentOf d).isSome then
            (((s.noteUnreadable d).abortOne x stUnrecoverable).failStep x.plan.part).collsGoOn
          else (s.collTake x pkt c).collsGoOn
        | none => (s.collTake x pkt c).collsGoOn))

/-! ### Fabric time (R484 to R491) -/

/-- Bits of UAG_TIME_CFG. -/
def State.hostMaster (s : State) : Bool := bitOf (s.reg .uagTimeCfg) 0
def State.isBackup (s : State) : Bool := bitOf (s.reg .uagTimeCfg) 1

/-- The node is time master, by its MASTER bit or under R489. -/
def State.timeMaster (s : State) : Bool := s.hostMaster || s.fabric.actingMaster

/-- The parent port, and the backup parent port, where each is enabled. -/
def State.parentPort (s : State) : Option PortNo :=
  if bitOf (s.reg .uagTimeCfg) 5 then some (Fin.ofNat 8 (s.regBits .uagTimeCfg 0 2 3)) else none
def State.backupPort (s : State) : Option PortNo :=
  if bitOf (s.reg .uagTimeCfg) 9 then some (Fin.ofNat 8 (s.regBits .uagTimeCfg 0 6 3)) else none

/-- The port the node takes its sync from (R488): the parent port while it is up, else the backup parent port. -/
def State.syncPort (s : State) : Option PortNo :=
  match s.parentPort with
  | some u => if (s.port u).fn.st = .on then some u else s.backupPort
  | none => s.backupPort

/-- Kinds of messages of this model, as `Config.messageKind` counts them. -/
def kindSync : Nat := 0
def kindDelay : Nat := 1

/-- Send a sync to every child port that is ON. -/
def State.sendSync (s : State) (master : Node) (hostMaster : Bool) : State :=
  (allPorts.filter (fun u => bitOf (s.reg .uagTimeCfg) (10 + u.val) && decide ((s.port u).fn.st = .on))).foldl (fun s u =>
    s.enqueue u (s.makePacket tyTime 0 (s.port u).neighbour 0 0 0 (Config.messageKind kindSync)
      (Config.messageBody [s.time, master.val, if hostMaster then 1 else 0]))) s

/-- Step the count to a time: a new ramp window begins (R486, R826). -/
def State.stepTime (s : State) (t : W64) (corr : Int) : State :=
  (s.modFabric (fun f => { f with time := t, locked := true, slew := 0, lastCorr := corr })).rampWindow

/-- Follow a sync: step while LOCKED is clear, slew while it is set (R485, R486). -/
def State.follow (s : State) (t : TimeSync) : State :=
  let d := t.time + BitVec.ofNat 64 s.fabric.linkDelay
  let diff : Int := (d.toNat : Int) - s.time
  let s := s.modFabric (fun f => { f with lastSync := s.now, masterNode := t.master })
  let s := if s.fabric.locked then s.modFabric (fun f => { f with slew := diff, lastCorr := diff }) else s.stepTime d diff
  s.sendSync t.master t.hostMaster

/-- TIME_SYNC (R484 to R486, R490). -/
def execTimeSync (u : PortNo) (pkt : Packet) (t : TimeSync) (s : State) : Out :=
  inService s (fun s => s.arriveAs u pkt tyTime (fun s =>
    if s.hostMaster then s
    else if s.fabric.actingMaster then
      if (s.parentPort = some u || s.backupPort = some u) && (t.master < s.self || t.hostMaster) then
        (s.modFabric (fun f => { f with actingMaster := false, locked := true })).follow t
      else s
    else if s.syncPort = some u then s.follow t
    else s))

/-- TIME_SYNC_SEND: the master's sync interval passes (R484). -/
def execTimeSyncSend (s : State) : Out :=
  inService s (fun s =>
    if s.timeMaster then
      let s := s.advanceTo (s.fabric.lastSync + 1000 * s.regBits .uagTimeCfg 0 18 8)
      (s.modFabric (fun f => { f with lastSync := s.now })).sendSync s.self s.hostMaster
    else s)

/-- LINK_DELAY_MEASURE: every 1 ms the delay of the parent link is measured (R485). -/
def execLinkDelayMeasure (s : State) : Out :=
  inService s (fun s =>
    match s.syncPort with
    | some u =>
      if (s.port u).fn.st = .on then
        s.enqueue u (s.makePacket tyTime 0 (s.port u).neighbour 0 0 0 (Config.messageKind kindDelay) (Config.messageBody [s.time]))
      else s
    | none => s)

/-- TIME_DELAY_EXCHANGE: a request is answered with the turnaround; an answer gives the delay, half the round trip less
the turnaround (R485). -/
def execTimeDelayExchange (u : PortNo) (m : DelayMsg) (s : State) : Out :=
  inService s (fun s =>
    match m with
    | .request turn =>
      if (s.port u).fn.st = .on then
        s.enqueue u (s.makePacket tyTime 0 (s.port u).neighbour 0 0 0 (Config.messageKind kindDelay) (Config.messageBody [turn]))
      else s
    | .reply round turn => if s.syncPort = some u then s.modFabric (fun f => { f with linkDelay := (round - turn) / 2 }) else s)

/-- SYNC_LOSS: a follower has received no sync for 1 ms (R488). -/
def execSyncLoss (s : State) : Out :=
  inService s (fun s =>
    if s.timeMaster then s
    else
      let s := s.advanceTo (s.fabric.lastSync + 1000000)
      s.modFabric (fun f => { f with locked := false, slew := 0 }))

/-- BECOME_MASTER: no sync has reached a BACKUP node for 100 µs (R489). -/
def execBecomeMaster (s : State) : Out :=
  inService s (fun s =>
    if s.timeMaster || !s.isBackup then s
    else
      let s := s.advanceTo (s.fabric.lastSync + 100000)
      (s.modFabric (fun f => { f with actingMaster := true, slew := 0, lastSync := s.now })).sendSync s.self false)

/-- A write of UAG_TIME_SET (R486, R491). -/
def State.timeSet (s : State) (v : W64) : State :=
  if s.hostMaster && !s.fabric.locked then s.stepTime v ((v.toNat : Int) - s.time) else s

def execUagTimeSet (v : W64) (s : State) : Out := inService s (fun s => s.timeSet v)

/-! ### Loss of a node (R470, R493 to R497) -/

/-- Steps 1 to 4 of R494 on the fabric: packets for the node are discarded, transfers to it fail, its collectives abort,
and its ID joins the fence list. A collective that takes a freed slot then finds it fenced (R483). -/
def State.cutOff (s : State) (n : Node) : State :=
  let s := allPorts.foldl (fun s u => s.modPort u (fun p => { p with out := p.out.filter (fun k => decide (k.dst ≠ n)) })) s
  let mine := s.fabric.held.filter (fun h => decide (h.pkt.dst = n))
  let s := mine.foldl (fun s h => s.settle h.key stNodeLost []) s
  let s := s.abortWith n
  (s.modFabric (fun f => { f with fenced := if f.fenced.contains n then f.fenced else n :: f.fenced, losing := derase f.losing n.val })).collsGoOn

/-- Nodes of the fence list leave it, their XID records are cleared, and so are the claims against them
(R497, R759). -/
def State.clearFence (s : State) (n : Fin 16) (v : W32) : State :=
  let gone (x : Nat) : Bool := decide (x / 32 = n.val) && v.getLsbD (x % 32) && s.fabric.fenced.any (fun y => decide (y.val = x))
  let s := allParts.foldl (fun s p => s.modPart p (fun x => { x with
    jnl := { x.jnl with claims := x.jnl.claims.filter (fun c => !gone c.origin.val) } })) s
  s.modFabric (fun f => { f with fenced := f.fenced.filter (fun x => !gone x.val), xidRecs := f.xidRecs.filter (fun e => !gone (e.1 / 4)) })

def execUagFenceClear (n : Fin 16) (v : W32) (s : State) : Out := inService s (fun s => s.clearFence n v)

end Sys2Proof.Machine
end

