-- ==== Sys2Proof/Machine/Journal.lean ====
section
/-! DEFINITION. The journal of a partition: records and their bytes, the order in which they reach the witness and the JNL
ring, what makes them durable, and the witness side (R728 to R759). Token records, and their waiting for room (R547). -/

namespace Sys2Proof.Machine

/-! ### Registers of the journal (R776) -/

def State.solo (s : State) (p : Part) : Bool := bitOf (s.reg .jnlCfg p.val) 0
def State.earlyTokens (s : State) (p : Part) : Bool := bitOf (s.reg .jnlCfg p.val) 1
def State.witAccept (s : State) (p : Part) : Bool := bitOf (s.reg .jnlCfg p.val) 2
def State.lagUs (s : State) (p : Part) : Nat := s.regBits .jnlCfg p.val 16 16
/-- Node and partition of JNL_WITNESS. -/
def State.witnessOf (s : State) (p : Part) : Node × Part :=
  (Fin.ofNat 512 (s.regBits .jnlWitness p.val 0 9), Fin.ofNat 16 (s.regBits .jnlWitness p.val 9 4))
def State.witnessValid (s : State) (p : Part) : Bool := bitOf (s.reg .jnlWitness p.val) 31

def jnlRing : RingNo := 11
def witRing : RingNo := 12

/-- Change the journal of a partition. -/
def State.modJnl (s : State) (p : Part) (f : Journal → Journal) : State := s.modPart p (fun x => { x with jnl := f x.jnl })

/-! ### Records as bytes (R728 to R730) -/

/-- A node and partition in one field: ORIGIN, and AUX of a CLOSE. -/
def nodePart (n : Node) (q : Part) : Nat := n.val + q.val * 2 ^ 9

def reasonCode : CloseReason → Nat
  | .ended => 0
  | .frozen => 1
  | .migrated => 2
  | .claimed => 3

/-- KIND of a record. -/
def jKind : JBody → Nat
  | .head .. => 1
  | .carrier .. => 1
  | .commit .. => 2
  | .close .. => 3

def jIsCarrier : JBody → Bool
  | .carrier .. => true
  | _ => false

/-- X of a record (R729). -/
def jX : JBody → Nat
  | .head op _ _ _ => op.toNat
  | .carrier i client be _ => i + client * 4 + (if be then 16384 else 0)
  | .commit _ ts => ts.length
  | .close st _ _ _ => st.toNat

/-- BODY of a record (R729). -/
def jBytes : JBody → List Byte
  | .head _ seq first count => leBytes 8 seq.toNat ++ leBytes 4 first ++ leBytes 4 count
  | .carrier _ _ _ bs => padTo bs 16
  | .commit first ts => leBytes 4 first ++ padTo (ts.flatMap (fun t => leBytes 4 t.toNat)) 12
  | .close _ n reason aux => leBytes 4 n ++ [BitVec.ofNat 8 (reasonCode reason), 0, 0, 0] ++ leBytes 8 aux.toNat

/-- A record's 32 bytes (R728). -/
def recordBytes (r : JRec) : List Byte :=
  [BitVec.ofNat 8 (jKind r.body),
   BitVec.ofNat 8 ((if r.input then 1 else 0) + (if r.late then 2 else 0) + (if r.final then 4 else 0) + (if r.reseed then 8 else 0) +
     (if jIsCarrier r.body then 16 else 0))] ++
  leBytes 2 (nodePart r.origin r.originPart + (if jKind r.body = 1 then r.ring.val * 2 ^ 13 else 0)) ++ leBytes 4 r.request ++
  leBytes 4 r.jseq.toNat ++ leBytes 2 r.epoch.toNat ++ leBytes 2 (jX r.body) ++ jBytes r.body

/-! ### Durability (R737, R738) -/

/-- A record is durable (R738). -/
def PendRec.durable (r : PendRec) (solo : Bool) : Bool := (r.witnessOnly || r.local_) && (solo || r.acked)

/-- The record is still to be sent to the witness. -/
def PendRec.unsent (r : PendRec) : Bool := !r.acked && r.sent.isNone

/-- The record waits for room in the JNL ring. -/
def PendRec.waits (r : PendRec) : Bool := !r.witnessOnly && r.index.isNone

/-- Records sent and not acknowledged (R744). -/
def Journal.outstanding (j : Journal) : Nat := (j.recs.filter (fun r => r.sent.isSome && !r.acked)).length

/-- Room for one more JNL entry. -/
def State.jnlRoom (s : State) (p : Part) : Bool :=
  let r := s.ring p jnlRing
  r.fn.st = .on && decide (r.taken - r.ci < s.ringEntries p jnlRing)

/-- Write waiting records into the JNL ring, in order, while it has room (R548, R739 step 2). -/
def State.writeRecords (p : Part) : List PendRec → State → State × List PendRec
  | [], s => (s, [])
  | r :: rs, s =>
    if !r.waits then
      let x := State.writeRecords p rs s
      (x.1, r :: x.2)
    else if !s.jnlRoom p then (s, r :: rs)
    else
      let i := (s.ring p jnlRing).taken
      let j := { r.jrec with jseq := BitVec.ofNat 32 i }
      let s := s.hostWrite (s.slotAddr p jnlRing i) (recordBytes j)
      let full := decide (s.ringEntries p jnlRing ≤ i + 1 - (s.ring p jnlRing).ci)
      let s := s.modRing p jnlRing (fun x => { x with taken := i + 1 })
      let s := if full then s.raiseEvent p evJournalFull 0 else s
      let x := State.writeRecords p rs s
      (x.1, { r with jrec := j, index := some i } :: x.2)

/-- Apply `f` to the first `n` records that have not been sent. -/
def markUnsent (f : PendRec → PendRec) : Nat → List PendRec → List PendRec
  | 0, rs => rs
  | _, [] => []
  | n + 1, r :: rs => if r.unsent then f r :: markUnsent f n rs else r :: markUnsent f (n + 1) rs

/-- The model's number for the message that mirrors records. -/
def kindMirror : Nat := 2

/-- Send records to the witness, in order: at most 128 of one request in a packet, and at most 4,096 unacknowledged (R744).
Nothing is sent while a refused packet waits (R746). -/
def State.sendRecords (p : Part) : Nat → State → State
  | 0, s => s
  | n + 1, s =>
    let j := (s.part p).jnl
    let ready := j.recs.filter PendRec.unsent
    match ready with
    | [] => s
    | r :: _ =>
      let room := 4096 - j.outstanding
      let group := (ready.takeWhile (fun x => decide (x.jrec.request = r.jrec.request))).take (min 128 room)
      if group.isEmpty || j.recs.any (fun x => x.refusedAt.isSome) then s
      else
        let w := s.witnessOf p
        let sent := s.sendAcked tyMsg 0 w.1 w.2 0 (Config.messageKind kindMirror) (group.flatMap (fun x => recordBytes x.jrec))
        let xid := BitVec.ofNat 32 (sent.1 % 2 ^ 32)
        State.sendRecords p n (sent.2.modJnl p (fun j => { j with
          recs := markUnsent (fun x => { x with sent := some xid, sentAt := s.now }) group.length j.recs }))

/-- Issue a flushing read after the last JNL entry written, if one is due (R737, R739 step 3). -/
def State.flushJournal (s : State) (p : Part) : State :=
  let n := (s.ring p jnlRing).taken
  let j := (s.part p).jnl
  if j.flushing || !j.recs.any (fun r => r.index.isSome && !r.local_) then s
  else
    { s.modJnl p (fun j => { j with flushing := true, flushTo := n }) with
      host := { s.host with reads := s.host.reads ++ [.flushing p false (s.slotAddr p jnlRing (n - 1))] } }

/-- The witness takes records: VALID, not SOLO, and neither lost nor ended. -/
def State.mirrors (s : State) (p : Part) : Bool :=
  !s.solo p && ((s.part p).jnl.witness = .reseeding || (s.part p).jnl.witness = .inSync)

/-- Records that still wait for their JNL entry carry the index that it will have, from `i` on (R728). -/
def numberRecords : Nat → List PendRec → List PendRec
  | _, [] => []
  | i, r :: rs =>
    if r.waits then { r with jrec := { r.jrec with jseq := BitVec.ofNat 32 i } } :: numberRecords (i + 1) rs else r :: numberRecords i rs

/-- Let the records of a partition go on: to the witness, to the JNL ring, and to a flushing read (R739 steps 1 to 3). -/
def State.pumpJournal (s : State) (p : Part) : State :=
  let s := s.modJnl p (fun j => { j with recs := numberRecords (s.ring p jnlRing).taken j.recs })
  let s := if s.mirrors p then State.sendRecords p (s.part p).jnl.recs.length s else s
  let x := State.writeRecords p (s.part p).jnl.recs s
  (x.1.modJnl p (fun j => { j with recs := x.2 })).flushJournal p

/-- Write records of this partition (R739). -/
def State.writeJournal (s : State) (p : Part) (rs : List (JRec × OnDurable)) : State :=
  (s.modJnl p (fun j => { j with recs := j.recs ++ rs.map (fun r => { jrec := r.1, effect := r.2 }) })).pumpJournal p

/-! ### The records of commands and requests (R731 to R735) -/

/-- Cut into groups of three. -/
def triples {α : Type} : List α → List (List α)
  | a :: b :: c :: t => [a, b, c] :: triples t
  | [] => []
  | t => [t]

/-- A record of this partition with no flag set. -/
def State.newRecord (s : State) (p : Part) (request : Nat) (epoch : W16) (ring : CmdRing) (body : JBody) : JRec :=
  { input := false, late := false, final := false, reseed := false, origin := s.self, originPart := p, ring := ring,
    request := request, jseq := 0, epoch := epoch, body := body }

/-- COMMIT records for consecutive positions (R729). -/
def commitBodies (first : Nat) (ts : List W32) : List JBody :=
  (triples ts).zipIdx.map (fun g => .commit (first + 3 * g.2) g.1)

/-- A restore payload, bytes 0x10 to 0x3F (R731, R761). -/
def restoreBytes (r : Restore) : List Byte :=
  leBytes 4 r.request ++ leBytes 2 r.epoch.toNat ++
    leBytes 2 ((if r.tokRing then 1 else 0) + (if r.keep then 2 else 0) + (if r.withhold then 4 else 0) + (if r.freezeOnExpire then 8 else 0)) ++
    leBytes 4 r.count ++ leBytes 4 r.maxNew ++ leBytes 8 0 ++ leBytes 8 r.seed.toNat ++ leBytes 2 r.temp.toNat ++ leBytes 2 r.topK ++
    leBytes 2 r.topP ++ leBytes 2 r.model ++ leBytes 8 r.deadline.toNat

/-- The restore payload that would rebuild a request as it stands. -/
def Request.restore (r : Request) (id : Nat) : Restore :=
  { request := id, epoch := r.epoch, tokRing := decide (r.tokRing = 1), keep := r.keep, withhold := r.withhold,
    freezeOnExpire := r.freezeOnExpire, count := r.committed, maxNew := r.maxNew, seed := r.seed, temp := r.temp, topK := r.topK,
    topP := r.topP, model := r.model, deadline := r.deadline }

/-- The three carriers of a payload of 48 bytes, and the head (R729, R731). -/
def State.headRecords (s : State) (p : Part) (request : Nat) (epoch : W16) (ring : CmdRing) (op : W16) (seq : W64) (first count : Nat)
    (client : Nat) (be : Bool) (payload : List Byte) : List JRec :=
  [0, 1, 2].map (fun i => s.newRecord p request epoch ring (.carrier i client be (sliceAt payload (16 * i) 16))) ++
    [s.newRecord p request epoch ring (.head op seq first count)]

/-- A command's records are written, and it is accepted once its head is durable (R731, R732). -/
def State.journalCommand (s : State) (p : Part) (c : Cmd) (pre : List JRec) (request : Nat) (epoch : W16) (first count : Nat)
    (client : Nat) (be : Bool) (payload : List Byte) : State :=
  let recs := pre ++ s.headRecords p request epoch c.ring c.opcode c.seq first count client be payload
  let n := recs.length - 1
  (s.setStage p c.order .journalled).writeJournal p
    (recs.zipIdx.map (fun r => (r.1, if r.2 = n then OnDurable.accept c.order else .nothing)))

/-- COMMIT records of input tokens (R731). -/
def State.inputRecords (s : State) (p : Part) (request : Nat) (epoch : W16) (ring : CmdRing) (reseed : Bool) (first : Nat)
    (ts : List W32) : List JRec :=
  (commitBodies first ts).map (fun b => { s.newRecord p request epoch ring b with input := true, reseed := reseed })

/-- A journalled command is refused while the partition has no witness and is not SOLO (R750). -/
def State.noWitness (s : State) (p : Part) : Bool := !s.solo p && (s.part p).jnl.witness = .none

/-! ### Publishing (R737, R739 step 5, R744) -/

/-- Lowest JNL index of a record that is not durable yet, or the next to be written: JNL_PI may go up to it. -/
def State.durableIndex (s : State) (p : Part) : Nat :=
  ((s.part p).jnl.recs.filterMap PendRec.index).foldl min (s.ring p jnlRing).taken

/-- Publish JNL_PI (R739). -/
def State.publishJournal (s : State) (p : Part) : State :=
  let i := s.durableIndex p
  let old := (s.ring p jnlRing).pi
  if old < i then (s.modRing p jnlRing (fun r => { r with pi := i })).publish p jnlRing (i - old) else s

/-- A flushing read of the JNL ring returns: the entries it covers are local-durable (R737). -/
def State.jnlFlushed (s : State) (p : Part) : State :=
  (s.modJnl p (fun j => { j with
    flushing := false,
    recs := j.recs.map (fun r => match r.index with
      | some i => if i < j.flushTo then { r with local_ := true } else r
      | none => r) })).pumpJournal p

/-- The witness has answered the packet of a transfer: its records are acknowledged, or wait to be sent again (R744, R746). -/
def State.witnessAnswered (s : State) (p : Part) (xid : W32) (st : W16) : State :=
  let mine (r : PendRec) : Bool := decide (r.sent = some xid) && !r.acked
  if !(s.part p).jnl.recs.any mine then s
  else if st = stOk then
    let wait := ((s.part p).jnl.recs.filter mine).foldl (fun m r => max m (s.now - r.sentAt)) 0
    let s := s.setReg .jnlLagMax p.val (max (s.reg .jnlLagMax p.val) (min wait 0xFFFFFFFF))
    (s.modJnl p (fun j => { j with recs := j.recs.map (fun r => if mine r then { r with acked := true } else r) })).pumpJournal p
  else if st = stState then
    s.modJnl p (fun j => { j with recs := j.recs.map (fun r => if mine r then { r with refusedAt := some s.now } else r) })
  else s

/-- Oldest moment at which an unacknowledged record was sent. -/
def Journal.oldestSent (j : Journal) : Option Nat :=
  (j.recs.filter (fun r => r.sent.isSome && !r.acked)).foldl (fun m r => some (match m with | some x => min x r.sentAt | none => r.sentAt)) none

/-! ### Reseeding (R749, R751) -/

/-- Position `i` of a request came as input. -/
def Request.isInput (r : Request) (i : Nat) : Bool := r.inputs.any (fun x => decide (x.1 ≤ i) && decide (i < x.1 + x.2))

/-- COMMIT groups of a request's positions below `n`: up to three, input and generated tokens kept apart. -/
def Request.groups (r : Request) : Nat → Nat → List (Nat × List W32)
  | 0, _ => []
  | fuel + 1, n =>
    let i := r.tokens.length - n
    if n = 0 then []
    else
      let k := if 2 ≤ n && decide (r.isInput (i + 1) = r.isInput i) then (if 3 ≤ n && decide (r.isInput (i + 2) = r.isInput i) then 3 else 2) else 1
      (i, (r.tokens.drop i).take k) :: r.groups fuel (n - k)

/-- What a reseed sends for a live request (R749). -/
def State.reseedOf (s : State) (p : Part) (id : Nat) (r : Request) : List PendRec :=
  let c := r.committed - r.undurable
  let kept := { r with tokens := r.tokens.take c }
  let commits := (kept.groups c c).map (fun g =>
    { s.newRecord p id r.epoch 0 (.commit g.1 g.2) with input := r.isInput g.1, reseed := true })
  let head := match r.lastHead with
    | some (h, payload, client, be) => (match h.body with
      | .head op seq first count => (s.headRecords p id h.epoch h.ring op seq first count client be payload).map (fun x => { x with reseed := true })
      | _ => [])
    | none => []
  let all := commits ++ head
  all.zipIdx.map (fun x => { jrec := x.1, witnessOnly := true, effect := if x.2 + 1 = all.length then .reseeded id else .nothing })

/-- Live requests in ascending order of their first ACCEPT. -/
def Partition.byAccept (x : Partition) : List (Nat × Request) := sortBy (fun a b => decide (a.2.accept ≤ b.2.accept)) x.requests

/-- Start a reseed of the witness that JNL_WITNESS names (R749). -/
def State.startReseed (s : State) (p : Part) : State :=
  let x := s.part p
  let old := (x.jnl.recs.filter (fun r => !r.witnessOnly)).map (fun r =>
    if r.acked then r else { r with sent := none, refusedAt := none })
  let live := x.byAccept
  let mine (id : Nat) (r : PendRec) : Bool := decide (r.jrec.request = id) && !r.waits
  let head := live.flatMap (fun e => s.reseedOf p e.1 e.2 ++ old.filter (mine e.1))
  let rest := old.filter (fun r => !live.any (fun e => mine e.1 r))
  (s.modJnl p (fun j => { j with
    recs := head ++ rest, witness := if live.isEmpty then .inSync else .reseeding, reseedLeft := live.map Prod.fst,
    lagSaid := false })).pumpJournal p

/-- The witness node is lost or fenced (R748). -/
def State.witnessLost (s : State) (p : Part) : State :=
  (s.modJnl p (fun j => { j with witness := .lost })).raiseEvent p evWitnessLag (s.witnessOf p).1.val

/-- A write of JNL_WITNESS (R743, R749, R751). Under SOLO nothing goes to the witness (R752). -/
def State.writeWitness (s : State) (p : Part) (v : Nat) : State :=
  if bitOf v 31 then
    if v % 512 = s.self.val then s
    else
      let s := s.setReg .jnlWitness p.val (v % 2 ^ 13 + 2 ^ 31)
      if s.solo p then s
      else if s.fabric.fenced.contains (s.witnessOf p).1 then s.witnessLost p
      else s.startReseed p
  else
    let s := s.setReg .jnlWitness p.val (v % 2 ^ 13)
    if s.solo p then s
    else s.modJnl p (fun j => { j with witness := .none, reseedLeft := [], recs := (j.recs.filter (fun r => !r.witnessOnly)) })

/-- A write of JNL_CFG. Setting SOLO ends the mirroring (R738, R752); clearing it while a witness is named starts a reseed. -/
def State.writeJnlCfg (s : State) (p : Part) (v : Nat) : State :=
  let was := s.solo p
  let s := s.setReg .jnlCfg p.val (v % 8 + v / 2 ^ 16 % 2 ^ 16 * 2 ^ 16)
  if s.solo p && !was then
    s.modJnl p (fun j => { j with witness := .none, reseedLeft := [], recs := (j.recs.filter (fun r => !r.witnessOnly)) })
  else if !s.solo p && was && s.witnessValid p then s.writeWitness p (s.reg .jnlWitness p.val)
  else s

/-! ### The witness partition (R745 to R747, R756 to R759) -/

/-- Write received records into the WIT ring while it has room (R548, R745). -/
def State.writeWit (p : Part) : List WitIn → State → State × List WitIn
  | [], s => (s, [])
  | w :: ws, s =>
    let r := s.ring p witRing
    let room := if r.fn.st = .on then s.ringEntries p witRing - (r.taken - r.ci) else 0
    let now := w.left.take room
    let s := now.zipIdx.foldl (fun (s : State) x => s.hostWrite (s.slotAddr p witRing (r.taken + x.2)) x.1) s
    let s := s.modRing p witRing (fun x => { x with taken := x.taken + now.length })
    let s := s.count .jnlWitReceived p.val (if w.pkt.isSome && w.claim.isNone then now.length else 0)
    let w := { w with left := w.left.drop room, last := if now.isEmpty then w.last else r.taken + now.length }
    if w.left.isEmpty then
      let x := State.writeWit p ws s
      (x.1, w :: x.2)
    else (s, w :: ws)

/-- Let the received records of a witness partition go on: into the WIT ring, and to a flushing read (R745). -/
def State.pumpWit (s : State) (p : Part) : State :=
  let x := State.writeWit p (s.part p).jnl.witQueue s
  let s := x.1.modJnl p (fun j => { j with witQueue := x.2 })
  let r := s.ring p witRing
  if (s.part p).jnl.witFlushing || r.taken ≤ r.pi then s
  else
    { s.modJnl p (fun j => { j with witFlushing := true, witFlushTo := r.taken }) with
      host := { s.host with reads := s.host.reads ++ [.flushing p true (s.slotAddr p witRing (r.taken - 1))] } }

/-- A flushing read of the WIT ring returns: WIT_PI covers what it read, and the packets it completes are acknowledged (R745).
Answers the claims of this node that are granted. -/
def State.witFlushed (s : State) (p : Part) : List (Part × Nat) × State :=
  let j := (s.part p).jnl
  let old := (s.ring p witRing).pi
  let s := if old < j.witFlushTo then
      (s.modRing p witRing (fun r => { r with pi := j.witFlushTo })).publish p witRing (j.witFlushTo - old)
    else s
  let done := j.witQueue.filter (fun w => w.left.isEmpty && decide (w.last ≤ j.witFlushTo))
  let s := s.modJnl p (fun j => { j with
    witFlushing := false,
    witQueue := j.witQueue.filter (fun w => !(w.left.isEmpty && decide (w.last ≤ j.witFlushTo))) })
  let s := done.foldl (fun s w => match w.pkt with
    | some k => s.sendAck k
    | none => s) s
  (done.filterMap WitIn.claim, s.pumpWit p)

/-- Epoch `a` is `b` or older (R754). -/
def epochNotNewer (a b : W16) : Bool := !(decide (1 ≤ (a - b).toNat) && decide ((a - b).toNat ≤ 32767))

/-- A record that the partition has refused by a claim (R758). -/
def Journal.claimed (j : Journal) (origin : Node) (part : Part) (request : Nat) (epoch : W16) : Bool :=
  j.claims.any (fun c => decide (c.origin = origin) && decide (c.part = part) && decide (c.request = request) && epochNotNewer epoch c.epoch)

/-- Records of a mirror packet. -/
def mirrorRecords (bs : List Byte) : List (List Byte) := (List.range (bs.length / 32)).map (fun i => sliceAt bs (32 * i) 32)

/-- A record names a claimed request at an epoch the claim covers. -/
def Journal.refuses (j : Journal) (r : List Byte) : Bool :=
  let o := fieldAt r 2 2
  j.claimed (Fin.ofNat 512 (o % 512)) (Fin.ofNat 16 (o / 512)) (fieldAt r 4 4) (BitVec.ofNat 16 (fieldAt r 0xC 2))

/-- Serve a packet of records (R745, R746, R758). -/
def State.serveMirror (s : State) (k : Packet) : State :=
  let p := k.part
  if !s.witAccept p || !((s.ring p witRing).fn.st = .on) then (s.count .jnlWitRefused p.val 1).refusePacket k stState
  else if (mirrorRecords k.payload).any (s.part p).jnl.refuses then (s.count .jnlWitRefused p.val 1).refusePacket k stEpoch
  else (s.modJnl p (fun j => { j with witQueue := j.witQueue ++ [{ pkt := some k, claim := none, left := mirrorRecords k.payload }] })).pumpWit p

/-- A claim reaches a witness partition: `some` status of its refusal, or it is recorded and its CLOSE CLAIMED goes to the WIT
ring (R757, R759). What that CLOSE says of the request's end and of its committed count is not stated: free values. -/
def State.takeClaim (s : State) (p : Part) (a : ClaimAsk) (by_ : Node) (k : Option Packet) (own : Option (Part × Nat)) : Option W16 × State :=
  let j := (s.part p).jnl
  let held := j.claims.any (fun c => decide (c.origin = a.origin) && decide (c.part = a.part) && decide (c.request = a.request) &&
    epochNotNewer a.epoch c.epoch)
  if held then (some stEpoch, s)
  else if 65536 ≤ j.claims.length then (some stNoCapacity, s)
  else
    let x := s.drawFree
    let y := x.2.drawFree
    let r : JRec := { input := false, late := false, final := false, reseed := false, origin := a.origin, originPart := a.part, ring := 0,
                      request := a.request, jseq := 0, epoch := a.epoch,
                      body := .close (x.1.setWidth 16) (y.1.toNat % 2 ^ 32) .claimed (BitVec.ofNat 64 (nodePart by_ a.claimPart)) }
    (none, (y.2.modJnl p (fun j => { j with
      claims := j.claims ++ [⟨a.origin, a.part, a.request, a.epoch⟩],
      witQueue := j.witQueue ++ [{ pkt := k, claim := own, left := [recordBytes r] }] })).pumpWit p)

/-- Serve a claim from another node. -/
def State.serveClaim (s : State) (k : Packet) (a : ClaimAsk) : State :=
  let x := s.takeClaim k.part a k.src (some k) none
  match x.1 with
  | some st => x.2.refusePacket k st
  | none => x.2

/-! ### Token records (R547, R574) -/

/-- A token record (R574). -/
def tokenBytes (request position : Nat) (token : W32) (flags : BitVec 16) (epoch : W16) : List Byte :=
  leBytes 4 request ++ leBytes 4 position ++ leBytes 4 token.toNat ++ leBytes 2 flags.toNat ++ leBytes 2 epoch.toNat

/-- TOK ring of a request. -/
def tokRingNo (r : Fin 2) : RingNo := ⟨8 + r.val, by omega⟩

/-- Change a live request. -/
def State.modReq (s : State) (p : Part) (id : Nat) (f : Request → Request) : State :=
  s.modPart p (fun x => match dget? x.requests id with
    | some r => { x with requests := dset x.requests id (f r) }
    | none => x)

/-- A live request. -/
def State.req? (s : State) (p : Part) (id : Nat) : Option Request := dget? (s.part p).requests id

/-- Post a token record, or hold it behind those of its request that wait for room (R547). -/
def State.postToken (s : State) (p : Part) (id : Nat) (bs : List Byte) : State :=
  match s.req? p id with
  | none => s
  | some r =>
    let n := tokRingNo r.tokRing
    if r.held.isEmpty && (s.ring p n).live && s.ringRoom p n then s.post p n bs
    else s.modReq p id (fun r => { r with held := r.held ++ [bs] })

/-- Post the held records of one request as far as its ring has room. -/
def State.postHeldOf (p : Part) (id : Nat) (n : RingNo) : List (List Byte) → State → State
  | [], s => s.modReq p id (fun r => { r with held := [] })
  | b :: bs, s =>
    if (s.ring p n).live && s.ringRoom p n then State.postHeldOf p id n bs (s.post p n b)
    else s.modReq p id (fun r => { r with held := b :: bs })

/-- Post held token records once the host has made room (R547). -/
def State.postHeld (s : State) (p : Part) : State :=
  (s.part p).byAccept.foldl (fun s e => if e.2.held.isEmpty then s else State.postHeldOf p e.1 (tokRingNo e.2.tokRing) e.2.held s) s

end Sys2Proof.Machine
end

