-- ==== Sys2Proof/Machine/Operands.lean ====
section
/-! DEFINITION. The operand forms of command descriptors: the fields each opcode defines, its reserved fields, and the
checks every descriptor passes before its command may start (R9, R561 to R565, R577). -/

namespace Sys2Proof.Machine

/-- A reserved field: descriptor offset, bytes, and the bits of it that are reserved. -/
abbrev Reserved := Nat × Nat × Nat

/-- Reserved bytes from an offset to the end of a descriptor or extended payload of `last` bytes. -/
def restOf (off last : Nat) : Reserved := (off, last - off, 2 ^ (8 * (last - off)) - 1)

/-- Reserved bits of a field of `n` bytes. -/
def bitsIn (off n mask : Nat) : Reserved := (off, n, mask)

/-- Wholly reserved bytes. -/
def wholly (off n : Nat) : Reserved := (off, n, 2 ^ (8 * n) - 1)

/-- The end of the fields that an opcode defines, where they go beyond offset 0x3F (R564, R565). `count` is RECEIVERS of a
broadcast. -/
def definedEnd (op count : Nat) : Nat :=
  if op = opRestore then 0x50
  else if op = opInstallKey then 0x90
  else if op = opBroadcast then 0x40 + 8 * count
  else 0x40

/-- The reserved fields of an opcode's payload, in ascending offset. -/
def reservedFields (op count : Nat) : List Reserved :=
  if op = opNop then [wholly 0x10 0x30]
  else if op = opFence then [bitsIn 0x10 1 0xF0, wholly 0x11 0x2F]
  else if op = opAdmit then [bitsIn 0x32 2 0xFFF0, wholly 0x36 2]
  else if op = opAppend then [bitsIn 0x16 2 0xFFF1, wholly 0x30 16]
  else if op = opFreeze then [wholly 0x17 1, wholly 0x1C 4, wholly 0x38 8]
  else if op = opThaw then [wholly 0x16 2, wholly 0x28 24]
  else if op = opCancel then [wholly 0x16 42]
  else if op = opSetDeadline then [bitsIn 0x16 2 0xFFF3, wholly 0x20 32]
  else if op = opRestore then [bitsIn 0x16 2 0xFFF0, bitsIn 0x40 2 0x6000, bitsIn 0x42 2 0xE000, wholly 0x44 12]
  else if op = opMigrate then [bitsIn 0x16 2 0xE000, bitsIn 0x1D 1 0xFE, wholly 0x1E 34]
  else if op = opLoad || op = opPull || op = opBroadcast then
    [bitsIn 0x11 1 0xF8, bitsIn 0x12 2 0xFE00, bitsIn 0x36 1 0xF0, wholly 0x37 1] ++
      (if op = opBroadcast then (List.range count).map (fun i => bitsIn (0x40 + 8 * i) 8 0x00F0FE00) else [])
  else if op = opStage then [wholly 0x11 3, wholly 0x28 24]
  else if op = opTrapeze then [bitsIn 0x11 1 0xFE, wholly 0x12 6, wholly 0x20 32]
  else if op = opSwap then [bitsIn 0x12 2 0xFE00, bitsIn 0x14 1 0xF0, wholly 0x15 3, wholly 0x20 32]
  else if op = opEvict then [wholly 0x11 47]
  else if op = opInstallKey then [wholly 0x13 5, wholly 0x80 16]
  else if op = opSetRecipe then [bitsIn 0x23 1 0xFC, wholly 0x24 28]
  else if op = opSetExpert then [bitsIn 0x16 1 0xF0, wholly 0x24 28]
  else if op = opSetSpec then [bitsIn 0x14 1 0xE0, wholly 0x17 1, wholly 0x22 30]
  else if op = opSetAttn then [bitsIn 0x19 1 0xFE, wholly 0x21 7, wholly 0x30 16]
  else if op = opGraph then [bitsIn 0x28 1 0xFE, wholly 0x29 23]
  else if op = opCopy then [bitsIn 0x28 1 0xFC, wholly 0x29 23]
  else if op = opQueryAcct then [bitsIn 0x14 1 0xFE, wholly 0x15 3, wholly 0x28 24]
  else if op = opQueryExperts then [wholly 0x19 7, wholly 0x30 16]
  else if op = opReadMap || op = opWriteMap then [wholly 0x20 32]
  else if op = opSelfTest then [wholly 0x12 2, wholly 0x18 40]
  else if op = opFlash then [wholly 0x11 7, wholly 0x24 28]
  else if op = opFuse then [bitsIn 0x11 1 0xFE, wholly 0x12 2, wholly 0x38 8]
  else if op = opDebug then [bitsIn 0x10 1 0xFC, wholly 0x11 47]
  else if op = opAttest then [bitsIn 0x3D 1 0xFE, wholly 0x3E 2]
  else []

/-- The first fault of a descriptor's own header (R9, R561 to R563): its offset. -/
def headerFault (d : List Byte) : Option Nat :=
  let f (o n : Nat) : Nat := fieldAt d o n
  if !opcodes.contains (f 0x08 2) then some 0x08
  else if 8 ≤ f 0x0A 2 then some 0x0A
  else if 4095 < f 0x0C 2 then some 0x0C
  else if 1 < f 0x0E 1 then some 0x0E
  else if f 0x0F 1 ≠ 0 then some 0x0F
  else if bitOf (f 0x0A 2) 1 then
    if f 0x10 8 % 64 ≠ 0 then some 0x10
    else if f 0x18 4 < 64 || 4096 < f 0x18 4 || f 0x18 4 % 64 ≠ 0 then some 0x18
    else if !allZero (sliceAt d 0x1C 36) then some 0x1C
    else none
  else none

/-- The first fault of a payload's extent or reserved fields (R9, R564, R565): its offset. Where the opcode's fields go beyond
the payload, the fault is XBYTES, or FLAGS of a command without INDIRECT. -/
def payloadFault (c : Cmd) : Option Nat :=
  let op := c.opcode.toNat
  let count := if op = opBroadcast then c.field 0x34 2 else 0
  let last := 0x10 + c.payload.length
  if last < definedEnd op count || ((op = opRestore || op = opBroadcast) && !c.indirect) then some (if c.indirect then 0x18 else 0x0A)
  else if op = opRestore && c.payload.length ≠ 64 then some 0x18
  else
    ((reservedFields op count ++ [restOf (definedEnd op count) last]).find? (fun r =>
      decide (c.field r.1 r.2.1 &&& r.2.2 ≠ 0))).map (fun r => r.1)

/-- A taken command, from its descriptor's bytes. -/
def Cmd.read (c : Cmd) (d : List Byte) : Cmd :=
  let flags := fieldAt d 0x0A 2
  { c with seq := BitVec.ofNat 64 (fieldAt d 0x00 8), opcode := BitVec.ofNat 16 (fieldAt d 0x08 2), irq := bitOf flags 0,
           indirect := bitOf flags 1, fenceBefore := bitOf flags 2, client := fieldAt d 0x0C 2, be := decide (fieldAt d 0x0E 1 = 1),
           payload := sliceAt d 0x10 48, xaddr := BitVec.ofNat 64 (fieldAt d 0x10 8), xbytes := fieldAt d 0x18 4 }

/-- A field of token IDs of host memory, as its read returns it: little-endian words of 4 bytes. -/
def tokenWords (bs : List Byte) : List W32 := (List.range (bs.length / 4)).map (fun i => BitVec.ofNat 32 (fieldAt bs (4 * i) 4))

/-- The journalled opcodes (R731). -/
def journalled (op : Nat) : Bool :=
  op = opAdmit || op = opAppend || op = opSetDeadline || op = opCancel || op = opFreeze || op = opThaw || op = opRestore || op = opMigrate

end Sys2Proof.Machine
end

