-- ==== Sys2Proof/Machine/Ice.lean ====
section
/-! DEFINITION. Ice cores as bytes: what a freeze writes and what a thaw reads back (R344 to R349, R357, R358). -/

namespace Sys2Proof.Machine

/-- The fields of a restore payload, bytes 0x10 to 0x3F: the inverse of `restoreBytes`. -/
def parseRestore (b : List Byte) : Restore :=
  let f := fieldAt b 6 2
  { request := fieldAt b 0 4, epoch := BitVec.ofNat 16 (fieldAt b 4 2), tokRing := bitOf f 0, keep := bitOf f 1, withhold := bitOf f 2,
    freezeOnExpire := bitOf f 3, count := fieldAt b 8 4, maxNew := fieldAt b 0xC 4, seed := BitVec.ofNat 64 (fieldAt b 0x18 8),
    temp := BitVec.ofNat 16 (fieldAt b 0x20 2), topK := fieldAt b 0x22 2, topP := fieldAt b 0x24 2, model := fieldAt b 0x26 2,
    deadline := BitVec.ofNat 64 (fieldAt b 0x28 8) }

/-- What an ice core holds: the restore payload, the committed tokens and the KV of each layer. -/
structure IceParts where
  restore : Restore
  history : List W32
  layers : List LayerData
deriving DecidableEq, Repr, Inhabited

/-- What the header of an ice core names of its model (R347). -/
structure IceModel where
  info : ModelInfo
  shard : Nat
  root : List Byte
deriving DecidableEq, Repr, Inhabited

/-- The request record of an ice core, which is Nelnus firmware's own structure: the restore payload and the tokens of every
committed position (DESIGN CHOICE, log entry 104). -/
def iceRecord (x : IceParts) : List Byte := restoreBytes x.restore ++ x.history.flatMap (fun t => leBytes 4 t.toNat)

/-- The sections of an ice core with their PARAM (R348): the request record, the drift of every layer, and the layers at their
widths `bits` (0 LOSSLESS) with `keep` newest pages verbatim. -/
def iceSections (m : ModelInfo) (bits : List Nat) (keep : Nat) (x : IceParts) : List (List Byte × Nat) :=
  (iceRecord x, 0) :: (deflate (x.layers.flatMap LayerData.drift), x.history.length % 128) ::
    x.layers.zipIdx.map (fun l =>
      let b := bits.getD l.2 0
      (deflate (layerSection m b keep l.1.pages), b + 256 * l.1.pages.length))

/-- Section table and sections from offset 0x100 on; the sections follow one another. -/
def iceBody (secs : List (List Byte × Nat)) : List Byte :=
  let start := 0x100 + 16 * secs.length
  let table := secs.foldl (fun (a : Nat × List Byte) x =>
    (a.1 + x.1.length, a.2 ++ leBytes 8 a.1 ++ leBytes 4 x.1.length ++ leBytes 4 x.2)) (start, [])
  table.2 ++ secs.flatMap Prod.fst

/-- An ice core of a request (R347, R348). -/
def iceCore (i : IceModel) (bits : List Nat) (keep : Nat) (x : IceParts) : List Byte :=
  let body := iceBody (iceSections i.info bits keep x)
  leBytes 4 0x31454349 ++ leBytes 2 1 ++ [if bits.all (· = 0) then 1 else 0, BitVec.ofNat 8 i.info.kvFmt] ++ leBytes 4 x.restore.request ++
    leBytes 2 x.restore.epoch.toNat ++ leBytes 2 x.layers.length ++ leBytes 4 x.history.length ++ leBytes 4 i.shard ++
    leBytes 8 (0x100 + body.length) ++ padTo i.root 32 ++ sm3 body ++ leBytes 4 keep ++
    [BitVec.ofNat 8 i.info.blockLen, BitVec.ofNat 8 i.info.frame] ++ List.replicate 154 0 ++ body

/-- The header of an ice core is right and it lies wholly in the bytes available (R347, R356). -/
def iceHeaderOk (core : List Byte) (bytes : Nat) : Bool :=
  decide (256 ≤ core.length) && decide (fieldAt core 0 4 = 0x31454349) && decide (fieldAt core 4 2 = 1) && decide (fieldAt core 0x66 2 = 0) &&
    allZero (sliceAt core 0x68 152) && decide (fieldAt core 0x18 8 ≤ bytes)

/-- The ice core was made by model `i` (R356). -/
def iceMatches (i : IceModel) (core : List Byte) : Bool :=
  decide (sliceAt core 0x20 32 = padTo i.root 32) && decide (fieldAt core 0x14 4 = i.shard) && decide (fieldAt core 7 1 = i.info.kvFmt) &&
    decide (fieldAt core 0x64 1 = i.info.blockLen) && decide (fieldAt core 0x65 1 = i.info.frame)

/-- DIGEST covers the sections (R347, R356). -/
def iceDigestOk (core : List Byte) : Bool :=
  decide (sm3 (sliceAt core 0x100 (fieldAt core 0x18 8 - 0x100)) = sliceAt core 0x40 32)

/-- Section `i` of an ice core with its PARAM (R348). -/
def iceSection (core : List Byte) (i : Nat) : List Byte × Nat :=
  let e := 0x100 + 16 * i
  (sliceAt core (fieldAt core e 8) (fieldAt core (e + 8) 4), fieldAt core (e + 12) 4)

/-- One layer of an ice core whose drift section holds `n` positions: layer `l`'s pages and its share of the drift. -/
def iceLayer (m : ModelInfo) (core drift : List Byte) (n l : Nat) : Option LayerData :=
  let x := iceSection core (2 + l)
  let b := x.2 % 256
  if b = 1 || 4 < b then none
  else
    match inflate x.1 with
    | none => none
    | some bs =>
      let size := 2 * (m.kValues + m.vValues) * n
      (sectionPages m b (fieldAt core 0x60 4) (x.2 / 256) bs).map (fun ps => { pages := ps, drift := sliceAt drift (size * l) size })

/-- What an ice core of a model holds (R348, R349, R357, R358); `none` where its sections do not say it. -/
def readIce (m : ModelInfo) (core : List Byte) : Option IceParts :=
  let c := fieldAt core 0x10 4
  let rec_ := (iceSection core 0).1
  let history := tokenWords (sliceAt rec_ 48 (4 * c))
  match inflate (iceSection core 1).1 with
  | none => none
  | some drift =>
    let layers := (List.range (fieldAt core 0xE 2)).map (iceLayer m core drift (iceSection core 1).2)
    if rec_.length ≠ 48 + 4 * c || (iceSection core 1).2 ≠ c % 128 || fieldAt core 0xE 2 ≠ m.attnLayers || !layers.all Option.isSome then none
    else some { restore := parseRestore rec_, history := history, layers := layers.filterMap id }

end Sys2Proof.Machine
end

