-- ==== Sys2Proof/Machine/Intake.lean ====
section
/-! DEFINITION. Intake of commands: polls and doorbell reads, descriptors and their extended payloads, the commands NOP, FENCE
and COPY, and the two host events of interrupts (R544 to R586, R592, R595). -/

namespace Sys2Proof.Machine

/-! ### Polling (R557, R558) -/

/-- A ring of the partition is ON or QUIESCING. -/
def Partition.anyLive (x : Partition) : Bool := x.rings.toList.any Ring.live

/-- A write of RING_NUDGE schedules a doorbell read (R558). -/
def State.nudge (s : State) (p : Part) : State :=
  if (s.part p).anyLive then s.modPart p (fun x => { x with doorbellPending := true }) else s

/-- NUDGE. -/
def execNudge (p : Part) (s : State) : Out := inService s (fun s => s.nudge p)

/-- A read of host memory is outstanding: it stands among the oldest 512 that were issued; a later one waits, since the package
keeps at most 512 non-posted requests outstanding (R510; which of them wait: log entry 110). -/
def HostSide.outstanding (h : HostSide) (r : HostRead) : Bool := (h.reads.take 512).contains r

/-- Issue a doorbell read. -/
def State.issueDoorbell (s : State) (p : Part) : State :=
  { s.modPart p (fun x => { x with doorbellPending := false, doorbellIssued := x.doorbellIssued + 1 }) with
    host := { s.host with reads := s.host.reads ++ [.doorbell p] } }

/-- DOORBELL_POLL: the read of the doorbell page that the poll interval asks for is issued. -/
def execDoorbellPoll (p : Part) (s : State) : Out :=
  inService s (fun s => if (s.part p).anyLive then s.issueDoorbell p else s)

/-! ### Doorbell reads (R544, R545, R550, R551, R559, R937, R938) -/

/-- ERROR sets on a ring: its interrupt is sent once (R550, R594). -/
def State.ringError (s : State) (p : Part) (n : RingNo) : State :=
  if (s.ring p n).error then s else (s.modRing p n (fun r => { r with error := true })).signalPart p 9

/-- The index a doorbell read shows for a ring. -/
def doorbellIndex (d : Doorbell) (n : RingNo) : Nat :=
  if n.val < 4 then d.cmdPi.getD n.val 0
  else if n.val < 8 then d.cplCi.getD (n.val - 4) 0
  else if n.val < 10 then d.tokCi.getD (n.val - 8) 0
  else if n.val = 10 then d.evtCi
  else if n.val = 11 then d.jnlCi
  else d.witCi

/-- The package's view of one ring's host index follows the doorbell page; an ON ring alone reads it (R550, R551, R937). -/
def State.seeIndex (s : State) (p : Part) (d : Doorbell) (n : RingNo) : State :=
  let r := s.ring p n
  let v := doorbellIndex d n
  if !(r.fn.st = .on) || r.error then s
  else if n.val < 4 then
    if v < r.pi || s.ringEntries p n < v - r.ci then s.ringError p n else s.modRing p n (fun r => { r with pi := v })
  else if v < r.ci || r.pi < v then s.ringError p n
  else s.modRing p n (fun r => { r with ci := v })

/-- A command as it is taken, before its descriptor is read. -/
def newCmd (order : Nat) (ring : CmdRing) (index : Nat) (unwitnessed : Bool) : Cmd :=
  { order := order, ring := ring, index := index, seq := 0, opcode := 0xFFFF, irq := false, fenceBefore := false, client := 0, be := false,
    payload := [], indirect := false, xaddr := 0, xbytes := 0, stage := .fetching, unwitnessed := unwitnessed }

/-- Take descriptors from a CMD ring, at most `n`, while it may (R539, R544, R551, R559, R938). -/
def State.take (p : Part) (r : CmdRing) : Nat → State → State
  | 0, s => s
  | n + 1, s =>
    let x := s.ring p (cmdRing r)
    let y := s.ring p (cplRing r)
    if x.fn.st = .on && !x.error && !(s.part p).advance.reset && decide (x.taken < x.pi) &&
        decide (y.owed - y.ci < s.ringEntries p (cplRing r)) then
      let o := (s.part p).takeCount
      let c := newCmd o r x.taken (s.noWitness p)
      let s := s.modPart p (fun z => { z with takeCount := o + 1, cmds := z.cmds ++ [c] })
      let s := (s.modRing p (cmdRing r) (fun z => { z with taken := z.taken + 1 })).modRing p (cplRing r) (fun z => { z with owed := z.owed + 1 })
      State.take p r n { s with host := { s.host with reads := s.host.reads ++ [.descriptor p o] } }
    else s

/-- Rings by number. -/
def allRings : List RingNo := List.finRange 13

/-- The data of a doorbell read: views of the indices first, then what room lets go on, then new descriptors. -/
def State.doorbell (s : State) (p : Part) (d : Doorbell) : State :=
  let s := allRings.foldl (fun s n => s.seeIndex p d n) s
  let s := ((s.postHeld p).pumpJournal p).pumpWit p
  (List.finRange 4).foldl (fun s r => State.take p r 64 s) s

/-- DOORBELL_READ_RETURN: the oldest doorbell read of the partition returns, or fails (R557). -/
def execDoorbellReadReturn (p : Part) (d : Option Doorbell) (s : State) : Out :=
  inService s (fun s =>
    let x := s.part p
    if x.doorbellIssued = 0 && !x.doorbellPending then s
    else
      let s := if x.doorbellIssued = 0 then s.issueDoorbell p else s
      if !s.host.outstanding (.doorbell p) then s else
      let s := { s.modPart p (fun x => { x with doorbellIssued := x.doorbellIssued - 1 }) with
                 host := { s.host with reads := s.host.reads.erase (.doorbell p) } }
      match d with
      | none => { s with host := { s.host with aer := s.host.aer + 1 } }
      | some d => s.doorbell p d)

/-! ### Descriptors and extended payloads (R559 to R566, R750) -/

/-- CMD_CONSUMED passes every descriptor whose reads have returned (R553, R559, R566). -/
def State.refreshConsumed (s : State) (p : Part) (r : CmdRing) : State :=
  let x := s.ring p (cmdRing r)
  let open_ := (s.part p).cmds.filter (fun c => decide (c.ring = r) && (c.stage = .fetching || c.stage = .payload))
  let ci := open_.foldl (fun m c => min m c.index) x.taken
  let s := if x.ci < ci then (s.modRing p (cmdRing r) (fun z => { z with ci := ci })).statusWrite p (8 * r.val) ci else s
  s.refreshAccepted p r

/-- A command is whole: the checks that come before its start (R9, R524, R565). -/
def State.judgeCmd (s : State) (p : Part) (c : Cmd) : State :=
  match payloadFault c with
  | some off => s.malformed p c off
  | none =>
    if pfOnly.contains c.opcode.toNat && (s.vfOf p).isSome then s.finish p c stState
    else (s.modCmd p c.order (fun _ => { c with stage := .held })).modPart p Partition.startFences

/-- A taken command's descriptor has been read. -/
def State.readCmd (s : State) (p : Part) (c : Cmd) (d : List Byte) : State :=
  let e := c.read (padTo d 64)
  if (s.part p).advance.reset then s.finish p e stPartReset
  else
    match headerFault (padTo d 64) with
    | some off => s.malformed p e off
    | none =>
      if e.indirect then
        { s.modCmd p c.order (fun _ => { e with stage := .payload }) with
          host := { s.host with reads := s.host.reads ++ [.indirect p c.order] } }
      else s.judgeCmd p e

/-- The oldest command of a ring that awaits a read. -/
def Partition.awaits (x : Partition) (r : CmdRing) (st : CmdStage) : Option Cmd :=
  x.cmds.find? (fun c => decide (c.ring = r) && decide (c.stage = st))

/-- DESCRIPTOR_RETURN. -/
def execDescriptorReturn (p : Part) (ring : CmdRing) (d : HostData) (s : State) : Out :=
  inService s (fun s =>
    match (s.part p).awaits ring .fetching with
    | none => s
    | some c =>
      if !s.host.outstanding (.descriptor p c.order) then s else
      let s := { s with host := { s.host with reads := s.host.reads.erase (.descriptor p c.order) } }
      (match d with
       | .failed => s.finish p c stMalformed 0xFFFF 0
       | .bytes bs => s.readCmd p c bs).refreshConsumed p ring)

/-- INDIRECT_PAYLOAD_RETURN. -/
def execIndirectPayloadReturn (p : Part) (ring : CmdRing) (d : HostData) (s : State) : Out :=
  inService s (fun s =>
    match (s.part p).awaits ring .payload with
    | none => s
    | some c =>
      if !s.host.outstanding (.indirect p c.order) then s else
      let s := { s with host := { s.host with reads := s.host.reads.erase (.indirect p c.order) } }
      (match d with
       | .failed => s.malformed p c 0x10
       | .bytes bs => s.judgeCmd p { c with payload := padTo bs c.xbytes }).refreshConsumed p ring)

/-! ### NOP and FENCE (R578 to R581) -/

/-- NOP. -/
def execNop (p : Part) (ring : CmdRing) (s : State) : Out :=
  inService s (fun s => runCmd s p ring opNop (fun s c => s.finish p c stOk))

/-- FENCE: it started when it could, and completes once every command it waits for has completed. -/
def execFence (p : Part) (ring : CmdRing) (s : State) : Out :=
  inService s (fun s =>
    match (s.part p).cmds.find? (fun c => decide (c.ring = ring) && decide (c.opcode.toNat = opFence) && c.waited.isSome) with
    | some c =>
      let w := c.waited.getD []
      if w.any (fun o => (s.cmd? p o).isSome) then s else s.finish p c stOk 0 w.length
    | none => s)

/-! ### COPY (R582 to R586) -/

/-- Descriptor offset of the first field at fault of a COPY (R582, R583). -/
def State.copyFault (s : State) (p : Part) (c : Cmd) : Option Nat :=
  let src := c.field 0x10 8
  let dst := c.field 0x18 8
  let n := c.field 0x20 8
  let mode := c.field 0x28 1
  if bitOf mode 0 && !(s.inHbm p src n || s.inFirnExtent p src n) then some 0x10
  else if bitOf mode 1 && !s.inHostRegion p dst n then some 0x18
  else if n = 0 || 0x1000000000 < n then some 0x20
  else if mode % 4 = 0 then some 0x28
  else none

/-- Write `bs` to the destination of a COPY. -/
def State.copyTo (s : State) (toDpa : Bool) (a : Nat) (bs : List Byte) : State :=
  if toDpa then s.writeDpa a bs else s.hostWrite a bs

/-- Leave the end of a COPY's destination undefined (R585). -/
def State.copyOpen (s : State) (toDpa : Bool) (a n : Nat) : State :=
  if toDpa then s.openDpa a n
  else { s with host := { s.host with mem := s.host.mem.leaveOpen a n s.free }, free := s.free + 1 }

/-- The COPY that is next reads memory that a page copy or a test holds: it waits (R253, R845). -/
def State.copyHeld (s : State) (p : Part) (ring : CmdRing) : Bool :=
  match (s.part p).nextCmd ring opCopy with
  | some c => bitOf (c.field 0x28 1) 0 && (s.copyFault p c).isNone && s.heldAt (c.field 0x10 8) (c.field 0x20 8)
  | none => false

/-- COPY. A read of host memory that fails leaves no effect (DEDUCED from R565). -/
def execCopy (p : Part) (ring : CmdRing) (src : HostData) (ue : Option Nat) (s : State) : Out :=
  inService s (fun s => if s.copyHeld p ring then s else runCmd s p ring opCopy (fun s c =>
    let a := c.field 0x10 8
    let d := c.field 0x18 8
    let n := c.field 0x20 8
    let fromDpa := bitOf (c.field 0x28 1) 0
    let toDpa := bitOf (c.field 0x28 1) 1
    match s.copyFault p c with
    | some off => s.malformed p c off
    | none =>
      if fromDpa then
        match s.badByte a n ue with
        | some x =>
          let k := x - a
          ((((s.uncorrectable x).copyTo toDpa d (s.readDpa a k)).copyOpen toDpa (d + k) (n - k))).finish p c stUnrecoverable 0 k
        | none => (s.copyTo toDpa d (s.readDpa a n)).finish p c stOk 0 n
      else
        match src with
        | .failed => s.malformed p c 0x10
        | .bytes bs => (s.copyTo toDpa d (padTo bs n)).finish p c stOk 0 n))

/-! ### Interrupts in time and by the host (R592, R595) -/

/-- MODTIMER_EXPIRY: the moderation timer of a ring passes (R592). -/
def execModTimerExpiry (p : Part) (ring : RingNo) (s : State) : Out :=
  inService s (fun s =>
    let r := s.ring p ring
    let mt := s.regBits .ringCfg (ringIx p ring) 16 10
    if ring.val < 4 || r.pending = 0 || mt = 0 then s else (s.advanceTo (r.oldest + 1000 * mt)).moderate p ring)

/-- Send the pending message of a vector that is no longer masked (R595). -/
def State.sendPendingBit (s : State) (f : Func) (v : Nat) : State :=
  let c := s.host.space.get (funcIx f)
  let e := dget s.host.msix (msixKey f v) {}
  if c.msixEnable && !c.funcMask && !e.masked && e.pending then
    { s with host := { s.host with msix := dset s.host.msix (msixKey f v) { e with pending := false }, msgs := (e.addr, e.data) :: s.host.msgs } }
  else s

/-- Vectors of a function (R590). -/
def vectorsOf : Func → Nat
  | .pf => 256
  | .vf _ => 16

/-- MSIX_UNMASK: the host unmasks a vector (R595). -/
def execMsixUnmask (f : Func) (vector : Nat) (s : State) : Out :=
  inService s (fun s =>
    if vectorsOf f ≤ vector then s
    else
      let e := dget s.host.msix (msixKey f vector) {}
      ({ s with host := { s.host with msix := dset s.host.msix (msixKey f vector) { e with masked := false } } }).sendPendingBit f vector)

end Sys2Proof.Machine
end

