-- ==== Sys2Proof/Machine/Requests.lean ====
section
/-! DEFINITION. Requests: what every request command checks and journals, what its acceptance does, how a request ends, and ice
cores (R344 to R361, R600 to R622, R731 to R735, R761 to R768). -/

namespace Sys2Proof.Machine

/-! ### Models of a partition (R605, R672, R676) -/

/-- MODEL_CLASS is SWAP. -/
def State.swapClass (s : State) (p : Part) : Bool := bitOf (s.reg .partCfg p.val) 0

/-- A model slot. -/
def Partition.slot (x : Partition) (n : Nat) : Slot := dget x.slots n {}

/-- Replace a model slot; an EMPTY one is not listed. -/
def Partition.setSlot (x : Partition) (n : Nat) (y : Slot) : Partition :=
  { x with slots := if y.st = .empty then derase x.slots n else dset x.slots n y }

/-- Model slot that a request's MODEL names. -/
def State.slotOfModel (s : State) (p : Part) (model : Nat) : Nat := if s.swapClass p then 16 + model else 0

/-- MODEL is one the partition serves (R605): 0 in a RESIDENT partition, a registered variant in a SWAP partition. -/
def State.modelOk (s : State) (p : Part) (model : Nat) : Bool :=
  if s.swapClass p then decide (1 ≤ model) && decide (model ≤ 63) && !((s.part p).slot (16 + model)).st = .empty
  else decide (model = 0)

/-- The model a request names serves steps now. -/
def State.modelActive (s : State) (p : Part) (model : Nat) : Bool :=
  ((s.part p).slot 0).st = .active && (!s.swapClass p || decide ((s.part p).activeVariant = model))

/-- What the model program of a slot fixes. -/
def State.infoOf (s : State) (p : Part) (model : Nat) : Option ModelInfo :=
  match ((s.part p).slot (s.slotOfModel p model)).info with
  | some i => some i
  | none => if s.modelActive p model then ((s.part p).slot 0).info else none

/-- The model in slot 0. -/
def State.mainInfo (s : State) (p : Part) : ModelInfo := (((s.part p).slot 0).info).getD default

/-! ### Memory below the host region (R245, R247, R266, R299, R310) -/

/-- Bytes that the local images of slots take, and those that copies in the firn extent take. -/
def Partition.slotBytes (x : Partition) : Nat × Nat :=
  x.slots.foldl (fun a e => match e.2.head with
    | some h =>
      let n := (h.localBytes + 2097151) / 2097152 * 2097152
      if e.1 < 4 then (a.1 + n, a.2 + h.cold.length * 4194304) else (a.1, a.2 + n + h.cold.length * 4194304)
    | none => a) (0, 0)

/-- Ranges of memory that the images of slots take. -/
def Partition.slotRanges (x : Partition) : List (Nat × Nat) :=
  x.slots.flatMap (fun e => match e.2.head with
    | some h => (e.2.base, h.localBytes) :: (if h.cold.isEmpty then [] else [(e.2.coldBase, (h.cold.map (fun c => min 4194304 (h.modelBytes - c * 4194304))).foldl (· + ·) 0)])
    | none => [])

/-- Ranges of memory that a layer's KV takes: frames, copies of list blocks and of the directory, and the drift block. -/
def LayerKv.ranges (l : LayerKv) (m : ModelInfo) : List (Nat × Nat) :=
  (l.pages.filter (fun e => e.present && decide (e.frame ≠ 0))).map (fun e => (e.frame, frameBytes m.frame)) ++
    l.blocks.flatMap (fun b => b.2.map (fun a => (a, 4096))) ++ l.dirs.map (fun a => (a, 256)) ++
    (if l.drift = 0 then [] else [(l.drift, driftBytes m)])

/-- Ranges of memory that a request's KV takes. -/
def State.requestRanges (s : State) (p : Part) (r : Request) : List (Nat × Nat) :=
  r.layers.flatMap (fun l => l.ranges ((s.infoOf p r.model).getD default))

/-- Ranges that KV takes in a partition: of live requests, and what is unlinked and not reclaimed. -/
def State.kvRanges (s : State) (p : Part) : List (Nat × Nat) :=
  (s.part p).requests.flatMap (fun e => s.requestRanges p e.2) ++ (s.part p).kv.unlinked.map Prod.snd

/-- Ranges that Nelnus firmware has allocated in a partition: images, KV and ice cores. -/
def State.usedRanges (s : State) (p : Part) : List (Nat × Nat) := (s.part p).slotRanges ++ s.kvRanges p ++ (s.part p).kv.ice

/-- Two ranges are apart. -/
def apart (a n b m : Nat) : Bool := decide (a + n ≤ b) || decide (b + m ≤ a)

/-- No granule of a range is withdrawn (R266). -/
def State.sound (s : State) (a n : Nat) : Bool :=
  let r := s.repair
  (r.lostStacks.isEmpty && r.lostChans.isEmpty && r.withdrawnPages.isEmpty && r.withdrawnFirn.isEmpty) ||
    (List.range ((a % 4096 + n + 4095) / 4096)).all (fun i => !s.withdrawnDpa (max a ((a / 4096 + i) * 4096)))

/-- A range of HBM that Nelnus firmware may allocate: aligned, below the host region, and with no withdrawn granule (R245, R266). -/
def State.hbmPlace (s : State) (p : Part) (a align n : Nat) : Bool :=
  decide (a % align = 0) && s.inHbm p a n && decide (a + n ≤ s.hostRegion p) && s.sound a n

/-- A range of the firn extent that it may allocate. -/
def State.firnPlace (s : State) (p : Part) (a align n : Nat) : Bool := decide (a % align = 0) && s.inFirnExtent p a n && s.sound a n

/-- A range is clear of a list of ranges. -/
def clearOf (rs : List (Nat × Nat)) (a n : Nat) : Bool := rs.all (fun r => apart a n r.1 r.2)

/-- HBM that a request takes with no page: request tables, and the directories and drift of each layer (R247, R275). Nelnus
firmware's request tables are its own; the model counts two sectors of 64 B for a request (DESIGN CHOICE, log entry 40). -/
def emptyKvBytes (m : ModelInfo) : Nat := 128 + m.attnLayers * (512 + driftBytes m)

/-- Frames that a request's pages still need: those made or complete and in no frame yet. -/
def Request.framesDue (r : Request) : Nat := (r.layers.map (fun l => l.images.length + l.flushed)).foldl (· + ·) 0

/-- Bytes of HBM and of the firn tier that KV takes. -/
def State.kvBytes (s : State) (p : Part) : Nat × Nat :=
  let sum (rs : List (Nat × Nat)) : Nat := (rs.map Prod.snd).foldl (· + ·) 0
  let rs := s.kvRanges p
  let due := ((s.part p).requests.map (fun e => 128 + e.2.framesDue * frameBytes ((s.infoOf p e.2.model).getD default).frame)).foldl (· + ·) 0
  (sum (rs.filter (fun r => decide (r.1 < firnBase))) + due, sum (rs.filter (fun r => decide (firnBase ≤ r.1))))

/-- Places of the withdrawn granules of some channels, by their first byte (R264). -/
def Repair.withdrawnPlaces (r : Repair) (chans : List Nat) : List Nat :=
  chans.flatMap (fun c =>
    let at_ (page : Nat) : List Nat := (List.range 16).map (fun i => c * chanBytes + page * 65536 + 4096 * i)
    if r.lostStacks.contains (c / 32) || r.lostChans.contains (c / 32, c % 32) then (List.range chanPages).flatMap at_
    else (r.withdrawnPages.filter (fun x => decide (32 * x.1 + x.2.1 = c))).flatMap (fun x => at_ x.2.2))

/-- Withdrawn bytes of a partition's HBM below its host region. -/
def State.hbmLost (s : State) (p : Part) : Nat :=
  4096 * ((s.repair.withdrawnPlaces ((s.groups p).flatMap (fun g => (List.range 8).map (fun i => 8 * g + i)))).filter (fun x =>
    match s.dpaOfPlace x with
    | some d => decide (d < s.hostRegion p)
    | none => false)).length

/-- Withdrawn bytes of a partition's firn extent. -/
def State.firnLost (s : State) (p : Part) : Nat :=
  4096 * (s.repair.withdrawnFirn.filter (fun g => s.inFirnExtent p (firnBase + 4096 * g) 1)).length

/-- Nelnus firmware finds `n` more bytes of HBM below the host region (R245, R247, R266). What its other structures take is its own
affair: the model counts model slots, KV and request tables (DESIGN CHOICE, log entry 40). -/
def State.hbmRoom (s : State) (p : Part) (n : Nat) : Bool :=
  decide ((s.part p).slotBytes.1 + (s.kvBytes p).1 + s.hbmLost p + n ≤ s.hostRegion p - s.hbmBase p)

/-- It finds `n` more bytes of the firn extent. -/
def State.firnRoom (s : State) (p : Part) (n : Nat) : Bool :=
  let x := s.part p
  decide (x.slotBytes.2 + (s.kvBytes p).2 + x.kv.ice.foldl (fun a i => a + i.2) 0 + s.firnLost p + n ≤ s.firnBytes p)

/-- HBM for one more request of a model. -/
def State.roomForRequest (s : State) (p : Part) (model : Nat) : Bool := s.hbmRoom p (emptyKvBytes ((s.infoOf p model).getD default))

/-! ### Checks that the request commands share (R606 to R611, R617, R750) -/

/-- TEMP is finite and not negative (R608). -/
def tempOk (t : Nat) : Bool := decide (bitsOf t 7 8 ≠ 255) && (!bitOf t 15 || decide (t % 32768 = 0))

/-- A request ID is live, or a command under way is about to make it so. -/
def State.idTaken (s : State) (p : Part) (c : Cmd) (id : Nat) : Bool :=
  (s.req? p id).isSome || (s.part p).cmds.any (fun x => decide (x.order ≠ c.order) && !x.accepted &&
    !(x.stage = .held || x.stage = .payload || x.stage = .fetching) &&
    (x.opcode.toNat = opAdmit || x.opcode.toNat = opRestore || x.opcode.toNat = opThaw || x.opcode.toNat = opMigrate) &&
    x.objects.contains (0, id, 1))

/-- The TOK ring that a command names is ON (R609). -/
def State.tokOn (s : State) (p : Part) (bit : Bool) : Bool := (s.ring p (tokRingNo (if bit then 1 else 0))).fn.st = .on

/-- Every token is below the vocabulary size of the model (R609). -/
def State.tokensOk (s : State) (p : Part) (model : Nat) (ts : List W32) : Bool :=
  match s.infoOf p model with
  | some i => ts.all (fun t => decide (t.toNat < i.vocab))
  | none => true

/-- 65,536 requests are live (R607). -/
def State.requestsFull (s : State) (p : Part) : Bool := decide (65536 ≤ (s.part p).requests.length)

/-- Give a command its place in the order of ACCEPT records. -/
def State.numberAccept (s : State) (p : Part) (order : Nat) : State :=
  let n := (s.part p).jnl.accepts
  (s.modJnl p (fun j => { j with accepts := n + 1 })).modCmd p order (fun c => { c with acceptSeq := n })

/-- Tokens of host memory as a command's read returns them. -/
def hostTokens (d : HostData) (n : Nat) : Option (List W32) :=
  match d with
  | .bytes bs => some (tokenWords (padTo bs (4 * n)))
  | .failed => none

/-- Remember what a command carries until it is accepted. -/
def State.keepTokens (s : State) (p : Part) (order : Nat) (ts : List W32) : State :=
  s.modPart p (fun x => { x with cmdTokens := dset x.cmdTokens order ts })

/-! ### ADMIT_REQUEST (R604 to R611) -/

/-- Descriptor offset of the first field at fault of an ADMIT_REQUEST payload (R608). -/
def admitFault (c : Cmd) : Option Nat :=
  if c.field 0x14 4 = 0 || 1048576 < c.field 0x14 4 then some 0x14
  else if c.field 0x18 8 % 4 ≠ 0 then some 0x18
  else if c.field 0x28 4 = 0 || 1048576 < c.field 0x14 4 + c.field 0x28 4 then some 0x28
  else if !tempOk (c.field 0x2C 2) then some 0x2C
  else if 1024 < c.field 0x2E 2 then some 0x2E
  else none

/-- The request that an ADMIT_REQUEST admits, with its prompt. -/
def admitted (c : Cmd) (ts : List W32) (st : ReqSt) : Request :=
  let f := c.field 0x32 2
  { st := st, epoch := 0, be := c.be, client := c.client, tokRing := if bitOf f 0 then 1 else 0, keep := bitOf f 1, withhold := bitOf f 2,
    freezeOnExpire := bitOf f 3, model := c.field 0x34 2, deadline := BitVec.ofNat 64 (c.field 0x38 8),
    seed := BitVec.ofNat 64 (c.field 0x20 8), temp := BitVec.ofNat 16 (c.field 0x2C 2), topK := c.field 0x2E 2, topP := c.field 0x30 2,
    maxNew := c.field 0x28 4, tokens := ts, inputs := [(0, ts.length)], committed := ts.length, toPrefill := ts.length, turn := some c.order,
    accept := c.acceptSeq }

/-- ADMIT_REQUEST: its checks, and its records. -/
def execAdmitRequest (p : Part) (ring : CmdRing) (tokens : HostData) (s : State) : Out :=
  inService s (fun s => runCmd s p ring opAdmit (fun s c =>
    let id := c.field 0x10 4
    let model := c.field 0x34 2
    if (s.part p).fn.st = .quiescing then s.finish p c stState
    else
      match admitFault c, hostTokens tokens (c.field 0x14 4) with
      | some off, _ => s.malformed p c off
      | none, none => s.malformed p c 0x18
      | none, some ts =>
        if !s.tokensOk p model ts then s.malformed p c 0xFFFF
        else if s.idTaken p c id || !s.tokOn p (bitOf (c.field 0x32 2) 0) || !s.modelOk p model ||
            (!s.swapClass p && !s.modelActive p 0) || c.unwitnessed then s.finish p c stState
        else if s.requestsFull p || !s.roomForRequest p model then s.finish p c stNoCapacity
        else
          let r := admitted c ts .waiting
          ((s.keepTokens p c.order ts).numberAccept p c.order).journalCommand p c (s.inputRecords p id 0 c.ring false 0 ts) id 0 0 ts.length
            c.client c.be (restoreBytes (r.restore id))))

/-! ### APPEND_TOKENS (R615 to R617) -/

/-- The request as an APPEND_TOKENS leaves it: a new turn over the committed history and the input tokens. -/
def Request.append (r : Request) (c : Cmd) (ts : List W32) (st : ReqSt) : Request :=
  let f := c.field 0x16 2
  { r with st := st, keep := bitOf f 1, withhold := bitOf f 2, freezeOnExpire := bitOf f 3, deadline := BitVec.ofNat 64 (c.field 0x28 8),
           maxNew := c.field 0x1C 4, tokens := r.tokens ++ ts, inputs := r.inputs ++ [(r.committed, ts.length)],
           committed := r.committed + ts.length, toPrefill := r.toPrefill + ts.length, turn := some c.order, expired := false, finalSeen := false,
           lateFinal := false }

/-- Descriptor offset of the first field at fault of an APPEND_TOKENS payload (R615). -/
def appendFault (c : Cmd) : Option Nat :=
  if 1048576 < c.field 0x18 4 then some 0x18
  else if c.field 0x1C 4 = 0 then some 0x1C
  else if c.field 0x20 8 % 4 ≠ 0 || (c.field 0x18 4 = 0 && c.field 0x20 8 ≠ 0) then some 0x20
  else none

/-- APPEND_TOKENS: its checks, and its records. -/
def execAppendTokens (p : Part) (ring : CmdRing) (tokens : HostData) (s : State) : Out :=
  inService s (fun s => runCmd s p ring opAppend (fun s c =>
    let id := c.field 0x10 4
    let n := c.field 0x18 4
    if (s.part p).fn.st = .quiescing then s.finish p c stState
    else
      match appendFault c, (if n = 0 then some [] else hostTokens tokens n) with
      | some off, _ => s.malformed p c off
      | none, none => s.malformed p c 0x20
      | none, some ts =>
        match s.req? p id with
        | none => s.finish p c stState
        | some r =>
          if !s.tokensOk p r.model ts then s.malformed p c 0xFFFF
          else if !(r.st = .idle) || r.closing.isSome || r.turn.isSome || c.unwitnessed then s.finish p c stState
          else if r.epoch.toNat ≠ c.field 0x14 2 then s.finish p c stEpoch
          else if 1048576 < r.committed + n + c.field 0x1C 4 then s.finish p c stNoCapacity
          else
            let t := r.append c ts .waiting
            ((s.keepTokens p c.order ts).numberAccept p c.order).journalCommand p c (s.inputRecords p id r.epoch c.ring false r.committed ts) id
              r.epoch r.committed n c.client c.be (restoreBytes (t.restore id))))

/-! ### CANCEL_REQUEST and SET_DEADLINE (R618 to R622) -/

/-- CANCEL_REQUEST: its checks, and its records. -/
def execCancelRequest (p : Part) (ring : CmdRing) (s : State) : Out :=
  inService s (fun s => runCmd s p ring opCancel (fun s c =>
    let id := c.field 0x10 4
    match s.req? p id with
    | none => s.finish p c stState
    | some r =>
      if r.closing.isSome || c.unwitnessed then s.finish p c stState
      else if r.epoch.toNat ≠ c.field 0x14 2 then s.finish p c stEpoch
      else (s.numberAccept p c.order).journalCommand p c [] id r.epoch 0 0 c.client c.be (c.bytes 0x10 48)))

/-- The request as a SET_DEADLINE leaves it. -/
def Request.setDeadline (r : Request) (c : Cmd) : Request :=
  { r with deadline := BitVec.ofNat 64 (c.field 0x18 8), withhold := bitOf (c.field 0x16 2) 2, freezeOnExpire := bitOf (c.field 0x16 2) 3 }

/-- SET_DEADLINE: its checks, and its records. -/
def execSetDeadline (p : Part) (ring : CmdRing) (s : State) : Out :=
  inService s (fun s => runCmd s p ring opSetDeadline (fun s c =>
    let id := c.field 0x10 4
    match s.req? p id with
    | none => s.finish p c stState
    | some r =>
      if r.st = .idle || r.closing.isSome || c.unwitnessed then s.finish p c stState
      else if r.epoch.toNat ≠ c.field 0x14 2 then s.finish p c stEpoch
      else (s.numberAccept p c.order).journalCommand p c [] id r.epoch 0 0 c.client c.be (restoreBytes ((r.setDeadline c).restore id))))

/-! ### RESTORE_REQUEST (R761 to R764, R757) -/

/-- Descriptor offset of the first field at fault of a RESTORE_REQUEST payload (R761). -/
def restoreFault (c : Cmd) : Option Nat :=
  if c.field 0x18 4 = 0 || 1048576 < c.field 0x18 4 then some 0x18
  else if 1048576 < c.field 0x18 4 + c.field 0x1C 4 then some 0x1C
  else if c.field 0x20 8 % 4 ≠ 0 then some 0x20
  else if !tempOk (c.field 0x30 2) then some 0x30
  else if 1024 < c.field 0x32 2 then some 0x32
  else none

/-- A request rebuilt from a restore payload over its history (R753, R763). -/
def rebuilt (c : Cmd) (x : Restore) (ts : List W32) (toPrefill : Nat) (turn : Bool) : Request :=
  { st := .waiting, epoch := x.epoch, be := c.be, client := c.client, tokRing := if x.tokRing then 1 else 0, keep := x.keep, withhold := x.withhold,
    freezeOnExpire := x.freezeOnExpire, model := x.model, deadline := x.deadline, seed := x.seed, temp := x.temp, topK := x.topK, topP := x.topP,
    maxNew := x.maxNew, tokens := ts, inputs := [(0, ts.length)], committed := ts.length, toPrefill := toPrefill,
    turn := if turn then some c.order else none, accept := c.acceptSeq }

/-- A RESTORE_REQUEST's payload as fields, in epoch E + 1. -/
def restoreOf (c : Cmd) : Restore :=
  let f := c.field 0x16 2
  { request := c.field 0x10 4, epoch := BitVec.ofNat 16 (c.field 0x14 2 + 1), tokRing := bitOf f 0, keep := bitOf f 1, withhold := bitOf f 2,
    freezeOnExpire := bitOf f 3, count := c.field 0x18 4, maxNew := c.field 0x1C 4, seed := BitVec.ofNat 64 (c.field 0x28 8),
    temp := BitVec.ofNat 16 (c.field 0x30 2), topK := c.field 0x32 2, topP := c.field 0x34 2, model := c.field 0x36 2,
    deadline := BitVec.ofNat 64 (c.field 0x38 8) }

/-- A command that resumes a request writes its records (R731): the history as INPUT and RESEED, carriers, head. -/
def State.journalResume (s : State) (p : Part) (c : Cmd) (x : Restore) (ts : List W32) : State :=
  let s := (s.keepTokens p c.order ts).modPart p (fun y => { y with cmdRestore := dset y.cmdRestore c.order x })
  (s.numberAccept p c.order).journalCommand p c (s.inputRecords p x.request x.epoch c.ring true 0 ts) x.request x.epoch 0 ts.length c.client c.be
    (restoreBytes { x with count := ts.length })

/-- The model's number for the message that claims. -/
def kindClaim : Nat := 3

/-- The claim of a RESTORE_REQUEST is answered: the restore goes on, or ends with the refusal (R762, R763). -/
def State.claimAnswered (s : State) (p : Part) (order : Nat) (st : W16) : State :=
  match s.cmd? p order with
  | none => s
  | some c =>
    let s := s.modPart p (fun x => { x with claimsOut := x.claimsOut.filter (fun y => decide (y.1 ≠ order)) })
    if st = stOk then s.journalResume p c (restoreOf c) (dget (s.part p).cmdTokens order []) else s.finish p c st

/-- RESTORE_REQUEST: its checks, its claim, and its records. -/
def execRestoreRequest (p : Part) (ring : CmdRing) (tokens : HostData) (s : State) : Out :=
  inService s (fun s => runCmd s p ring opRestore (fun s c =>
    let x := restoreOf c
    match restoreFault c, hostTokens tokens x.count with
    | some off, _ => s.malformed p c off
    | none, none => s.malformed p c 0x20
    | none, some ts =>
      if !s.tokensOk p x.model ts then s.malformed p c 0xFFFF
      else if s.idTaken p c x.request || !s.tokOn p x.tokRing || !s.modelOk p x.model || c.unwitnessed then s.finish p c stState
      else if c.field 0x14 2 = 0xFFFF then s.finish p c stEpoch
      else if s.requestsFull p || !s.roomForRequest p x.model then s.finish p c stNoCapacity
      else
        let w := c.field 0x40 2
        let o := c.field 0x42 2
        if !bitOf w 15 then s.journalResume p c x ts
        else
          let a : ClaimAsk := { origin := Fin.ofNat 512 (o % 512), part := Fin.ofNat 16 (o / 512), request := x.request,
                                epoch := BitVec.ofNat 16 (c.field 0x14 2), claimPart := p }
          let node : Node := Fin.ofNat 512 (w % 512)
          let wp : Part := Fin.ofNat 16 (bitsOf w 9 4)
          let s := s.keepTokens p c.order ts
          if node = s.self then
            let y := s.takeClaim wp a s.self none (some (p, c.order))
            match y.1 with
            | some st => y.2.finish p c st
            | none => y.2
          else if s.fabric.fenced.contains node then s.finish p c stNodeLost
          else
            let sent := s.sendAcked tyMsg 0 node wp 0 (Config.messageKind kindClaim)
              (Config.messageBody [a.origin.val, a.part.val, a.request, a.epoch.toNat, p.val])
            sent.2.modPart p (fun z => { z with claimsOut := z.claimsOut ++ [(c.order, sent.1)] })))

/-! ### MIGRATE_REQUEST at its destination (R765 to R768) -/

/-- The model's number for the message that asks for a migration. -/
def kindMigrate : Nat := 4

/-- MIGRATE_REQUEST: its checks, and the question to the source. -/
def execMigrateRequest (p : Part) (ring : CmdRing) (s : State) : Out :=
  inService s (fun s => runCmd s p ring opMigrate (fun s c =>
    let src := c.field 0x16 2
    let node : Node := Fin.ofNat 512 (src % 512)
    if node = s.self then s.malformed p c 0x16
    else if 1 < c.field 0x1C 1 then s.malformed p c 0x1C
    else if s.idTaken p c (c.field 0x18 4) || !s.tokOn p (bitOf (c.field 0x1D 1) 0) || c.unwitnessed then s.finish p c stState
    else if s.requestsFull p || !s.roomForRequest p 0 then s.finish p c stNoCapacity
    else if s.fabric.fenced.contains node then s.finish p c stNodeLost
    else
      let root := match ((s.part p).slot 0).head with
        | some h => h.root
        | none => []
      let sent := s.sendAcked tyMsg 0 node (Fin.ofNat 16 (src / 512)) 0 (Config.messageKind kindMigrate)
        (Config.messageBody ([c.field 0x10 4, c.field 0x14 2, c.field 0x18 4, p.val, c.field 0x1C 1] ++ root.map BitVec.toNat))
      sent.2.modPart p (fun z => { z with migrations := z.migrations ++ [(c.order, sent.1)] })))

/-- A migration of this node ends with a refusal or a loss. -/
def State.migrationFails (s : State) (p : Part) (order : Nat) (st : W16) : State :=
  (s.modPart p (fun x => { x with migrations := x.migrations.filter (fun m => decide (m.1 ≠ order)) })).finishOrder p order st

/-- MIGRATE_HANDOVER: the source's answer (R766 to R768). -/
def execMigrateHandover (p : Part) (order : Nat) (h : Handover) (s : State) : Out :=
  inService s (fun s =>
    match s.cmd? p order with
    | none => s
    | some c =>
      if !(s.part p).migrations.any (fun m => decide (m.1 = order)) then s
      else
        match h with
        | .refused st => s.migrationFails p order (if st = stEpoch then stEpoch else stState)
        | .lost => s.migrationFails p order stNodeLost
        | .given x ts layers =>
          let s := s.modPart p (fun z => { z with
            migrations := z.migrations.filter (fun m => decide (m.1 ≠ order)),
            cmdPages := if c.field 0x1C 1 = 0 then dset z.cmdPages order layers else z.cmdPages })
          s.journalResume p c { x with request := c.field 0x18 4, epoch := BitVec.ofNat 16 (c.field 0x14 2 + 1),
                                       tokRing := bitOf (c.field 0x1D 1) 0 } ts)

/-! ### Freezing (R344 to R354) -/

/-- Page `n` of a layer in its layout of R298, wherever it lies now. -/
def State.pageBytesOf (s : State) (m : ModelInfo) (l : LayerKv) (n : Nat) (e : PageEnt) : List Byte :=
  match dget? l.images n with
  | some b => b
  | none => s.readDpa e.frame (pageBytes m)

/-- The KV of a layer of a request with `c` committed positions, as it moves with the request (R348, R766). -/
def State.layerData (s : State) (m : ModelInfo) (c : Nat) (l : LayerKv) : LayerData :=
  { pages := l.pages.zipIdx.map (fun e => if e.1.present then some (s.pageBytesOf m l e.2 e.1) else none),
    drift := if l.driftIn = [] then s.readDpa l.drift (2 * m.kValues * (c % 128)) ++ s.readDpa (l.drift + 256 * m.kValues) (2 * m.vValues * (c % 128))
      else l.driftIn }

/-- What an ice core of a request holds. -/
def State.iceParts (s : State) (p : Part) (id : Nat) (r : Request) : IceParts :=
  let m := (s.infoOf p r.model).getD default
  { restore := r.restore id, history := r.tokens.take r.committed, layers := r.layers.map (s.layerData m r.committed) }

/-- The model that a request belongs to, as an ice core's header names it (R347): the slot of its variant, or slot 0. -/
def State.iceModel (s : State) (p : Part) (model : Nat) : IceModel :=
  let n := s.slotOfModel p model
  let y := if ((s.part p).slot n).st = .empty then (s.part p).slot 0 else (s.part p).slot n
  { info := (s.infoOf p model).getD default, shard := y.shard, root := (y.head.map Head.root).getD [] }

/-- The model in slot 0, which an ice core must match to be thawed (R356). -/
def State.iceModelNow (s : State) (p : Part) : IceModel :=
  let y := (s.part p).slot 0
  { info := s.mainInfo p, shard := y.shard, root := (y.head.map Head.root).getD [] }

/-- The ice core that a freeze of a request makes (R344 to R349). -/
def State.iceCoreOf (s : State) (p : Part) (id : Nat) (r : Request) (f : Freezing) : List Byte :=
  iceCore (s.iceModel p r.model) f.bits f.keepPages (s.iceParts p id r)

/-- The first byte of a request's KV that a freeze cannot read: its layer and the page, or none for the drift. -/
def State.kvUnreadable (s : State) (p : Part) (r : Request) : Option (Nat × Nat × Option Nat) :=
  let m := (s.infoOf p r.model).getD default
  r.layers.zipIdx.findSome? (fun l =>
    match l.1.pages.zipIdx.findSome? (fun e =>
      if e.1.present && (dget? l.1.images e.2).isNone then (s.unreadableIn e.1.frame (pageBytes m)).map (fun d => (d, l.2, some e.2)) else none) with
    | some x => some x
    | none => if l.1.drift = 0 || l.1.driftIn ≠ [] then none else (s.unreadableIn l.1.drift (driftBytes m)).map (fun d => (d, l.2, none)))

/-- Descriptor offset of the first field at fault of a FREEZE_REQUEST payload (R350). -/
def freezeFault (c : Cmd) (bits : HostData) (layers : Nat) : Option Nat :=
  let mode := c.field 0x14 1
  let dest := c.field 0x15 1
  if 1 < mode then some 0x14
  else if 1 < dest then some 0x15
  else if (mode = 1 && c.field 0x16 1 ≠ 0) || (mode = 0 && c.field 0x30 8 = 0 && (c.field 0x16 1 < 2 || 4 < c.field 0x16 1)) then some 0x16
  else if (mode = 1 && c.field 0x18 4 ≠ 0) || 8192 < c.field 0x18 4 then some 0x18
  else if (dest = 0 && c.field 0x20 8 % 4096 ≠ 0) || (dest = 1 && c.field 0x20 8 ≠ 0) then some 0x20
  else if dest = 1 && c.field 0x28 8 ≠ 0 then some 0x28
  else if mode = 1 && c.field 0x30 8 ≠ 0 then some 0x30
  else if mode = 0 && c.field 0x30 8 ≠ 0 then
    match bits with
    | .failed => some 0x30
    | .bytes bs => if (padTo bs layers).all (fun b => decide (2 ≤ b.toNat) && decide (b.toNat ≤ 4)) then none else some 0xFFFF
  else none

/-- Widths of the layers that a FREEZE_REQUEST gives (R350). -/
def freezeBits (c : Cmd) (bits : HostData) (layers : Nat) : List Nat :=
  if c.field 0x14 1 = 1 then List.replicate layers 0
  else if c.field 0x30 8 = 0 then List.replicate layers (c.field 0x16 1)
  else
    match bits with
    | .bytes bs => (padTo bs layers).map BitVec.toNat
    | .failed => []

/-- A place in the firn extent that Nelnus firmware finds for an ice core of `n` bytes: inside the extent, in no withdrawn granule,
and clear of what lies there. -/
def State.iceFits (s : State) (p : Part) (a n : Nat) : Bool :=
  s.firnPlace p a 1 n && s.firnRoom p n && clearOf (s.usedRanges p) a n

/-- FREEZE_REQUEST: its checks and its records (R350, R354). Its room is judged once its ice core is made (R353). -/
def execFreezeRequest (p : Part) (ring : CmdRing) (bits : HostData) (s : State) : Out :=
  inService s (fun s => runCmd s p ring opFreeze (fun s c =>
    let id := c.field 0x10 4
    let layers := match s.req? p id with
      | some r => ((s.infoOf p r.model).getD default).attnLayers
      | none => 0
    match freezeFault c bits layers with
    | some off => s.malformed p c off
    | none =>
      match s.req? p id with
      | none => s.finish p c stState
      | some r =>
        if r.closing.isSome || r.freezing.isSome || c.unwitnessed then s.finish p c stState
        else
          let f : Freezing := { cmd := c.order, bits := freezeBits c bits layers, keepPages := c.field 0x18 4,
                                firn := decide (c.field 0x15 1 = 1), addr := c.field 0x20 8, room := c.field 0x28 8 }
          let s := s.modPart p (fun x => { x with cmdFreeze := dset x.cmdFreeze c.order f })
          (s.numberAccept p c.order).journalCommand p c [] id r.epoch 0 0 c.client c.be (c.bytes 0x10 48)))

/-! ### THAW_REQUEST (R355 to R360) -/

/-- An ice core in the firn extent is freed (R359). -/
def State.dropIce (s : State) (p : Part) (a : Nat) : State :=
  s.modPart p (fun x => { x with kv := { x.kv with ice := x.kv.ice.filter (fun i => decide (i.1 ≠ a)) } })

/-- HBM that a thaw needs: what any request needs, a frame for each page, and two copies of each list block (R247, R356). -/
def thawBytes (m : ModelInfo) (layers : List LayerData) : Nat :=
  emptyKvBytes m + (layers.map (fun l => (l.pages.filterMap id).length * frameBytes m.frame + (l.pages.length + 511) / 512 * 8192)).foldl (· + ·) 0

/-- THAW_REQUEST: its checks in the order of R356; DISCARD at once, and the records of a thaw. -/
def execThawRequest (p : Part) (ring : CmdRing) (core : HostData) (ue : Option Nat) (s : State) : Out :=
  inService s (fun s => runCmd s p ring opThaw (fun s c =>
    let op := c.field 0x14 1
    let a := c.field 0x18 8
    let n := c.field 0x20 8
    let firn := decide (c.field 0x15 1 = 1)
    if 2 < op then s.malformed p c 0x14
    else if 1 < c.field 0x15 1 then s.malformed p c 0x15
    else if firn && !s.inFirnExtent p a n then s.malformed p c 0x18
    else
      let head : Option (List Byte) := if firn then (if (s.badByte a (min n 256) ue).isSome then none else some (s.readDpa a (min n 256))) else
        match core with
        | .bytes bs => some bs
        | .failed => none
      match head with
      | none =>
        match (if firn then s.badByte a (min n 256) ue else none) with
        | some d => (s.noteUnreadable d).finish p c stUnrecoverable
        | none => s.finish p c stUnrecoverable
      | some h =>
        let total := fieldAt h 0x18 8
        if !iceHeaderOk h n then s.malformed p c 0xFFFF
        else if op = 2 && !firn then s.malformed p c 0x15
        else if !iceMatches (s.iceModelNow p) h || s.idTaken p c (c.field 0x10 4) || (op ≠ 2 && c.unwitnessed) then s.finish p c stState
        else
          match (if firn then s.badByte a total ue else none) with
          | some d => (s.noteUnreadable d).finish p c stUnrecoverable
          | none =>
            let b := if firn then s.readDpa a total else h.take total
            let m := s.mainInfo p
            if !iceDigestOk b then s.finish p c stUnrecoverable
            else if op = 2 then (s.dropIce p a).finish p c stOk
            else
              match readIce m b with
              | none => s.finish p c stUnrecoverable
              | some x =>
                if s.requestsFull p || !s.hbmRoom p (thawBytes m x.layers) then s.finish p c stNoCapacity
                else
                  let s := s.modPart p (fun y => { y with cmdPages := dset y.cmdPages c.order x.layers })
                  let e := BitVec.ofNat 16 (fieldAt b 0xC 2 + 1)
                  s.journalResume p c { x.restore with request := c.field 0x10 4, epoch := e, maxNew := 0 } x.history))

/-! ### Acceptance (R606, R614, R732) -/

/-- Where a request with work to prefill, or none, enters (R614). -/
def State.entersAt (s : State) (p : Part) (r : Request) : ReqSt :=
  if !s.modelActive p r.model then .waiting else if r.toPrefill = 0 then .decode else .prefill

/-- Layers with no KV. -/
def emptyLayers (n : Nat) : List LayerKv := List.replicate n {}

/-- Layers whose KV has come with a request and waits for its frames: pages that were released stay released (R357, R766). -/
def layersOf (n : Nat) (ls : List LayerData) : List LayerKv :=
  (List.range n).map (fun i =>
    let d := ls.getD i default
    { pages := d.pages.map (fun y => { frame := 0, present := y.isSome, pinned := false, firn := false }),
      images := d.pages.zipIdx.filterMap (fun y => y.1.map (fun b => (y.2, b))), driftIn := d.drift })

/-- Nothing of a layer's KV waits to be made or placed. -/
def LayerKv.settled (l : LayerKv) : Bool := decide (l.flushed = 0) && l.redo.isEmpty && l.images.isEmpty && l.driftIn.isEmpty

/-- Nothing of a request's KV waits to be made or placed: it may take part in steps. -/
def Request.settled (r : Request) : Bool := r.layers.all LayerKv.settled

/-- A new request of a partition takes the barker policy and patterns of its partition (R342, R421). -/
def Partition.adopt (x : Partition) (r : Request) (layers : Nat) : Request :=
  { r with layers := if r.layers.isEmpty then emptyLayers layers else r.layers, draft := x.spec.kInit,
           suspended := if x.spec.barkerEn && x.spec.kInit = 0 then x.spec.suspendSteps else 0, spec := some x.spec }

/-- Store a request. -/
def State.putReq (s : State) (p : Part) (id : Nat) (r : Request) : State :=
  s.modPart p (fun x => { x with requests := dset x.requests id r })

/-- The head that a command's records end with, as a later reseed needs it (R749). -/
def State.headOf (s : State) (p : Part) (c : Cmd) (id : Nat) (r : Request) (first count : Nat) : JRec × List Byte × Nat × Bool :=
  (s.newRecord p id r.epoch c.ring (.head c.opcode c.seq first count), restoreBytes (r.restore id), c.client, c.be)

/-- A command is accepted and goes on (R733). -/
def State.goesOn (s : State) (p : Part) (c : Cmd) : State :=
  (s.modCmd p c.order (fun c => { c with stage := .running, accepted := true })).refreshAccepted p c.ring

/-- A resumed request lives from here on. -/
def State.resume (s : State) (p : Part) (c : Cmd) (turn : Bool) (built : Bool) : State :=
  match dget? (s.part p).cmdRestore c.order with
  | none => s
  | some x =>
    let ts := dget (s.part p).cmdTokens c.order []
    let n := ((s.infoOf p x.model).getD default).attnLayers
    let r := rebuilt c x ts (if built then 0 else ts.length) turn
    let r := { r with layers := if built then layersOf n (dget (s.part p).cmdPages c.order []) else [] }
    let r := (s.part p).adopt r n
    let st := if built && x.maxNew = 0 then .idle else s.entersAt p r
    s.putReq p x.request { r with st := st, lastHead := some (s.headOf p c x.request r 0 ts.length) }

/-- INFO of a turn's completion (R613). -/
def turnInfo (committed : Nat) (kept frozen : Bool) : Nat :=
  committed % 2 ^ 21 + (if kept then 2 ^ 30 else 0) + (if frozen then 2 ^ 31 else 0)

/-- What the acceptance of a command does: its head is durable (R606, R732, R733). -/
def State.acceptCommand (s : State) (p : Part) (order : Nat) : State :=
  match s.cmd? p order with
  | none => s
  | some c =>
    let s := s.goesOn p c
    let op := c.opcode.toNat
    let ts := dget (s.part p).cmdTokens order []
    let s := if op = opAdmit then
        let id := c.field 0x10 4
        let r := admitted c ts .waiting
        let r := (s.part p).adopt r (((s.infoOf p r.model).getD default).attnLayers)
        s.putReq p id { r with st := s.entersAt p r, lastHead := some (s.headOf p c id r 0 ts.length) }
      else if op = opAppend then
        let id := c.field 0x10 4
        match s.req? p id with
        | some r =>
          let t := r.append c ts .waiting
          s.putReq p id { t with st := s.entersAt p t, lastHead := some (s.headOf p c id t r.committed ts.length) }
        | none => s
      else if op = opSetDeadline then
        let id := c.field 0x10 4
        match s.req? p id with
        | some r =>
          let t := r.setDeadline c
          (s.putReq p id { t with lastHead := some (s.headOf p c id t 0 0) }).finish p { c with accepted := true } stOk 0 r.deadline.toNat
        | none => s.finish p c stState
      else if op = opCancel then
        if (s.req? p (c.field 0x10 4)).isSome then s.modReq p (c.field 0x10 4) (fun r => { r with cancel := r.cancel ++ [order] })
        else s.finish p c stState
      else if op = opFreeze then
        if (s.req? p (c.field 0x10 4)).isSome then
          s.modReq p (c.field 0x10 4) (fun r => { r with freezing := dget? (s.part p).cmdFreeze order })
        else s.finish p c stState
      else if op = opRestore then (s.resume p c true false).count .jnlRestored p.val 1
      else if op = opMigrate then
        let s := s.resume p c true (dget? (s.part p).cmdPages order).isSome
        match s.req? p (c.field 0x18 4) with
        | some r =>
          if r.st = .idle then
            (s.modReq p (c.field 0x18 4) (fun r => { r with turn := none })).finish p c stOk (turnInfo r.committed true false)
          else s
        | none => s
      else if op = opThaw then
        -- the command completes once the pages are rebuilt (R357)
        (s.resume p c false true).modReq p (c.field 0x10 4) (fun r => { r with thawing := some order })
      else s
    s.modPart p (fun x => { x with
      cmdTokens := derase x.cmdTokens order, cmdPages := derase x.cmdPages order, cmdFreeze := derase x.cmdFreeze order,
      cmdRestore := derase x.cmdRestore order })

/-! ### The end of a request (R317, R613, R730) -/

/-- Ranges of memory are unlinked in the current epoch: they are reclaimed once no walk can hold them (R317). -/
def State.unlink (s : State) (p : Part) (rs : List (Nat × Nat)) : State :=
  s.modPart p (fun x => { x with kv := { x.kv with unlinked := x.kv.unlinked ++ rs.map (fun r => (x.kv.epoch, r.1, r.2)) } })

/-- Unlink a request's frames, list blocks, directories and drift (R317, R351). -/
def State.unlinkRequest (s : State) (p : Part) (r : Request) : State := s.unlink p (s.requestRanges p r)

/-- A request is no longer live. -/
def State.dropRequest (s : State) (p : Part) (id : Nat) : State :=
  match s.req? p id with
  | some r => (s.unlinkRequest p r).modPart p (fun x => { x with
      requests := derase x.requests id, leaving := x.leaving.filter (fun l => decide (l.1 ≠ id)),
      jnl := { x.jnl with reseedLeft := x.jnl.reseedLeft.filter (fun i => decide (i ≠ id)) },
      step := { x.step with batch := x.step.batch.filter (fun b => decide (b.1 ≠ id)), chunks := x.step.chunks.filter (fun b => decide (b.1 ≠ id)) } })
  | none => s

/-- Write the CLOSE of a request (R730); its commands complete once it is durable. -/
def State.closeRequest (s : State) (p : Part) (id : Nat) (status : W16) (reason : CloseReason) (aux : Nat) (x : Closing) : State :=
  match s.req? p id with
  | some r =>
    (s.modReq p id (fun r => { r with closing := some x })).writeJournal p
      [(s.newRecord p id r.epoch 0 (.close status r.committed reason (BitVec.ofNat 64 aux)), .close id)]
  | none => s

/-- A CLOSE is durable: the request's commands complete, and it is no longer live (R613, R619, R352). Commands that a request
which has ended otherwise can no longer serve complete REJECT_STATE. -/
def State.requestClosed (s : State) (p : Part) (id : Nat) : State :=
  match s.req? p id with
  | some r =>
    match r.closing with
    | some x =>
      let s := s.dropRequest p id
      let s := match r.turn with
        | some o => s.finishOrder p o x.status x.info x.result
        | none => s
      let s := r.cancel.foldl (fun s o =>
        if x.status = stCancelled then s.finishOrder p o stOk x.cmdInfo x.cmdResult else s.finishOrder p o stState) s
      let s := match r.thawing with
        | some o => s.finishOrder p o stState
        | none => s
      match r.freezing with
      | some f =>
        if x.cmdInfo ≠ 0 then (s.finishOrder p f.cmd stOk x.cmdInfo x.cmdResult).count .kvFreezeCount p.val 1
        else s.finishOrder p f.cmd stState
      | none => s
    | none => s
  | none => s

/-- Commands that become a request's turn command (R613, R764, R765). -/
def isTurn (op : Nat) : Bool := op = opAdmit || op = opAppend || op = opRestore || op = opMigrate

/-- The records of a request go no further; a command that was to be accepted by one of them completes: the request's turn command
with the status of the request's end, any other with REJECT_STATE, as the request is not live (R354, R619, R758). -/
def State.dropRecords (s : State) (p : Part) (id : Nat) (st : W16) : State :=
  let gone := (s.part p).jnl.recs.filter (fun x => decide (x.jrec.request = id))
  let s := s.modJnl p (fun j => { j with recs := j.recs.filter (fun x => decide (x.jrec.request ≠ id)) })
  gone.foldl (fun s x => match x.effect with
    | .accept o => (match s.cmd? p o with
      | some c => s.finishOrder p o (if isTurn c.opcode.toNat then st else stState)
      | none => s)
    | _ => s) s

/-- A request ends without a CLOSE (R758). -/
def State.endUnclosed (s : State) (p : Part) (id : Nat) (st : W16) : State :=
  let q := s.req? p id
  let s := (s.dropRequest p id).dropRecords p id st
  match q with
  | some r =>
    let s := match r.turn with
      | some o => s.finishOrder p o st (turnInfo r.committed false false) 0
      | none => s
    let s := r.cancel.foldl (fun s o => s.finishOrder p o stState) s
    let s := match r.thawing with
      | some o => s.finishOrder p o stState
      | none => s
    match r.freezing with
    | some f => s.finishOrder p f.cmd stState
    | none => s
  | none => s

end Sys2Proof.Machine
end

