-- ==== Sys2Proof/Machine/Weights.lean ====
section
/-! DEFINITION. Weights: manifest heads, model slots, chunks and their verification, the load commands, the trapeze switch, swap
and eviction (R668 to R722). -/

namespace Sys2Proof.Machine

/-! ### Chunks and images (R668 to R671, R678) -/

def chunkSize : Nat := 4194304

/-- Bytes of chunk `i` of a model (R668). -/
def chunkLen (modelBytes i : Nat) : Nat := min chunkSize (modelBytes - i * chunkSize)

/-- Offset of chunk `i` in an image made of the listed chunks (R670). -/
def imageOffset (modelBytes : Nat) : List Nat → Nat → Option Nat
  | [], _ => none
  | c :: cs, i => if c = i then some 0 else (imageOffset modelBytes cs i).map (· + chunkLen modelBytes c)

/-- Nodes at level `l` of the SM3 tree over `n` chunks (R678). -/
def levelNodes (n l : Nat) : Nat := (n + 64 ^ l - 1) / 64 ^ l

/-- LEVELS for `n` chunks (R678). -/
def levelsFor (n : Nat) : Nat := ((List.range 7).find? (fun l => decide (1 ≤ l) && decide (levelNodes n l = 1))).getD 7

/-- SM3 of each group of 64 digests laid end to end. -/
def parents (n : Nat) (ds : List Byte) : List Byte := (List.range n).flatMap (fun j => sm3 (sliceAt ds (2048 * j) 2048))

/-! ### Heads (R679 to R684) -/

/-- Entry `i` of a shard's range list: first chunk, count and COLD (R682). -/
def headRange (h : List Byte) (shard i : Nat) : Nat × Nat × Bool :=
  let v := fieldAt h (fieldAt h (0x100 + 32 * shard + 8) 8 + 8 * i) 8
  (bitsOf v 0 32, bitsOf v 32 31, bitOf v 63)

/-- The lists of a shard lie within the fixed part (R682, R684). -/
def shardListsOk (h : List Byte) (shard : Nat) : Bool :=
  let f (o n : Nat) : Nat := fieldAt h o n
  let e := 0x100 + 32 * shard
  let inFixed (o n : Nat) : Bool := decide (0x100 ≤ o) && decide (o + n ≤ f 0x60 4)
  let relocAt (i : Nat) : Nat := f (f (e + 0x10) 8 + 8 * i) 8
  decide (1 ≤ f e 4) && decide (f (e + 8) 8 % 8 = 0) && inFixed (f (e + 8) 8) (8 * f e 4) &&
    (f (e + 4) 4 = 0 || (decide (f (e + 0x10) 8 % 8 = 0) && inFixed (f (e + 0x10) 8) (8 * f (e + 4) 4))) &&
    (List.range (f (e + 4) 4)).all (fun i => decide (relocAt i < 2 ^ 41) && decide (bitsOf (relocAt i) 0 40 % 8 = 0) &&
      decide (bitsOf (relocAt i) 0 40 < f (e + 0x18) 8))

/-- Reserved fields, lists and sizes of a head, and the ranges of the shard it is opened for (R680, R682, R684 first row). -/
def headFormOk (h : List Byte) (slot shard : Nat) : Bool :=
  let f (o n : Nat) : Nat := fieldAt h o n
  let chunks := f 0x10 4
  let fixed := f 0x60 4
  let levels := f 0x07 1
  let shards := f 0x14 4
  let e := 0x100 + 32 * shard
  let inFixed (o n : Nat) : Bool := decide (0x100 ≤ o) && decide (o + n ≤ fixed)
  let ranges := f e 4
  let table := (List.range levels).foldl (fun a l => if l = 0 then a else a + 32 * levelNodes chunks l) 0
  decide (256 ≤ h.length) && decide (h.length ≤ 67108864) && decide (f 0 4 = 0x464D4E4C) && decide (f 4 2 = 1) &&
    decide (f 6 1 ≤ 1) && decide ((f 6 1 = 1) = (slot = 2 ∨ slot = 3)) && allZero (sliceAt h 0x68 24) && allZero (sliceAt h 0xC0 64) &&
    decide (1 ≤ chunks) && decide (chunks = (f 8 8 + chunkSize - 1) / chunkSize) && decide (levels = levelsFor chunks) && decide (levels ≤ 6) &&
    decide (1 ≤ shards) && decide (shards ≤ 512) && decide (shard < shards) &&
    decide (fixed % 32 = 0) && decide (0x100 + 32 * shards ≤ fixed) && decide (fixed ≤ h.length) && decide ((h.length - fixed) % 2056 = 0) &&
    decide (f 0x64 4 % 32 = 0) && (table = 0 || inFixed (f 0x64 4) table) &&
    (List.range shards).all (shardListsOk h) &&
    (List.range ranges).all (fun i =>
      let r := headRange h shard i
      decide (1 ≤ r.2.1) && decide (r.1 + r.2.1 ≤ chunks) && (i + 1 = ranges || decide (r.1 + r.2.1 ≤ (headRange h shard (i + 1)).1)))

/-- Chunks of a shard: resident and COLD, in order (R682). -/
def headChunks (h : List Byte) (shard : Nat) : List Nat × List Nat :=
  let e := 0x100 + 32 * shard
  (List.range (fieldAt h e 4)).foldl (fun a i =>
    let r := headRange h shard i
    let cs := (List.range r.2.1).map (r.1 + ·)
    if r.2.2 then (a.1, a.2 ++ cs) else (a.1 ++ cs, a.2)) ([], [])

/-- Digests of level `l` from the head's level tables (R682). -/
def headLevel (h : List Byte) (l : Nat) : List Byte :=
  let chunks := fieldAt h 0x10 4
  let off := (List.range l).foldl (fun a k => if k = 0 then a else a + 32 * levelNodes chunks k) (fieldAt h 0x64 4)
  sliceAt h off (32 * levelNodes chunks l)

/-- The level tables reproduce ROOT (R684). -/
def headTreeOk (h : List Byte) : Bool :=
  let chunks := fieldAt h 0x10 4
  let levels := fieldAt h 7 1
  (List.range levels).all (fun l =>
    l = 0 || (if l + 1 = levels then decide (sm3 (headLevel h l) = sliceAt h 0x20 32)
      else decide (parents (levelNodes chunks (l + 1)) (headLevel h l) = headLevel h (l + 1))))

/-- Leaf blocks of the leaf section: block index and digests (R683). -/
def headLeaves (h : List Byte) : List (Nat × List Byte) :=
  let fixed := fieldAt h 0x60 4
  (List.range ((h.length - fixed) / 2056)).map (fun i => (fieldAt h (fixed + 2056 * i) 8, sliceAt h (fixed + 2056 * i + 8) 2048))

/-- A leaf block is valid (R683). -/
def leafOk (h : List Byte) (b : Nat × List Byte) : Bool :=
  let chunks := fieldAt h 0x10 4
  let n := min 64 (chunks - 64 * b.1)
  decide (64 * b.1 < chunks) && decide (sm3 (b.2.take (32 * n)) =
    (if fieldAt h 7 1 = 1 then sliceAt h 0x20 32 else sliceAt (headLevel h 1) (32 * b.1) 32))

/-- A head checked in the order of R684, up to ROOT_TAG: the head to keep, or the status and INFO of the first check that fails. -/
def State.checkHead (s : State) (slot shard : Nat) (tag : Nat) (h : List Byte) : Except (W16 × Nat) Head :=
  let cs := headChunks h shard
  let blocks := headLeaves h
  let missing := (cs.1 ++ cs.2).find? (fun c => !blocks.any (fun b => decide (b.1 = c / 64)))
  let e := 0x100 + 32 * shard
  let fixed := fieldAt h 0x60 4
  if !headFormOk h slot shard then .error (stMalformed, 0xFFFF)
  else
    match s.sec.keys.find? (fun k => decide (k.2.keyId.toNat = fieldAt h 0x18 8)) with
    | none => .error (stSignature, 0)
    | some k =>
      if !sm2Verify k.2.distId k.2.key (h.take 128) (sliceAt h 0x80 64) then .error (stSignature, 0)
      else if sm3 (sliceAt h 0x100 (fixed - 0x100)) ≠ sliceAt h 0x40 32 || !headTreeOk h then .error (stSignature, 0)
      else if !blocks.all (leafOk h) then .error (stSignature, 0)
      else
        match missing with
        | some c => .error (stMalformed, c)
        | none =>
          if fieldAt h 0x20 8 ≠ tag then .error (stState, 0)
          else .ok {
            keyId := k.2.keyId, root := sliceAt h 0x20 32, chunks := fieldAt h 0x10 4, modelBytes := fieldAt h 8 8, kind := fieldAt h 6 1,
            resident := cs.1, cold := cs.2, localBytes := fieldAt h (e + 0x18) 8,
            leaves := (cs.1 ++ cs.2).foldl (fun m c => match blocks.find? (fun b => decide (b.1 = c / 64)) with
              | some b => dset m c (sliceAt b.2 (32 * (c % 64)) 32)
              | none => m) [],
            relocs := (List.range (fieldAt h (e + 4) 4)).map (fun i =>
              let v := fieldAt h (fieldAt h (e + 0x10) 8 + 8 * i) 8
              (bitsOf v 0 40, bitOf v 40)),
            shards := (List.range (fieldAt h 0x14 4)).map (fun i =>
              (List.range (fieldAt h (0x100 + 32 * i) 4)).map (fun j => ((headRange h i j).1, (headRange h i j).2.1))) }

/-! ### Slots (R672 to R677, R684 to R692) -/


/-- The slot's tier is the firn extent. -/
def slotInFirn (n : Nat) : Bool := decide (4 ≤ n)

/-- Every chunk of the shard is verified. -/
def Slot.whole (x : Slot) : Bool :=
  match x.head with
  | some h => (h.resident ++ h.cold).all x.verified.contains
  | none => false

/-- An OPEN slot whose last chunk has verified is COMPLETE (R674). -/
def Slot.settle (x : Slot) : Slot := if x.st = .opened && x.whole then { x with st := .complete } else x

/-- Bytes of the cold image. -/
def Head.coldBytes (h : Head) : Nat := (h.cold.map (chunkLen h.modelBytes)).foldl (· + ·) 0

/-- The images of a head, placed as Nelnus firmware proposes, lie in the slot's tier, in no withdrawn granule, and clear of what else
is allocated (R266, R684, R686); its model program keeps the bounds of the manual (log entry 102). -/
def State.placeOk (s : State) (p : Part) (slot : Nat) (h : Head) (pl : Placement) : Bool :=
  let n := h.localBytes
  let clear (a m : Nat) : Bool := clearOf (({ s.part p with slots := derase (s.part p).slots slot } : Partition).slotRanges ++ s.kvRanges p ++ (s.part p).kv.ice) a m
  modelBounds pl.info && clear pl.base n &&
    (if slotInFirn slot then s.firnPlace p pl.base 2097152 n && s.firnRoom p (n + h.coldBytes)
     else s.hbmPlace p pl.base 2097152 n && s.hbmRoom p n) &&
    (h.cold.isEmpty || (s.firnPlace p pl.coldBase 1 h.coldBytes && clear pl.coldBase h.coldBytes))

/-- Image of a slot that holds chunk `c`, and the chunk's offset in it. -/
def Slot.place (x : Slot) (c : Nat) : Option (Nat × Nat × Bool) :=
  match x.head with
  | some h => (match imageOffset h.modelBytes h.resident c with
    | some o => some (x.base, o, false)
    | none => (imageOffset h.modelBytes h.cold c).map (fun o => (x.coldBase, o, true)))
  | none => none

/-- Change the relocated fields of a chunk at local-image offset `o` by `f` (R691). -/
def relocate (h : Head) (o : Nat) (bs : List Byte) (f : Nat → Bool → Nat) : List Byte :=
  h.relocs.foldl (fun (bs : List Byte) r =>
    if o ≤ r.1 && r.1 + 8 ≤ o + bs.length then
      bs.take (r.1 - o) ++ leBytes 8 (f (fieldAt bs (r.1 - o) 8) r.2) ++ bs.drop (r.1 - o + 8)
    else bs) bs

/-- A chunk's live form from its stored form (R691). -/
def State.liveForm (s : State) (x : Slot) (h : Head) (o : Nat) (bs : List Byte) : List Byte :=
  relocate h o bs (fun v node => let w := (v + x.base) % 2 ^ 64; if node then w ||| (s.self.val * 2 ^ 48) else w)

/-- A chunk's stored form, from its live form in the slot (R692). -/
def State.storedForm (s : State) (x : Slot) (h : Head) (o : Nat) (bs : List Byte) : List Byte :=
  relocate h o bs (fun v node => ((if node then v - s.self.val * 2 ^ 48 else v) + 2 ^ 64 - x.base) % 2 ^ 64)

/-- The first byte of a slot's chunk that cannot be read (R276). -/
def State.chunkUnreadable (s : State) (p : Part) (slot c : Nat) : Option Nat :=
  let x := (s.part p).slot slot
  match x.head, x.place c with
  | some h, some (b, o, _) => s.unreadableIn (b + o) (chunkLen h.modelBytes c)
  | _, _ => none

/-- A verified chunk of a slot as a source sends it; `none` where it cannot be read. -/
def State.chunkOf (s : State) (p : Part) (slot c : Nat) : Option (List Byte) :=
  let x := (s.part p).slot slot
  match x.head, x.place c with
  | some h, some (b, o, cold) =>
    if x.verified.contains c && (s.chunkUnreadable p slot c).isNone then
      let bs := s.readDpa (b + o) (chunkLen h.modelBytes c)
      some (if cold then bs else s.storedForm x h o bs)
    else none
  | _, _ => none

/-- Write a chunk that has verified into its slot. -/
def State.placeChunk (s : State) (p : Part) (slot c : Nat) (data : List Byte) : State :=
  let x := (s.part p).slot slot
  match x.head, x.place c with
  | some h, some (b, o, cold) =>
    let s := s.writeDpa (b + o) (if cold then data else s.liveForm x h o data)
    (s.count .wgtChunksDone p.val 1).modPart p (fun y => y.setSlot slot (Slot.settle { x with verified := c :: x.verified }))
  | _, _ => s

/-- A chunk matches the digest in the slot's head (R687). -/
def Slot.matches_ (x : Slot) (c : Nat) (data : List Byte) : Bool :=
  match x.head with
  | some h => decide (dget? h.leaves c = some (sm3 data)) && decide (data.length = chunkLen h.modelBytes c)
  | none => false

/-- Open a slot with a checked head (R684 to R686). After a retained warm reset the chunks of slot 0 that still verify where they
lie count as verified (R928). -/
def State.openSlot (s : State) (p : Part) (slot shard : Nat) (h : Head) (pl : Placement) : Option State :=
  let kept := match (s.part p).retained with
    | some (b, root, sh, map, host) =>
      if slot = 0 && s.boot.hbmRetained && root = h.root && sh = shard && map = s.reg .memHbmMap p.val && host = s.reg .memHostRegion p.val then some b else none
    | none => none
  let pl := match kept with
    | some b => { pl with base := b }
    | none => pl
  if !s.placeOk p slot h pl then none
  else
    let x : Slot := { st := .opened, shard := shard, base := pl.base, coldBase := pl.coldBase, head := some h, info := some pl.info, cacheAt := pl.cacheAt }
    let still (c : Nat) : Bool := match x.place c with
      | some (b, o, false) =>
        (s.unreadableIn (b + o) (chunkLen h.modelBytes c)).isNone && x.matches_ c (s.storedForm x h o (s.readDpa (b + o) (chunkLen h.modelBytes c)))
      | _ => false
    let x := if kept.isSome then Slot.settle { x with verified := h.resident.filter still } else x
    some (s.modPart p (fun y => { y.setSlot slot x with retained := if slot = 0 then none else y.retained }))

/-! ### The load commands (R693 to R704) -/

/-- Descriptor offset of the first field at fault of a load's payload (R693). -/
def loadFault (c : Cmd) : Option Nat :=
  let op := c.opcode.toNat
  let fl := c.field 0x11 1
  let open_ := bitOf fl 0
  let all := bitOf fl 1
  if !isSlot (c.field 0x10 1) then some 0x10
  else if bitOf fl 2 && op ≠ opBroadcast then some 0x11
  else if op ≠ opPull && c.field 0x12 2 ≠ 0 then some 0x12
  else if all && c.field 0x18 4 ≠ 0 then some 0x18
  else if (all && c.field 0x1C 4 ≠ 0) || (!all && !open_ && c.field 0x1C 4 = 0) then some 0x1C
  else if (op = opPull && c.field 0x20 8 ≠ 0) || c.field 0x20 8 % 4096 ≠ 0 then some 0x20
  else if c.field 0x28 8 % 4096 ≠ 0 || (!open_ && c.field 0x28 8 ≠ 0) || (open_ && op ≠ opPull && c.field 0x28 8 = 0) then some 0x28
  else if (c.field 0x28 8 = 0) ≠ (c.field 0x30 4 = 0) then some 0x30
  else if (op = opBroadcast && (c.field 0x34 2 = 0 || 506 < c.field 0x34 2)) || (op ≠ opBroadcast && c.field 0x34 2 ≠ 0) then some 0x34
  else if op ≠ opPull && c.field 0x36 1 ≠ 0 then some 0x36
  else none

/-- Receivers of a broadcast, with this package last under SELF (R693, R697). -/
def State.receiversOf (s : State) (p : Part) (c : Cmd) : List (Node × Part × Nat × Nat × W16) :=
  (List.range (c.field 0x34 2)).map (fun i =>
    let v := c.field (0x40 + 8 * i) 8
    (Fin.ofNat 512 (bitsOf v 0 9), Fin.ofNat 16 (bitsOf v 16 4), bitsOf v 24 8, bitsOf v 32 32, 0)) ++
  (if bitOf (c.field 0x11 1) 2 then [(s.self, p, c.field 0x10 1, c.field 0x14 4, 0)] else [])

/-- A load is done: its command completes (R695, R701), or its swap goes on (R716). -/
def State.endLoad (s : State) (p : Part) (l : Load) : State :=
  let s := (s.modPart p (fun x => { x with loads := x.loads.filter (fun m => decide (m.cmd ≠ l.cmd)) })).endCasts p l.cmd (fun _ => true)
  match (s.part p).swap with
  | some w => if w.cmd = l.cmd then s.modPart p (fun x => { x with swap := some { w with phase := .activate } }) else done s
  | none => done s
where
  /-- The command completes. -/
  done (s : State) : State :=
    let bad := l.receivers.filter (fun r => decide (r.2.2.2.2 ≠ 0))
    match bad with
    | r :: _ => s.finishOrder p l.cmd r.2.2.2.2 bad.length ((l.receivers.findIdx (fun r => decide (r.2.2.2.2 ≠ 0))))
    | [] => s.finishOrder p l.cmd stOk l.skipped l.written

/-- A load fails as a whole; a swap's failure leaves no variant active (R696, R703, R718). -/
def State.failLoad (s : State) (p : Part) (l : Load) (st : W16) (info result : Nat) : State :=
  let s := s.modPart p (fun x =>
    let x := { x with loads := x.loads.filter (fun m => decide (m.cmd ≠ l.cmd)) }
    match x.swap with
    | some w => if w.cmd = l.cmd then { x.setSlot 0 {} with swap := none, activeVariant := 0 } else x
    | none => x)
  s.finishOrder p l.cmd st info result

/-- Change a load. -/
def State.modLoad (s : State) (p : Part) (cmd : Nat) (f : Load → Load) : State :=
  s.modPart p (fun x => { x with loads := x.loads.map (fun l => if l.cmd = cmd then f l else l) })

/-- A chunk is in place: loads that would have written it skip it (R688), and loads with nothing left complete. -/
def State.chunkThere (s : State) (p : Part) (slot c : Nat) (by_ : Option Nat) (wrote : Bool) : State :=
  let hit (l : Load) : Bool := decide (l.slot = slot) && l.todo.contains c && (by_ = some l.cmd || (match l.path with | .broadcast _ => false | _ => true))
  let ls := (s.part p).loads.filter hit
  ls.foldl (fun s l =>
    let w := by_ = some l.cmd && wrote
    let l := { l with todo := l.todo.filter (fun d => decide (d ≠ c)), written := l.written + (if w then 1 else 0),
                      skipped := l.skipped + (if w || !l.self then 0 else 1) }
    let s := (s.modLoad p l.cmd (fun _ => l)).endCasts p l.cmd (fun k => decide (k = c))
    if l.todo.isEmpty then s.endLoad p l else s) s

/-- The command's load starts: with nothing to do it completes at once (R688, R695). -/
def State.startLoad (s : State) (p : Part) (l : Load) : State :=
  let x := (s.part p).slot l.slot
  let bc := match l.path with | .broadcast _ => true | _ => false
  let todo := if bc then l.todo else l.todo.filter (fun c => !x.verified.contains c)
  let l := { l with todo := todo, skipped := l.todo.length - todo.length }
  let s := s.modPart p (fun x => { x with loads := x.loads ++ [l] })
  if todo.isEmpty then s.endLoad p l else s

/-- The shard's chunks that a load names (R693, R694). -/
def wantedChunks (h : Head) (c : Cmd) : List Nat :=
  let all := h.resident ++ h.cold
  if bitOf (c.field 0x11 1) 1 then all
  else all.filter (fun i => decide (c.field 0x18 4 ≤ i) && decide (i < c.field 0x18 4 + c.field 0x1C 4))

/-- The head of a slot on this node that a pull without HEAD_ADDR reads. -/
def headBytes (h : HostData) (n : Nat) : Option (List Byte) :=
  match h with
  | .bytes bs => some (if n = 0 then bs else padTo bs n)
  | .failed => none

/-- A load command (R693 to R704). -/
def State.loadCmd (s : State) (p : Part) (c : Cmd) (h : HostData) (pl : Placement) (path : LoadPath) : State :=
  let slot := c.field 0x10 1
  let open_ := bitOf (c.field 0x11 1) 0
  let x := (s.part p).slot slot
  let go (s : State) : State :=
    match ((s.part p).slot slot).head with
    | none => s.finish p c stState
    | some hd =>
      if hd.chunks < c.field 0x18 4 + c.field 0x1C 4 then s.malformed p c 0x1C
      else
        let bc := c.opcode.toNat = opBroadcast
        (s.setStage p c.order .running).startLoad p
          { cmd := c.order, slot := slot, path := path, todo := wantedChunks hd c, self := !bc || bitOf (c.field 0x11 1) 2,
            receivers := if bc then s.receiversOf p c else [] }
  match loadFault c with
  | some off => s.malformed p c off
  | none =>
    if (open_ != decide (x.st = .empty)) || (16 ≤ slot && !s.swapClass p) then s.finish p c stState
    else if !open_ then
      match x.head with
      | some hd => if fieldAt hd.root 0 8 ≠ c.field 0x38 8 then s.finish p c stState else go s
      | none => s.finish p c stState
    else
      match headBytes h (c.field 0x30 4) with
      | none => s.malformed p c 0x28
      | some bs =>
        match s.checkHead slot (c.field 0x14 4) (c.field 0x38 8) bs with
        | .error (st, info) => s.finish p c st info
        | .ok hd =>
          if hd.chunks < c.field 0x18 4 + c.field 0x1C 4 then s.malformed p c 0x1C
          else
            match s.openSlot p slot (c.field 0x14 4) hd pl with
            | none => s.finish p c stNoCapacity
            | some t => go t

/-- LOAD_WEIGHTS. -/
def execLoadWeights (p : Part) (ring : CmdRing) (h : HostData) (place : Placement) (s : State) : Out :=
  inService s (fun s => runCmd s p ring opLoad (fun s c => s.loadCmd p c h place (.host (BitVec.ofNat 64 (c.field 0x20 8)))))

/-- PULL_WEIGHTS. A lost or fenced source ends it at once (R703). -/
def execPullWeights (p : Part) (ring : CmdRing) (h : HostData) (place : Placement) (s : State) : Out :=
  inService s (fun s => runCmd s p ring opPull (fun s c =>
    let n : Node := Fin.ofNat 512 (c.field 0x12 2 % 512)
    if (loadFault c).isNone && s.fabric.fenced.contains n then s.finish p c stNodeLost
    else s.loadCmd p c h place (.pull n (Fin.ofNat 16 (c.field 0x36 1 % 16)))))

/-- BROADCAST_WEIGHTS. A receiver in the fence list fails at once (R700). -/
def execBroadcastWeights (p : Part) (ring : CmdRing) (h receivers : HostData) (place : Placement) (s : State) : Out :=
  inService s (fun s => runCmd s p ring opBroadcast (fun s c =>
    -- the receivers came with the extended payload; a read that failed has already completed the command (R565)
    match receivers with
    | .failed => s.malformed p c 0x10
    | .bytes _ =>
      let lost (r : Node × Part × Nat × Nat × W16) : Bool := s.fabric.fenced.contains r.1
      let rs := s.receiversOf p c
      if (loadFault c).isNone && rs.any lost then
        s.finish p c stCollAborted (rs.filter lost).length (rs.findIdx lost)
      else s.loadCmd p c h place (.broadcast (BitVec.ofNat 64 (c.field 0x20 8)))))

/-! ### Chunks arriving (R687 to R690, R696, R699, R702, R703) -/

/-- The model's number for the message that asks for a chunk once more. -/
def kindChunk : Nat := 5

/-- What a source on this node gives for a chunk. -/
def State.localSource (s : State) (p : Part) (path : LoadPath) (c : Nat) (root : List Byte) : Option HostData :=
  let ofSlot (q : Part) (n : Nat) : HostData := match s.chunkOf q n c with
    | some bs => .bytes bs
    | none => .failed
  match path with
  | .resting n => some (ofSlot p n)
  | .pull node q =>
    if node = s.self then
      match (s.part q).slots.find? (fun e => match e.2.head with | some h => decide (h.root = root) && e.2.verified.contains c | none => false) with
      | some e => some (ofSlot q e.1)
      | none => some .failed
    else none
  | _ => none

/-- The resting copy of a variant whose read finds a byte that it cannot give, and the byte (R276). -/
def State.sourceUnreadable (s : State) (p : Part) (path : LoadPath) (c : Nat) (root : List Byte) : Option Nat :=
  match path with
  | .resting n => s.chunkUnreadable p n c
  | .pull node q =>
    if node = s.self then
      ((s.part q).slots.find? (fun e => match e.2.head with | some h => decide (h.root = root) && e.2.verified.contains c | none => false)).bind
        (fun e => s.chunkUnreadable q e.1 c)
    else none
  | _ => none

/-- A load's attempt at a chunk fails: once more, or the command ends (R281, R696, R702, R703, R718). -/
def State.chunkFailed (s : State) (p : Part) (l : Load) (c : Nat) (refused : Bool) : State :=
  match l.path with
  | .broadcast _ =>
    if !l.retried.contains c then s.modLoad p l.cmd (fun l => { l with retried := c :: l.retried })
    else
      (s.modLoad p l.cmd (fun l => { l with receivers := l.receivers.map (fun r =>
        if r.1 = s.self && r.2.2.2.2 = 0 then (r.1, r.2.1, r.2.2.1, r.2.2.2.1, stSignature) else r) })).chunkThere p l.slot c (some l.cmd) false
  | path =>
    let isPull := match path with | .pull .. => true | _ => false
    if isPull && refused then s.failLoad p l stState c 0
    else if !l.retried.contains c then s.modLoad p l.cmd (fun l => { l with retried := c :: l.retried })
    else
      match path with
      | .resting _ => s.failLoad p l stUnrecoverable 0 0
      | _ => s.failLoad p l stSignature c l.written

/-- A lost chunk is still missing from its slot. -/
def Partition.lacks (x : Partition) (b : Nat × Nat) : Bool :=
  match (x.slot b.1).head with
  | some h => (h.resident ++ h.cold).contains b.2 && !(x.slot b.1).verified.contains b.2
  | none => false

/-- Steps wait until the host has reloaded every lost chunk (R287). -/
def Partition.stepsBlocked (x : Partition) : Bool := x.step.blocked.any x.lacks

/-- A chunk has verified: steps that waited for it go on (R287). -/
def State.unblock (s : State) (p : Part) : State :=
  s.modPart p (fun x => { x with step := { x.step with blocked := x.step.blocked.filter x.lacks } })

/-- A receiver asks member 0 of a broadcast for a chunk once more, or tells it that it has no slot for it (R698, R699). -/
def State.askAgain (s : State) (p : Part) (slot c : Nat) (o : CastOrigin) (noSlot : Bool) : State :=
  (s.sendAcked tyMsg 0 o.node o.part 0 (Config.messageKind kindChunk) (Config.messageBody [o.order, p.val, slot, c, if noSlot then 1 else 0])).2

/-- A receiver takes chunks of a broadcast into a slot with the same ROOT that is OPEN, COMPLETE or ACTIVE, and into no other (R698). -/
def Slot.takes (x : Slot) (o : CastOrigin) : Bool :=
  match x.head with
  | some h => decide (h.root = o.root) && (x.st = .opened || x.st = .complete || x.st = .active)
  | none => false

/-- A chunk reaches a slot with no load of this package: a broadcast from another, or a refetch by Nelnus firmware. -/
def State.chunkReceived (s : State) (p : Part) (slot c : Nat) (data : HostData) (origin : Option CastOrigin) : State :=
  let x := (s.part p).slot slot
  match origin.filter (fun o => !x.takes o) with
  | some o => s.askAgain p slot c o true
  | none =>
  let needs := match x.head with
    | some h => (h.resident ++ h.cold).contains c && !x.verified.contains c
    | none => false
  if !needs || x.st = .draining then s
  else
    match data with
    | .bytes bs =>
      if x.matches_ c bs then ((s.placeChunk p slot c bs).chunkThere p slot c none false).unblock p
      else
        let s := s.count .wgtVerifyFail p.val 1
        match origin with
        | some o =>
          if x.asked.contains c then s
          else (s.askAgain p slot c o false).modPart p (fun y => y.setSlot slot { x with asked := c :: x.asked })
        | none => s
    | .failed => s

/-- SM3 lanes in service whose digests of a chunk disagree are tested (R847); the digest that counts is that of a lane that
passes. -/
def State.lanesDisagree (s : State) (lanes : List Nat) : State :=
  (lanes.filter s.repair.sm3Lanes.contains).foldl (fun s l => s.startTest (.sm3 l)) s

/-- The data of a chunk for a load: what its own source on this node gives, else what came. Of a resting copy that cannot be read or
does not verify, the copy that a neighbour gives (R281). -/
def State.chunkData (s : State) (p : Part) (l : Load) (c : Nat) (came : HostData) : HostData :=
  let x := (s.part p).slot l.slot
  match s.localSource p l.path c ((x.head.map Head.root).getD []), l.path with
  | some (.bytes bs), .resting _ => if x.matches_ c bs then .bytes bs else came
  | some .failed, .resting _ => came
  | some d, _ => d
  | none, _ => came

/-- CHUNK_VERIFY: a chunk has been received and digested. For a broadcast of this package the chunk has then been digested at every
receiver that needs it. `disagree` names the lanes whose digests of it differ, none where they agree (R847); the reads of a source on
this node find the DPAs `ue` uncorrectable. -/
def execChunkVerify (p : Part) (slot chunk : Nat) (data : HostData) (origin : Option CastOrigin) (disagree : List Nat) (ue : List Nat) (s : State) : Out :=
  inServiceUe s ue (fun s =>
    let s := s.lanesDisagree disagree
    match (s.part p).loads.find? (fun l => decide (l.slot = slot) && l.todo.contains chunk) with
    | none => s.chunkReceived p slot chunk data origin
    | some l =>
      let x := (s.part p).slot slot
      let hd := (x.head.map Head.root).getD []
      let cast := match l.path with | .broadcast _ => true | _ => false
      if cast && !(s.inFlight p l.cmd).contains chunk then s
      else if !l.self || x.verified.contains chunk then (s.chunkThere p slot chunk (some l.cmd) false).unblock p
      else
        let data := s.chunkData p l chunk data
        let s := match s.sourceUnreadable p l.path chunk hd with
          | some d => s.noteUnreadable d
          | none => s
        match data with
        | .failed => s.chunkFailed p l chunk true
        | .bytes bs =>
          if x.matches_ chunk bs then ((s.placeChunk p slot chunk bs).chunkThere p slot chunk (some l.cmd) true).unblock p
          else (s.count .wgtVerifyFail p.val 1).chunkFailed p l chunk false)

/-- The model's number for the message that carries a chunk by unicast. -/
def kindChunkData : Nat := 9

/-- Member 0 sends a chunk once more, by unicast from SRC_ADDR (R699). -/
def State.resendChunk (s : State) (p : Part) (order chunk : Nat) (node : Node) (data : HostData) : State :=
  match (s.part p).loads.find? (fun l => decide (l.cmd = order) && (match l.path with | .broadcast _ => true | _ => false)), data with
  | some l, .bytes bs =>
    match l.receivers.find? (fun r => decide (r.1 = node)) with
    | some r =>
      if l.retried.contains (chunk * 512 + node.val + 2 ^ 41) then s
      else (s.sendAcked tyMsg 3 node r.2.1 0 (Config.messageKind kindChunkData)
        (Config.messageBody ([r.2.2.1, chunk] ++ bs.map BitVec.toNat))).2
    | none => s
  | _, _ => s

/-- CHUNK_RESEND_REQUEST: a receiver of this package's broadcast asks for a chunk once more, or says that it has no slot for it
(R698, R699). It then gets the chunk, `data` read from the host, by unicast; a second request marks the receiver failed. -/
def execChunkResendRequest (p : Part) (order chunk : Nat) (node : Node) (noSlot : Bool) (data : HostData) (s : State) : Out :=
  inService s (fun s =>
    let s := if noSlot then s else s.resendChunk p order chunk node data
    let key := chunk * 512 + node.val + 2 ^ 41
    let mark (st : W16) (l : Load) : Load := { l with receivers := l.receivers.map (fun r =>
      if r.1 = node && r.2.2.2.2 = 0 then (r.1, r.2.1, r.2.2.1, r.2.2.2.1, st) else r) }
    s.modLoad p order (fun l =>
      match l.path with
      | .broadcast _ =>
        if noSlot then mark stState l
        else if l.retried.contains key then mark stSignature l
        else { l with retried := key :: l.retried }
      | _ => l))

/-- A node of a load is lost or fenced (R700, R703). -/
def State.loadsLose (s : State) (p : Part) (n : Node) : State :=
  (s.part p).loads.foldl (fun s l =>
    match l.path with
    | .pull m _ => if m = n then s.failLoad p l stNodeLost 0 0 else s
    | .broadcast _ =>
      if l.receivers.any (fun r => decide (r.1 = n)) then
        s.endLoad p { l with receivers := l.receivers.map (fun r =>
          if r.1 = n && r.2.2.2.2 = 0 then (r.1, r.2.1, r.2.2.1, r.2.2.2.1, stCollAborted) else r) }
      else s
    | _ => s) s

/-! ### STAGE_SHADOW and TRAPEZE_SWITCH (R705 to R713) -/

/-- STAGE_SHADOW. -/
def execStageShadow (p : Part) (ring : CmdRing) (h : HostData) (place : Placement) (s : State) : Out :=
  inService s (fun s => runCmd s p ring opStage (fun s c =>
    let main := 2 * c.field 0x10 1
    if 1 < c.field 0x10 1 then s.malformed p c 0x10
    else if c.field 0x18 8 % 4096 ≠ 0 then s.malformed p c 0x18
    else if s.swapClass p || !(((s.part p).slot main).st = .active) || !(((s.part p).slot (main + 1)).st = .empty) then s.finish p c stState
    else
      match headBytes h (c.field 0x14 4) with
      | none => s.malformed p c 0x18
      | some bs =>
        let shard := ((s.part p).slot main).shard
        match s.checkHead (main + 1) shard (c.field 0x20 8) (padTo bs (c.field 0x14 4)) with
        | .error (st, info) => s.finish p c st info
        | .ok hd =>
          match s.openSlot p (main + 1) shard hd place with
          | none => s.finish p c stNoCapacity
          | some t => t.finish p c stOk 0 ((t.part p).slot (main + 1)).base))

/-- The two model programs agree in what a switch must keep (R708). -/
def sameShape (a b : ModelInfo) : Bool :=
  a.attnLayers = b.attnLayers && a.kvFmt = b.kvFmt && a.blockLen = b.blockLen && a.frame = b.frame && a.kValues = b.kValues &&
    a.vValues = b.vValues && a.vocab = b.vocab && a.expertShapes.map (fun x => (x.experts, x.homes)) = b.expertShapes.map (fun x => (x.experts, x.homes))

/-- A switch of a pair may be taken up (R708). -/
def State.switchOk (s : State) (p : Part) (main tag : Nat) : Bool :=
  let x := s.part p
  let a := x.slot main
  let b := x.slot (main + 1)
  b.st = .complete && (match b.head with | some h => decide (fieldAt h.root 0 8 = tag) | none => false) && x.switch.isNone &&
    a.shard = b.shard && (match a.info, b.info with | some i, some j => sameShape i j | _, _ => false)

/-- The other members of the partition's expert group. -/
def State.otherMembers (s : State) (p : Part) : List Node := (s.part p).exp.members.filter (fun n => decide (n ≠ s.self) && !s.fabric.fenced.contains n)

/-- The model's numbers for the messages that announce a switch, a policy and a map. -/
def kindSwitch : Nat := 6
def kindPolicy : Nat := 7
def kindMap : Nat := 8

/-- Announce a message to every other member on TC0: the transfers, and the state. -/
def State.announce (s : State) (p : Part) (kind : Nat) (body : List Nat) : List Nat × State :=
  (s.otherMembers p).foldl (fun (y : List Nat × State) n =>
    let z := y.2.sendAcked tyMsg 0 n p 0 (Config.messageKind kind) (Config.messageBody body)
    (y.1 ++ [z.1], z.2)) ([], s)

/-- First group step at least two steps ahead: EXP_STEP is the last completed one (R394, R418, R709). -/
def State.stepAhead (s : State) (p : Part) : Nat := (s.part p).exp.step.toNat + 3

/-- TRAPEZE_SWITCH: its checks, and in an expert group the announcement (R708 to R710). -/
def execTrapezeSwitch (p : Part) (ring : CmdRing) (s : State) : Out :=
  inService s (fun s => runCmd s p ring opTrapeze (fun s c =>
    let main := 2 * c.field 0x10 1
    let keep := bitOf (c.field 0x11 1) 0
    if 1 < c.field 0x10 1 then s.malformed p c 0x10
    else if !s.switchOk p main (c.field 0x18 8) then s.finish p c stState
    else
      let grouped := main = 0 && !(s.part p).exp.members.isEmpty
      if grouped && (s.part p).exp.members.any s.fabric.fenced.contains then s.finish p c stState else
      let root := (((s.part p).slot (main + 1)).head.map Head.root).getD []
      let step := s.stepAhead p
      let sent := if grouped then s.announce p kindSwitch ([step, if keep then 1 else 0, 0] ++ root.map BitVec.toNat) else ([], s)
      (sent.2.setStage p c.order .running).modPart p (fun x => { x with
        switch := some { cmd := some c.order, target := main, keepOld := keep, atStep := if grouped then some step else none, keys := sent.1 } })))

/-- A member answers an announced switch (R709): `true` when its own shadow is COMPLETE with the same ROOT. -/
def State.takeSwitch (s : State) (p : Part) (a : SwitchAsk) : Bool × State :=
  if a.withdrawn then
    (true, s.modPart p (fun x => { x with switch := match x.switch with | some w => if w.cmd.isNone then none else x.switch | none => none }))
  else
    let y := (s.part p).slot 1
    if y.st = .complete && (match y.head with | some h => decide (h.root = a.root) | none => false) && (s.part p).switch.isNone then
      (true, s.modPart p (fun x => { x with switch := some { cmd := none, target := 0, keepOld := a.keepOld, atStep := some a.atStep } }))
    else (false, s)

/-- An answer to this member's announcement of a switch: when any member is not ready no member switches (R709). -/
def State.switchAnswered (s : State) (p : Part) (key : Nat) (st : W16) : State :=
  match (s.part p).switch with
  | some w =>
    if !w.keys.contains key then s
    else if st = stOk then s.modPart p (fun x => { x with switch := some { w with keys := w.keys.filter (fun k => decide (k ≠ key)) } })
    else
      let s := (s.announce p kindSwitch [w.atStep.getD 0, 0, 1]).2.modPart p (fun x => { x with switch := none })
      match w.cmd with
      | some o => s.finishOrder p o stState
      | none => s
  | none => s

/-! ### SWAP_MODEL and EVICT_MODEL (R714 to R722) -/

/-- SWAP_MODEL: its checks; the swap itself goes on at step boundaries (R715 to R717). -/
def execSwapModel (p : Part) (ring : CmdRing) (place : Placement) (s : State) : Out :=
  inService s (fun s => runCmd s p ring opSwap (fun s c =>
    let v := c.field 0x10 1
    let source := c.field 0x11 1
    let x := s.part p
    let rest := x.slot (16 + v)
    if v = 0 || 63 < v then s.malformed p c 0x10
    else if 2 < source then s.malformed p c 0x11
    else if source ≠ 1 && c.field 0x12 2 ≠ 0 then s.malformed p c 0x12
    else if source ≠ 1 && c.field 0x14 1 ≠ 0 then s.malformed p c 0x14
    else if (source ≠ 2 && c.field 0x18 8 ≠ 0) || c.field 0x18 8 % 4096 ≠ 0 then s.malformed p c 0x18
    else if !s.swapClass p || rest.st = .empty || (source = 0 && !(rest.st = .complete)) || x.swap.isSome then s.finish p c stState
    else if x.activeVariant = v then s.finish p c stOk
    else
      match rest.head with
      | none => s.finish p c stState
      | some h =>
        let out := ((x.slot 0).head.map Head.localBytes).getD 0
        let fits := decide (x.slotBytes.1 - (out + 2097151) / 2097152 * 2097152 + (h.localBytes + 2097151) / 2097152 * 2097152 + (s.kvBytes p).1 +
          s.hbmLost p ≤ s.hostRegion p - s.hbmBase p) && s.hbmPlace p place.base 2097152 h.localBytes && modelBounds place.info
        if !fits then s.finish p c stNoCapacity
        else
          let path : LoadPath := if source = 0 then .resting (16 + v)
            else if source = 1 then .pull (Fin.ofNat 512 (c.field 0x12 2 % 512)) (Fin.ofNat 16 (c.field 0x14 1 % 16))
            else .host (BitVec.ofNat 64 (c.field 0x18 8))
          (s.setStage p c.order .running).modPart p (fun x => { x with
            swap := some { cmd := c.order, variant := v, path := path, place := place, phase := .boundary } })))

/-- A load, stage, switch or swap that names a slot is in progress (R721). -/
def Partition.slotBusy (x : Partition) (n : Nat) : Bool :=
  x.loads.any (fun l => decide (l.slot = n) || (match l.path with | .resting m => decide (m = n) | _ => false)) ||
    (match x.switch with | some w => decide (n = w.target) || decide (n = w.target + 1) | none => false) ||
    (match x.swap with | some w => decide (n = 0) || decide (n = 16 + w.variant) | none => false)

/-- EVICT_MODEL. -/
def execEvictModel (p : Part) (ring : CmdRing) (s : State) : Out :=
  inService s (fun s => runCmd s p ring opEvict (fun s c =>
    let n := c.field 0x10 1
    let x := s.part p
    if !isSlot n then s.malformed p c 0x10
    else if x.slotBusy n || (x.slot n).st = .draining || (n = 0 && !x.requests.isEmpty) ||
        (16 < n && s.swapClass p && (x.activeVariant = n - 16 || x.requests.any (fun e => decide (e.2.model = n - 16)))) then s.finish p c stState
    else (s.modPart p (fun x => { x.setSlot n {} with activeVariant := if n = 0 then 0 else x.activeVariant })).finish p c stOk))

/-! ### Draining copies (R712, R716) -/

/-- Input streams of a task of Nelnus firmware that is issued: as its run opened them, or as its stream table gives them. -/
def State.issuedStreams (s : State) (p : Part) : List Stream :=
  let x := s.part p
  (x.lcQ ++ x.beQ ++ x.fwWait ++ x.recovering.map Prod.fst).flatMap (fun t =>
    (List.range t.desc.inStreams).map (fun i => parseStream (s.readDpa (t.desc.streamTable + 48 * i) 48) 0)) ++
  s.tiles.flatMap (fun y => match y.2.run with | some r => if r.part = p then r.ins else [] | none => [])

/-- Nothing can still need the DRAINING copy of slot `n` (R712). -/
def State.drained (s : State) (p : Part) (n : Nat) : Bool :=
  let x := s.part p
  let root := ((x.slot n).head.map Head.root).getD []
  (s.fwTasks p).all (fun t => decide (n % 2 = 1) && decide (x.gen ≤ t.gen)) && !(x.step.running && (decide (n % 2 = 0) || decide (x.step.gen < x.gen))) &&
    allParts.all (fun q => (s.part q).loads.all (fun l => match l.path with
      | .pull m r => !(decide (m = s.self) && decide (r = p) && decide ((((s.part q).slot l.slot).head.map Head.root).getD [] = root))
      | _ => true))

/-- A swap goes on once its outgoing copy is freed: slot 0 opens with the incoming head and is filled (R716 step 4). -/
def State.fillSwap (s : State) (p : Part) (w : Swap) : State :=
  let rest := (s.part p).slot (16 + w.variant)
  match rest.head with
  | none => s
  | some h =>
    match s.openSlot p 0 rest.shard h { w.place with info := rest.info.getD w.place.info } with
    | none => s.failLoad p { cmd := w.cmd, slot := 0, path := w.path, todo := [] } stNoCapacity 0 0
    | some t =>
      (t.modPart p (fun x => { x with swap := some { w with phase := .filling, bytes := h.localBytes } })).startLoad p
        { cmd := w.cmd, slot := 0, path := w.path, todo := h.resident ++ h.cold }

/-- DRAINING_RELEASE: a DRAINING copy is released: it becomes the shadow again with KEEP_OLD, or its memory is freed. -/
def execDrainingRelease (p : Part) (s : State) : Out :=
  inService s (fun s =>
    let x := s.part p
    match x.slots.find? (fun e => decide (e.2.st = .draining) && s.drained p e.1) with
    | none => s
    | some (n, y) =>
      let s := s.modPart p (fun x => if x.keepOld && n % 2 = 1 then { x.setSlot n { y with st := .complete } with keepOld := false } else x.setSlot n {})
      match (s.part p).swap with
      | some w => if n = 0 && w.phase = .draining then s.fillSwap p w else s
      | none => s)

end Sys2Proof.Machine
end

