-- ==== Sys2Proof/Machine/Experts.lean ====
section
/-! DEFINITION. Expert layers: the census, capacity admission, the exchange and its sums, the counts, replicas, cold experts and
policies (R364 to R402, R416 to R419). -/

namespace Sys2Proof.Machine

/-- Change the experts of a partition. -/
def State.modExp (s : State) (p : Part) (f : Experts → Experts) : State := s.modPart p (fun x => { x with exp := f x.exp })

/-- Key of expert `e` of layer `l`. -/
def expertKey (l e : Nat) : Nat := 4096 * l + e

/-- Home of an expert (R365). -/
def homeOf (i : ModelInfo) (l e : Nat) : Node := (i.expertLayer l).homes.getD e 0

/-- Member that holds a copy of an expert: 0 the home, n the replica n − 1. -/
def State.copyAt (s : State) (p : Part) (l e copy : Nat) : Node :=
  if copy = 0 then homeOf (s.mainInfo p) l e else (dget (s.part p).exp.replicas (expertKey l e) []).getD (copy - 1) 0

/-- The policy of a layer, and its capacity (R416, R419). -/
def State.policyOf (s : State) (p : Part) (l : Nat) : ExpPolicy := dget (s.part p).exp.policies l {}
def State.capacityOf (s : State) (p : Part) (l : Nat) : Nat := (s.policyOf p l).capacity.getD ((s.mainInfo p).expertLayer l).capacity

/-! ### Admission (R375 to R378) -/

/-- Admission of a half-batch so far: count of each copy at key 4 * expert + copy, assignments in order, experts of primary
choices that moved, choices that went to a replica, dropped choices. -/
structure Adm where
  counts : Dict Nat := []
  assigns : List Assign := []
  moved : List Nat := []
  toReplica : Nat := 0
  dropped : Nat := 0
deriving DecidableEq, Repr

/-- The count of a copy. -/
def Adm.count (a : Adm) (e copy : Nat) : Nat := dget a.counts (4 * e + copy) 0

/-- Assign entry `r` of token `t` to a copy of an expert and a pass. -/
def Adm.assign (a : Adm) (t r e copy pass : Nat) (w : W16) : Adm :=
  { a with counts := dmod a.counts (4 * e + copy) 0 (· + 1), assigns := a.assigns ++ [⟨t, r, e, copy, pass, w⟩],
           toReplica := a.toReplica + (if copy = 0 then 0 else 1) }

/-- First alternate at `alt` or after that is not in use and has room at its home, and the place after it (R376). -/
def findAlternate (a : Adm) (cap : Nat) (used : List Nat) : List Choice → Nat → Option (Choice × Nat)
  | [], _ => none
  | c :: cs, i =>
    if !used.contains c.expert && decide (a.count c.expert 0 < cap) then some (c, i) else findAlternate a cap used cs (i + 1)

/-- The copy with the smallest count, the first of equals (R376). -/
def smallestCopy (a : Adm) (e n : Nat) : Nat :=
  (List.range (n + 1)).foldl (fun b x => if a.count e x < a.count e b then x else b) 0

/-- Where admission stands within a token: experts in use, next alternate, and whether a choice was dropped or substituted. -/
structure TokenAdm where
  adm : Adm
  used : List Nat
  alt : Nat
  changed : Bool := false
deriving DecidableEq, Repr

/-- Admit one primary choice of a token (R375, R376). -/
def TokenAdm.choice (x : TokenAdm) (pol : ExpPolicy) (cap replicas : Nat) (list : List Choice) (t r : Nat) : TokenAdm :=
  let c := list.getD r default
  let e := c.expert
  let a := x.adm
  let overflow : TokenAdm := { x with adm := a.assign t r e 0 (a.count e 0 / cap) c.weight }
  if a.count e 0 < cap then { x with adm := a.assign t r e 0 0 c.weight }
  else if pol.policy = 1 then
    match findAlternate a cap x.used (list.drop x.alt) x.alt with
    | some (b, i) =>
      { adm := { a.assign t i b.expert 0 0 b.weight with moved := e :: a.moved }, used := b.expert :: x.used, alt := i + 1, changed := true }
    | none => { overflow with alt := list.length }
  else if pol.policy = 2 then
    match (List.range replicas).find? (fun i => decide (a.count e (i + 1) < cap)) with
    | some i => { x with adm := a.assign t r e (i + 1) 0 c.weight }
    | none =>
      let b := smallestCopy a e replicas
      { x with adm := a.assign t r e b (a.count e b / cap) c.weight }
  else if pol.policy = 3 then
    { x with adm := { a with moved := e :: a.moved, dropped := a.dropped + 1 }, changed := true }
  else overflow

/-- The exact quotient of two values, carried to 64 fraction bits with a sticky bit. -/
def FVal.div : FVal → FVal → FVal
  | .nan, _ => .nan
  | _, .nan => .nan
  | .inf _, .inf _ => .nan
  | .inf a, .fin b _ _ => .inf (a != b)
  | .fin a _ _, .inf b => .fin (a != b) 0 0
  | .fin a m e, .fin b n f =>
    if n = 0 then (if m = 0 then .nan else .inf (a != b))
    else
      let q := m * 2 ^ 128 / n
      .fin (a != b) (2 * q + (if q * n = m * 2 ^ 128 then 0 else 1)) (e - f - 129)

/-- FP32 code of a BF16 code. -/
def bf16To32 (w : W16) : W32 := w.setWidth 32 <<< 16

/-- Rescale the assigned weights of a token (R375, R378). -/
def renorm (as : List Assign) : List Assign :=
  let sum := as.foldl (fun v a => add32 v (bf16To32 a.weight)) 0
  as.map (fun a => { a with
    weight := BitVec.ofNat 16 (bf16.encodeIeee ((bf16.decode a.weight.toNat).div (fp32.decode sum.toNat))) })

/-- Admit one token (R375). -/
def admitToken (pol : ExpPolicy) (cap k : Nat) (replicas : Nat → Nat) (a : Adm) (t : Nat) (list : List Choice) : Adm :=
  let x := (List.range k).foldl (fun (x : TokenAdm) r => x.choice pol cap (replicas (list.getD r default).expert) list t r)
    { adm := a, used := (list.take k).map Choice.expert, alt := k }
  let mine := x.adm.assigns.drop a.assigns.length
  if pol.renorm && x.changed then { x.adm with assigns := a.assigns ++ renorm mine } else x.adm

/-- The tokens of a half-batch with their exchange indices, in ascending order of these (R372). -/
def exchangeOrder (blocks : List Census) : List (Nat × List Choice) :=
  sortBy (fun a b => decide (a.1 ≤ b.1)) (blocks.flatMap (fun b => b.lists.zipIdx.map (fun x => (x.2 * 512 + b.node.val, x.1))))

/-- Admission of a half-batch (R375). -/
def State.runAdmission (s : State) (p : Part) (l : Nat) (blocks : List Census) : Adm :=
  (exchangeOrder blocks).foldl (fun a t =>
    admitToken (s.policyOf p l) (s.capacityOf p l) ((s.mainInfo p).expertLayer l).choices
      (fun e => (dget (s.part p).exp.replicas (expertKey l e) []).length) a t.1 t.2) {}

/-! ### The census (R371 to R374) -/

/-- Change one half-batch of a partition. -/
def State.modHalf (s : State) (p : Part) (l : Nat) (h : Bool) (f : HalfBatch → HalfBatch) : State :=
  s.modExp p (fun x => { x with halves := x.halves.map (fun y => if y.layer = l && y.half = h then f y else y) })

/-- A half-batch of a partition. -/
def State.half? (s : State) (p : Part) (l : Nat) (h : Bool) : Option HalfBatch :=
  (s.part p).exp.halves.find? (fun y => decide (y.layer = l) && decide (y.half = h))

/-- Members that hold at least one assignment of a token, with the lowest rank of each. -/
def State.holders (s : State) (p : Part) (x : HalfBatch) (t : Nat) : List Node :=
  ((x.assigns.filter (fun a => decide (a.xindex = t))).map (fun a => s.copyAt p x.layer a.expert a.copy)).eraseDups

/-- This member's own combine for a half-batch has completed: every partial sum of its tokens is there, and no cold expert of
it is awaited (R399, R402). -/
def State.halfDone (s : State) (p : Part) (x : HalfBatch) : Bool :=
  x.admitted && x.waitFetch.isEmpty &&
    (((x.assigns.map Assign.xindex).filter (fun t => decide (t % 512 = s.self.val))).eraseDups).all (fun t =>
      decide ((x.partials.filter (fun y => decide (y.1 = t))).length = (s.holders p x t).length))

/-- Every expert layer is completed in both half-batches: the group's members are in lockstep (R367, R371, R402). -/
def State.expertsDone (s : State) (p : Part) : Bool :=
  (List.range (s.mainInfo p).expertLayers).all (fun l => [false, true].all (fun h =>
    match s.half? p l h with | some y => s.halfDone p y | none => false))

/-- The exchange of a half-batch is aborted at this member: the step is to be replayed (R373, R374). -/
def State.abortHalf (s : State) (p : Part) (l : Nat) (h : Bool) : State :=
  (s.modHalf p l h (fun y => { y with aborted := true })).modPart p (fun x => { x with step := { x.step with failed := true } })

/-- Entries of a token's choice list at a layer: k primary ones, and D alternates under NEXT_CHOICE. -/
def State.listLength (s : State) (p : Part) (l : Nat) : Nat :=
  ((s.mainInfo p).expertLayer l).choices + (if (s.policyOf p l).policy = 1 then (s.policyOf p l).depth else 0)

/-- A choice list from what the gate gives for a token: the `n` experts of greatest logit, descending, ties by lower number (R368,
R369). -/
def choiceList (n : Nat) (g : GateOut) : List Choice :=
  (topIndices (g.map Prod.fst) n).map (fun e => ⟨e, (g.getD e default).2⟩)

/-- Tokens of this member in a half-batch (R372, R401). -/
def State.halfTokens (s : State) (p : Part) (h : Bool) : Nat :=
  let x := (s.part p).step
  ((x.batch.filter (fun b => x.halfOf.any (fun y => decide (y.1 = b.1) && decide (y.2 = h)))).map (fun b => b.2 + 1)).foldl (· + ·) 0

/-- This member's own census block of a half-batch: a choice list for each of its tokens that the gate has run for (R371); a token
that has exited takes no part (R405). -/
def State.ownCensus (s : State) (p : Part) (l : Nat) (h : Bool) (gate : List GateOut) : Census :=
  { step := ((s.part p).exp.step + 1).setWidth 32, layer := l, half := h, mapVersion := (s.part p).exp.mapVersion, node := s.self,
    lists := (gate.take (s.halfTokens p h)).map (choiceList (s.listLength p l)) }

/-- The bytes of a census block (R371). -/
def Census.bytes (c : Census) : List Byte :=
  leBytes 4 c.step.toNat ++ leBytes 2 c.layer ++ [if c.half then 1 else 0, 0] ++ leBytes 2 c.mapVersion.toNat ++ leBytes 2 0 ++ leBytes 4 c.lists.length ++
    c.lists.flatMap (fun l => l.flatMap (fun x => leBytes 2 (x.expert % 4096) ++ leBytes 2 x.weight.toNat))

/-- The home announces its whole map, from which the group resynchronises: the lowest-numbered member's (R374). -/
def State.announceWhole (s : State) (p : Part) : State :=
  let x := (s.part p).exp
  if x.members.all (fun n => decide (s.self ≤ n)) then
    let body := [x.mapVersion.toNat, x.step.toNat + 1] ++ x.replicas.flatMap (fun r => [r.1, r.2.length] ++ r.2.map Fin.val)
    (s.announce p kindMap body).2
  else s

/-- A census block arrives (R371, R374, R402). -/
def State.takeCensus (s : State) (p : Part) (c : Census) : State :=
  let x := (s.part p).exp
  if !(s.part p).step.running || !x.members.contains c.node || decide (c.step ≠ (x.step + 1).setWidth 32) ||
      decide ((s.mainInfo p).expertLayers ≤ c.layer) then s
  else if c.node = s.self && x.halves.any (fun y => decide (y.layer < c.layer) &&
      ((y.half = c.half && !s.halfDone p y) || !y.waitFetch.isEmpty)) then s
  else
    let s := if (s.half? p c.layer c.half).isSome then s
      else s.modExp p (fun x => { x with halves := x.halves ++ [{ layer := c.layer, half := c.half }] })
    match s.half? p c.layer c.half with
    | some y =>
      if y.admitted || y.aborted || y.blocks.any (fun b => decide (b.node = c.node)) then s
      else if c.mapVersion ≠ x.mapVersion then (s.abortHalf p c.layer c.half).announceWhole p
      else s.modHalf p c.layer c.half (fun y => { y with blocks := y.blocks ++ [c] })
    | none => s

/-- CENSUS_BLOCK: a member's block. This member's own is made of what its gate gives. -/
def execCensusBlock (p : Part) (c : Census) (gate : List GateOut) (s : State) : Out :=
  inService s (fun s => s.takeCensus p (if c.node = s.self then s.ownCensus p c.layer c.half gate else c))

/-! ### Cold experts (R397 to R400) -/

/-- Chunks that hold a cold expert's weights, and their bytes. -/
def State.expertChunks (s : State) (p : Part) (key : Nat) : List Nat :=
  (((s.mainInfo p).coldExperts.find? (fun c => decide (c.1 = key))).map Prod.snd).getD []
def State.expertBytes (s : State) (p : Part) (key : Nat) : Nat :=
  match ((s.part p).slot 0).head with
  | some h => ((s.expertChunks p key).map (chunkLen h.modelBytes)).foldl (· + ·) 0
  | none => 0

/-- DPA of the cache slot that holds an expert. -/
def State.cacheSlotAt (s : State) (p : Part) (key : Nat) : Option Nat :=
  (dget? (s.part p).exp.slotOf key).bind (fun i => ((s.part p).slot 0).cacheAt[i]?)

/-- An issued task reads weights in an expert's cache slot. -/
def State.expertInUse (s : State) (p : Part) (key : Nat) : Bool :=
  match s.cacheSlotAt p key with
  | some a => (s.issuedStreams p).any (fun x => decide (a ≤ dpaOf x.base) && decide (dpaOf x.base < a + s.expertBytes p key))
  | none => false

/-- A resident expert may leave its slot: no half-batch under way assigns choices to it, look-ahead has not fetched it for a
coming layer, and no issued task needs it (R400). -/
def State.evictable (s : State) (p : Part) (key : Nat) : Bool :=
  let x := (s.part p).exp
  !s.expertInUse p key && !x.ahead.contains key && !x.replicas.any (fun r => decide (r.1 = key) && r.2.contains s.self) &&
    !x.halves.any (fun y => decide (y.layer = key / 4096) && y.assigns.any (fun a => decide (a.expert = key % 4096)) && !s.halfDone p y)

/-- The lowest cache slot that holds no expert. -/
def Experts.freeSlot (x : Experts) : Nat :=
  ((List.range (x.cacheSlots + 1)).find? (fun i => !x.slotOf.any (fun y => decide (y.2 = i)))).getD x.cacheSlots

/-- Fetches that wait start while slots are free or can be freed, least recently used first (R400). -/
def State.startFetches (p : Part) : List Nat → State → State
  | [], s => s.modExp p (fun x => { x with fetchWait := [] })
  | k :: ks, s =>
    let x := (s.part p).exp
    if x.cache.length + x.fetching.length < x.cacheSlots then
      State.startFetches p ks (s.modExp p (fun x => { x with fetching := x.fetching ++ [k], slotOf := dset x.slotOf k x.freeSlot }))
    else
      match x.cache.find? (s.evictable p) with
      | some v => State.startFetches p ks (s.modExp p (fun x => { x with
          cache := x.cache.filter (fun c => decide (c ≠ v)), fetching := x.fetching ++ [k],
          slotOf := dset (derase x.slotOf v) k (dget x.slotOf v 0) }))
      | none => s.modExp p (fun x => { x with fetchWait := k :: ks })

/-- Fetch cold experts. -/
def State.fetchExperts (s : State) (p : Part) (keys : List Nat) : State :=
  State.startFetches p ((s.part p).exp.fetchWait ++ keys) s

/-- A cold expert is homed on this member, and neither resident nor in flight. -/
def State.missing (s : State) (p : Part) (key : Nat) : Bool :=
  let x := (s.part p).exp
  decide (homeOf (s.mainInfo p) (key / 4096) (key % 4096) = s.self) && x.coldExperts.contains key && !x.cache.contains key &&
    !x.fetching.contains key && !x.fetchWait.contains key

/-- LOOKAHEAD_FETCH: a look-ahead gate has run, which gives predicted experts with their demand; they are fetched in descending order
of it (R398). A model with LOOKAHEAD 0 has no such gate. -/
def execLookaheadFetch (p : Part) (layer : Nat) (predicted : List (Nat × Nat)) (s : State) : Out :=
  inService s (fun s =>
    if (s.mainInfo p).lookahead = 0 then s
    else
    let order := sortBy (fun a b => decide (b.2 < a.2) || (decide (a.2 = b.2) && decide (a.1 ≤ b.1))) predicted
    let keys := (order.map (fun x => expertKey layer x.1)).eraseDups
    let s := s.modExp p (fun x => { x with ahead := (x.ahead ++ keys.filter x.coldExperts.contains).eraseDups })
    s.fetchExperts p (keys.filter (s.missing p)))

/-- A chunk of a cold expert: the firn copy if it can be read and SM3 verifies it, else the first of the copies `found`, which a
neighbour gives, that verifies (R281, R397, R398). -/
def State.expertChunk (s : State) (p : Part) (c : Nat) (found : List (List Byte)) : Option (List Byte) :=
  let y := (s.part p).slot 0
  match (s.chunkOf p 0 c).filter (y.matches_ c) with
  | some bs => some bs
  | none => found.find? (y.matches_ c)

/-- EXPERT_FETCH_DONE: the chunks of a cold expert have come. Once all have verified they lie in its slot, and its tasks may run
(R397 to R399); an expert with a chunk that no copy gives stays in flight. -/
def execExpertFetchDone (p : Part) (layer expert : Nat) (found : List (List Byte)) (ue : List Nat) (s : State) : Out :=
  inServiceUe s ue (fun s =>
    let key := expertKey layer expert
    let chunks := (s.expertChunks p key).map (fun c => s.expertChunk p c found)
    let s := (s.expertChunks p key).foldl (fun (s : State) c =>
      match (if (s.part p).exp.fetching.contains key then s.chunkUnreadable p 0 c else none) with
      | some d => s.noteUnreadable d
      | none => s) s
    if !(s.part p).exp.fetching.contains key || !chunks.all Option.isSome then s
    else
      let s := match s.cacheSlotAt p key with
        | some a => s.writeDpa a (chunks.flatMap (fun (c : Option (List Byte)) => c.getD []))
        | none => s
      let s := s.modExp p (fun x => { x with
        fetching := x.fetching.filter (fun k => decide (k ≠ key)), cache := x.cache ++ [key],
        halves := x.halves.map (fun (y : HalfBatch) =>
          if y.layer = layer then { y with waitFetch := y.waitFetch.filter (fun e => decide (e ≠ expert)) } else y) })
      s.fetchExperts p [])

/-! ### Admission of a half-batch, its counts and its packets (R379 to R388) -/

/-- A token or combine packet (R383): step, layer, half, RETURN, exchange index, node, map, ranks, entries and payload. -/
def exchangeBytes (step : W64) (l : Nat) (h ret : Bool) (t : Nat) (src : Node) (map : W16) (mask : Nat) (es : List (Nat × W16))
    (payload : List Byte) : List Byte :=
  let head := leBytes 4 step.toNat ++ leBytes 2 l ++ [BitVec.ofNat 8 ((if h then 1 else 0) + (if ret then 2 else 0)), BitVec.ofNat 8 es.length] ++
    leBytes 4 t ++ leBytes 2 src.val ++ leBytes 2 map.toNat ++ leBytes 4 mask ++ List.replicate 12 0 ++
    es.flatMap (fun e => leBytes 2 e.1 ++ leBytes 2 e.2.toNat)
  padTo head ((head.length + 31) / 32 * 32) ++ payload

/-- RANK_MASK of assignments, and its lowest set bit. -/
def rankMask (as : List Assign) : Nat := as.foldl (fun m a => m + 2 ^ a.rank) 0
def lowestRank (as : List Assign) : Nat := as.foldl (fun m a => min m a.rank) 24

/-- Assignments of a token to one member, in ascending rank. -/
def State.assignsAt (s : State) (p : Part) (l : Nat) (as : List Assign) (t : Nat) (n : Node) : List Assign :=
  sortBy (fun a b => decide (a.rank ≤ b.rank)) (as.filter (fun a => decide (a.xindex = t) && decide (s.copyAt p l a.expert a.copy = n)))

/-- FP32 product of a BF16 weight and an FP32 value. -/
def weigh (w : W16) (v : W32) : W32 := BitVec.ofNat 32 (fp32.encodeIeee ((bf16.decode w.toNat).mul (fp32.decode v.toNat)))

/-- Sum of vectors, element by element. -/
def addVec (a b : List W32) : List W32 := List.zipWith add32 a b

/-- A partial sum: weight times output, in FP32, in the order given (R384). -/
def partialSum (ws : List W16) (outs : List (List W32)) : List W32 :=
  match (ws.zip outs).map (fun x => x.2.map (weigh x.1)) with
  | [] => []
  | v :: vs => vs.foldl addVec v

/-- A token's sum over its members, in ascending lowest rank (R385). -/
def HalfBatch.tokenSum (x : HalfBatch) (t : Nat) : List W32 :=
  match sortBy (fun a b => decide (a.2.1 ≤ b.2.1)) (x.partials.filter (fun y => decide (y.1 = t))) with
  | [] => []
  | v :: vs => vs.foldl (fun a y => addVec a y.2.2) v.2.2

/-- The half-batch holds a token of an LC request (the class of its packets, chapter 07 under "The census"). -/
def State.halfClass (s : State) (p : Part) (h : Bool) : Fin 4 :=
  if (s.part p).step.halfOf.any (fun x => decide (x.2 = h) && (match s.req? p x.1 with | some r => !r.be | none => false)) then 1 else 2

/-- Add `n` to a count of an expert (R387). -/
def bump (m : Dict ExpCount) (key : Nat) (f : ExpCount → ExpCount) : Dict ExpCount := dmod m key {} f

/-- The greatest primary demand of a half-batch above a capacity: its expert, the lowest of equals (R381). -/
def hottest (cap : Nat) (demand : Dict Nat) : Option Nat :=
  (demand.foldl (fun (b : Nat × Option Nat) x => if b.1 < x.2 then (x.2, some x.1) else b) (cap, none)).2

/-- Counts and events of an admission (R381, R387, R399), and the fetches it starts. -/
def State.countAdmission (s : State) (p : Part) (l : Nat) (blocks : List Census) (a : Adm) : State :=
  let k := ((s.mainInfo p).expertLayer l).choices
  let demand : Dict Nat := (blocks.flatMap (fun b => b.lists.flatMap (fun t => (t.take k).map Choice.expert))).foldl (fun m e => dmod m e 0 (· + 1)) []
  let extra := (a.assigns.filter (fun x => decide (0 < x.pass))).length
  let s := s.modExp p (fun x =>
    let c := demand.foldl (fun m d => bump m (expertKey l d.1) (fun v => { v with demand := v.demand + d.2 })) x.counts
    let c := a.assigns.foldl (fun m y => bump m (expertKey l y.expert) (fun v =>
      if y.pass = 0 then { v with first := v.first + 1 } else { v with extra := v.extra + 1 })) c
    { x with counts := a.moved.foldl (fun m e => bump m (expertKey l e) (fun v => { v with moved := v.moved + 1 })) c })
  let s := ((s.count .expExtraCount p.val extra).count .expMovedCount p.val (a.moved.length - a.dropped + a.toReplica)).count
    .expDropCount p.val a.dropped
  match hottest (s.capacityOf p l) demand with
  | some e =>
    if (s.part p).exp.hotSaid.contains l then s
    else ((s.modExp p (fun x => { x with hotSaid := l :: x.hotSaid })).raiseEvent p evHotExpert (e + l * 65536)).count .expHotCount p.val 1
  | none => s

/-- Fetch misses of an admission (R399). -/
def State.missesOf (s : State) (p : Part) (l : Nat) (a : Adm) : State :=
  let used := ((a.assigns.filter (fun x => decide (x.copy = 0))).map Assign.expert).eraseDups
  let missed := used.filter (fun e => s.missing p (expertKey l e))
  let touch := (used.map (expertKey l)).filter (s.part p).exp.cache.contains
  let s := s.modExp p (fun x => { x with cache := x.cache.filter (fun c => !touch.contains c) ++ touch })
  match missed with
  | [] => s
  | e :: _ =>
    let s := s.count .expFetchMissCount p.val missed.length
    let s := if (s.part p).exp.missSaid.contains l then s
      else (s.modExp p (fun x => { x with missSaid := l :: x.missSaid })).raiseEvent p evFetchMiss (e + l * 65536) missed.length
    s.fetchExperts p (missed.map (expertKey l))

/-- Send the token packets of this member's tokens (R382, R383). -/
def State.sendTokens (s : State) (p : Part) (l : Nat) (h : Bool) (as : List Assign) (own : List OwnToken) : State :=
  let mine := ((as.map Assign.xindex).filter (fun t => decide (t % 512 = s.self.val))).eraseDups
  mine.foldl (fun s t =>
    let holders := ((as.filter (fun a => decide (a.xindex = t))).map (fun a => s.copyAt p l a.expert a.copy)).eraseDups
    let tok := (own.find? (fun o => decide (o.xindex = t))).getD ⟨t, [], []⟩
    holders.foldl (fun s n =>
      let at_ := s.assignsAt p l as t n
      if n = s.self then
        s.modHalf p l h (fun y => { y with partials := y.partials ++ [(t, lowestRank at_, partialSum (at_.map Assign.weight) tok.outputs)] })
      else
        let x := (s.part p).exp
        (s.sendAcked tyExchange (s.halfClass p h) n p 0 0
          (exchangeBytes (x.step + 1) l h false t s.self x.mapVersion (rankMask at_) (at_.map (fun a => (a.expert, a.weight))) tok.activation)).2) s) s

/-- The first byte that the exchange engine finds it cannot read of what it is to send: its operation fails, and the step is to be
replayed (R289). -/
def State.exchangeFails (s : State) (p : Part) (ue : Option Nat) : Option State :=
  (ue.filter (fun d => (s.place d).isSome && decide (d < windowBase))).map (fun d => (s.noteUnreadable d).failStep p)

/-- ADMISSION: every member's census block has arrived (R373, R375 to R382). `own` is what the tiles compute for this member's
tokens; the exchange engine's read of it finds the DPA `ue` uncorrectable. -/
def execAdmission (p : Part) (layer : Nat) (half : Bool) (own : List OwnToken) (ue : Option Nat) (s : State) : Out :=
  inService s (fun s =>
    match s.half? p layer half with
    | some y =>
      if y.admitted || y.aborted || !(s.part p).exp.members.all (fun n => y.blocks.any (fun b => decide (b.node = n))) then s
      else
        let a := s.runAdmission p layer y.blocks
        -- an assignment to a copy on a lost member aborts the step (R396)
        if a.assigns.any (fun x => s.fabric.fenced.contains (s.copyAt p layer x.expert x.copy)) then s.abortHalf p layer half
        else
        let s := s.modHalf p layer half (fun y => { y with admitted := true, assigns := a.assigns })
        let s := (s.countAdmission p layer y.blocks a).missesOf p layer a
        let cold := ((a.assigns.filter (fun x => decide (x.copy = 0))).map Assign.expert).eraseDups.filter (fun e =>
          let x := (s.part p).exp
          decide (homeOf (s.mainInfo p) layer e = s.self) && x.coldExperts.contains (expertKey layer e) && !x.cache.contains (expertKey layer e))
        let s := s.modHalf p layer half (fun y => { y with waitFetch := cold })
        match s.exchangeFails p ue with
        | some t => t
        | none => s.sendTokens p layer half a.assigns own
    | none => s)

/-! ### Token and combine packets (R383 to R385) -/

/-- The reserved fields of a token or combine packet read zero (R383, R457). -/
def exchangeOk (b : List Byte) : Bool :=
  decide (fieldAt b 6 1 < 4) && decide (fieldAt b 0xC 2 < 512) && decide (fieldAt b 0x10 4 < 2 ^ 24) && allZero (sliceAt b 0x14 12) &&
    (List.range (fieldAt b 7 1)).all (fun i => decide (fieldAt b (0x20 + 4 * i) 2 < 4096))

/-- Offset of PAYLOAD. -/
def exchangePayloadAt (b : List Byte) : Nat := (0x20 + 4 * fieldAt b 7 1 + 31) / 32 * 32

/-- An EXCHANGE packet arrives; one that comes again is only acknowledged again (R463, R468). -/
def State.takeExchange (s : State) (u : PortNo) (k : Packet) (f : State → State) : State :=
  s.arriveAs (some u) k tyExchange (fun s =>
    if !exchangeOk k.payload then s.count .uagMalformed 0 1
    else
      match (dget s.fabric.xidRecs (recKey k.src k.tc) {}).judge k with
      | .now => f ((s.modRec k (fun r => r.note k)).sendAck k)
      | .again => s.sendAck k
      | _ => s)

/-- TOKEN_PACKET: the partial sum of a token of another member is computed and returned (R384). `outputs` is what the tiles
compute for its entries, in the order of the entries. -/
def execTokenPacket (u : PortNo) (pkt : Packet) (outputs : List (List W32)) (ue : Option Nat) (s : State) : Out :=
  inService s (fun s =>
    let b := pkt.payload
    if bitOf (fieldAt b 6 1) 1 then s
    else
      s.takeExchange u pkt (fun s =>
        match s.exchangeFails pkt.part ue with
        | some t => t
        | none =>
        let ws := (List.range (fieldAt b 7 1)).map (fun i => BitVec.ofNat 16 (fieldAt b (0x22 + 4 * i) 2))
        let sum := (partialSum ws outputs).flatMap (fun v => leBytes 4 v.toNat)
        (s.sendAcked tyExchange pkt.tc (Fin.ofNat 512 (fieldAt b 0xC 2)) pkt.part 0 0
          (exchangeBytes (BitVec.ofNat 64 (fieldAt b 0 4)) (fieldAt b 4 2) (bitOf (fieldAt b 6 1) 0) true (fieldAt b 8 4)
            (Fin.ofNat 512 (fieldAt b 0xC 2)) (BitVec.ofNat 16 (fieldAt b 0xE 2)) (fieldAt b 0x10 4) [] sum)).2))

/-- Lowest set bit of a RANK_MASK. -/
def lowestBit (m : Nat) : Nat := ((List.range 24).find? (fun i => bitOf m i)).getD 24

/-- COMBINE_PACKET: a partial sum returns to the token's member (R385). -/
def execCombinePacket (u : PortNo) (pkt : Packet) (s : State) : Out :=
  inService s (fun s =>
    let b := pkt.payload
    if !bitOf (fieldAt b 6 1) 1 then s
    else
      s.takeExchange u pkt (fun s =>
        let p := pkt.part
        let t := fieldAt b 8 4
        let low := lowestBit (fieldAt b 0x10 4)
        if decide (BitVec.ofNat 32 (fieldAt b 0 4) ≠ ((s.part p).exp.step + 1).setWidth 32) then s
        else
          let s := s.modHalf p (fieldAt b 4 2) (bitOf (fieldAt b 6 1) 0) (fun y =>
            if y.aborted || y.partials.any (fun z => decide (z.1 = t) && decide (z.2.1 = low)) then y
            else { y with partials := y.partials ++ [(t, low, tokenWords (b.drop (exchangePayloadAt b)))] })
          s.fetchExperts p []))

/-! ### QUERY_EXPERT_COUNTS (R389 to R391) -/

/-- One record (R390). -/
def ExpCount.bytes (c : ExpCount) : List Byte := leBytes 4 c.demand ++ leBytes 4 c.first ++ leBytes 4 c.extra ++ leBytes 4 c.moved

def execQueryExpertCounts (p : Part) (ring : CmdRing) (s : State) : Out :=
  inService s (fun s => runCmd s p ring opQueryExperts (fun s c =>
    let l := c.field 0x10 2
    let n := c.field 0x12 2
    let e := c.field 0x14 2
    let m := c.field 0x16 2
    let x := (s.part p).exp
    if (s.mainInfo p).expertLayers ≤ l then s.malformed p c 0x10
    else if n = 0 || (s.mainInfo p).expertLayers < l + n then s.malformed p c 0x12
    else if 4095 < e then s.malformed p c 0x14
    else if m = 0 || 4096 < e + m then s.malformed p c 0x16
    else if 7 < c.field 0x18 1 then s.malformed p c 0x18
    else if c.field 0x20 8 % 16 ≠ 0 then s.malformed p c 0x20
    else if c.field 0x28 8 < 16 * n * m then s.finish p c stNoCapacity
    else
      match x.history[c.field 0x18 1]? with
      | none => s.finish p c stState
      | some h =>
        let recs := (List.range n).flatMap (fun i => (List.range m).flatMap (fun j => (dget h.2 (expertKey (l + i) (e + j)) {}).bytes))
        (s.hostWrite (c.field 0x20 8) recs).finish p c stOk 0 h.1.toNat))

/-! ### SET_EXPERT_POLICY (R416 to R418) -/

/-- Descriptor offset of the first field at fault (R416, R417). -/
def expertPolicyFault (c : Cmd) : Option Nat :=
  let pol := c.field 0x14 1
  let f := c.field 0x16 1
  if c.field 0x12 2 = 0 then some 0x12
  else if (3 < pol && pol ≠ 0xFF) || (pol = 3 && !bitOf f 3) then some 0x14
  else if (if pol = 1 then c.field 0x15 1 = 0 || 8 < c.field 0x15 1 else c.field 0x15 1 ≠ 0) then some 0x15
  else if bitOf f 2 && 3 < c.field 0x17 1 then some 0x17
  else if bitOf f 1 && c.field 0x18 2 = 0 then some 0x18
  else if bitOf f 2 && (c.field 0x1A 2 = 0 || 1024 < c.field 0x1A 2) then some 0x1A
  else if bitOf f 2 && c.field 0x1C 4 ≤ c.field 0x20 4 then some 0x20
  else none

/-- The policy that a command announces. -/
def policyAsk (c : Cmd) (step : Nat) : PolicyAsk :=
  let f := c.field 0x16 1
  { atStep := step, layerFirst := c.field 0x10 2, layerCount := c.field 0x12 2,
    policy := if c.field 0x14 1 = 0xFF then none else some (c.field 0x14 1, c.field 0x15 1, bitOf f 0),
    capacity := if bitOf f 1 then some (c.field 0x18 2) else none,
    repl := if bitOf f 2 then some (c.field 0x17 1, c.field 0x1A 2, c.field 0x1C 4, c.field 0x20 4) else none }

/-- An announced policy as the numbers of its message. -/
def policyNumbers (a : PolicyAsk) : List Nat :=
  [a.atStep, a.layerFirst, a.layerCount] ++
    (match a.policy with | some x => [1, x.1, x.2.1, if x.2.2 then 1 else 0] | none => [0]) ++
    (match a.capacity with | some x => [1, x] | none => [0]) ++
    (match a.repl with | some x => [1, x.1, x.2.1, x.2.2.1, x.2.2.2] | none => [0])

def execSetExpertPolicy (p : Part) (ring : CmdRing) (s : State) : Out :=
  inService s (fun s => runCmd s p ring opSetExpert (fun s c =>
    let layers := (s.mainInfo p).expertLayers
    match expertPolicyFault c with
    | some off => s.malformed p c off
    | none =>
      if layers = 0 then s.finish p c stState
      else if layers ≤ c.field 0x10 2 then s.malformed p c 0x10
      else if layers < c.field 0x10 2 + c.field 0x12 2 then s.malformed p c 0x12
      else if (s.part p).exp.members.any s.fabric.fenced.contains then s.finish p c stNodeLost
      else
        let a := policyAsk c (s.stepAhead p)
        let sent := s.announce p kindPolicy (policyNumbers a)
        let s := sent.2.modExp p (fun x => { x with announced := x.announced ++ [⟨a, s.self⟩] })
        if sent.1.isEmpty then s.finish p c stOk 0 a.atStep
        else (s.setStage p c.order .running).modExp p (fun x => { x with asking := x.asking ++ [⟨c.order, sent.1, a.atStep⟩] })))

/-- A member has answered this member's announcement of a policy (R418). -/
def State.policyAnswered (s : State) (p : Part) (key : Nat) (st : W16) : State :=
  match (s.part p).exp.asking.find? (fun a => a.keys.contains key) with
  | none => s
  | some a =>
    let left := a.keys.filter (fun k => decide (k ≠ key))
    let others := (s.part p).exp.asking.filter (fun b => decide (b.cmd ≠ a.cmd))
    if st ≠ stOk then (s.modExp p (fun x => { x with asking := others })).finishOrder p a.cmd st
    else if left.isEmpty then (s.modExp p (fun x => { x with asking := others })).finishOrder p a.cmd stOk 0 a.atStep
    else s.modExp p (fun x => { x with asking := others ++ [{ a with keys := left }] })

/-- Apply a policy to its layers (R416). -/
def Experts.applyPolicy (x : Experts) (a : PolicyAsk) : Experts :=
  { x with policies := (List.range a.layerCount).foldl (fun m i => dmod m (a.layerFirst + i) {} (fun v =>
      let v := match a.policy with | some y => { v with policy := y.1, depth := y.2.1, renorm := y.2.2 } | none => v
      let v := match a.capacity with | some c => { v with capacity := some c } | none => v
      match a.repl with
      | some y => { v with maxReplicas := y.1, replSteps := y.2.1, replThreshold := y.2.2.1, retireThreshold := y.2.2.2 }
      | none => v)) x.policies }

/-! ### Maps and replicas (R366, R392 to R396) -/

/-- The map version after every map announced. -/
def Experts.lastVersion (x : Experts) : W16 := (x.nextMaps.getLast?.map MapAsk.version).getD x.mapVersion

/-- Replicas of an expert after every map announced. -/
def Experts.lastReplicas (x : Experts) (key : Nat) : List Node :=
  (x.nextMaps.foldl (fun r m => match dget? m.replicas key with | some y => some y | none => r) none).getD (dget x.replicas key [])

/-- The home announces a new map to every member (R394, R395). -/
def State.announceMap (s : State) (p : Part) (replicas : List (Nat × List Node)) : State :=
  let a : MapAsk := { version := (s.part p).exp.lastVersion + 1, atStep := s.stepAhead p, replicas := replicas }
  let body := [a.version.toNat, a.atStep] ++ replicas.flatMap (fun r => [r.1, r.2.length] ++ r.2.map Fin.val)
  (s.announce p kindMap body).2.modExp p (fun x => { x with nextMaps := x.nextMaps ++ [a] })

/-- REPLICA_VERIFIED: the replica of an expert homed here has verified at another member (R393, R394). -/
def execReplicaVerified (p : Part) (layer expert : Nat) (node : Node) (s : State) : Out :=
  inService s (fun s =>
    let key := expertKey layer expert
    let x := (s.part p).exp
    let now := x.lastReplicas key
    if dget? x.replLoading key ≠ some node || !x.members.contains node || now.contains node || node = homeOf (s.mainInfo p) layer expert ||
        3 ≤ now.length then s
    else
      (s.modExp p (fun x => { x with replLoading := derase x.replLoading key })).announceMap p [(key, now ++ [node])])

/-- A map comes into force (R366, R394, R395): a replica that is new here takes a slot, one retired here frees it. -/
def State.mapInForce (s : State) (p : Part) (a : MapAsk) : State :=
  -- a whole map replaces the one held (R374)
  let gone := if a.whole then ((s.part p).exp.replicas.map Prod.fst).filter (fun k => !a.replicas.any (fun r => decide (r.1 = k))) else []
  (a.replicas ++ gone.map (fun k => (k, ([] : List Node)))).foldl (fun s r =>
    let here := r.2.contains s.self
    let mine := decide (homeOf (s.mainInfo p) (r.1 / 4096) (r.1 % 4096) = s.self)
    s.modExp p (fun x => { x with
      replicas := if r.2.isEmpty then derase x.replicas r.1 else dset x.replicas r.1 r.2,
      cache := if here then (if x.cache.contains r.1 then x.cache else x.cache ++ [r.1])
        else if mine then x.cache else x.cache.filter (fun c => decide (c ≠ r.1)),
      slotOf := if here then (if (dget? x.slotOf r.1).isSome then x.slotOf else dset x.slotOf r.1 x.freeSlot)
        else if mine then x.slotOf else derase x.slotOf r.1 })) (s.modExp p (fun x => { x with mapVersion := a.version }))

/-- Total demand of the experts whose home is a member, in a step's counts (R393). -/
def State.homeDemand (s : State) (p : Part) (counts : Dict ExpCount) (n : Node) : Nat :=
  ((counts.filter (fun c => decide (homeOf (s.mainInfo p) (c.1 / 4096) (c.1 % 4096) = n))).map (fun c => c.2.demand)).foldl (· + ·) 0

/-- The target of a new replica of an expert among the members `free` that have a free cache slot and hold no copy of it: the one
whose home experts had the smallest total demand, ties going to the lower node ID (R365, R393). -/
def State.replicaTarget (s : State) (p : Part) (counts : Dict ExpCount) (key : Nat) (free : List Node) : Option Node :=
  let may := free.filter (fun n => (s.part p).exp.members.contains n && !((s.part p).exp.lastReplicas key).contains n &&
    decide (n ≠ homeOf (s.mainInfo p) (key / 4096) (key % 4096)))
  may.foldl (fun b n => match b with
    | none => some n
    | some m =>
      let dn := s.homeDemand p counts n
      let dm := s.homeDemand p counts m
      if dn < dm || (dn = dm && decide (n < m)) then some n else b) none

/-- Demand of an expert in the step just completed makes its replicas grow or shrink, at its home (R392, R393, R395). -/
def State.judgeReplica (s : State) (p : Part) (counts : Dict ExpCount) (free : List Node) (key : Nat) : State :=
  let pol := s.policyOf p (key / 4096)
  if pol.policy ≠ 2 || homeOf (s.mainInfo p) (key / 4096) (key % 4096) ≠ s.self then s
  else
    let d := (dget counts key {}).demand
    let x := (s.part p).exp
    let up := if pol.replThreshold < d then dget x.above key 0 + 1 else 0
    let down := if d < pol.retireThreshold then dget x.below key 0 + 1 else 0
    let n := x.lastReplicas key
    let target := if decide (pol.replSteps ≤ up) && decide (n.length < pol.maxReplicas) && (dget? x.replLoading key).isNone then
        s.replicaTarget p counts key free
      else none
    let grow := target.isSome
    let shrink := decide (pol.replSteps ≤ down) && !n.isEmpty
    let s := s.modExp p (fun x => { x with
      above := dset x.above key (if grow then 0 else up), below := dset x.below key (if shrink then 0 else down),
      replLoading := match target with | some t => dset x.replLoading key t | none => x.replLoading })
    if shrink then s.announceMap p [(key, n.dropLast)] else s

/-- Announced maps that are in force from the coming step come into force (R366, R374, R394). -/
def State.mapsDue (s : State) (p : Part) : State :=
  let next := (s.part p).exp.step.toNat + 1
  let maps := (s.part p).exp.nextMaps.filter (fun a => decide (a.atStep ≤ next))
  maps.foldl (fun s a => s.mapInForce p a) (s.modExp p (fun x => { x with nextMaps := x.nextMaps.filter (fun a => decide (next < a.atStep)) }))

/-- Experts at a step boundary: the counts of the step are kept, replicas judged, and announced policies and maps of the next
step come into force (R367, R388, R392 to R395, R418). -/
def State.expertsBoundary (s : State) (p : Part) (completed : Bool) (free : List Node) : State :=
  let s := if !completed then s else
    let x := (s.part p).exp
    let counts := x.counts
    let s := s.modExp p (fun x => { x with
      step := x.step + 1, stepsDone := x.stepsDone + 1, history := ((x.step + 1, counts) :: x.history).take 8,
      counts := [], halves := [], hotSaid := [], missSaid := [], ahead := [] })
    (((counts.map Prod.fst) ++ x.replicas.map Prod.fst ++ x.above.map Prod.fst).eraseDups).foldl (fun s k => s.judgeReplica p counts free k) s
  let next := (s.part p).exp.step.toNat + 1
  let pols := sortBy (fun a b => decide (a.node ≤ b.node)) ((s.part p).exp.announced.filter (fun a => decide (a.ask.atStep ≤ next)))
  let s := s.modExp p (fun x => { pols.foldl (fun x a => x.applyPolicy a.ask) x with
    announced := x.announced.filter (fun a => decide (next < a.ask.atStep)) })
  (s.mapsDue p).fetchExperts p []

end Sys2Proof.Machine
end

