-- ==== Sys2Proof/Machine/Kv.lean ====
section
/-! DEFINITION. KV pages at work: attention patterns and length buckets, making, publishing, releasing and demoting pages at a step
boundary with their tables in memory, recovery of KV, and the walker epochs (R299 to R343). -/

namespace Sys2Proof.Machine

/-! ### Attention patterns (R334 to R336) -/

/-- The pattern of a layer for a request: its own, the partition's, or the model's (R342). -/
def State.patternAt (s : State) (p : Part) (r : Request) (l : Nat) : Pattern :=
  match dget? r.patterns l with
  | some y => y
  | none =>
    match dget? (s.part p).patterns l with
    | some y => y
    | none =>
      match ((s.infoOf p r.model).getD default).windowLayers.find? (fun w => decide (w.layer = l)) with
      | some w => { window := true, sinks := w.sinks, size := w.window, ranges := w.ranges }
      | none => {}

/-- A position is a sink or global position of a pattern (R335). -/
def Pattern.keeps (y : Pattern) (pos : Nat) : Bool :=
  decide (pos < y.sinks) || y.ranges.any (fun g => decide (g.1 ≤ pos) && decide (pos < g.1 + g.2))

/-- A query at position `q` reads position `pos` (R334, R335). -/
def Pattern.reads (y : Pattern) (q pos : Nat) : Bool :=
  decide (pos ≤ q) && (!y.window || y.keeps pos || decide (q + 1 ≤ pos + y.size))

/-- Positions of page `n`. -/
def pagePositions (n : Nat) : List Nat := (List.range 128).map (128 * n + ·)

/-- A page carries PINNED (R336). -/
def Pattern.pins (y : Pattern) (n : Nat) : Bool := y.window && (pagePositions n).any y.keeps

/-- Positions that a query at `q` reads from published pages, and those that it reads from the drift (R320). -/
def Pattern.fromPages (y : Pattern) (q : Nat) : List Nat := (List.range (128 * (q / 128))).filter (y.reads q)
def Pattern.fromDrift (y : Pattern) (q : Nat) : List Nat := ((List.range (q % 128 + 1)).map (128 * (q / 128) + ·)).filter (y.reads q)

/-- Number of positions that a query at `q` reads: its attended length (R327). -/
def Pattern.length (y : Pattern) (q : Nat) : Nat :=
  if !y.window then q + 1 else (y.fromPages q).length + (y.fromDrift q).length

/-- Lowest position that a request will next take as input (R321, R337): its first position to prefill, else its committed count
(R358). -/
def Request.nextInput (r : Request) : Nat := r.committed - r.toPrefill

/-! ### Length buckets (R327 to R329) -/

/-- The largest attended length of a request over all layers (R328). -/
def State.attended (s : State) (p : Part) (r : Request) : Nat :=
  ((List.range r.layers.length).map (fun l => (s.patternAt p r l).length r.nextInput)).foldl max 0

/-- The bucket of an attended length under the bounds in force: the first whose bound holds it, else the last (R328). -/
def bucketOf (bounds : List Nat) (n : Nat) : Nat := min (bounds.findIdx (fun b => decide (n ≤ b))) (bounds.length - 1)

/-- The bucket of a request. -/
def State.bucket (s : State) (p : Part) (r : Request) : Nat := bucketOf (s.part p).kv.bounds (s.attended p r)

/-- The number of positions that every attention task of a bucket is sized for: the bucket's upper bound, and for the last bucket the
longest of its members among `rs` (R329). -/
def State.bucketSize (s : State) (p : Part) (rs : List Request) (i : Nat) : Nat :=
  let bounds := (s.part p).kv.bounds
  if i + 1 < bounds.length then bounds.getD i 0
  else ((rs.filter (fun r => decide (s.bucket p r = i))).map (s.attended p)).foldl max 0

/-- An attention task is uniform: the requests it serves lie in one bucket, and it is sized for that bucket (R329). -/
def State.uniform (s : State) (p : Part) (batch : List Request) (f : FwTask) : Bool :=
  match f.kind, f.requests.filterMap (s.req? p) with
  | .attention _ n, r :: rs => rs.all (fun t => decide (s.bucket p t = s.bucket p r)) && decide (n = s.bucketSize p batch (s.bucket p r))
  | _, _ => true

/-- Layer and bucket of an attention task. -/
def State.attnKey (s : State) (p : Part) (f : FwTask) : Option (Nat × Nat) :=
  match f.kind, f.requests.filterMap (s.req? p) with
  | .attention l _, r :: _ => some (l, s.bucket p r)
  | _, _ => none

/-- Put a task before the tasks that follow it, behind attention tasks of its layer with a lower bucket. -/
def intoBuckets (key : FwTask → Option (Nat × Nat)) (f : FwTask) : List FwTask → List FwTask
  | [] => [f]
  | g :: gs =>
    match key f, key g with
    | some a, some b => if a.1 = b.1 && decide (b.2 < a.2) then g :: intoBuckets key f gs else f :: g :: gs
    | _, _ => f :: g :: gs

/-- Attention tasks of one layer that follow one another are issued one bucket at a time, the lowest first (R329). -/
def State.byBucket (s : State) (p : Part) (fs : List FwTask) : List FwTask := fs.foldr (intoBuckets (s.attnKey p)) []

/-! ### SET_ATTN_PATTERN (R339 to R343) -/

/-- Descriptor offset of the first field at fault (R339, R340). -/
def patternFault (c : Cmd) (layers : Nat) (ranges : HostData) : Option Nat :=
  let pat := c.field 0x18 1
  let n := c.field 0x20 1
  let dense := decide (pat = 0)
  if layers ≤ c.field 0x10 2 then some 0x10
  else if c.field 0x12 2 = 0 || layers < c.field 0x10 2 + c.field 0x12 2 then some 0x12
  else if !bitOf (c.field 0x19 1) 0 && c.field 0x14 4 ≠ 0 then some 0x14
  else if 1 < pat then some 0x18
  else if (if dense then c.field 0x1A 2 ≠ 0 else 1024 < c.field 0x1A 2) then some 0x1A
  else if (if dense then c.field 0x1C 4 ≠ 0 else c.field 0x1C 4 = 0 || 65536 < c.field 0x1C 4) then some 0x1C
  else if (if dense then n ≠ 0 else 64 < n) then some 0x20
  else if c.field 0x28 8 % 8 ≠ 0 then some 0x28
  else if n = 0 then none
  else
    match ranges with
    | .failed => some 0x28
    | .bytes bs =>
      if (List.range n).any (fun i =>
          decide (fieldAt bs (8 * i + 4) 4 = 0) || decide (1048576 < fieldAt bs (8 * i) 4 + fieldAt bs (8 * i + 4) 4)) then some 0x28
      else none

/-- The pattern that a command sets. -/
def patternOf (c : Cmd) (ranges : List (Nat × Nat)) : Pattern :=
  { window := decide (c.field 0x18 1 = 1), sinks := c.field 0x1A 2, size := c.field 0x1C 4, ranges := ranges }

/-- The ranges read by a command. -/
def rangesOf (c : Cmd) (d : HostData) : List (Nat × Nat) :=
  match d with
  | .bytes bs => (List.range (c.field 0x20 1)).map (fun i => (fieldAt bs (8 * i) 4, fieldAt bs (8 * i + 4) 4))
  | .failed => []

/-- Layers that a command covers. -/
def layersNamed (c : Cmd) : List Nat := (List.range (c.field 0x12 2)).map (c.field 0x10 2 + ·)

/-- Under a new pattern of the layers, the next query of a request would read a page already released (R341). -/
def Request.wouldMiss (r : Request) (y : Pattern) (ls : List Nat) : Bool :=
  let read := y.fromPages r.nextInput
  ls.any (fun l => ((r.layers.getD l {}).pages.zipIdx).any (fun e => !e.1.present && (pagePositions e.2).any read.contains))

/-- SET_ATTN_PATTERN: its checks; it applies at the next step boundary (R340, R341, R343). -/
def execSetAttnPattern (p : Part) (ring : CmdRing) (ranges : HostData) (s : State) : Out :=
  inService s (fun s => runCmd s p ring opSetAttn (fun s c =>
    match patternFault c (s.mainInfo p).attnLayers ranges with
    | some off => s.malformed p c off
    | none =>
      let rs := rangesOf c ranges
      let y := patternOf c rs
      let one := bitOf (c.field 0x19 1) 0
      let ls := layersNamed c
      let covered := (s.part p).requests.filter (fun e =>
        if one then decide (e.1 = c.field 0x14 4) else true)
      if one && covered.isEmpty then s.finish p c stState
      else if covered.any (fun e => e.2.wouldMiss y (ls.filter (fun l => one || (dget? e.2.patterns l).isNone))) then s.finish p c stState
      else
        (s.setStage p c.order .running).modPart p (fun x => { x with
          atBoundary := x.atBoundary ++ [c.order], cmdRanges := dset x.cmdRanges c.order rs })))

/-- Apply an accepted SET_ATTN_PATTERN (R342, R343). -/
def State.applyPattern (s : State) (p : Part) (c : Cmd) : State :=
  let y := patternOf c (dget (s.part p).cmdRanges c.order [])
  let put (m : Dict Pattern) : Dict Pattern := (layersNamed c).foldl (fun m l => dset m l y) m
  if bitOf (c.field 0x19 1) 0 then
    if (s.req? p (c.field 0x14 4)).isSome then
      (s.modReq p (c.field 0x14 4) (fun r => { r with patterns := put r.patterns })).finish p c stOk 0 (c.field 0x12 2)
    else s.finish p c stState
  else (s.modPart p (fun x => { x with patterns := put x.patterns })).finish p c stOk 0 (c.field 0x12 2)

/-! ### Recovery of KV (R281) -/

/-- A request's KV is to be recomputed from position `from_` on: it leaves the batch. `pages` names published pages that are lost,
by layer. -/
def State.rebuildKv (s : State) (p : Part) (id from_ : Nat) (pages : List (Nat × Nat)) : State :=
  (s.modReq p id (fun r => { r with
    toPrefill := max r.toPrefill (r.committed - from_), rebuild := true, st := if r.st = .decode then .prefill else r.st,
    layers := r.layers.zipIdx.map (fun l => { l.1 with
      flushed := 0, redo := l.1.redo ++ (pages.filter (fun x => decide (x.1 = l.2) && !l.1.redo.contains x.2)).map Prod.snd }) })).modPart p
    (fun x => { x with step := { x.step with
      batch := x.step.batch.filter (fun b => decide (b.1 ≠ id)), chunks := x.step.chunks.filter (fun b => decide (b.1 ≠ id)),
      halfOf := x.step.halfOf.filter (fun b => decide (b.1 ≠ id)) } })

/-- Recover a layer's lost page, or with `none` its drift: the page by prefill over the whole history, the drift by prefill of the
positions since the last flush. -/
def State.recoverKv (s : State) (p : Part) (id l : Nat) (page : Option Nat) : State :=
  match page with
  | some n => s.rebuildKv p id 0 [(l, n)]
  | none => s.rebuildKv p id (128 * (((s.req? p id).bind (fun r => r.layers[l]?)).getD {}).pages.length) []

/-! ### Making pages (R323 to R326, R333) -/

/-- The BF16 key and value of a position, keys first: what a prefill chunk has computed, or for the first page that is not made yet
the layer's drift entry. -/
def State.positionKv (s : State) (m : ModelInfo) (y : LayerKv) (k : KvPlace) (pos : Nat) : Option (List W16) :=
  match (k.values.find? (fun v => decide (v.1 = pos) && decide (v.2.length = m.kValues + m.vValues))).map Prod.snd with
  | some ws => some ws
  | none =>
    if pos / 128 = y.pages.length && y.drift ≠ 0 then
      some (bf16Words (s.readDpa (driftK m y.drift pos) (2 * m.kValues) ++ s.readDpa (driftV m y.drift pos) (2 * m.vValues)))
    else none

/-- Page `n` of a layer, quantised from the keys and values of its positions (R324, R326): the work of a flush task for a page that
decode completed, and of a chunk for one that prefill did. -/
def State.makePage (s : State) (m : ModelInfo) (y : LayerKv) (k : KvPlace) (n : Nat) : Option (List Byte) :=
  let es := (pagePositions n).map (s.positionKv m y k)
  if es.all Option.isSome then
    let ws := es.filterMap id
    some (pageImage m (ws.flatMap (fun w => w.take m.kValues)) (ws.flatMap (fun w => w.drop m.kValues)))
  else none

/-- Make the pages of a layer that are due, in order: those that have been completed, each a new page of the layer, and published
pages to be made again whose positions lie below `upto`. A page that cannot be made yet stays due. -/
def State.makePages (s : State) (m : ModelInfo) (k : KvPlace) (upto : Nat) : Nat → LayerKv → LayerKv
  | 0, y =>
    y.redo.foldl (fun (y : LayerKv) n =>
      if upto < 128 * n + 128 then y
      else
        match s.makePage m y k n with
        | some b => { y with redo := y.redo.filter (fun i => decide (i ≠ n)), images := dset y.images n b }
        | none => y) y
  | n + 1, y =>
    if y.flushed = 0 then s.makePages m k upto 0 y
    else
      match s.makePage m y k y.pages.length with
      | some b => s.makePages m k upto n { y with
          images := dset y.images y.pages.length b, flushed := y.flushed - 1,
          pages := y.pages ++ [{ frame := 0, present := true, pinned := false, firn := false }] }
      | none => s.makePages m k upto 0 y

/-- Keys and values of the positions after the last whole page go to the drift (R326, R333). -/
def State.fillDrift (s : State) (m : ModelInfo) (y : LayerKv) (k : KvPlace) (upto : Nat) : State :=
  if y.drift = 0 || y.flushed ≠ 0 then s
  else
    k.values.foldl (fun (s : State) v =>
      if v.2.length = m.kValues + m.vValues && 128 * y.pages.length ≤ v.1 && v.1 < upto then
        (s.writeDpa (driftK m y.drift v.1) (bf16Bytes (v.2.take m.kValues))).writeDpa (driftV m y.drift v.1) (bf16Bytes (v.2.drop m.kValues))
      else s) s

/-- The same entries of a layer that has no drift block yet, which wait for one: K before V. -/
def LayerKv.keepDrift (y : LayerKv) (m : ModelInfo) (k : KvPlace) (upto : Nat) : LayerKv :=
  let es := ((List.range (upto - 128 * y.pages.length)).map (128 * y.pages.length + ·)).map (fun t =>
    (k.values.find? (fun v => decide (v.1 = t) && decide (v.2.length = m.kValues + m.vValues))).map Prod.snd)
  if y.drift ≠ 0 || y.flushed ≠ 0 || es.isEmpty || !es.all Option.isSome then y
  else
    let ws := es.filterMap id
    { y with driftIn := ws.flatMap (fun w => bf16Bytes (w.take m.kValues)) ++ ws.flatMap (fun w => bf16Bytes (w.drop m.kValues)) }

/-- Drift entries that came with a request go to its drift block (R357). -/
def State.restoreDrift (s : State) (m : ModelInfo) (drift : Nat) (bs : List Byte) : State :=
  let n := bs.length / (2 * (m.kValues + m.vValues))
  (s.writeDpa drift (bs.take (2 * m.kValues * n))).writeDpa (drift + 256 * m.kValues) (bs.drop (2 * m.kValues * n))

/-! ### A layer's pages and table at a step boundary (R299 to R303, R309 to R311, R317, R325, R336 to R338) -/

/-- What a boundary does to one page of a layer. -/
structure PageTurn where
  ent : PageEnt
  /-- bytes written into its new frame -/
  write : List Byte := []
  released : Bool := false
  demoted : Bool := false
deriving Inhabited

/-- A range that Nelnus firmware may take for a layer's table beside those it has taken for it already: free HBM or firn. -/
def State.mayTake (s : State) (p : Part) (taken : List (Nat × Nat)) (firn : Bool) (a align n : Nat) : Bool :=
  (if firn then s.firnPlace p a align n else s.hbmPlace p a align n) && clearOf (s.usedRanges p) a n && clearOf taken a n

/-- HBM channel of a DPA (R242), as 32 × stack + channel. -/
def State.channelOf (s : State) (a : Nat) : Option Nat := (s.place a).map (· / chanBytes)

/-- Two copies of a table structure of `n` bytes may be taken: they lie on different HBM channels (R303). -/
def State.mayCopy (s : State) (p : Part) (taken : List (Nat × Nat)) (as : List Nat) (n : Nat) : Bool :=
  match as with
  | [a, b] => s.mayTake p taken false a n n && s.mayTake p ((a, n) :: taken) false b n n && decide (s.channelOf a ≠ s.channelOf b)
  | _ => false

/-- One page at a step boundary: released, demoted, put into its frame, or left with its pin as the pattern has it (R336 to R338).
`busy` says that a task already issued reads it. A page that should go to a frame and gets none stays where it is. -/
def State.turnPage (s : State) (p : Part) (m : ModelInfo) (pat : Pattern) (q depth count : Nat) (busy : Bool) (image : Option (List Byte))
    (place : Option Nat) (taken : List (Nat × Nat)) (n : Nat) (e : PageEnt) : PageTurn :=
  let size := frameBytes m.frame
  let pinned := pat.pins n
  let into (firn : Bool) : Option Nat := place.filter (fun a => s.mayTake p taken firn a size size)
  let due := e.present && !pat.window && !e.firn && decide (depth ≠ 0) && decide (n + depth < count)
  if !e.present then { ent := e }
  else if pat.window && !busy && !pinned && decide (128 * n + 127 + pat.size < q + 1) then
    { ent := { frame := 0, present := false, pinned := false, firn := false }, released := true }
  else
    -- a page that is published goes to HBM, and an old one moves on to the firn tier at a later boundary (R275, R338)
    match image, (if image.isSome then into false else if due then into true else none) with
    | some b, some a => { ent := { frame := a, present := true, pinned := pinned, firn := false }, write := b }
    | none, some a =>
      { ent := { e with frame := a, pinned := pinned, firn := true }, write := s.readDpa e.frame (pageBytes m), demoted := true }
    | _, none => { ent := { e with pinned := pinned } }

/-- The pages of a layer in turn, each seeing what those before it have taken. -/
def State.turnPages (s : State) (p : Part) (m : ModelInfo) (pat : Pattern) (q depth : Nat) (busy : Nat → Bool) (y : LayerKv)
    (frames : List (Nat × Nat)) : List PageTurn :=
  (y.pages.zipIdx.foldl (fun (a : List PageTurn × List (Nat × Nat)) e =>
    let t := s.turnPage p m pat q depth y.pages.length (busy e.2) (dget? y.images e.2) ((frames.find? (fun f => decide (f.1 = e.2))).map Prod.snd) a.2 e.2 e.1
    (a.1 ++ [t], if t.ent.frame = e.1.frame then a.2 else (t.ent.frame, frameBytes m.frame) :: a.2)) ([], [])).1

/-- A table of a layer as a boundary would leave it, and whether Nelnus firmware can write it: list blocks whose entries changed and
that still hold a present page lie in two new copies, those with no present page are dropped, and the directory and the drift block
have their places (R303, R310, R311, R325). -/
def State.newTable (s : State) (p : Part) (m : ModelInfo) (y z : LayerKv) (k : KvPlace) : LayerKv × Bool :=
  let taken := (z.pages.filter (fun e => decide (e.frame ≠ 0))).map (fun e => (e.frame, frameBytes m.frame))
  let used := (List.range 16).filter z.blockUsed
  let changed (i : Nat) : Bool := (dget? y.blocks i).isNone || decide (z.block i ≠ y.block i)
  let moved := used.filter changed
  let placeOf (i : Nat) : List Nat := ((k.blocks.find? (fun b => decide (b.1 = i))).map Prod.snd).getD []
  let walk := moved.foldl (fun (a : Bool × List (Nat × Nat)) i =>
    (a.1 && s.mayCopy p a.2 (placeOf i) 4096, (placeOf i).map (fun x => (x, 4096)) ++ a.2)) (true, taken)
  let dirs := if y.dirs.isEmpty then k.dirs else y.dirs
  let drift := if y.drift = 0 then k.drift else y.drift
  let rest := walk.2 ++ (if y.drift = 0 then [(drift, driftBytes m)] else [])
  let ok := walk.1 && (y.drift ≠ 0 || s.mayTake p walk.2 false drift 256 (driftBytes m)) && (!y.dirs.isEmpty || s.mayCopy p rest dirs 256)
  ({ z with dirs := dirs, drift := drift, blocks := used.foldl (fun d i => dset d i (if changed i then placeOf i else dget y.blocks i [])) [] }, ok)

/-- Write a layer's table: new list blocks first, then the directory, each directory copy as one write (R309, R310). -/
def State.writeTable (s : State) (m : ModelInfo) (y z : LayerKv) : State :=
  let s := (z.blocks.filter (fun b => decide (dget? y.blocks b.1 ≠ some b.2))).foldl (fun s b => b.2.foldl (fun s a => s.writeDpa a (z.block b.1)) s) s
  z.dirs.foldl (fun s a => s.writeDpa a (z.directory m)) s

/-- What a layer's table no longer names: frames that pages have left, and copies of list blocks that are replaced or dropped. -/
def leftBy (m : ModelInfo) (y z : LayerKv) : List (Nat × Nat) :=
  ((y.pages.zip z.pages).filter (fun e => e.1.present && decide (e.1.frame ≠ 0) && decide (e.1.frame ≠ e.2.frame))).map (fun e => (e.1.frame, frameBytes m.frame)) ++
    (y.blocks.filter (fun b => decide (dget? z.blocks b.1 ≠ some b.2))).flatMap (fun b => b.2.map (fun a => (a, 4096)))

/-- The first byte that a boundary's work on a layer cannot read, with the page it lies in, or none for the drift: the drift entries
of a page that decode has completed, and the frames of pages that are demoted (R276, R281). -/
def State.layerUnreadable (s : State) (m : ModelInfo) (y : LayerKv) (k : KvPlace) (turns : List PageTurn) : Option (Nat × Option Nat) :=
  let flush := decide (0 < y.flushed) && decide (y.drift ≠ 0) &&
    (pagePositions y.pages.length).any (fun t => !k.values.any (fun v => decide (v.1 = t)))
  match (if flush then s.unreadableIn y.drift (driftBytes m) else none) with
  | some d => some (d, none)
  | none => (y.pages.zip turns).zipIdx.findSome? (fun e =>
      if e.1.2.demoted && (dget? y.images e.2).isNone then (s.unreadableIn e.1.1.frame (pageBytes m)).map (fun d => (d, some e.2)) else none)

/-- The pages that a stream visits, and whether it is of the layer with a directory in `dirs` (R306). -/
def Stream.readsPage (x : Stream) (m : ModelInfo) (dirs : List Nat) (n : Nat) : Bool :=
  x.paged && dirs.contains (dpaOf x.base) &&
    (List.range x.total).any (fun i => decide ((x.unitAt i).toNat / (if x.pagedV then m.vValues else 128) = n))

/-- One layer of one request at a step boundary: due pages are made, pages are released, demoted and put into their frames, and the
table that says so is written, if Nelnus firmware has places for all of it; otherwise the table stays as it is (log entry 105). -/
def State.kvLayer (s : State) (p : Part) (id : Nat) (issued : List Stream) (places : List KvPlace) (l : Nat) : State :=
  match s.req? p id with
  | none => s
  | some r =>
    let m := (s.infoOf p r.model).getD default
    let k := (places.find? (fun k => decide (k.request = id) && decide (k.layer = l))).getD default
    let old := r.layers.getD l {}
    let y := s.makePages m k r.nextInput 8192 old
    let turns := s.turnPages p m (s.patternAt p r l) r.nextInput (s.regBits .kvCfg p.val 0 14)
      (fun n => issued.any (fun x => x.readsPage m old.dirs n)) y k.frames
    match s.layerUnreadable m old k turns with
    | some (d, page) => (s.noteUnreadable d).recoverKv p id l page
    | none =>
      let pages := turns.map PageTurn.ent
      let left := y.images.filter (fun i => match pages[i.1]? with
        | some e => e.present && decide (e.frame = (y.pages.getD i.1 default).frame)
        | none => false)
      let z := s.newTable p m y { y with pages := pages, images := left } k
      let touched := decide (pages ≠ old.pages) || (old.dirs.isEmpty && !k.dirs.isEmpty)
      if !touched || !z.2 || pages.any (fun e => e.present && decide (e.frame = 0)) then
        (s.fillDrift m y k r.nextInput).modReq p id (fun r => { r with layers := r.layers.set l (y.keepDrift m k r.nextInput) })
      else
        let s := (y.pages.zip turns).foldl (fun (s : State) e => if e.2.ent.frame = e.1.frame then s else s.writeDpa e.2.ent.frame e.2.write) s
        let s := (if y.driftIn = [] then s else s.restoreDrift m z.1.drift y.driftIn).fillDrift m z.1 k r.nextInput
        let s := s.writeTable m old z.1
        let s := (s.count .kvReleaseCount p.val (turns.filter PageTurn.released).length).count .kvDemoteCount p.val (turns.filter PageTurn.demoted).length
        let s := s.unlink p (leftBy m old z.1)
        s.modReq p id (fun r => { r with layers := r.layers.set l { z.1 with driftIn := [] } })

/-- Thaws whose pages are rebuilt complete, and free their ice cores (R357 to R359). -/
def State.thawsDone (s : State) (p : Part) : State :=
  (s.part p).byAccept.foldl (fun s e =>
    match e.2.thawing with
    | none => s
    | some o =>
      if !e.2.settled || (s.fwTasks p).any (fun t => t.reqs.contains e.1) then s
      else
        let s := s.modReq p e.1 (fun r => { r with thawing := none })
        match s.cmd? p o with
        | none => s
        | some c =>
          (if c.field 0x14 1 = 0 && c.field 0x15 1 = 1 then s.dropIce p (c.field 0x18 8) else s).finish p c stOk 0 e.2.committed) s

/-- Every request's pages at a step boundary. -/
def State.kvPages (s : State) (p : Part) (places : List KvPlace) : State :=
  let issued := s.issuedStreams p
  ((s.part p).byAccept.foldl (fun s e =>
    (List.range e.2.layers.length).foldl (fun s l => s.kvLayer p e.1 issued places l) s) s).thawsDone p

/-! ### Walker epochs (R312 to R318) -/

/-- The smallest epoch with a live walker (R318). -/
def Kv.oldest (k : Kv) : Nat :=
  (([3, 2, 1].filter (fun i => decide (i ≤ k.epoch) && decide (k.counts.getD ((k.epoch - i) % 4) 0 ≠ 0))).map (fun i => k.epoch - i)).headD k.epoch

/-- The walker epoch advances once its counter is free; until then runs with a paged stream are held (R316). -/
def Kv.advance (k : Kv) : Kv :=
  if k.counts.getD ((k.epoch + 1) % 4) 0 = 0 then { k with epoch := k.epoch + 1, advanceHeld := false } else { k with advanceHeld := true }

/-- What no walk can hold any more is reclaimed (R317). -/
def Kv.reclaim (k : Kv) : Kv := { k with unlinked := k.unlinked.filter (fun u => decide (k.oldest ≤ u.1)) }

/-- WALK_EPOCH_ADVANCE: a held advance takes effect (R316). -/
def execWalkEpochAdvance (p : Part) (s : State) : Out :=
  inService s (fun s => if (s.part p).kv.advanceHeld then s.modPart p (fun x => { x with kv := x.kv.advance }) else s)

/-- KV_RECLAIM: unlinked frames are reclaimed (R317). -/
def execKvReclaim (p : Part) (s : State) : Out := inService s (fun s => s.modPart p (fun x => { x with kv := x.kv.reclaim }))

end Sys2Proof.Machine
end

