-- ==== Sys2Proof/Machine/Serving.lean ====
section
/-! DEFINITION. Serving steps: recipes and barker policy, batches and prefill chunks, the commit check, the step boundary,
recovery of failed fills and step replays (R221 to R232, R281 to R287, R323 to R332, R403 to R412, R420 to R422, R612 to R624,
R645 to R651, R677, R710, R716, R719, R740 to R742). -/

namespace Sys2Proof.Machine

/-! ### Recipes (R221 to R232) -/

/-- One tag's update at a step boundary (R221). -/
def Recipe.update (r : Recipe) (base : Nat × Nat × Nat) : Recipe :=
  let r0 := { r with ranInStep := false, overInStep := false, a4InStep := false }
  if r.pinned || !r.ranInStep then r0
  else if r.overInStep then
    { r0 with aRun := if r.a4InStep then 1 else r.aRun, wRun := min (min (r.wRun + (if r.widenStep = 0 then 1 else r.widenStep)) r.wMax) base.2.2,
              clean := 0 }
  else if r.clean + 1 < r.cleanSteps then { r0 with clean := r.clean + 1 }
  else
    { r0 with clean := 0, aRun := if base.2.1 < r.aRun then base.2.1 else r.aRun,
              wRun := if base.2.1 < r.aRun then r.wRun else if max base.1 r.wMin < r.wRun then r.wRun - 1 else r.wRun }

/-- Every tag's update. A tag that no model names has its stored width unbounded and its own recipe as base. -/
def State.updateRecipes (s : State) (p : Part) : State :=
  s.modPart p (fun x => { x with recipes := x.recipes.map (fun e => (e.1, e.2.update ((s.baseOf p e.1).getD (e.2.wRun, e.2.aRun, 8)))) })

/-- Descriptor offset of the first field at fault of a SET_RECIPE (R226, R229). -/
def recipeFault (c : Cmd) : Option Nat :=
  let op := c.field 0x14 1
  let w := c.field 0x15 1
  let act := c.field 0x16 1
  if c.field 0x12 2 = 0 || 65536 < c.field 0x10 2 + c.field 0x12 2 then some 0x12
  else if 2 < op then some 0x14
  else if 8 < w || (op = 1 && w = 0) || (op = 0 && w ≠ 0) then some 0x15
  else if (2 < act && act ≠ 0xFF) || (op = 1 && act = 0xFF) || (op = 0 && act ≠ 0xFF) then some 0x16
  else if 8 < c.field 0x17 1 then some 0x17
  else if 8 < c.field 0x18 1 then some 0x18
  else if 2 < c.field 0x19 1 && c.field 0x19 1 ≠ 0xFF then some 0x19
  else if c.field 0x1B 1 ≠ 0 && (c.field 0x1B 1 < 2 || 10 < c.field 0x1B 1) then some 0x1B
  else none

/-- A recipe as a SET_RECIPE leaves it (R226, R227). -/
def Recipe.set (r : Recipe) (c : Cmd) (base : Nat × Nat × Nat) : Recipe :=
  let op := c.field 0x14 1
  let keep (off old : Nat) : Nat := if c.field off 1 = 0 then old else c.field off 1
  let r := if op = 1 then { r with wRun := c.field 0x15 1, aRun := c.field 0x16 1, pinned := true }
    else if op = 2 then { r with pinned := false, wRun := base.1, aRun := base.2.1, clean := 0 }
    else r
  let r := { r with
    wMin := keep 0x17 r.wMin, wMax := keep 0x18 r.wMax, cleanSteps := keep 0x1A r.cleanSteps,
    widenStep := if c.field 0x19 1 = 0xFF then r.widenStep else c.field 0x19 1 }
  if bitOf (c.field 0x23 1) 0 then { r with limitThin := c.field 0x20 1, limitWhite := c.field 0x21 1, limitZero := c.field 0x22 1 } else r

/-- The tags that a SET_RECIPE names. -/
def tagsNamed (c : Cmd) : List Nat := (List.range (c.field 0x12 2)).map (c.field 0x10 2 + ·)

/-- A tag's recipe after a SET_RECIPE on `r`. -/
def State.recipeFrom (s : State) (p : Part) (c : Cmd) (tag : Nat) (r : Recipe) : Recipe :=
  r.set c ((s.baseOf p tag).getD (r.wRun, r.aRun, 8))

/-- A tag's recipe after a SET_RECIPE. -/
def State.recipeSet (s : State) (p : Part) (c : Cmd) (tag : Nat) : Recipe := s.recipeFrom p c tag (s.recipeOf p tag)

/-- A tag's recipe after the SET_RECIPE commands that are accepted and not applied yet, and this one (R230). -/
def State.recipeAfter (s : State) (p : Part) (c : Cmd) (tag : Nat) : Recipe :=
  let before := (s.part p).atBoundary.filterMap (fun o => (s.cmd? p o).filter (fun y =>
    decide (y.opcode.toNat = opSetRecipe) && decide (y.field 0x10 2 ≤ tag) && decide (tag < y.field 0x10 2 + y.field 0x12 2)))
  s.recipeFrom p c tag (before.foldl (fun r y => s.recipeFrom p y tag r) (s.recipeOf p tag))

/-- SET_RECIPE: its checks, over the commands that apply before it; it applies at the next step boundary (R229 to R231). -/
def execSetRecipe (p : Part) (ring : CmdRing) (s : State) : Out :=
  inService s (fun s => runCmd s p ring opSetRecipe (fun s c =>
    match recipeFault c with
    | some off => s.malformed p c off
    | none =>
      if (tagsNamed c).any (fun t => decide ((s.recipeAfter p c t).wMax < (s.recipeAfter p c t).wMin)) then s.finish p c stState
      else (s.setStage p c.order .running).modPart p (fun x => { x with atBoundary := x.atBoundary ++ [c.order] })))

/-- The EWMA parameters of a tag as a SET_RECIPE leaves them (R226). -/
def ewmaSet (c : Cmd) (e : List Byte) : List Byte :=
  let reset := bitOf (c.field 0x23 1) 1
  let flags := fieldAt e 5 1
  sliceAt e 0 4 ++ (if c.field 0x1B 1 = 0 then sliceAt e 4 1 else c.bytes 0x1B 1) ++
    [BitVec.ofNat 8 (if reset then flags / 2 * 2 else flags)] ++ (if c.field 0x1C 2 = 0 then sliceAt e 6 2 else c.bytes 0x1C 2) ++
    (if c.field 0x1E 2 = 0xFFFF then sliceAt e 8 2 else c.bytes 0x1E 2) ++ sliceAt e 0xA 6 ++
    (if reset then List.replicate 12 0 else sliceAt e 0x10 12) ++ sliceAt e 0x1C 4

/-- Apply an accepted SET_RECIPE (R231). -/
def State.applyRecipe (s : State) (p : Part) (c : Cmd) : State :=
  let s := (tagsNamed c).foldl (fun (s : State) t =>
    let r := s.recipeSet p c t
    let a := s.ewmaAt p t
    let s := s.modPart p (fun x => { x with recipes := dset x.recipes t r })
    if c.field 0x1B 1 = 0 && c.field 0x1C 2 = 0 && c.field 0x1E 2 = 0xFFFF && !bitOf (c.field 0x23 1) 1 then s
    else
      -- an entry that cannot be read is rewritten as zeros first (R197)
      let s := match s.unreadableIn a 32 with
        | some d => (s.noteUnreadable d).clearEwmaSector a
        | none => s
      s.writeDpa a (ewmaSet c (s.readDpa a 32))) s
  s.finish p c stOk 0 (c.field 0x12 2)

/-! ### SET_SPEC_POLICY (R420 to R422) -/

/-- Descriptor offset of the first field at fault (R420, R422). -/
def specFault (c : Cmd) (heads : Nat) : Option Nat :=
  let f := c.field 0x14 1
  if !bitOf f 0 && c.field 0x10 4 ≠ 0 then some 0x10
  else if bitOf f 1 && 16 < c.field 0x15 1 then some 0x15
  else if bitOf f 1 && (c.field 0x16 1 = 0 || 16 < c.field 0x16 1 || c.field 0x16 1 < c.field 0x15 1) then some 0x16
  else if bitOf f 1 && c.field 0x18 2 = 0 then some 0x18
  else if bitOf f 3 && heads < c.field 0x1A 2 then some 0x1A
  else if bitOf f 3 && heads < c.field 0x1A 2 + c.field 0x1C 2 then some 0x1C
  else none

/-- A policy as a SET_SPEC_POLICY leaves it. -/
def SpecPolicy.set (y : SpecPolicy) (c : Cmd) : SpecPolicy :=
  let f := c.field 0x14 1
  let y := if bitOf f 1 then
      { y with barkerEn := bitOf f 2, kInit := c.field 0x15 1, kMax := c.field 0x16 1, suspendSteps := c.field 0x18 2 }
    else y
  if bitOf f 3 then
    { y with exitEn := bitOf f 4, exitFirst := c.field 0x1A 2, exitCount := c.field 0x1C 2, tau := c.field 0x1E 2, mu := c.field 0x20 2 }
  else y

def execSetSpecPolicy (p : Part) (ring : CmdRing) (s : State) : Out :=
  inService s (fun s => runCmd s p ring opSetSpec (fun s c =>
    match specFault c (s.mainInfo p).exitHeads with
    | some off => s.malformed p c off
    | none =>
      if bitOf (c.field 0x14 1) 0 && (s.req? p (c.field 0x10 4)).isNone then s.finish p c stState
      else if bitOf (c.field 0x14 1) 2 && !(s.mainInfo p).hasBarker then s.finish p c stState
      else (s.setStage p c.order .running).modPart p (fun x => { x with atBoundary := x.atBoundary ++ [c.order] })))

/-- Apply an accepted SET_SPEC_POLICY (R421). -/
def State.applySpec (s : State) (p : Part) (c : Cmd) : State :=
  if bitOf (c.field 0x14 1) 0 then
    match s.req? p (c.field 0x10 4) with
    | none => s.finish p c stState
    | some _ =>
      (s.modReq p (c.field 0x10 4) (fun r =>
        let y := (r.spec.getD {}).set c
        if bitOf (c.field 0x14 1) 1 then
          { r with spec := some y, draft := y.kInit, suspended := if y.barkerEn && y.kInit = 0 then y.suspendSteps else 0, missed := 0, warming := false }
        else { r with spec := some y })).finish p c stOk
  else (s.modPart p (fun x => { x with spec := x.spec.set c })).finish p c stOk

/-- Apply the commands that await a step boundary, in the order of their acceptance (R231, R343, R421). -/
def State.applyAccepted (s : State) (p : Part) : State :=
  let os := (s.part p).atBoundary
  os.foldl (fun s o =>
    match s.cmd? p o with
    | some c =>
      let op := c.opcode.toNat
      if op = opSetRecipe then s.applyRecipe p c
      else if op = opSetSpec then s.applySpec p c
      else if op = opSetAttn then s.applyPattern p c
      else s
    | none => s) (s.modPart p (fun x => { x with atBoundary := [] }))

/-! ### Deadlines (R645 to R651) -/

/-- Nelnus firmware judges deadlines now (R651). -/
def State.judgesDeadlines (s : State) : Bool := s.timeMaster || s.fabric.locked

/-- A request's deadline has passed (R645, R646). -/
def State.deadlinePassed (s : State) (r : Request) : Bool :=
  s.judgesDeadlines && decide (r.deadline ≠ 0) && decide (r.deadline.toNat ≤ s.time)

/-! ### The barker (R407 to R412) -/

/-- The barker drafts for a request: it is enabled, its model is ACTIVE, and the request is not suspended (R411, R722). -/
def State.barkerActive (s : State) (p : Part) (r : Request) : Bool :=
  (r.spec.getD {}).barkerEn && ((s.part p).slot 2).st = .active && decide (r.suspended = 0) && decide (0 < r.draft)

/-- The draft length used in a step (R321, R412). -/
def State.draftLength (s : State) (p : Part) (r : Request) : Nat :=
  if s.barkerActive p r then min r.draft (min (127 - r.nextInput % 128) (r.maxNew - 1)) else 0

/-- The draft state after a step that drafted `d` tokens, accepted `a` and gained `n` (R410, R411), and whether the barker is
newly suspended. -/
def Request.afterDraft (r : Request) (d a n : Nat) : Request × Bool :=
  let y := r.spec.getD {}
  if !y.barkerEn then (r, false)
  else if 0 < r.suspended then ({ r with suspended := r.suspended - 1, missed := r.missed + n }, false)
  else if r.draft = 0 then (if r.warming then (r, false) else ({ r with missed := r.missed + n }, false))
  else if d = 0 then (r, false)
  else
    let k := if a = r.draft then min (r.draft + 1) y.kMax else if a = 0 then r.draft / 2 else r.draft
    if k = 0 then ({ r with draft := 0, suspended := y.suspendSteps, missed := n, warming := false }, true) else ({ r with draft := k }, false)

/-- The suspension of a request's barker has ended, and its prefill over the positions it missed is not issued yet (R411). -/
def State.barkerMissed (s : State) (p : Part) (r : Request) : Bool :=
  (r.spec.getD {}).barkerEn && ((s.part p).slot 2).st = .active && decide (r.suspended = 0) && decide (r.draft = 0) && !r.warming

/-- A barker whose prefill is done drafts again, with k = 1 (R411). -/
def State.resumeBarkers (s : State) (p : Part) : State :=
  let busy := (s.fwTasks p).filter (fun t => decide (t.kind = .barker))
  s.modPart p (fun x => { x with requests := x.requests.map (fun e =>
    (e.1, if e.2.warming && !busy.any (fun t => t.reqs.contains e.1) then { e.2 with draft := 1, missed := 0, warming := false } else e.2)) })

/-! ### Batches, chunks and tasks (R222 to R224, R331, R332, R401, R623, R624) -/

/-- The partition serves expert layers with a group (R367). -/
def State.grouped (s : State) (p : Part) : Bool :=
  !(s.part p).exp.members.isEmpty && ((s.part p).slot 0).st = .active

/-- A member of the expert group is fenced: its steps wait until the group is whole (R772). -/
def State.groupBroken (s : State) (p : Part) : Bool := (s.part p).exp.members.any s.fabric.fenced.contains

/-- A request that may take part in steps: not ending, and with its witness seeded (R619, R648, R749, R766). One whose KV is
rebuilt before it is frozen is still worked on (R281, R351, R649). -/
def Partition.mayServe (x : Partition) (e : Nat × Request) : Bool :=
  e.2.closing.isNone && e.2.cancel.isEmpty && (!e.2.expired || e.2.rebuild) && !x.leaving.any (fun l => decide (l.1 = e.1)) && !x.jnl.reseedLeft.contains e.1 &&
    (e.2.freezing.isNone || decide (0 < e.2.toPrefill))

/-- Live requests, LC before BE, each class in the order of its ACCEPT records (R623). -/
def Partition.inOrder (x : Partition) : List (Nat × Request) :=
  x.byAccept.filter (fun e => !e.2.be) ++ x.byAccept.filter (fun e => e.2.be)

/-- Take requests while their input tokens fit (R623). -/
def takeBatch (max : Nat) : List (Nat × Nat) → Nat → List (Nat × Nat)
  | [], _ => []
  | (id, d) :: t, used => if used + 1 + d ≤ max then (id, d) :: takeBatch max t (used + 1 + d) else []

/-- The backfill that a request's early exit is due has a task for every layer that was skipped (R406). -/
def backfillReady (fs : List FwTask) (e : Nat × Request) : Bool :=
  match e.2.backfill with
  | none => true
  | some (_, first) => (List.range e.2.layers.length).all (fun l =>
      decide (l < first) || fs.any (fun f => decide (f.kind = .backfill l) && f.requests.contains e.1))

/-- The batch of a partition: requests with their draft lengths (R412, R623, R742). A request whose KV waits for its places, or
whose backfill has no tasks, is left out (R357, R406; log entry 105). -/
def State.formBatch (s : State) (p : Part) (fs : List FwTask) : List (Nat × Nat) :=
  let x := s.part p
  let ok (e : Nat × Request) : Bool :=
    e.2.st = .decode && s.modelActive p e.2.model && x.mayServe e && e.2.held.isEmpty && decide (e.2.undurable = 0) && !s.deadlinePassed e.2 &&
      !e.2.finalSeen && e.2.settled && backfillReady fs e
  takeBatch (s.regBits .partBatch p.val 0 16) ((x.inOrder.filter ok).map (fun e => (e.1, s.draftLength p e.2))) 0

/-- The halves of a batch: each request goes to the half with fewer tokens, ties to H0 (R401). -/
def halves : List (Nat × Nat) → Nat → Nat → List (Nat × Bool)
  | [], _, _ => []
  | (id, d) :: t, a, b => if a ≤ b then (id, false) :: halves t (a + 1 + d) b else (id, true) :: halves t a (b + 1 + d)

/-- Chunks that start now, beside those in flight (R331, R332). A chunk starts on the multiple of 128 at or below the first position
to prefill (R333), so that each ends on one or holds the remainder; the pages of the chunk before it are in their frames. -/
def State.formChunks (s : State) (p : Part) (fs : List FwTask) : List (Nat × Nat) :=
  let x := s.part p
  let room := s.regBits .kvCfg p.val 16 4 - x.step.chunks.length
  let ok (e : Nat × Request) : Bool :=
    (e.2.st = .prefill || (e.2.st = .idle && e.2.rebuild)) && s.modelActive p e.2.model && x.mayServe e && decide (0 < e.2.toPrefill) &&
      (!s.deadlinePassed e.2 || (e.2.rebuild && e.2.freezeOnExpire)) &&
      e.2.layers.all (fun l => decide (l.flushed = 0) && l.images.isEmpty && l.driftIn.isEmpty) &&
      fs.any (fun f => decide (f.kind = .chunk) && f.requests.contains e.1) &&
      !x.step.chunks.any (fun c => decide (c.1 = e.1)) && !(s.fwTasks p).any (fun t => decide (t.kind = .chunk) && t.reqs.contains e.1)
  ((x.inOrder.filter ok).map (fun e => (e.1, min e.2.toPrefill (8192 - (e.2.committed - e.2.toPrefill) % 128)))).take room

/-- A stream's width under the running recipe of its tag (R222). -/
def runWidth (run base w : Nat) : Nat :=
  if w = 0 then 0 else if w = base then run else if base ≤ run then min 8 (w + (run - base)) else max 1 (w - (base - run))

/-- A task for one request's sake that chapter 06 makes BE: a chunk that rebuilds KV, or the encoding of a freeze (R281, R351, R624). -/
def bestEffort (f : FwTask) (r : Request) : Bool :=
  match f.kind with
  | .chunk => r.rebuild
  | .ice => r.freezing.isSome || r.expired
  | _ => false

/-- A task of Nelnus firmware as it is issued (R222 to R224, R624, R652). -/
def State.issueTask (s : State) (p : Part) (f : FwTask) : Task :=
  let d := parseTask f.desc
  let r := s.recipeOf p d.layerTag
  let base := ((s.baseOf p d.layerTag).getD (r.wRun, r.aRun, 8)).1
  let served := f.requests.filterMap (s.req? p)
  let lc := served.any (fun r => !r.be && !bestEffort f r)
  let d := { d with
    widths := d.widths.map (runWidth r.wRun base), actWidth := BitVec.ofNat 8 r.aRun, replayWiden := decide (r.widenStep ≠ 0),
    widenStep := BitVec.ofNat 8 r.widenStep, limitThin := r.limitThin, limitWhite := r.limitWhite, limitZero := r.limitZero,
    epoch := (s.part p).epoch, partition := BitVec.ofNat 8 p.val, cls := if lc then 0 else 1 }
  { freshTask d none (served.map Request.client).eraseDups 0 with reqs := f.requests, chunk := f.kind.beside, kind := f.kind, gen := (s.part p).gen }

/-- Issue tasks to the dispatcher (R625). -/
def State.issueTasks (s : State) (p : Part) (ts : List Task) : State :=
  (s.modPart p (fun x => { x with fwWait := x.fwWait ++ ts })).feedGraphs p

/-- A tile task of the step itself, not of a prefill chunk, is still outstanding. -/
def State.stepTasksLeft (s : State) (p : Part) : Bool := (s.fwTasks p).any (fun t => !t.chunk)

/-- A task that may be issued now: the requests it serves are those it is for. Work beside the steps is a new chunk's, of a request that
a freeze has withdrawn or a thaw rebuilds, or a barker's prefill; the rest is of the batch `batch`, attention uniform within its
bucket and a backfill of layers that were skipped (R329, R331, R351, R357, R406, R411). -/
def State.mayIssue (s : State) (p : Part) (runs : Bool) (batch chunks : List (Nat × Nat)) (f : FwTask) : Bool :=
  let all_ (ok : Nat → Request → Bool) : Bool := f.requests.all (fun i => match s.req? p i with | some r => ok i r | none => false)
  let inStep := runs && f.requests.all (fun i => batch.any (fun b => decide (b.1 = i)))
  match f.kind with
  | .step => inStep
  | .attention _ _ => inStep && s.uniform p (batch.filterMap (fun b => s.req? p b.1)) f
  | .backfill l => inStep && !f.requests.isEmpty && all_ (fun _ r => match r.backfill with | some b => decide (b.2 ≤ l) | none => false)
  | .chunk => !f.requests.isEmpty && f.requests.all (fun i => chunks.any (fun b => decide (b.1 = i)))
  | .ice => !f.requests.isEmpty && all_ (fun _ r => r.closing.isNone &&
      ((match r.freezing with | some y => y.withdrawn | none => false) || r.thawing.isSome))
  | .barker => !f.requests.isEmpty && all_ (fun _ r => r.closing.isNone && s.barkerMissed p r)

/-- Form the next step (R329, R401, R406, R411, R623, R655, R711). Backfills come first; attention that needs one waits for it. -/
def State.startStep (s : State) (p : Part) (out : StepOut) : State :=
  let x := s.part p
  let may := ((x.slot 0).st = .active) && !x.stepsBlocked && !s.groupBroken p && x.swap.all (fun w => decide (w.phase = .boundary))
  if !may then s
  else
    let batch := s.formBatch p out.tasks
    let chunks := s.formChunks p out.tasks
    let skipped := x.requests.filter (fun e => e.2.st = .decode && !s.deadlinePassed e.2 && !batch.any (fun b => decide (b.1 = e.1)))
    let s := skipped.foldl (fun s e => s.charge p [e.2.client] (fun a => { a with skipped := satAdd 4 a.skipped 1 })) s
    let inStep (i : Nat) : Bool := batch.any (fun b => decide (b.1 = i))
    let runs := !batch.isEmpty || s.grouped p
    let fit := s.byBucket p (out.tasks.filter (s.mayIssue p runs batch chunks))
    let fills (f : FwTask) : Bool := match f.kind with | .backfill _ => true | _ => false
    let ts := (fit.filter fills ++ fit.filter (fun f => !fills f)).map (s.issueTask p)
    let warm (i : Nat) : Bool := fit.any (fun f => decide (f.kind = .barker) && f.requests.contains i)
    let s := s.modPart p (fun x => { x with
      step := { x.step with running := runs, gen := x.gen, batch := batch, halfOf := halves batch 0 0, chunks := x.step.chunks ++ chunks, replays := 0,
                            checked := false, failed := false, tasks := ts.filter (fun t => !t.chunk) },
      requests := x.requests.map (fun e => (e.1,
        { e.2 with backfill := if inStep e.1 then none else e.2.backfill, warming := e.2.warming || warm e.1 })) })
    s.issueTasks p ts

/-! ### The commit check (R407 to R412, R612, R646, R740, R741) -/

/-- Length of the longest prefix of drafts that equals the main model's tokens (R407). -/
def acceptedDrafts : List W32 → List W32 → Nat
  | d :: ds, t :: ts => if d = t then acceptedDrafts ds ts + 1 else 0
  | _, _ => 0

/-- Cut produced tokens at the turn's final token: how many stay, and whether the last is final (R612). -/
def cutFinal (endToken : Nat) : List W32 → Nat → Nat → Nat × Bool
  | [], _, _ => (0, false)
  | t :: ts, pos, left =>
    if left ≤ 1 || t.toNat = endToken || pos = 1048575 then (1, true)
    else
      let r := cutFinal endToken ts (pos + 1) (left - 1)
      (r.1 + 1, r.2)

/-- A token may exit: the policy has it, and R404 does not forbid it. -/
def Request.mayExit (r : Request) (d : Nat) : Bool := (r.spec.getD {}).exitEn && decide (r.nextInput % 128 ≠ 127) && decide (d = 0)

/-- The largest and second-largest probabilities of the softmax of logits over the whole vocabulary at temperature 1 (R403), each
operation rounding in FP32, the sum in the tree of R163 (DEDUCED: log entry 106). -/
def topTwo (z : List W32) : W32 × W32 :=
  let top := topIndices z 2
  let z0 := z.getD (top.headD 0) 0
  let e (v : W32) : W32 := approxLane 0x14 false (mul32 (add32 v (z0 ^^^ 0x80000000)) 0x3FB8AA3B)
  let sum := (treeReduce (fun a b => add32 a b) 40 (z.map e)).headD 0
  let q (i : Nat) : W32 := match top[i]? with | some j => div32 (e (z.getD j 0)) sum | none => 0
  (q 0, q 1)

/-- The exit test of a policy on an exit head's logits (R403). -/
def SpecPolicy.exits (y : SpecPolicy) (z : List W32) : Bool :=
  let t := topTwo z
  let least (v : W32) (n : Nat) : Bool := n ≠ 0 && !(fp32.decode v.toNat).lt (.fin false n (-16))
  least t.1 y.tau || least (add32 t.1 (t.2 ^^^ 0x80000000)) y.mu

/-- The first exit head, among those whose test the policy enables, at which a token exits, with its logits (R403). -/
def SpecPolicy.exitAt (y : SpecPolicy) (vocab : Nat) (exits : List (Nat × List W32)) : Option (Nat × List W32) :=
  (List.range y.exitCount).findSome? (fun i =>
    exits.find? (fun x => decide (x.1 = y.exitFirst + i) && decide (x.2.length = vocab) && y.exits x.2))

/-- The token that the sampler draws for a request at a position from logits, with the request's parameters (R405, R413, R414). -/
def Request.sample (r : Request) (z : List W32) (pos : Nat) : W32 :=
  let topP : W32 := if r.topP = 0 then 0x3F800000 else BitVec.ofNat 32 (fp32.encodeIeee (.fin false r.topP (-16)))
  BitVec.ofNat 32 (sampleToken z (bf16To32 r.temp) r.topK topP (sampleU r.seed pos))

/-- Flags of token `i` of `n` that a step delivers (R409, R574, R612, R646). -/
def deliveredFlags (n a i : Nat) (final late exit : Bool) : BitVec 16 :=
  (if late then tokLate else 0) ||| (if exit then tokEarlyExit else 0) ||| (if i < a then tokDraftAccepted else 0) |||
    (if final && i + 1 = n then tokFinal else 0)

/-- COMMIT records of a step for one request (R729, R739). -/
def State.commitRecords (s : State) (p : Part) (id : Nat) (r : Request) (ts : List (W32 × BitVec 16)) (final late : Bool) : List (JRec × OnDurable) :=
  let bodies := commitBodies r.committed (ts.map Prod.fst)
  bodies.zipIdx.map (fun b =>
    let first := r.committed + 3 * b.2
    ({ s.newRecord p id r.epoch 0 b.1 with late := late, final := final && decide (b.2 + 1 = bodies.length) },
      .commit id first ((ts.drop (3 * b.2)).take 3)))

/-- What the step produced for one request of the batch is judged and committed. -/
def State.commitOne (s : State) (p : Part) (y : Produced) (d : Nat) : State :=
  match s.req? p y.request with
  | none => s
  | some r =>
    let m := (s.infoOf p r.model).getD default
    let head := if r.mayExit d then (r.spec.getD {}).exitAt m.vocab y.exits else none
    let exit := head.isSome
    let tokens := match head with | some h => [r.sample h.2 r.committed] | none => y.tokens
    let a := acceptedDrafts y.drafts tokens
    let cut := cutFinal m.endToken (tokens.take (a + 1)) r.committed r.maxNew
    let late := s.deadlinePassed r
    let s := (s.count .specDrafted p.val d).count .specAccepted p.val (if d = 0 then 0 else a)
    let z := r.afterDraft d a cut.1
    let s := if z.2 then (s.raiseEvent p evSpecSuspended y.request).count .specSuspendCount p.val 1 else s
    let s := if exit then s.count .exitCount p.val 1 else s
    if late && r.withhold then s.modReq p y.request (fun _ => { z.1 with expired := true })
    else
      let n := cut.1
      let final := cut.2 && r.cancel.isEmpty
      let ts := ((tokens.take n).zipIdx).map (fun t => (t.1, deliveredFlags n a t.2 final late exit))
      -- the step leaves the last position of a page valid in every layer (R323)
      let flush := decide (0 < n) && decide ((r.committed + n) % 128 = 0)
      let due (l : LayerKv) : Bool := flush && decide (l.pages.length + l.flushed < (r.committed + n) / 128)
      let s := s.count .kvFlushCount p.val (r.layers.filter due).length
      let s := s.modReq p y.request (fun _ => { z.1 with
        tokens := r.tokens ++ ts.map Prod.fst, committed := r.committed + n, maxNew := r.maxNew - n, undurable := r.undurable + n,
        finalSeen := final, lateFinal := final && late, expired := late,
        backfill := match head with | some h => some (r.nextInput, m.exitLayers.getD h.1 0) | none => r.backfill,
        layers := r.layers.map (fun l => if due l then { l with flushed := l.flushed + 1 } else l) })
      let s := if s.earlyTokens p then
          ts.zipIdx.foldl (fun s t => s.postToken p y.request (tokenBytes y.request (r.committed + t.2) t.1.1 t.1.2 r.epoch)) s
        else s
      let s := s.writeJournal p (s.commitRecords p y.request r ts final late)
      if final && !late && !r.keep then
        s.closeRequest p y.request stOk .ended 0 ⟨stOk, turnInfo (r.committed + n) false false, 0, 0, 0⟩
      else s

/-- What a step produced covers its batch, in order. -/
def coversBatch : List (Nat × Nat) → List Produced → Bool
  | [], [] => true
  | (id, d) :: bs, y :: ys => decide (y.request = id) && decide (y.drafts.length = d) && decide (y.tokens.length = d + 1) && coversBatch bs ys
  | _, _ => false

/-- COMMIT_CHECK: Nelnus firmware is about to write the COMMIT records of a step (R646, R739). -/
def execCommitCheck (p : Part) (out : List Produced) (s : State) : Out :=
  inService s (fun s =>
    let x := (s.part p).step
    if !x.running || x.checked || x.failed || s.stepTasksLeft p || (s.grouped p && !s.expertsDone p) || !coversBatch x.batch out then s
    else
      (x.batch.zip out).foldl (fun s y => s.commitOne p y.2 y.1.2)
        (s.modPart p (fun x => { x with step := { x.step with checked := true } })))

/-! ### The ends of requests at a step boundary (R351, R352, R619, R648, R649, R766) -/

/-- Accepted cancels take effect (R619). -/
def State.cancelRequests (s : State) (p : Part) : State :=
  (s.part p).byAccept.foldl (fun s e =>
    if e.2.cancel.isEmpty || e.2.closing.isSome then s
    else s.closeRequest p e.1 stCancelled .ended 0 ⟨stCancelled, turnInfo e.2.committed false false, 0, 0, e.2.committed⟩) s

/-- Where Nelnus firmware has found room in the firn extent for a request's ice core. -/
def icePlace (ice : List (Nat × Nat)) (id : Nat) : Option Nat := (ice.find? (fun i => decide (i.1 = id))).map Prod.snd

/-- An ice core of a request is written, to host memory or into the firn extent (R351, R649). -/
def State.writeIce (s : State) (p : Part) (firn : Bool) (addr : Nat) (core : List Byte) : State :=
  if firn then (s.writeDpa addr core).modPart p (fun x => { x with kv := { x.kv with ice := x.kv.ice ++ [(addr, core.length)] } })
  else s.hostWrite addr core

/-- What a freeze cannot read is recovered before the freeze goes on (R281, chapter 06 under "FREEZE_REQUEST"). -/
def State.recoverFirst (s : State) (p : Part) (id : Nat) (r : Request) : Option State :=
  (s.kvUnreadable p r).map (fun x => (s.noteUnreadable x.1).recoverKv p id x.2.1 x.2.2)

/-- A request ends by its deadline (R648, R649); with FREEZE_ON_EXPIRE it is frozen LOSSLESS into the firn extent where it has room,
once the KV of its committed positions is complete. -/
def State.expireRequest (s : State) (p : Part) (id : Nat) (r : Request) (place : Option Nat) : State :=
  let st := if r.lateFinal then stOkLate else stDeadline
  let ends (s : State) : State :=
    (s.count .partExpired p.val 1).closeRequest p id st .ended 0 ⟨st, turnInfo r.committed false false, 0, 0, 0⟩
  match place with
  | none => ends s
  | some a =>
    if !r.freezeOnExpire then ends s
    else if r.rebuild then s
    else
      match s.recoverFirst p id r with
      | some t => t.modReq p id (fun r => { r with expired := true })
      | none =>
        let core := s.iceCoreOf p id r { cmd := 0, bits := r.layers.map (fun _ => 0), keepPages := 0, firn := true, addr := a, room := 0 }
        if s.iceFits p a core.length then
          ((s.count .partExpired p.val 1).writeIce p true a core).closeRequest p id st .frozen a ⟨st, turnInfo r.committed false true, a, 0, 0⟩
        else ends s

/-- Requests whose deadline has passed, among those that `which` selects. -/
def State.expireRequests (s : State) (p : Part) (which : Request → Bool) (ice : List (Nat × Nat)) : State :=
  (s.part p).byAccept.foldl (fun s e =>
    if e.2.turn.isSome && e.2.closing.isNone && which e.2 && (e.2.expired || s.deadlinePassed e.2) then
      s.expireRequest p e.1 e.2 (icePlace ice e.1)
    else s) s

/-- A freeze whose request has been withdrawn and whose encoding tasks have ended: what it cannot read is recovered first; then its
ice core is written and the request closed, or for want of room the request goes on unchanged (R351 to R353). -/
def State.freezeOne (s : State) (p : Part) (id : Nat) (r : Request) (f : Freezing) (place : Option Nat) : State :=
  match s.recoverFirst p id r with
  | some t => t
  | none =>
    let core := s.iceCoreOf p id r f
    let n := core.length
    let addr := if f.firn then place.getD 0 else f.addr
    if (if f.firn then place.any (fun a => s.iceFits p a n) else decide (n ≤ f.room)) then
      (s.writeIce p f.firn addr core).closeRequest p id stOk .frozen (if f.firn then addr else 0)
        ⟨stOk, turnInfo r.committed false true, 0, (n + 4095) / 4096, if f.firn then addr else n⟩
    else (s.modReq p id (fun r => { r with freezing := none })).finishOrder p f.cmd stNoCapacity ((n + 4095) / 4096)

/-- Freezes at a step boundary, once what was appended has been prefilled (R351): a request is withdrawn from later batches, and at a
later boundary with none of its tasks outstanding it is frozen. -/
def State.freezeRequests (s : State) (p : Part) (ice : List (Nat × Nat)) : State :=
  let busy := (s.fwTasks p).flatMap Task.reqs
  (s.part p).byAccept.foldl (fun s e =>
    match e.2.freezing with
    | some f =>
      if e.2.closing.isSome || 0 < e.2.toPrefill || !e.2.settled then s
      else if !f.withdrawn then s.modReq p e.1 (fun r => { r with freezing := some { f with withdrawn := true } })
      else if busy.contains e.1 then s
      else s.freezeOne p e.1 e.2 f (icePlace ice e.1)
    | none => s) s

/-- Requests that a destination has asked for are withdrawn (R766 step 3). -/
def State.handOver (s : State) (p : Part) : State :=
  (s.part p).leaving.foldl (fun s l =>
    match s.req? p l.1 with
    | some r =>
      if r.closing.isSome then s
      else s.closeRequest p l.1 stOk .migrated (nodePart l.2.1 l.2.2.destPart) ⟨stOk, turnInfo r.committed false false, 0, 0, 0⟩
    | none => s) s

/-! ### Prefill chunks that have completed (R331, R333, R614, R764) -/

/-- A chunk of a request has completed: its whole pages are published, and the last chunk leads to decode. -/
def State.chunkDone (s : State) (p : Part) (id n : Nat) : State :=
  match s.req? p id with
  | none => s
  | some r =>
    let left := r.toPrefill - n
    let pages := (r.committed - left) / 128
    let r := { r with toPrefill := left, chunkFails := 0, rebuild := r.rebuild && decide (left ≠ 0),
                      layers := r.layers.map (fun l => { l with flushed := pages - l.pages.length }) }
    if left ≠ 0 then s.putReq p id r
    else if r.st = .prefill && r.maxNew = 0 && !r.finalSeen then
      let s := s.putReq p id { r with st := .idle, turn := none }
      match r.turn with
      | some o => s.finishOrder p o stOk (turnInfo r.committed true false)
      | none => s
    else s.putReq p id { r with st := if r.st = .prefill then .decode else r.st }

/-- Every chunk whose tasks have ended. -/
def State.chunksDone (s : State) (p : Part) : State :=
  let busy := (s.fwTasks p).filter (fun t => decide (t.kind = .chunk))
  let done := (s.part p).step.chunks.filter (fun c => !busy.any (fun t => t.reqs.contains c.1))
  done.foldl (fun s c => s.chunkDone p c.1 c.2) (s.modPart p (fun x => { x with
    step := { x.step with chunks := x.step.chunks.filter (fun c => busy.any (fun t => t.reqs.contains c.1)) } }))

/-- A request whose chunk has lost its working state a third time ends, as one of a step that fails a third time (R286). -/
def State.abandonChunks (s : State) (p : Part) : State :=
  (s.part p).byAccept.foldl (fun s e =>
    if e.2.chunkFails < 3 || e.2.closing.isSome then s
    else s.closeRequest p e.1 stUnrecoverable .ended 0 ⟨stUnrecoverable, turnInfo e.2.committed false false, 0, 0, 0⟩) s

/-! ### Models at a step boundary (R677, R710, R716) -/

/-- The bytes of a slot's model program in stored form, as SM3 digests them (R908). -/
def State.programOf (s : State) (p : Part) (n : Nat) : List Byte :=
  let y := (s.part p).slot n
  match y.head, y.info with
  | some h, some i =>
    sm3 (((h.resident.take ((i.programBytes + chunkSize - 1) / chunkSize)).flatMap (fun c => (s.chunkOf p n c).getD [])).take i.programBytes)
  | _, _ => []

/-- Requests of an active model leave WAITING, and those of another enter it (R614). -/
def State.settleWaiting (s : State) (p : Part) : State :=
  s.modPart p (fun x => { x with requests := x.requests.map (fun e =>
    (e.1, if e.2.st = .waiting then { e.2 with st := s.entersAt p e.2 }
      else if e.2.st = .idle || s.modelActive p e.2.model then e.2 else { e.2 with st := .waiting })) })

/-- A slot becomes ACTIVE (R677). Slot 0 brings its model's expert map. Recipe state stays as it is (R232). -/
def State.activate (s : State) (p : Part) (n : Nat) : State :=
  let d := s.programOf p n
  let s := s.modPart p (fun x => x.setSlot n { x.slot n with st := .active, programDigest := d })
  if n ≠ 0 then s
  else
    let i := s.mainInfo p
    s.modPart p (fun x => { x with
      exp := { members := if i.expertLayers = 0 then [] else i.members, coldExperts := i.coldExperts.map Prod.fst, cacheSlots := i.cacheSlots } })

/-- Pairs of slots that reached COMPLETE (R677). A SWAP partition's slot 0 is filled by SWAP_MODEL alone. -/
def State.activateSlots (s : State) (p : Part) : State :=
  [0, 2].foldl (fun (s : State) n =>
    let x := s.part p
    if (x.slot n).st = .complete && (x.slot (n + 1)).st = .empty && (n ≠ 0 || x.swap.isNone) then s.activate p n else s) s

/-- A trapeze switch takes effect (R710, R713). -/
def State.takeEffect (s : State) (p : Part) (w : Switch) : State :=
  let old := (s.part p).slot w.target
  let new := (s.part p).slot (w.target + 1)
  let d := s.programOf p (w.target + 1)
  let s := s.modPart p (fun x =>
    { (x.setSlot w.target { new with st := .active, programDigest := d }).setSlot (w.target + 1) { old with st := .draining } with
      gen := x.gen + 1, keepOld := w.keepOld, switch := none })
  let i := s.mainInfo p
  let grouped := w.target = 0 && !(s.part p).exp.members.isEmpty
  let s := if grouped then
      s.modExp p (fun x => { x with
        mapVersion := x.mapVersion + 1, replicas := [], replLoading := [], above := [], below := [], cache := [], fetching := [],
        fetchWait := [], slotOf := [], coldExperts := i.coldExperts.map Prod.fst, cacheSlots := i.cacheSlots })
    else s
  match w.cmd with
  | some o => s.finishOrder p o stOk (if grouped then ((s.part p).exp.step.toNat + 1) % 2 ^ 32 else 0) s.time
  | none => s

/-- The group step of an announced switch is next, and members have not all answered (R709). -/
def Partition.switchHolds (x : Partition) : Bool :=
  match x.switch with
  | some w => (match w.atStep with | some n => decide (n ≤ x.exp.step.toNat + 1 + (if x.step.running then 1 else 0)) && !w.keys.isEmpty | none => false)
  | none => false

/-- A trapeze switch that is due. -/
def State.switchModels (s : State) (p : Part) : State :=
  match (s.part p).switch with
  | some w =>
    (match w.atStep with
    | some n => if n ≤ (s.part p).exp.step.toNat + 1 && w.keys.isEmpty then s.takeEffect p w else s
    | none => s.takeEffect p w)
  | none => s

/-- A SWAP_MODEL at a step boundary (R716, R718). -/
def State.swapModels (s : State) (p : Part) : State :=
  match (s.part p).swap with
  | none => s
  | some w =>
    match w.phase with
    | .boundary =>
      let y := (s.part p).slot 0
      let s := s.modPart p (fun x => { x with activeVariant := 0, swap := some { w with phase := .draining } })
      if y.st = .active then s.modPart p (fun x => x.setSlot 0 { y with st := .draining })
      else (s.modPart p (fun x => x.setSlot 0 {})).fillSwap p { w with phase := .draining }
    | .activate =>
      if ((s.part p).slot 0).st = .complete then
        let waiting := (s.part p).requests.filter (fun e => e.2.st = .waiting && decide (e.2.model = w.variant))
        let s := (s.activate p 0).modPart p (fun x => { x with activeVariant := w.variant, swap := none, gen := x.gen + 1 })
        s.finishOrder p w.cmd stOk waiting.length w.bytes
      else s
    | _ => s

/-! ### The step boundary (R195, R221, R316, R325, R330, R623) -/

/-- Nothing of the step under way is left to do. -/
def State.stepEnded (s : State) (p : Part) : Bool :=
  let x := (s.part p).step
  !x.running || ((x.checked || x.batch.isEmpty) && !x.failed && !s.stepTasksLeft p && (!s.grouped p || s.expertsDone p))

/-- STEP_BOUNDARY. `out` is what the model program and the firmware's own placement give for the next step; the reads that it
makes find the DPAs `ue` uncorrectable (R195, R276). -/
def execStepBoundary (p : Part) (out : StepOut) (ue : List Nat) (s : State) : Out :=
  inServiceUe s ue (fun s =>
    if (s.part p).fn.st = .off || (s.part p).advance.running || !s.stepEnded p || (s.part p).switchHolds then s
    else
      let ran := (s.part p).step.running
      let s := (s.foldEwma p).updateRecipes p
      let s := (((s.applyAccepted p).chunksDone p).abandonChunks p).resumeBarkers p
      let s := s.modPart p (fun x => { x with step := { x.step with running := false, batch := [], halfOf := [], tasks := [] } })
      let s := if s.grouped p then s.expertsBoundary p ran out.freeSlots else s
      let s := ((s.switchModels p).activateSlots p).swapModels p
      let s := s.settleWaiting p
      let s := (s.cancelRequests p).expireRequests p (fun _ => true) out.ice
      let s := (s.freezeRequests p out.ice).handOver p
      let s := s.kvPages p out.kv
      let s := s.modPart p (fun x => { x with kv := x.kv.advance })
      let s := s.modPart p (fun x => { x with kv := { x.kv with
        bounds := ((List.range 16).map (fun k => s.reg .kvBucket (p.val * 16 + k))).takeWhile (fun b => decide (b ≠ 0)) } })
      s.startStep p out)

/-- WAITING_DEADLINE_CHECK: with no variant active, deadlines of WAITING requests are judged (R719). -/
def execWaitingDeadlineCheck (p : Part) (ice : List (Nat × Nat)) (ue : List Nat) (s : State) : Out :=
  inServiceUe s ue (fun s =>
    if s.swapClass p && (s.part p).activeVariant = 0 then s.expireRequests p (fun r => decide (r.st = .waiting)) ice else s)

/-! ### Uncorrectable data and step replays (R281 to R287) -/

/-- The allocation class of a DPA (R281). -/
inductive DataClass where
  | weights (slot chunk : Nat)
  /-- a KV page of a layer of a request, or the layer's drift -/
  | page (request layer page : Nat)
  | drift (request layer : Nat)
  /-- a page directory or list block by its two copies, and its bytes -/
  | table (first second bytes : Nat)
  | ewma
  | working
deriving DecidableEq, Repr, Inhabited

/-- A DPA lies in `n` bytes from `b` on. -/
def within (a b n : Nat) : Bool := decide (b ≤ a) && decide (a < b + n)

/-- The chunk of a slot that covers a DPA. -/
def Slot.chunkAt (y : Slot) (a : Nat) : Option Nat :=
  match y.head with
  | some h => (h.resident ++ h.cold).find? (fun c => match y.place c with
    | some (b, o, _) => within a (b + o) (chunkLen h.modelBytes c)
    | none => false)
  | none => none

/-- What a DPA of a partition holds (R281). -/
def State.classOf (s : State) (p : Part) (a : Nat) : DataClass :=
  let x := s.part p
  match x.slots.findSome? (fun e => (e.2.chunkAt a).map (fun c => DataClass.weights e.1 c)) with
  | some c => c
  | none =>
    if within a (s.ewmaAt p 0) (32 * 65536) then .ewma
    else
      let inReq (e : Nat × Request) : Option DataClass :=
        let m := (s.infoOf p e.2.model).getD default
        e.2.layers.zipIdx.findSome? (fun y =>
          let l := y.1
          match l.pages.zipIdx.find? (fun g => g.1.present && decide (g.1.frame ≠ 0) && within a g.1.frame (frameBytes m.frame)) with
          | some g => some (.page e.1 y.2 g.2)
          | none =>
          if within a l.drift (driftBytes m) && decide (l.drift ≠ 0) then some (.drift e.1 y.2)
          else
            let copies : List (Nat × List Nat) := l.blocks.map (fun (b : Nat × List Nat) => (4096, b.2)) ++ [(256, l.dirs)]
            match copies.find? (fun (b : Nat × List Nat) => match b.2 with | f :: _ => within a f b.1 | [] => false) with
            | some (n, f :: g :: _) => some (.table f g n)
            | _ => none)
      (x.requests.findSome? inReq).getD .working

/-- Reissue a task whose data is there again, at most twice (R282, R283). -/
def State.reissueRecovered (s : State) (p : Part) (t : Task) : State :=
  if 2 ≤ t.reissues then s.failTask p t else s.reissue p { t with reissues := t.reissues + 1 }

/-- The first copy of a chunk that SM3 verifies, among those that a neighbour and then the firn tier give (R281); the package
counts those that do not. -/
def State.refetch (s : State) (p : Part) (slot c : Nat) : List (List Byte) → Option (List Byte) × State
  | [] => (none, s)
  | b :: bs => if ((s.part p).slot slot).matches_ c b then (some b, s) else (s.count .wgtVerifyFail p.val 1).refetch p slot c bs

/-- TASK_REISSUE: Nelnus firmware recovers the data of the oldest failed task (R280 to R283, R287). `found` gives what other copies
hold. -/
def execTaskReissue (p : Part) (found : Recovery) (s : State) : Out :=
  inService s (fun s =>
    match (s.part p).recovering with
    | [] => s
    | (t, st, dpa) :: rest =>
      let s := s.modPart p (fun x => { x with recovering := rest })
      match dpa with
      | none => s.failTask p t
      | some a =>
        if st ≠ stUnrecoverable then s.failTask p t
        else
          match s.classOf p a with
          | .weights slot c =>
            match s.refetch p slot c found.chunks with
            | (some bs, s) => (s.placeChunk p slot c bs).reissueRecovered p t
            | (none, s) =>
              let s := s.completeTask p t stUnrecoverable {}
              (s.failTask p t).modPart p (fun x =>
                let y := x.slot slot
                { x.setSlot slot { y with verified := y.verified.filter (fun v => decide (v ≠ c)) } with
                  step := { x.step with blocked := (slot, c) :: x.step.blocked } })
          | .page id l n => (s.recoverKv p id l (some n)).failTask p t
          | .drift id l => (s.recoverKv p id l none).failTask p t
          | .table f g n => (s.writeDpa f (s.readDpa g n)).reissueRecovered p t
          | .ewma => (s.clearEwmaSector a).reissueRecovered p t
          | .working =>
            -- a request table has a second copy, which Nelnus firmware's records place
            match found.twin with
            | some b => (s.writeDpa (a / 64 * 64) (s.readDpa (b / 64 * 64) 64)).reissueRecovered p t
            | none => s.failTask p t)

/-- Every request of a step that failed a third time ends (R286). -/
def State.abandonStep (s : State) (p : Part) : State :=
  let ids := (s.part p).step.batch.map Prod.fst
  let s := s.modPart p (fun x => { x with step := { x.step with running := false, batch := [], halfOf := [], tasks := [], failed := false } })
  ids.foldl (fun s id =>
    match s.req? p id with
    | some r =>
      if r.closing.isSome then s
      else s.closeRequest p id stUnrecoverable .ended 0 ⟨stUnrecoverable, turnInfo r.committed false false, 0, 0, 0⟩
    | none => s) s

/-- A placed task of the step still runs. -/
def State.stepTasksRun (s : State) (p : Part) : Bool :=
  s.tiles.any (fun y => match y.2.run with | some r => r.part = p && r.task.graph.isNone && !r.task.chunk | none => false)

/-- STEP_REPLAY: the placed tasks of a failed step have ended; its unplaced tasks are withdrawn, and it is issued again from its
first task, at most twice (R284 to R286, R711). -/
def execStepReplay (p : Part) (s : State) : Out :=
  inService s (fun s =>
    let x := s.part p
    if !x.step.running || !x.step.failed || x.step.checked || s.stepTasksRun p || x.stepsBlocked || s.groupBroken p || x.advance.running then s
    else
      let s := ((s.withdrawTasks p (fun t => !t.chunk)).modPart p (fun x => { x with exp := { x.exp with halves := [], counts := [] } })).mapsDue p
      if 2 ≤ x.step.replays then s.abandonStep p
      else
        let left (t : Task) : Bool := t.reqs.isEmpty || t.reqs.any (fun i => x.step.batch.any (fun b => decide (b.1 = i)))
        let ts := (x.step.tasks.filter left).map (fun t => { t with desc := { t.desc with epoch := x.epoch } })
        (s.modPart p (fun x => { x with step := { x.step with failed := false, replays := x.step.replays + 1 } })).issueTasks p ts)

end Sys2Proof.Machine
end

