-- ==== Sys2Proof/Machine/Durable.lean ====
section
/-! DEFINITION. What durability brings: flushing reads, durable records and their effects, and the timers of the mirroring
(R732, R737 to R742, R745 to R747, R766). -/

namespace Sys2Proof.Machine

/-! ### The handover of a migrated request (R766) -/

/-- What a source sends a destination: the restore payload, the history, and under COPY_KV the published pages and the drift of
each layer (R766 step 4). -/
def State.handoverBytes (s : State) (id : Nat) (r : Request) (m : ModelInfo) (copy : Bool) : List Byte :=
  restoreBytes (r.restore id) ++ r.tokens.flatMap (fun t => leBytes 4 t.toNat) ++
    (if copy then (r.layers.map (s.layerData m r.committed)).flatMap (fun l => (l.pages.filterMap (fun b => b)).flatten ++ l.drift) else [])

/-- Cut bytes into message payloads of at most 4,096 bytes. -/
def messageParts (bs : List Byte) : List (List Byte) := (List.range ((bs.length + 4095) / 4096)).map (fun i => sliceAt bs (4096 * i) 4096)

/-- Send a request to the destination that asked for it, in its class. -/
def State.sendHandover (s : State) (p : Part) (id : Nat) (r : Request) (n : Node) (a : MigrateAsk) : State :=
  let body := s.handoverBytes id r ((s.infoOf p r.model).getD default) a.copyKv
  let s := s.count .jnlMigratedOut p.val 1
  if s.fabric.fenced.contains n then s else
  (messageParts body).foldl (fun s b => (s.sendAcked tyMsg (if r.be then 2 else 1) n a.destPart 0 (Config.messageKind kindMigrate) b).2) s

/-! ### Durable records (R732, R739, R740) -/

/-- Tokens of a COMMIT record are posted, and a kept turn ends with its last one (R612, R613, R740). -/
def State.commitDurable (s : State) (p : Part) (id first : Nat) (ts : List (W32 × BitVec 16)) : State :=
  match s.req? p id with
  | none => s
  | some r =>
    let s := ts.zipIdx.foldl (fun s t => s.postToken p id (tokenBytes id (first + t.2) t.1.1 (t.1.2 ||| tokCommitted) r.epoch)) s
    let s := s.modReq p id (fun r => { r with undurable := r.undurable - ts.length })
    match s.req? p id with
    | none => s
    | some r =>
      if r.undurable = 0 && r.finalSeen && r.keep && !r.lateFinal && r.closing.isNone && (r.st = .decode || (r.st = .prefill && r.rebuild)) then
        let s := s.modReq p id (fun r => { r with st := .idle, turn := none })
        match r.turn with
        | some o => s.finishOrder p o stOk (turnInfo r.committed true false)
        | none => s
      else s

/-- A CLOSE is durable; a migrated request goes to its destination (R766). -/
def State.closeDurable (s : State) (p : Part) (id : Nat) : State :=
  match s.req? p id, (s.part p).leaving.find? (fun l => decide (l.1 = id)) with
  | some r, some l => (if r.closing.isSome then s.sendHandover p id r l.2.1 l.2.2 else s).requestClosed p id
  | _, _ => s.requestClosed p id

/-- A request is reseeded; after the last one the witness is IN_SYNC (R749). -/
def State.reseeded (s : State) (p : Part) (id : Nat) : State :=
  s.modJnl p (fun j =>
    let left := j.reseedLeft.filter (fun i => decide (i ≠ id))
    { j with reseedLeft := left, witness := if j.witness = .reseeding && left.isEmpty then .inSync else j.witness })

/-- What a durable record brings. -/
def State.durableEffect (s : State) (p : Part) (e : OnDurable) : State :=
  match e with
  | .nothing => s
  | .accept o => s.acceptCommand p o
  | .commit id first ts => s.commitDurable p id first ts
  | .close id => s.closeDurable p id
  | .reseeded id => s.reseeded p id

/-- The first durable record before which no record of its request waits. -/
def firstDurable (solo : Bool) : List PendRec → List Nat → List PendRec → Option (PendRec × List PendRec)
  | [], _, _ => none
  | r :: rs, waiting, before =>
    if r.durable solo && !waiting.contains r.jrec.request then some (r, before ++ rs)
    else firstDurable solo rs (r.jrec.request :: waiting) (before ++ [r])

/-- RECORD_DURABLE: a record is durable; JNL_PI and CMD_ACCEPTED follow, and what waited for it happens (R739). -/
def execRecordDurable (p : Part) (s : State) : Out :=
  inService s (fun s =>
    match firstDurable (s.solo p) (s.part p).jnl.recs [] [] with
    | none => s
    | some (r, rest) =>
      let s := (s.modJnl p (fun j => { j with recs := rest })).publishJournal p
      (s.durableEffect p r.effect).pumpJournal p)

/-- The oldest outstanding flushing read of a partition (R510): whether it is of the WIT ring. -/
def State.oldestFlush (s : State) (p : Part) : Option Bool :=
  (s.host.reads.take 512).findSome? (fun r => match r with
    | .flushing q wit _ => if q = p then some wit else none
    | _ => none)

/-- Drop the oldest flushing read of a partition. -/
def dropFlush (p : Part) : List HostRead → List HostRead
  | [] => []
  | .flushing q w a :: rs => if q = p then rs else .flushing q w a :: dropFlush p rs
  | r :: rs => r :: dropFlush p rs

/-- FLUSHING_READ_DONE: the entries it covers are local-durable, or in the WIT ring acknowledged (R737, R745). -/
def execFlushingReadDone (p : Part) (s : State) : Out :=
  inService s (fun s =>
    match s.oldestFlush p with
    | none => s
    | some wit =>
      let s := { s with host := { s.host with reads := dropFlush p s.host.reads } }
      if wit then
        let x := s.witFlushed p
        x.1.foldl (fun s y => s.claimAnswered y.1 y.2 stOk) x.2
      else s.jnlFlushed p)

/-! ### Timers of the mirroring (R746, R747) -/

/-- The oldest unacknowledged record has passed LAG_US. -/
def State.lags (s : State) (p : Part) : Bool :=
  match (s.part p).jnl.oldestSent with
  | some t => decide (t + s.lagUs p * 1000 < s.now)
  | none => false

/-- The lag has ended: a later one is reported again (R747). -/
def State.lagEnds (s : State) (p : Part) : State :=
  if s.lags p then s else s.modJnl p (fun j => { j with lagSaid := false })

/-- WITNESS_RESEND: records whose packet was refused are sent again after 1 ms (R746). -/
def execWitnessResend (p : Part) (s : State) : Out :=
  inService s (fun s =>
    match ((s.part p).jnl.recs.filterMap PendRec.refusedAt).head? with
    | none => s
    | some t =>
      ((s.advanceTo (t + 1000000)).modJnl p (fun j => { j with
        recs := j.recs.map (fun r => if r.refusedAt.isSome then { r with sent := none, refusedAt := none } else r) })).pumpJournal p)

/-- WITNESS_LAG: the oldest unacknowledged record passes LAG_US (R747). -/
def execWitnessLag (p : Part) (s : State) : Out :=
  inService s (fun s =>
    match (s.part p).jnl.oldestSent with
    | none => s
    | some t =>
      if (s.part p).jnl.lagSaid then s
      else
        ((s.advanceTo (t + s.lagUs p * 1000 + 1)).modJnl p (fun j => { j with lagSaid := true })).raiseEvent p evWitnessLag
          (s.witnessOf p).1.val)

end Sys2Proof.Machine
end

