-- ==== Sys2Proof/Machine/Deliver.lean ====
section
/-! DEFINITION. What the fabric delivers: the outcomes of this node's transfers, packets of TC0 in the order of their XIDs, the
messages of Nelnus firmware, and the loss and fencing of a node (R459 to R470, R493 to R496, R709, R744 to R748, R757, R766). -/

namespace Sys2Proof.Machine

/-! ### Outcomes of this node's transfers -/

/-- A refusal with REJECT_EPOCH of a packet of records ends its request (R758). -/
def State.mirrorEnded (s : State) (p : Part) (xid : W32) : State :=
  match (s.part p).jnl.recs.find? (fun r => decide (r.sent = some xid) && !r.acked) with
  | some r => (s.endUnclosed p r.jrec.request stEpoch).pumpJournal p
  | none => s

/-- The journal of a partition learns the outcome of a transfer. -/
def State.journalOutcome (s : State) (p : Part) (key : Nat) (st : W16) : State :=
  let xid : W32 := BitVec.ofNat 32 (key % 2 ^ 32)
  if xidKey (s.witnessOf p).1 0 xid ≠ key then s
  else ((if st = stEpoch then s.mirrorEnded p xid else s.witnessAnswered p xid st)).lagEnds p

/-- The firmware of a partition learns the outcome of a transfer (R418, R709, R744, R763, R766). -/
def State.partOutcome (s : State) (key : Nat) (st : W16) (p : Part) : State :=
  let s := s.journalOutcome p key st
  let s := match (s.part p).claimsOut.find? (fun c => decide (c.2 = key)) with
    | some c => s.claimAnswered p c.1 st
    | none => s
  let s := match (s.part p).migrations.find? (fun c => decide (c.2 = key)) with
    | some c => if st = stOk then s else s.migrationFails p c.1 st
    | none => s
  (s.switchAnswered p key st).policyAnswered p key st

/-- A transfer of this node has an outcome: whoever waits for it learns it, once (R465, R470). A message of Nelnus firmware and a
packet of the exchange leave nothing else behind. -/
def State.outcome (s : State) (key : Nat) (st : W16) (data : List Byte) : State :=
  match s.fabric.held.find? (fun h => decide (h.key = key)) with
  | none => s
  | some h =>
    let s := s.settle key st data
    let s := if h.pkt.typ = tyMsg || h.pkt.typ = tyExchange then s.dropAnswers [key] else s
    allParts.foldl (fun s p => s.partOutcome key st p) s

/-- ACK (R463). -/
def execAck (u : PortNo) (pkt : Packet) (s : State) : Out :=
  inService s (fun s => s.arriveAs u pkt tyAck (fun s => s.outcome (xidKey pkt.src pkt.tc pkt.arg) stOk []))

/-- READ_DATA (R463). -/
def execReadData (u : PortNo) (pkt : Packet) (s : State) : Out :=
  inService s (fun s => s.arriveAs u pkt tyReadData (fun s => s.outcome (xidKey pkt.src pkt.tc pkt.arg) stOk pkt.payload))

/-- NACK (R463). No node sends one with a status that R587 does not list (R10); such a packet refuses nothing. -/
def execNack (u : PortNo) (pkt : Packet) (s : State) : Out :=
  inService s (fun s => s.arriveAs u pkt tyNack (fun s =>
    if failStatus (pkt.arg.setWidth 16) then s.outcome (xidKey pkt.src pkt.tc pkt.xid) (pkt.arg.setWidth 16) [] else s))

/-! ### Delivery (R460, R461, R468, R469) -/

/-- A source is asked for a request: it refuses, or withdraws the request at its next step boundary (R766 step 2). -/
def State.serveMigrate (s : State) (k : Packet) (a : MigrateAsk) : State :=
  let p := k.part
  let root := (((s.part p).slot 0).head.map Head.root).getD []
  match s.req? p a.request with
  | none => s.refusePacket k stState
  | some r =>
    if r.st = .waiting || r.freezing.isSome || !r.cancel.isEmpty || r.closing.isSome || root ≠ a.root ||
        (s.part p).leaving.any (fun l => decide (l.1 = a.request)) then s.refusePacket k stState
    else if r.epoch ≠ a.epoch then s.refusePacket k stEpoch
    else (s.modPart p (fun x => { x with leaving := x.leaving ++ [(a.request, k.src, a)] })).sendAck k

/-- Serve a READ of a pull: from the slot of the partition whose ROOT begins with ROOT_TAG, in stored form; a chunk that is not
verified there is refused (R692, R702). -/
def State.servePull (s : State) (k : Packet) (ue : Option Nat) (a : PullAsk) : State :=
  let n := k.arg.toNat
  let holds (x : Slot) : Bool := match x.head with
    | some h => decide (fieldAt h.root 0 8 = a.rootTag) && x.verified.contains a.chunk
    | none => false
  match (s.part k.part).slots.find? (fun e => holds e.2) with
  | none => s.sendNack k stState
  | some e =>
    let t := match ue with | some d => { s with found := s.found ++ [d] } | none => s
    match t.chunkUnreadable k.part e.1 a.chunk with
    | some d => (s.noteUnreadable d).sendNack k stUnrecoverable
    | none =>
      let bs := (s.chunkOf k.part e.1 a.chunk).getD []
      if n = 0 || 4096 < n || bs.length < a.offset + n then s.sendNack k stMalformed
      else s.sendPlain tyReadData k.tc k.src k.part 0 0 k.xid (sliceAt bs a.offset n)

/-- Serve a READ. -/
def State.serveAnyRead (s : State) (k : Packet) (ue : Option Nat) (pull : Option PullAsk) : State :=
  match pull with
  | some a => s.servePull k ue a
  | none => s.serveRead k ue

/-- Serve what a delivered packet asks. -/
def State.serveKind (s : State) (k : Packet) (m : MsgKind) : State :=
  match m with
  | .write => s.serveWrite k
  | .read ue pull => s.serveAnyRead k ue pull
  | .mirror => s.serveMirror k
  | .claim a => s.serveClaim k a
  | .migrate a => s.serveMigrate k a
  | .policy a => (s.modExp k.part (fun x => { x with announced := x.announced ++ [⟨a, k.src⟩] })).sendAck k
  | .switch a =>
    let y := s.takeSwitch k.part a
    if y.1 then y.2.sendAck k else y.2.refusePacket k stState
  | .map a => (s.modExp k.part (fun x => { x with nextMaps := x.nextMaps ++ [a] })).sendAck k

/-- Deliver packets that were held for a gap, once it has filled (R469). -/
def State.deliverHeld (src : Node) (tc : Fin 4) : Nat → State → State
  | 0, s => s
  | n + 1, s =>
    let r := dget s.fabric.xidRecs (recKey src tc) {}
    match r.heldBack.find? (fun h => decide (h.2.xid = r.next)) with
    | some h => State.deliverHeld src tc n ((s.modRec h.2 (fun r => r.note h.2)).serveKind h.2 h.1)
    | none => s

/-- A packet's acknowledgement is still to come (R745): a repeat of it is not answered. -/
def State.stillServed (s : State) (k : Packet) : Bool :=
  (s.part k.part).jnl.witQueue.any (fun w => match w.pkt with | some q => decide (q.src = k.src) && decide (q.tc = k.tc) && decide (q.xid = k.xid) | none => false)

/-- A packet of an acknowledged type arrives for this node (R468, R469). -/
def State.deliver (s : State) (k : Packet) (m : MsgKind) : State :=
  match (dget s.fabric.xidRecs (recKey k.src k.tc) {}).judge k with
  | .now => State.deliverHeld k.src k.tc 256 ((s.modRec k (fun r => r.note k)).serveKind k m)
  | .hold => s.modRec k (fun r => { r with heldBack := r.heldBack ++ [(m, k)] })
  | .again =>
    (match m with
    | .read ue pull => s.serveAnyRead k ue pull
    | _ => if s.stillServed k then s else s.answerAgain k)
  | .drop => s

/-- WRITE (R460, R461). -/
def execWrite (u : PortNo) (pkt : Packet) (s : State) : Out :=
  inService s (fun s => s.arriveAs u pkt tyWrite (fun s => s.deliver pkt .write))

/-- READ (R460 to R462, R702). -/
def execRead (u : PortNo) (pkt : Packet) (ue : Option Nat) (pull : Option PullAsk) (s : State) : Out :=
  inService s (fun s =>
    -- a READ of a page under copy, or of a channel or granule under test, waits (R253, R845)
    if pull.isNone && s.heldAt (dpaOf pkt.addr) (min pkt.arg.toNat 4096) then s
    else s.arriveAs u pkt tyRead (fun s => s.deliver pkt (.read ue pull)))

/-- WITNESS_MIRROR (R745, R746). -/
def execWitnessMirror (u : PortNo) (pkt : Packet) (s : State) : Out :=
  inService s (fun s => s.arriveAs u pkt tyMsg (fun s => s.deliver pkt .mirror))

/-- CLAIM (R757). -/
def execClaim (u : PortNo) (pkt : Packet) (a : ClaimAsk) (s : State) : Out :=
  inService s (fun s => s.arriveAs u pkt tyMsg (fun s => s.deliver pkt (.claim a)))

/-- MIGRATE_ASK (R766). -/
def execMigrateAsk (u : PortNo) (pkt : Packet) (a : MigrateAsk) (s : State) : Out :=
  inService s (fun s => s.arriveAs u pkt tyMsg (fun s => s.deliver pkt (.migrate a)))

/-- MAP_ANNOUNCE (R394). -/
def execMapAnnounce (u : PortNo) (pkt : Packet) (a : MapAsk) (s : State) : Out :=
  inService s (fun s => s.arriveAs u pkt tyMsg (fun s => s.deliver pkt (.map a)))

/-- POLICY_ANNOUNCE (R418). -/
def execPolicyAnnounce (u : PortNo) (pkt : Packet) (a : PolicyAsk) (s : State) : Out :=
  inService s (fun s => s.arriveAs u pkt tyMsg (fun s => s.deliver pkt (.policy a)))

/-- SWITCH_ANNOUNCE (R709). -/
def execSwitchAnnounce (u : PortNo) (pkt : Packet) (a : SwitchAsk) (s : State) : Out :=
  inService s (fun s => s.arriveAs u pkt tyMsg (fun s => s.deliver pkt (.switch a)))

/-! ### Loss and fencing of a node (R470, R494, R496, R748, R772) -/

/-- A partition loses a node: as witness, as source or receiver of weights, as member of its expert group, as destination of a
migration. -/
def State.partLoses (s : State) (n : Node) (p : Part) : State :=
  let s := if s.witnessValid p && (s.witnessOf p).1 = n && s.mirrors p then s.witnessLost p else s
  let s := s.loadsLose p n
  let s := s.modPart p (fun x => { x with leaving := x.leaving.filter (fun l =>
    !(decide (l.2.1 = n) && (match dget? x.requests l.1 with | some r => r.closing.isNone | none => true))) })
  if !(s.part p).exp.members.contains n then s
  else
    let i := s.mainInfo p
    let mine := (s.part p).exp.replicas.filter (fun r => r.2.contains n && decide (homeOf i (r.1 / 4096) (r.1 % 4096) = s.self))
    let s := s.failStep p
    if mine.isEmpty then s else s.announceMap p (mine.map (fun r => (r.1, r.2.filter (fun m => decide (m ≠ n)))))

/-- Steps 1 to 4 of R494, with everything that waits for the node. -/
def State.loseNode (s : State) (n : Node) : State :=
  let lost := s.fabric.held.filter (fun h => decide (h.pkt.dst = n))
  let keys := lost.map Held.key
  let s := (s.cutOff n).dropAnswers ((lost.filter (fun h => h.pkt.typ = tyMsg || h.pkt.typ = tyExchange)).map Held.key)
  let s := keys.foldl (fun s k => allParts.foldl (fun s p => s.partOutcome k stNodeLost p) s) s
  allParts.foldl (fun s p => s.partLoses n p) s

/-- NODE_LOST: the grace timer of a destination expires (R494). -/
def execNodeLost (n : Node) (s : State) : Out :=
  inService s (fun s =>
    match dget? s.fabric.losing n.val with
    | none => s
    | some t =>
      ((((s.advanceTo (t + s.regBits .uagLostCfg 0 0 16 * 1000)).loseNode n).raisePackage evNodeLost n.val)).raisePackage evNodeFenced n.val)

/-- A write of UAG_FENCE_SET (R496). A node already fenced stays so. -/
def State.fenceSet (s : State) (v : Nat) : State :=
  let n : Node := Fin.ofNat 512 (v % 512)
  if !bitOf v 31 || s.fabric.fenced.contains n then s else (s.loseNode n).raisePackage evNodeFenced n.val

/-- UAG_FENCE_SET. -/
def execUagFenceSet (v : W32) (s : State) : Out := inService s (fun s => s.fenceSet v.toNat)

end Sys2Proof.Machine
end

