-- ==== Sys2Proof/Machine/Security.lean ====
section
/-! DEFINITION. Fuses, the boot chain, publisher keys, presence, gated commands and the quote (chapter 15). -/

namespace Sys2Proof.Machine

/-- Change the security state. -/
def State.modSec (s : State) (f : Security → Security) : State := { s with sec := f s.sec }

/-! ### Fuses (R873 to R876) -/

/-- A word of the record area; an unburned word reads 0. -/
def Security.fuseWord (x : Security) (i : Nat) : W32 := dget x.fuses i 0

/-- The committed records from word `i` on: kind and data words. A word that heads no committed record is passed over
(R875, R790). DEDUCED (log entry 9): the search goes on at the next word. -/
def Security.records (x : Security) : Nat → Nat → List (Nat × List W32)
  | 0, _ => []
  | n + 1, i =>
    if 1024 ≤ i then []
    else
      let h := (x.fuseWord i).toNat
      let len := bitsOf h 8 8
      if bitsOf h 16 16 = 0x4652 && i + len + 1 < 1024 && x.fuseWord (i + len + 1) = 0x4D4D4F43 then
        (bitsOf h 0 8, (List.range len).map (fun k => x.fuseWord (i + 1 + k))) :: x.records n (i + len + 2)
      else x.records n (i + 1)

/-- Every committed record. -/
def Security.committed (x : Security) : List (Nat × List W32) := x.records 1024 0

/-- The rollback counter: the largest VALUE among committed ROLLBACK records (R876). -/
def Security.rollback (x : Security) : Nat :=
  (x.committed.filter (fun r => decide (r.1 = 1) && decide (r.2.length = 1))).foldl (fun m r => max m (r.2.headD 0).toNat) 0

/-- The digest of the first committed ENDORSE record (R876). -/
def Security.endorsement (x : Security) : Option (List Byte) :=
  (x.committed.find? (fun r => decide (r.1 = 2) && decide (r.2.length = 8))).map (fun r => r.2.flatMap (fun w => leBytes 4 w.toNat))

/-- The first word after the last word that has any bit burned (R875). -/
def Security.fuseNext (x : Security) : Nat := x.fuses.foldl (fun m e => if e.2 = 0 then m else max m (e.1 + 1)) 0

/-- Unburned words in the record area (SEC_FUSE_FREE). -/
def Security.fuseFree (x : Security) : Nat := 1024 - (x.fuses.filter (fun e => e.2 ≠ 0)).length

/-! ### Firmware slots and the boot ROM (R877 to R884) -/

/-- Fields of a slot, by slot offset (R877). -/
def FlashSlot.svn (f : FlashSlot) : Nat := fieldAt f.header 0x00 4
def FlashSlot.imageBytes (f : FlashSlot) : Nat := fieldAt f.header 0x04 4
def FlashSlot.fwVersion (f : FlashSlot) : W32 := BitVec.ofNat 32 (fieldAt f.header 0x08 4)
def FlashSlot.vendorKey (f : FlashSlot) : List Byte := sliceAt f.header 0x10 64
def FlashSlot.imageDigest (f : FlashSlot) : List Byte := sliceAt f.header 0x50 32
def FlashSlot.signature (f : FlashSlot) : List Byte := sliceAt f.header 0x70 64

/-- The checks of R879 on key, signature and body. -/
def Security.imageOk (x : Security) (f : FlashSlot) : Bool :=
  decide (sm3 f.vendorKey = x.vendorDigest) && sm2Verify defaultDistId f.vendorKey (f.header.take 0x70) f.signature &&
    decide (sm3 f.body = f.imageDigest)

/-- The boot ROM finds a slot verified (R879). -/
def Security.slotOk (x : Security) (f : FlashSlot) : Bool :=
  f.magicOk && f.valid && x.imageOk f && decide (x.rollback ≤ f.svn)

/-- The slot the ROM runs (R880): the verified one with the higher SEQ, A when they are equal; `true` is slot B. -/
def Security.chooseSlot (x : Security) : Option Bool :=
  let a := x.slotOk x.slotA
  let b := x.slotOk x.slotB
  if a && b then some (decide (x.slotA.seq < x.slotB.seq)) else if a then some false else if b then some true else none

/-- The slot with a name. -/
def Security.slot (x : Security) (b : Bool) : FlashSlot := if b then x.slotB else x.slotA

/-- Layer 0 (R883, R884): identity key, M_FW, CDI, alias key and certificate; then reads of the UDS are locked. -/
def Security.dice (x : Security) (f : FlashSlot) : Security :=
  let id := derivedKey x.uds "LK5-DEVID"
  let mfw := sm3 (f.header ++ f.body)
  let cdi := hmacSm3 x.uds (mfw ++ leBytes 4 f.svn)
  let alias_ := derivedKey cdi "LK5-ALIAS"
  { x with mfw := mfw, aliasKey := alias_, aliasCert := Config.aliasCert id (sm2Public alias_) mfw f.svn, udsLocked := true,
           runningSvn := f.svn, runningSeq := f.seq }

/-- Power-up stops short of READY (R921, R957). -/
def State.bootFail (s : State) (cause : Nat) : State :=
  { s with boot := { s.boot with phase := .bootFailed, bootPhase := 5, cause := cause, faultN := true } }

/-- Presence at a power-up, from the level of PRESENCE_N (R890 to R892): none is open in button mode, an asserted jumper
opens it after the debounce, a loop already broken opens it in seal-loop mode. `cold` clears what a broken seal left. -/
def Security.presenceAtBoot (x : Security) (b : BootIn) (cold : Bool) : Security :=
  let broken := (b.presMode = 2 && !b.presenceLevel) || (!cold && x.sealBroken && b.presMode = 2)
  { x with presMode := b.presMode, presLevel := b.presenceLevel, pressed := false, windowEnd := 0, debugOpen := 0,
           sealBroken := broken || (!cold && x.sealBroken),
           present := (b.presMode = 1 && b.presenceLevel) || broken }

/-- The boot ROM on control core 0 (R879 to R884, R916, R917): an opening of presence is raised (R893; one that a warm reset
leaves open is none), and the ROM reads fuses, chooses and verifies a slot, derives the
identity, and hands over to BIST. -/
def State.bootRom (s : State) (b : BootIn) (cold : Bool) : State :=
  let stays := !cold && s.sec.sealBroken && b.presMode = 2
  let s := s.modSec (fun x => x.presenceAtBoot b cold)
  let s := if s.sec.present && !stays then s.raisePackage evPresenceOpen 0 b.presMode.toNat else s
  let s := { s with boot := { s.boot with phase := .booting, bootPhase := 1, cause := 0, slotId := b.slotId, faultN := false,
                                          thermtripN := false, sealAtBoot := b.presMode = 2 && !b.presenceLevel } }
  if b.fuseError then (s.modSec (fun x => { x with bootCause := 2 })).bootFail 2
  else
    let s := s.modSec (fun x => { x with aValid := x.slotOk x.slotA, bValid := x.slotOk x.slotB })
    match s.sec.chooseSlot with
    | none => (s.modSec (fun x => { x with bootCause := 1 })).bootFail 1
    | some sl =>
      let s := s.modSec (fun x => x.dice (x.slot sl))
      { s with boot := { s.boot with bootPhase := 2, slotB := sl, fwVersion := (s.sec.slot sl).fwVersion } }

/-! ### Publisher keys (R886 to R889) -/

/-- INSTALL_PUBLISHER_KEY (R887, R888). -/
def execInstallPublisherKey (p : Part) (ring : CmdRing) (s : State) : Out :=
  inService s (fun s => runCmd s p ring opInstallKey (fun s c =>
    let op := c.field 0x10 1
    let ix := c.field 0x11 1
    let idLen := c.field 0x12 1
    let keyId := BitVec.ofNat 64 (c.field 0x18 8)
    let key := c.bytes 0x20 64
    let dist := c.bytes 0x60 32
    if !c.indirect || c.xbytes ≠ 128 then s.malformed p c 0x0A
    else if 1 < op then s.malformed p c 0x10
    else if 15 < ix then s.malformed p c 0x11
    else if 32 < idLen then s.malformed p c 0x12
    else if op = 1 then
      if keyId ≠ 0 then s.malformed p c 0x18
      else if !allZero key then s.malformed p c 0x20
      else if !allZero (dist.drop idLen) then s.malformed p c 0x60
      else
        match dget? s.sec.keys ix with
        | none => s.finish p c stState
        | some _ => (s.modSec (fun x => { x with keys := derase x.keys ix })).finish p c stOk
    else if (sm2Point key).isNone then s.malformed p c 0x20
    else if !allZero (dist.drop idLen) then s.malformed p c 0x60
    else if (dget? s.sec.keys ix).isSome || s.sec.keys.any (fun e => decide (e.2.keyId = keyId)) then s.finish p c stState
    else
      (s.modSec (fun x => { x with keys := dset x.keys ix ⟨keyId, key, if idLen = 0 then defaultDistId else dist.take idLen⟩ })).finish
        p c stOk))

/-! ### Presence (R890 to R893) -/

/-- Presence opens. -/
def State.openPresence (s : State) : State :=
  if s.sec.present then s
  else (s.modSec (fun x => { x with present := true })).raisePackage evPresenceOpen 0 s.sec.presMode.toNat

/-- Presence closes, and with it any opened debug access (R893, R904). -/
def State.closePresence (s : State) : State :=
  if s.sec.present then
    (s.modSec (fun x => { x with present := false, debugOpen := 0 })).raisePackage evPresenceClosed 0 s.sec.presMode.toNat
  else s

/-- A debounced level of PRESENCE_N (R890, R891). -/
def State.presenceLevel (s : State) (level : Bool) : State :=
  if s.sec.presLevel = level then s
  else
    let s := s.modSec (fun x => { x with presLevel := level })
    if s.sec.presMode = 0 then
      if level then
        s.modSec (fun x => { x with pressed := true, windowEnd := if x.present then s.now + 120000000000 else x.windowEnd })
      else if s.sec.pressed then
        (s.openPresence).modSec (fun x => { x with pressed := false, windowEnd := s.now + 120000000000 })
      else s
    else if s.sec.presMode = 1 then (if level then s.openPresence else s.closePresence)
    else if s.sec.presMode = 2 then
      if level || s.sec.sealBroken then s
      else ((s.modSec (fun x => { x with sealBroken := true })).raisePackage evSealBroken 0).openPresence
    else s

/-- PRESENCE_N changes its debounced level (R890). -/
def execPresenceNChange (level : Bool) (s : State) : Out :=
  served s (if s.boot.phase = .off then s else s.presenceLevel level)

/-- The 120 s window of button mode expires (R890). -/
def execPresenceWindowExpiry (s : State) : Out :=
  served s (
    if !(s.boot.phase = .off) && s.sec.presMode = 0 && s.sec.present then (s.advanceTo s.sec.windowEnd).closePresence
    else s)

/-! ### Gated commands (R894 to R904) -/

/-- A FLASH_UPDATE or FUSE_COMMIT is in progress (R895). -/
def Security.writing (x : Security) : Bool := x.flash.isSome || x.fuse.isSome

/-- The image that FLASH_UPDATE reads: 192 header bytes, then the body (R877). -/
def imageOf (bs : List Byte) : FlashSlot := { magicOk := true, valid := false, header := bs.take 192, body := bs.drop 192 }

/-- 4 KiB pages of a body. -/
def bodyPages (n : Nat) : Nat := (n + 4095) / 4096

/-- Replace a firmware slot, and forget that it verified. -/
def Security.setSlot (x : Security) (b : Bool) (f : FlashSlot) : Security := if b then { x with slotB := f } else { x with slotA := f }

/-- SLOT_A_VALID or SLOT_B_VALID. -/
def Security.setValid (x : Security) (b v : Bool) : Security := if b then { x with bValid := v } else { x with aValid := v }

/-- Begin a flash write. -/
def Security.setFlash (x : Security) (j : FlashJob) : Security := { x with flash := some j }

/-- FLASH_UPDATE (R787, R895 to R898): the checks, then the erasure of the slot's first page, which leaves STATE
invalid. -/
def execFlashUpdate (p : Part) (ring : CmdRing) (image : HostData) (s : State) : Out :=
  inService s (fun s => runCmd s p ring opFlash (fun s c =>
    let slot := c.field 0x10 1
    match image with
    | .failed => s.malformed p c 0x18
    | .bytes bs =>
      let f := imageOf bs
      if 1 < slot then s.malformed p c 0x10
      else if c.field 0x18 8 % 4096 ≠ 0 then s.malformed p c 0x18
      else if f.imageBytes = 0 || 0x1FFF000 < f.imageBytes || c.field 0x20 4 ≠ 192 + f.imageBytes then s.malformed p c 0x20
      else if !s.sec.present then s.finish p c stPresence
      else if s.power.supplyLow then (s.count .pwrNvHalt 0 1).finish p c stSupply
      else if s.sec.writing then s.finish p c stState
      else if slot = (if s.boot.slotB then 1 else 0) || f.svn < s.sec.rollback then s.finish p c stState
      else if !s.sec.imageOk f then s.finish p c stSignature
      else
        let b := decide (slot = 1)
        (s.modSec (fun x => ((x.setSlot b { x.slot b with valid := false }).setValid b false).setFlash
          { part := some p, cmd := c.order, slotB := b, image := f, pages := bodyPages f.body.length })).setStage p c.order .running))

/-- A flash write ends: its command completes. -/
def State.endFlash (s : State) (j : FlashJob) (status : W16) (info result : Nat) : State :=
  let s := s.modSec (fun x => { x with flash := none })
  match j.part with
  | some p => s.finishOrder p j.cmd status info result
  | none => s

/-- A 4 KiB page program ends (R788, R898, R899). After the body pages the digest is checked and the first page is
programmed with STATE VALID and SEQ. At this safe point an update halts if supply low began meanwhile. -/
def execFlashPageProgrammed (page : HostData) (s : State) : Out :=
  inService s (fun s =>
    match s.sec.flash with
    | none => s
    | some j =>
      if j.done < j.pages then
        let bs := match page with | .bytes b => b.take 4096 | .failed => []
        let j := { j with done := j.done + 1, written := j.written ++ bs }
        let s := s.modSec (fun x => { x with flash := some j })
        if j.halt then (s.count .pwrNvHalt 0 1).endFlash j stSupply j.done 0
        else if j.done = j.pages && sm3 (j.written.take j.image.body.length) ≠ j.image.imageDigest then s.endFlash j stSignature 0 0
        else s
      else
        let s := s.modSec (fun x => (x.setSlot j.slotB { j.image with valid := true, seq := x.runningSeq + 1, body := j.written.take j.image.body.length }).setValid
          j.slotB true)
        s.endFlash j stOk 0 j.pages)

/-- The words of a fuse record (R875, R900). -/
def fuseWords (kind : Nat) (data : List W32) : List W32 :=
  BitVec.ofNat 32 (kind + 256 * data.length + 65536 * 0x4652) :: (data ++ [0x4D4D4F43])

/-- FUSE_COMMIT (R787, R895, R900, R901). -/
def execFuseCommit (p : Part) (ring : CmdRing) (s : State) : Out :=
  inService s (fun s => runCmd s p ring opFuse (fun s c =>
    let op := c.field 0x10 1
    let force := bitOf (c.field 0x11 1) 0
    let value := c.field 0x14 4
    let digest := c.bytes 0x18 32
    let words := if op = 1 then fuseWords 1 [BitVec.ofNat 32 value]
      else fuseWords 2 ((List.range 8).map (fun i => BitVec.ofNat 32 (leNat (sliceAt digest (4 * i) 4))))
    let other := s.sec.slot (!s.boot.slotB)
    let otherValid := if s.boot.slotB then s.sec.aValid else s.sec.bValid
    if op ≠ 1 && op ≠ 2 then s.malformed p c 0x10
    else if op = 1 && (value = 0 || 65535 < value) || op = 2 && value ≠ 0 then s.malformed p c 0x14
    else if op = 1 && !allZero digest then s.malformed p c 0x18
    else if !s.sec.present then s.finish p c stPresence
    else if s.power.supplyLow then (s.count .pwrNvHalt 0 1).finish p c stSupply
    else if s.sec.writing then s.finish p c stState
    else if op = 1 && (value ≤ s.sec.rollback || s.sec.runningSvn < value || (otherValid && other.svn < value && !force)) then
      s.finish p c stState
    else if op = 2 && s.sec.endorsement.isSome then s.finish p c stState
    else if 1024 < s.sec.fuseNext + words.length then s.finish p c stNoCapacity
    else
      (s.modSec (fun x => { x with fuse := some { part := p, cmd := c.order, at_ := x.fuseNext, words := words,
                                                  rollback := decide (op = 1) } })).setStage p c.order .running))

/-- A fuse word burn ends (R788, R790, R902). -/
def execFuseWordBurned (s : State) : Out :=
  inService s (fun s =>
    match s.sec.fuse with
    | none => s
    | some j =>
      let i := j.at_ + j.done
      let s := s.modSec (fun x => { x with fuses := dset x.fuses i (x.fuseWord i ||| j.words.getD j.done 0),
                                            fuse := some { j with done := j.done + 1 } })
      if j.done + 1 = j.words.length then
        (s.modSec (fun x => { x with fuse := none })).finishOrder j.part j.cmd stOk 0
          (if j.rollback then s.sec.rollback else j.words.length)
      else if j.halt then
        ((s.modSec (fun x => { x with fuse := none })).count .pwrNvHalt 0 1).finishOrder j.part j.cmd stSupply (j.done + 1)
      else s)

/-- DEBUG_UNLOCK (R895, R903, R904). -/
def execDebugUnlock (p : Part) (ring : CmdRing) (s : State) : Out :=
  inService s (fun s => runCmd s p ring opDebug (fun s c =>
    let scope := c.field 0x10 1
    if scope = 0 || 3 < scope then s.malformed p c 0x10
    else if !s.sec.present then s.finish p c stPresence
    else
      (s.modSec (fun x => { x with debugOpen := x.debugOpen ||| BitVec.ofNat 2 scope, debugEver := true })).finish p c stOk))

/-- IDCODE (R964): version 0x1, part number 0x4C05, Chaold's JEDEC manufacturer identity, and 1. -/
def idcode : W32 := (0x1 : BitVec 4) ++ (0x4C05 : BitVec 16) ++ Config.jedecId ++ (1 : BitVec 1)

/-- An instruction of the JTAG TAP takes effect (R963, R966): EXTEST, INTEST and CLAMP take the lands from the functional
logic; BYPASS, IDCODE and SAMPLE/PRELOAD disturb nothing; the debug instructions act on the control cores when they
are opened (R903), and their effect there is not described. -/
def execTapInstruction (i : TapInstr) (s : State) : Out :=
  served s (
    if s.boot.phase = .off then s
    else
      match i with
      | .extest | .intest | .clamp => { s with boot := { s.boot with landsTaken := true, tap := i } }
      | .bypass | .samplePreload => { s with boot := { s.boot with tap := i, tapOut := none } }
      | .idcode => { s with boot := { s.boot with tap := i, tapOut := some idcode } }
      | .debug => if s.sec.debugOpen.getLsbD 0 then { s with boot := { s.boot with tap := i } } else s
      | .coreAccess => if s.sec.debugOpen.getLsbD 1 then { s with boot := { s.boot with tap := i } } else s
      | .trst => { s with boot := { s.boot with tap := .idcode, tapOut := some idcode } })

/-! ### Recovery (R882) -/

/-- SEC_RECOVERY_CTRL.GO in the boot-failed state of R881 with presence open (R882): the image is checked as FLASH_UPDATE
checks it and written into slot A; then the ROM performs a cold power-up of its own. -/
def State.recover (s : State) (image : HostData) (b : BootIn) : State :=
  let fail (st : W16) : State := s.modSec (fun x => { x with recResult := st })
  match image with
  | .failed => fail stMalformed
  | .bytes bs =>
    let f := imageOf bs
    if f.imageBytes = 0 || 0x1FFF000 < f.imageBytes || bs.length ≠ 192 + f.imageBytes then fail stMalformed
    else if f.svn < s.sec.rollback then fail stState
    else if !s.sec.imageOk f then fail stSignature
    else
      let s := s.modSec (fun x => { x with slotA := { f with valid := true, seq := x.runningSeq + 1 } })
      (s.powerDown false).bootRom b true

/-- Recovery may start: BOOT_FAILED with cause 1 or 2, presence open (R881, R882). -/
def State.mayRecover (s : State) : Bool :=
  s.boot.phase = .bootFailed && (s.boot.cause = 1 || s.boot.cause = 2) && s.sec.present && !s.sec.recBusy

def execSecRecoveryGo (image : HostData) (b : BootIn) (s : State) : Out :=
  served s (if s.mayRecover then s.recover image b else s)

/-! ### ATTEST_QUOTE (R905 to R911) -/

/-- A measurement entry: 48 bytes (R908). -/
def quoteEntry (kind part slot info aux : Nat) (digest : List Byte) : List Byte :=
  [BitVec.ofNat 8 kind, BitVec.ofNat 8 part, BitVec.ofNat 8 slot, 0] ++ leBytes 4 info ++ leBytes 8 aux ++ padTo digest 32

/-- Code of WGT_SLOT_STATE.STATE (R724). -/
def slotCode : SlotSt → Nat
  | .empty => 0
  | .opened => 1
  | .complete => 2
  | .active => 3
  | .draining => 4

/-- A slot lies in the firn extent: a resting variant of a SWAP partition (R672, WGT_SLOT_STATE.TIER). -/
def Slot.inFirn (x : Slot) : Bool := decide (0x10000000000 ≤ x.base)

/-- What WGT_SLOT_STATE reads for a slot (R724). -/
def Slot.stateWord (x : Slot) : Nat := slotCode x.st + (if x.inFirn then 8 else 0)

/-- The entries of kinds 3 and 4 of one partition. -/
def State.slotEntries (s : State) (p : Part) (kind : Nat) : List (List Byte) :=
  (s.part p).slots.filterMap (fun e =>
    let x := e.2
    if kind = 3 then
      if (e.1 = 0 || e.1 = 2) && decide (x.st = .active) then
        some (quoteEntry 3 p.val e.1 (s.part p).gen x.base x.programDigest)
      else none
    else if decide (x.st = .empty) then none
    else some (quoteEntry 4 p.val e.1 x.stateWord x.shard ((x.head.map Head.root).getD [])))

/-- Every measurement entry of a kind, in the order of R908. -/
def State.entriesOfKind (s : State) (ps : List Part) (k : Nat) : List (List Byte) :=
  if k = 1 then [quoteEntry 1 0xFF 0xFF 0 0 Config.romDigest]
  else if k = 2 then [quoteEntry 2 0xFF 0xFF s.sec.runningSvn s.sec.runningSeq s.sec.mfw]
  else if k = 3 || k = 4 then ps.flatMap (fun p => s.slotEntries p k)
  else if k = 5 then s.sec.keys.map (fun e => quoteEntry 5 0xFF 0xFF e.1 e.2.keyId.toNat (sm3 (e.2.key ++ e.2.distId)))
  else if k = 6 then (s.sec.endorsement.map (quoteEntry 6 0xFF 0xFF 0 0)).toList
  else [quoteEntry 7 0xFF 0xFF s.sec.rollback 0 []]

/-- The quote up to its signature (R907). -/
def State.quoteBody (s : State) (p : Part) (nonce : List Byte) (select : Nat) (allP : Bool) : List Byte :=
  let ps := if allP then allParts else [p]
  let kinds := [1, 2, 3, 4, 5, 6, 7].filter (fun k => select = 0 || bitOf select (k - 1))
  let es := kinds.flatMap (s.entriesOfKind ps)
  let x := s.sec
  let flags := (if x.debugOpen ≠ 0 then 1 else 0) + (if x.debugEver then 2 else 0) + (if x.sealBroken then 4 else 0) +
    (if x.present then 8 else 0)
  let certOff := 0x60 + 48 * es.length
  let sigOff := certOff + x.aliasCert.length
  leBytes 4 0x54514B4C ++ leBytes 2 1 ++ leBytes 2 flags ++ leBytes 2 es.length ++ leBytes 2 p.val ++ leBytes 4 (sigOff + 64) ++
    leBytes 8 s.time ++ leBytes 8 Config.serial.toNat ++ padTo nonce 32 ++ leBytes 4 certOff ++ leBytes 4 x.aliasCert.length ++
    leBytes 4 sigOff ++ List.replicate 20 0 ++ es.flatten ++ x.aliasCert

/-- ATTEST_QUOTE (R905 to R911). -/
def execAttestQuote (p : Part) (ring : CmdRing) (s : State) : Out :=
  inService s (fun s => runCmd s p ring opAttest (fun s c =>
    let addr := c.field 0x30 8
    let allP := bitOf (c.field 0x3D 1) 0
    if addr % 64 ≠ 0 then s.malformed p c 0x30
    else if allP && (s.vfOf p).isSome then s.finish p c stState
    else
      let body := s.quoteBody p (c.bytes 0x10 32) (c.field 0x3C 1) allP
      let total := body.length + 64
      if c.field 0x38 4 < total then s.finish p c stNoCapacity total 0
      else
        let sig := padTo (Config.sm2Sign s.sec.aliasKey body s.free) 64
        (({ s with free := s.free + 1 }).hostWrite addr (body ++ sig)).finish p c stOk 0 total))

end Sys2Proof.Machine
end

