-- ==== Sys2Proof/Machine/Resets.lean ====
section
/-! DEFINITION. Power-up, the resets of R924 and what each keeps (chapter 16), and the placement epoch (R643, R644). -/

namespace Sys2Proof.Machine

/-! ### Partition reset and FLR (R924, R925, R929 to R931) -/

/-- The RC counters of a partition (R925). -/
def partCounters : List RegName :=
  [.numWidenCount, .numUnwidenableCount, .numRelocateCount, .numExhaustedCount, .memUeCount, .memRecoveredCount,
   .kvFlushCount, .kvReleaseCount, .kvDemoteCount, .kvFreezeCount, .expHotCount, .expFetchMissCount, .expExtraCount,
   .expMovedCount, .expDropCount, .specDrafted, .specAccepted, .specSuspendCount, .exitCount, .ringEvtDropped,
   .partPreemptCount, .partPromoteCount, .partBoundOver, .partExpired, .wgtVerifyFail, .wgtChunksDone, .jnlLagMax,
   .jnlWitReceived, .jnlWitRefused, .jnlRestored, .jnlMigratedOut]

/-- Counters to zero, WATCH_EN cleared (R925). -/
def State.clearPartRegs (s : State) (p : Part) : State :=
  (partCounters.foldl (fun s n => s.clearReg n p.val) s).setRegBits .numCfg p.val 20 1 0

/-- What a partition reset leaves of a partition: its epoch, its ice cores, and what is still to be found at a retained
load. DESIGN CHOICE (log entry 97): of the RO fields that count events, which the manual names neither with the RC counters
that a partition reset zeroes nor with the RO registers that report state, PART_CTRL.UNHANDLED is kept, and RING_CTRL.UNHANDLED
and WGT_GEN start again at 0 with the rings and slots they belong to. The take order goes on, so that no command of before the reset is mistaken for a later one. -/
def Partition.afterReset (x : Partition) : Partition :=
  { fn := x.fn.onReset, refused := x.refused, epoch := x.epoch, takeCount := x.takeCount,
    kv := { ice := x.kv.ice, bounds := x.kv.bounds }, retained := x.retained }

/-- Pending bits of a partition's vectors are cleared (R925). -/
def State.clearPendingBits (s : State) (p : Part) : State :=
  (List.range 16).foldl (fun s v =>
    let x := s.vectorOf p v
    let k := msixKey x.1 x.2
    match dget? s.host.msix k with
    | some e => { s with host := { s.host with msix := dset s.host.msix k { e with pending := false } } }
    | none => s) s

/-- A host read belongs to a partition. -/
def HostRead.ofPart (p : Part) : HostRead → Bool
  | .doorbell q => decide (q = p)
  | .descriptor q _ => decide (q = p)
  | .indirect q _ => decide (q = p)
  | .flushing q _ _ => decide (q = p)

/-- A read of a descriptor, whose command is taken although what it is stays to be read (R559). -/
def HostRead.isDescriptor : HostRead → Bool
  | .descriptor .. => true
  | _ => false

/-- Steps 1 to 4 of R929; with `flr` step 4 is left out and nothing more is written to host memory (R931). The partition
shows QUIESCING, with its enable gone, until the epoch advance completes (R930). -/
def State.startPartReset (s : State) (p : Part) (flr : Bool) : State :=
  if (s.part p).advance.reset then s
  else
    let s := s.modPart p (fun x => { x with
      fn := { x.fn.onReset with st := .quiescing }, advance := { x.advance with reset := true }, doorbellPending := false, graphs := [],
      rings := if flr then Vector.replicate 13 {} else x.rings })
    let s := { s with host := { s.host with reads := s.host.reads.filter (fun r => !r.ofPart p || (!flr && r.isDescriptor)) } }
    let s := (s.clearPendingBits p).advanceEpoch p false
    let cs := (s.part p).cmds.filter (fun c => !(c.stage = .fetching))
    let s := s.modPart p (fun x => { x with
      requests := [], jnl := {}, loads := [], switch := none, swap := none, migrations := [], doorbellIssued := 0,
      lcQ := [], beQ := [], fwWait := [], recovering := [], step := {}, cmds := if flr then [] else x.cmds })
    if flr then s else cs.foldl (fun s c => s.finishOrder p c.order stPartReset) s

/-- What JNL_STATUS.WITNESS shows after a partition reset: JNL_WITNESS and JNL_CFG are kept, and no live request is left to reseed
(R748, R749, R925; DEDUCED, log entry 111). -/
def State.witnessKept (s : State) (p : Part) : WitSt :=
  if !s.witnessValid p || s.solo p then .none
  else if s.fabric.fenced.contains (s.witnessOf p).1 then .lost else .inSync

/-- Steps 5 and 6 of R929. -/
def State.endPartReset (s : State) (p : Part) : State :=
  let w := s.witnessKept p
  (s.modPart p (fun x => let y := x.afterReset; { y with jnl := { y.jnl with witness := w } })).clearPartRegs p

/-- PART_RESET.GO. -/
def execPartResetGo (p : Part) (s : State) : Out := inService s (fun s => s.startPartReset p false)

/-- Function Level Reset of a VF (R925, R931). -/
def execFlr (vf : Fin 16) (s : State) : Out :=
  inService s (fun s =>
    let bound := s.partOf vf
    let s := { s with host := { s.host with
      space := s.host.space.set (funcIx (.vf vf)) {},
      msix := s.host.msix.filter (fun e => !(decide (256 + 16 * vf.val ≤ e.1) && decide (e.1 < 272 + 16 * vf.val))) } }
    match bound with
    | some p => s.startPartReset p true
    | none => s)

/-- PLACEMENT_EPOCH_ADVANCE: Nelnus firmware abandons the step in progress, after a node loss or for another reason
(R215, R315, R643). -/
def execPlacementEpochAdvance (p : Part) (nodeLoss : Bool) (s : State) : Out :=
  inService s (fun s =>
    if (s.part p).advance.reset then s
    else (s.advanceEpoch p nodeLoss).modPart p (fun x => { x with step := { x.step with failed := x.step.failed || x.step.running, chunks := [] } }))

/-- EPOCH_ADVANCE_COMPLETE: every packet of a run of another epoch is acknowledged or has failed (R644); a partition reset
that waited for it ends (R929, R930). -/
def execEpochAdvanceComplete (p : Part) (s : State) : Out :=
  inService s (fun s =>
    let x := s.part p
    if !x.advance.running || s.epochPackets p || (x.advance.reset && x.cmds.any (fun c => c.stage = .fetching)) then s
    else if x.advance.reset then s.endPartReset p
    else s.modPart p (fun x => { x with advance := { x.advance with running := false } }))

/-! ### Warm reset (R924 to R928, R955, R956) -/

/-- A page or fuse word that is being programmed when PERST_N falls is completed; the slot stays invalid and the record
uncommitted unless that word commits it (R956). -/
def Security.finishWord (x : Security) : Security :=
  match x.fuse with
  | some j => { x with fuses := dset x.fuses (j.at_ + j.done) (x.fuseWord (j.at_ + j.done) ||| j.words.getD j.done 0) }
  | none => x

/-- What a partition keeps for R928: LOAD_BASE, root and shard of slot 0, and its memory map. -/
def State.retainedOf (s : State) (p : Part) : Option (Nat × List Byte × Nat × Nat × Nat) :=
  match dget? (s.part p).slots 0 with
  | some x => if x.st = .empty then none
    else some (x.base, (x.head.map Head.root).getD [], x.shard, s.reg .memHbmMap p.val, s.reg .memHostRegion p.val)
  | none => none

/-- HBM remaps kept under HBM_RETAIN (R926): of retired pages, and of the pages of a spared channel, with the channel and
those of its pages that found no slot. -/
def Repair.keptRemaps (r : Repair) : Repair :=
  let ofSpared (h c : Nat) : Bool := decide (dget? r.sparedChan h = some c)
  let k : Repair := { remaps := r.remaps, sparedChan := r.sparedChan }
  let k := r.sparedChan.foldl (fun (k : Repair) e => k.setEnt (.chan e.1 e.2) 1 0) k
  let k := r.remaps.foldl (fun (k : Repair) x =>
    if ofSpared x.1 x.2.1 && (r.ent (.page x.1 x.2.1 x.2.2.1)).st ≠ 1 then k
    else k.setEnt (.page x.1 x.2.1 x.2.2.1) 1 (slotAux x.2.2.2)) k
  (r.withdrawnPages.filter (fun x => ofSpared x.1 x.2.1)).foldl (fun k x => k.withdrawPage x.1 x.2.1 x.2.2) k

/-- The package in warm reset: everything of R925's column is lost; the contents of HBM stay with HBM_RETAIN and are
undefined without it. -/
def State.warmReset (s : State) : State :=
  let retain := bitOf (s.reg .glbResetCfg) 0
  let quick := bitOf (s.reg .glbResetCfg) 1
  let lo := if retain then hbmEnd else 0
  let x := s.sec.finishWord
  { pending := s.pending, now := s.now, free := s.free + 1,
    boot := { phase := .held, warm := true, retain := retain, quick := quick },
    regs := dset [] (regKey .glbResetCfg 0) (BitVec.ofNat 64 (s.reg .glbResetCfg)),
    mem := s.mem.leaveOpen lo (windowOf 544 - lo) s.free,
    host := s.host.persistent,
    parts := Vector.ofFn (fun p => { retained := if retain then s.retainedOf p else none }),
    repair := if retain then s.repair.keptRemaps else {},
    sec := { x.persistent with sealBroken := x.sealBroken, debugEver := x.debugEver } }

/-- WARM_RESET: PERST_N is asserted at any time after t0 (R955). -/
def execWarmReset (s : State) : Out := .next (if s.boot.phase = .off then s else s.warmReset)

/-- PERST_N is released: a power-up after a warm reset begins (R916, R955), or link training may (R918). -/
def execPerstNRelease (b : BootIn) (s : State) : Out :=
  served s (
    if s.boot.phase = .held then { s with boot := { s.boot with linkUp := true } }.bootRom b false
    else if s.boot.phase = .off then s
    else { s with boot := { s.boot with linkUp := true } })

/-- VIN has stayed in its power-up range for 100 ms (R784, R916): a cold power-up begins. After a thermal trip VIN must
have fallen below 20 V first (R830). -/
def execColdPowerUp (b : BootIn) (s : State) : Out :=
  served s (if s.boot.phase = .off && (!s.boot.thermtripN || b.vinFell) then s.bootRom b true else s)

/-- `n` tile sites have passed power-up BIST so far (R35); while BIST has not begun, or once it has ended, the count stands. -/
def State.sitesPassed (s : State) (n : Nat) : State :=
  if s.boot.phase = .booting && s.boot.bootPhase = 2 then
    { s with boot := { s.boot with goodSites := max s.boot.goodSites (min n 576) } }
  else s

/-- The package becomes configuration-ready (R918). `passed`: tile sites that have passed BIST so far (R35). -/
def execConfigurationReady (passed : Nat) (s : State) : Out :=
  served s (
    if s.boot.phase = .booting || s.boot.phase = .bootFailed then
      let s := s.sitesPassed passed
      { s with boot := { s.boot with cfgReady := true } }
    else s)

/-- A phase of R917 exceeds its maximum (R921, cause 6). -/
def execBistPhaseTimeout (passed : Nat) (s : State) : Out :=
  served s (if s.boot.phase = .booting && s.boot.bootPhase = 2 then (s.sitesPassed passed).bootFail 6 else s)

/-! ### READY (R917 to R923) -/

/-- Number the logical tiles (R855). -/
def Repair.numberTiles (r : Repair) : Repair :=
  let good (b : Nat) : List Nat := (List.range 72).map (72 * b + ·) |>.filter (fun i => decide ((r.site i).st ≠ .retired))
  let first := (List.range 8).flatMap (fun b => (good b).take 68)
  -- free spares of each band, and the shortfall made up from the band with the most of them
  let spares := (List.range 8).map (fun b => (good b).drop 68)
  let most (xs : List (List Nat)) : Nat :=
    (List.range 8).foldl (fun m b => if (xs.getD m []).length < (xs.getD b []).length then b else m) 0
  let more := (List.range (544 - first.length)).foldl (fun (acc : List Nat × List (List Nat)) _ =>
    let b := most acc.2
    match acc.2.getD b [] with
    | i :: rest => (acc.1 ++ [i], acc.2.set b rest)
    | [] => acc) (first, spares)
  let used := sortBy (fun a b => decide (a ≤ b)) more.1
  used.zipIdx.foldl (fun r x => r.setSite x.1 { r.site x.1 with st := .enabled, tile := some x.2 }) r

/-- Mark the bad sites, before tiles have numbers. -/
def Repair.markSites (r : Repair) (bad : List (Nat × Nat)) : Repair :=
  bad.foldl (fun r x => r.setSite (24 * x.2 + x.1) { r.site (24 * x.2 + x.1) with st := .retired }) r

/-- Retire the sites that BIST found bad, and the rows: a site whose bank has more bad rows than spares goes with them (R838). -/
def State.absorbSites (s : State) (b : Bist) : State :=
  (b.badRows.map (fun x => PartId.row x.1 x.2.1 x.2.2.1 x.2.2.2)).foldl (fun s x => s.retirePart x false)
    (s.modRepair (fun r => r.markSites b.badSites))

/-- Tile sites that are not retired. -/
def Repair.goodSites (r : Repair) : Nat := ((List.range 576).filter (fun i => decide ((r.site i).st ≠ .retired))).length

/-- Retire what else BIST found bad, without events: channels and pages, lanes, cores and SM3 lanes (R838, R920, R952). -/
def State.absorbBist (s : State) (b : Bist) : State :=
  let lanes := if b.refclkFab then b.badLanes else (List.range 8).flatMap (fun u => (List.range 9).map (fun l => (u, l)))
  let parts : List PartId :=
    b.badChannels.map (fun x => .chan x.1 x.2) ++ b.badPages.map (fun x => .page x.1 x.2.1 x.2.2) ++
      lanes.map (fun x => .lane x.1 x.2) ++ b.badCores.map .core ++ b.badSm3.map .sm3
  let s := s.modRepair (fun r => b.badStacks.foldl Repair.failStack r)
  parts.foldl (fun s x => s.retirePart x false) s

/-- The firn tier as training left it (R269, R270): every channel at the highest rate, up to 12.8 Gbit/s, that each passes, and
the smallest density; a channel that trains at no rate leaves the tier unmapped. DEDUCED: a channel passes at every rate below
its highest. -/
def Repair.trainFirn (r : Repair) (chans : List (Nat × Nat)) : Repair :=
  let rate := chans.foldl (fun m x => min m x.2) (if chans.isEmpty then 0 else 12800)
  let density := chans.foldl (fun m x => min m x.1) ((chans.head?.map Prod.fst).getD 0)
  { r with firnChannels := if rate = 0 then 0 else chans.length, firnDensity := density,
           firnMismatch := chans.any (fun x => decide (x.1 ≠ density)), firnRate := rate }

/-- The fatal cause of R921 that BIST found, the lowest where several apply; `good` sites are left (R36). -/
def fatalCause (b : Bist) (good : Nat) : Option Nat :=
  if good < 544 then some 3
  else if 8 - (b.badCores.eraseDups.filter (· < 8)).length < 3 then some 4
  else if (List.range 12).all b.badStacks.contains then some 5
  else none

/-- The package reaches READY; a seal loop found broken at power-up raises SEAL_BROKEN now (R891). -/
def State.becomeReady (s : State) (b : Bist) : State :=
  let retained := s.boot.warm && s.boot.retain && b.keptAll
  let good := (s.absorbSites b).repair.goodSites
  let s := if s.boot.warm && s.boot.retain && !b.keptAll then
      (s.openPlaces 0 hbmEnd).modRepair (fun _ => {}) else s
  let s := (s.absorbSites b).modRepair (fun r => (r.numberTiles).trainFirn b.firn)
  let s := s.absorbBist b
  let s := s.modPower (fun p => { p with
    vf := b.vf, bands := Vector.ofFn (fun i => { volt := (b.vf.getD i.val []).getD 0 60, target := (b.vf.getD i.val []).getD 0 60 }) })
  let s : State := { s with
    boot := { s.boot with phase := .ready, bootPhase := 4, cause := 0, goodSites := good,
                          hbmQuick := s.boot.warm && s.boot.quick && b.allQuick, hbmRetained := retained },
    regs := derase s.regs (regKey .glbResetCfg 0),
    parts := if retained then s.parts else s.parts.map (fun x => { x with retained := none }) }
  if s.boot.sealAtBoot then s.raisePackage evSealBroken 0 else s

/-- READY: every power-up phase has ended (R920), or BIST found a fatal cause (R921). -/
def execReady (b : Bist) (s : State) : Out :=
  served s (
    if s.boot.phase = .booting && s.boot.bootPhase = 2 then
      let good := (s.absorbSites b).repair.goodSites
      match fatalCause b good with
      | some c => ({ s with boot := { s.boot with goodSites := good } }).bootFail c
      | none => s.becomeReady b
    else s)

/-! ### The power supply (R779, R780) -/

/-- CONVERTER_FAULT: a converter fails; the spare takes its place, the conversion limit applies, or the package stops. -/
def execConverterFault (i : Fin 9) (s : State) : Out := served s (if s.boot.phase = .off then s else s.loseConverter i.val)

end Sys2Proof.Machine
end

