-- ==== Sys2Proof/Machine/Views.lean ====
section
/-! DEFINITION. What the registers show: the value that a read of each register returns, the capability list, and the
MSI-X tables. -/

namespace Sys2Proof.Machine

/-- 1 for true. -/
def bit (b : Bool) : Nat := if b then 1 else 0

/-- A word from fields: lowest bit, width and value of each. -/
def word (fs : List (Nat × Nat × Nat)) : Nat := fs.foldl (fun a f => a + f.2.2 % 2 ^ f.2.1 * 2 ^ f.1) 0

/-- ENABLE, STATE, PENDING and UNHANDLED of PART_CTRL and RING_CTRL (R598, R667), with bit 5. -/
def Fn.ctrlWord (f : Fn) (b5 : Bool) : Nat :=
  word [(0, 1, bit f.enable), (1, 2, fnCode f.st), (3, 2, fnCode f.pending), (5, 1, bit b5), (28, 4, f.unhandled)]

/-- Code of STATE of TILE_DBG_STATE (R178). -/
def tileModeCode : TileMode → Nat
  | .free => 0
  | .loading => 1
  | .running => 2
  | .frozen => 3
  | .fenced => 4
  | .retired => 5

/-- The tile that TILE_DBG_SEL observes; 544 and above select none. -/
def State.dbgTile (s : State) : Option Nat :=
  let t := s.regBits .tileDbgSel 0 0 10
  if t < 544 then some t else none

/-- What a 32-bit counter shows of an exact count (log entry 4). -/
def shownCount (n : Nat) : Nat := if n < 2 ^ 32 then n else (Config.counterPastEnd n).toNat % 2 ^ 32

/-- TILE_DBG_STATE. -/
def State.viewDbgState (s : State) : Nat :=
  match s.dbgTile with
  | none => 0
  | some t =>
    let x := s.tile t
    let causes := match x.run with
      | some r => (match r.freeze with | some f => f.causes | none => [])
      | none => []
    word [(0, 3, tileModeCode x.mode), (8, 1, bit (causes.contains .lateSlot)), (9, 1, bit (causes.contains .queueFull)),
      (10, 1, bit (causes.contains .loadWait))]

/-- TILE_DBG_CAR. -/
def State.viewDbgCar (s : State) : Nat :=
  match s.dbgTile with
  | none => 0
  | some t =>
    match (s.tile t).run with
    | none => 0
    | some r =>
      match r.cars[s.regBits .tileDbgSel 0 10 5]? with
      | some c => word [(0, 32, c.head.toNat), (32, 32, c.tail.toNat)]
      | none => 0

/-- UAG_PORT_STATUS (R500). -/
def Port.statusWord (p : Port) : Nat :=
  word [(0, 2, fnCode p.fn.st), (2, 2, fnCode p.fn.pending), (4, 2, p.rate), (6, 1, bit p.width4), (7, 1, bit p.spareUsed),
    (8, 4, p.sparedLane), (12, 9, p.neighbour.val), (21, 1, bit p.nbValid), (22, 1, bit p.dupId), (28, 4, p.fn.unhandled)]

/-- UAG_TIME_STATUS (R502). -/
def Fabric.timeStatusWord (f : Fabric) : Nat :=
  word [(0, 1, bit f.locked), (1, 9, f.masterNode.val),
    (16, 16, if -32768 ≤ f.lastCorr ∧ f.lastCorr < 32768 then wrapTo 16 f.lastCorr else Config.corrPastEnd f.lastCorr)]

/-- DEVICE_STATUS (R597). -/
def Boot.statusWord (b : Boot) : Nat :=
  word [(0, 1, bit (b.phase = .ready)), (1, 1, bit (b.phase = .bootFailed)), (2, 1, bit b.slotB), (3, 1, bit b.hbmQuick),
    (4, 1, bit b.hbmRetained), (16, 6, b.slotId.toNat)]

/-- The slot of a flattened WGT slot index. -/
def State.slotAt (s : State) (i : Nat) : Slot := dget (s.part (Fin.ofNat 16 (i / 80))).slots (i % 80) {}

/-- Chunks of the local and cold images of a slot. -/
def Slot.chunks (x : Slot) : List Nat := match x.head with | some h => h.resident ++ h.cold | none => []

/-- WGT_SLOT_UNVERIFIED: the lowest chunk not verified. -/
def Slot.lowestUnverified (x : Slot) : Nat :=
  (x.chunks.filter (fun c => !x.verified.contains c)).foldl min 0xFFFFFFFF

/-- WGT_SLOT_ROOT. -/
def Slot.rootBytes (x : Slot) : List Byte := match x.head with | some h => h.root | none => []

/-- PWR_LEASE. -/
def Lease.word (l : Lease) (now : Nat) : Nat :=
  Sys2Proof.Machine.word [(0, 12, l.cap), (12, 10, l.up), (22, 10, l.down),
    (32, 16, if l.held then (l.expiry - now + 999999) / 1000000 else 0)]

/-- PWR_BAND of band `b`. -/
def State.viewBand (s : State) (b : Nat) : Nat :=
  let x := s.power.band b
  word [(0, 8, x.volt), (8, 8, s.bandMax b), (16, 8, x.temp), (24, 1, bit x.throttled)]

/-- PWR_STATUS. -/
def State.viewPwrStatus (s : State) : Nat :=
  let p := s.power
  word [(0, 12, p.cap), (12, 2, sourceCode p.source), (14, 1, bit p.safeStep), (15, 1, bit p.unreachable),
    (16, 1, bit p.convLimit), (17, 1, bit (p.bands.toList.any Band.throttled)), (18, 1, bit p.supplyLow),
    (19, 1, bit p.floorLoad)]

/-- PWR_FLOOR: GAIN is the gain × 1,024. -/
def Power.floorWord (p : Power) : Nat := word [(0, 12, p.floor), (12, 12, 1024 * p.gain.num / p.gain.den)]

/-- SPR_STATUS. -/
def Repair.statusWord (r : Repair) (convSpare : Bool) : Nat :=
  let cores := (List.range 8).filter (fun c =>
    !(r.coresUsed ++ r.retiredOf 8 .core ++ r.coreSubs.map Prod.fst).contains c)
  word [(0, 6, r.freeSites.length), (6, 6, r.withdrawnTiles.length), (12, 2, cores.length), (14, 3, r.freeSm3.length),
    (17, 1, bit convSpare), (18, 1, bit r.mapLoaded)]

/-- MEM_UE_LOG. -/
def Repair.ueWord (r : Repair) : Nat :=
  let u := r.ueLast
  word [(0, 48, u.1), (48, 4, bit u.2.1), (52, 4, match u.2.2 with | some p => p.val | none => 0),
    (56, 1, bit (r.ueLog.isSome && u.2.2.isNone)), (63, 1, bit r.ueLog.isSome)]

/-- MEM_FIRN_CFG: DENSITY 1 for 8 GiB to 4 for 64 GiB. -/
def Repair.firnWord (r : Repair) : Nat :=
  word [(0, 5, r.firnChannels), (8, 3, r.firnDensity), (11, 1, bit r.firnMismatch), (16, 16, r.firnRate)]

/-- MEM_SPARE_STAT of stack `h`. -/
def Repair.spareWord (r : Repair) (h : Nat) : Nat :=
  word [(0, 16, (r.freeSlots h).length), (16, 5, dget r.sparedChan h 0), (21, 1, bit (dget? r.sparedChan h).isSome),
    (22, 1, bit (r.lostStacks.contains h))]

/-- SEC_STATUS. -/
def Security.statusWord (x : Security) : Nat :=
  word [(0, 2, x.presMode.toNat), (2, 1, bit x.present), (3, 1, bit x.sealBroken), (4, 1, bit (x.debugOpen ≠ 0)),
    (5, 1, bit x.debugEver), (6, 1, bit x.aValid), (7, 1, bit x.bValid), (8, 8, x.bootCause)]

/-- SEC_PRES_REMAIN: whole seconds, a part counted as one (DESIGN CHOICE, log entry 52). -/
def Security.remain (x : Security) (now : Nat) : Nat :=
  if x.presMode = 0 && x.present then (x.windowEnd - now + 999999999) / 1000000000 % 256 else 0

/-- Code of WITNESS of JNL_STATUS. -/
def witCode : WitSt → Nat
  | .none => 0
  | .reseeding => 1
  | .inSync => 2
  | .lost => 3

/-- EXP_REPLICAS: replicas held here, and replicas elsewhere of experts homed here. -/
def State.viewReplicas (s : State) (p : Part) : Nat :=
  let rs := (s.part p).exp.replicas
  word [(0, 16, (rs.filter (fun e => e.2.contains s.self)).length),
    (16, 16, (rs.filter (fun e => decide (homeOf (s.mainInfo p) (e.1 / 4096) (e.1 % 4096) = s.self))).foldl (fun a e => a + e.2.length) 0)]

/-- UAG_ROUTE of destination `n`: the routes set, and whether each is usable (R474, R502). -/
def State.viewRoute (s : State) (n : Nat) : Nat :=
  let d : Node := Fin.ofNat 512 n
  s.reg .uagRoute n % 2 ^ 12 + word [(12, 1, bit (s.usable d false).isSome), (13, 1, bit (s.usable d true).isSome),
    (14, 1, bit (dget? s.fabric.losing n).isSome)]

/-- UAG_FENCE of register `n`. -/
def State.viewFence (s : State) (n : Nat) : Nat :=
  (List.range 32).foldl (fun a i => a + (if s.fabric.fenced.contains (Fin.ofNat 512 (32 * n + i)) then 2 ^ i else 0)) 0

/-- The value that a read of register `n`, index `i`, returns (R13): fields that are not held in the register file come
from the state they show; write-only fields read zero. -/
def State.view (s : State) (n : RegName) (i : Nat) : Nat :=
  let p : Part := Fin.ofNat 16 i
  let ring : Ring := s.ring (Fin.ofNat 16 (i / 13)) (Fin.ofNat 13 i)
  match n with
  | .idStepping => s.idStepping
  | .deviceStatus => s.boot.statusWord
  | .glbFwVersion => s.boot.fwVersion.toNat
  | .glbBootStatus => word [(0, 4, s.boot.bootPhase), (4, 4, s.boot.cause), (8, 10, s.boot.goodSites)]
  | .tileDbgState => s.viewDbgState
  | .tileDbgCar => s.viewDbgCar
  | .tileDbgSamerow => match s.dbgTile with | some t => shownCount (s.tile t).dbgSameRow | none => 0
  | .tileDbgHold => match s.dbgTile with | some t => ((s.tile t).dbgHold + (s.tile t).holdUncounted s.now) % 2 ^ 64 | none => 0
  | .memWithdrawn => s.withdrawnGranules p
  | .memFirnCfg => s.repair.firnWord
  | .memSpareStat => s.repair.spareWord i
  | .memUeLog => s.repair.ueWord
  | .kvWalkEpoch => (s.part p).kv.epoch % 2 ^ 32
  | .kvWalkOldest => (s.part p).kv.oldest % 2 ^ 32
  | .kvWalkCount => (s.part (Fin.ofNat 16 (i / 4))).kv.counts.getD (i % 4) 0 % 2 ^ 16
  | .expStatus => word [(0, 10, (s.part p).exp.members.length), (16, 16, (s.part p).exp.mapVersion.toNat)]
  | .expStep => (s.part p).exp.step.toNat
  | .expReplicas => s.viewReplicas p
  | .uagPortCtrl => s.reg .uagPortCtrl i / 2 * 2 + bit (s.port (Fin.ofNat 8 i)).fn.enable
  | .uagPortStatus => (s.port (Fin.ofNat 8 i)).statusWord
  | .uagTimeStatus => s.fabric.timeStatusWord
  | .uagTime => s.fabric.time.toNat
  | .uagTimeSet => 0
  | .uagFence => s.viewFence i
  | .uagFenceSet => 0
  | .uagRoute => s.viewRoute i
  | .ringNudge => 0
  | .ringErr => (List.range 13).foldl (fun a k => a + bit (s.ring p (Fin.ofNat 13 k)).error * 2 ^ k) 0
  | .ringTokHeld => (s.part p).requests.foldl (fun a e => a + e.2.held.length) 0
  | .ringCtrl => ring.fn.ctrlWord ring.error
  | .ringPi => ring.pi % 2 ^ 64
  | .ringCi => ring.ci % 2 ^ 64
  | .partCtrl => (s.part p).fn.ctrlWord (s.part p).refused
  | .partReset => 0
  | .partEpoch => (s.part p).epoch.toNat
  | .partQueue => word [(0, 11, (s.part p).lcQ.length), (16, 11, (s.part p).beQ.length)]
  | .partLive => word [(0, 17, (s.part p).requests.length)]
  | .wgtSlotState => word [(0, 3, slotCode (s.slotAt i).st), (3, 1, bit (s.slotAt i).inFirn)]
  | .wgtSlotShard => (s.slotAt i).shard % 2 ^ 32
  | .wgtSlotBase => (s.slotAt i).base % 2 ^ 48
  | .wgtSlotChunks => word [(0, 32, (s.slotAt i).chunks.length), (32, 32, ((s.slotAt i).chunks.filter (s.slotAt i).verified.contains).length)]
  | .wgtSlotUnverified => (s.slotAt i).lowestUnverified
  | .wgtSlotRoot => fieldAt (s.slotAt (i / 4)).rootBytes (8 * (i % 4)) 8
  | .wgtPartStatus =>
    word [(0, 6, (s.part p).activeVariant), (6, 1, bit (s.part p).swap.isSome), (7, 1, bit (s.part p).switch.isSome)]
  | .wgtGen => (s.part p).gen % 2 ^ 32
  | .wgtSm3Status => word [(0, 6, s.repair.sm3Lanes.length), (6, 3, s.repair.freeSm3.length)]
  | .jnlStatus => word [(0, 2, witCode (s.part p).jnl.witness), (16, 16, min 65535 (s.part p).jnl.reseedLeft.length)]
  | .jnlOutstanding => word [(0, 13, (s.part p).jnl.outstanding)]
  | .jnlClaims => word [(0, 17, (s.part p).jnl.claims.length)]
  | .pwrStatus => s.viewPwrStatus
  | .pwrLeaseA => s.power.leaseA.word s.now
  | .pwrLeaseB => s.power.leaseB.word s.now
  | .pwrEst => word [(0, 16, s.power.est.floor), (16, 16, s.power.meas)]
  | .pwrVin => word [(0, 16, s.power.vinMv), (16, 16, s.power.iin)]
  | .pwrFloor => s.power.floorWord
  | .pwrThermal => word [(0, 8, s.power.bands.toList.foldl (fun m b => max m b.temp) 0), (8, 8, s.power.hbmMax), (16, 8, s.power.hubMax)]
  | .pwrConv => word [(0, 9, s.power.goodConv.toNat), (9, 1, bit s.power.spareConv)]
  | .pwrBand => s.viewBand i
  | .sprStatus => s.repair.statusWord (s.power.goodConv.getLsbD 8 && !s.power.spareConv)
  | .sprMapCtrl => word [(1, 1, bit s.repair.mapBusy), (2, 2, s.repair.mapResult)]
  | .secStatus => s.sec.statusWord
  | .secPresRemain => s.sec.remain s.now
  | .secRollback => word [(0, 16, s.sec.rollback), (16, 16, min 65535 s.sec.runningSvn)]
  | .secFuseFree => word [(0, 11, s.sec.fuseFree)]
  | .secKeys => s.sec.keys.foldl (fun a e => a + 2 ^ (e.1 % 16)) 0
  | .secDevidDigest => fieldAt s.sec.devidDigest (8 * i) 8
  | .secRecoveryCtrl => word [(1, 1, bit s.sec.recBusy), (2, 16, s.sec.recResult.toNat)]
  | _ => s.reg n i

/-! ### The capability list (R526 to R530, R970) -/

/-- Little-endian fields of a capability body: size and value. -/
def capBody (fs : List (Nat × Nat)) : List Byte := fs.flatMap (fun f => leBytes f.1 f.2)

/-- The capabilities: ID and body (R67, R363, R424, R425, R504, R505, R530, R777, R837, R872, R915, R970). -/
def capabilities : List (Nat × List Byte) :=
  [(0x01, []),
   (0x02, capBody [(1, 0xFF), (1, 0x0F), (1, 0x07), (1, 0), (4, 0x3F7F), (4, 0x33F7), (1, 24), (1, 0x07), (2, 0)]),
   (0x03, []), (0x04, []), (0x05, []),
   (0x06, capBody [(1, 8), (1, 9), (1, 0x07), (1, 4), (2, 512), (2, 4096), (2, 4096), (2, 512)]),
   (0x07, capBody [(1, 16), (1, 4), (1, 4), (1, 2), (1, 6), (1, 16), (2, 250), (2, 64), (2, 256), (1, 16), (1, 64), (2, 4096), (2, 16), (2, 0)]),
   (0x08, []),
   (0x09, capBody [(2, 4096), (1, 16), (1, 8), (2, 65535), (1, 0x0F), (1, 3), (1, 8), (1, 2), (2, 0)]),
   (0x0A, capBody [(2, 8192), (1, 0x1F), (1, 0x0F), (4, 65536), (2, 1024), (1, 64), (1, 16), (2, 8192), (1, 128), (1, 0x1C), (4, 4096), (4, 0)]),
   (0x0B, capBody [(2, 800), (2, 2400), (2, 2048), (2, 1024), (4, 131072), (1, 8), (1, 5), (2, 550), (2, 850), (2, 850), (2, 2000), (1, 25), (1, 5)]),
   (0x0C, capBody [(1, 16), (1, 0x07), (2, 120), (1, 1), (1, 1), (2, 1024)]),
   (0x0D, capBody [(1, 32), (1, 16), (1, 8), (1, 2), (1, 52), (1, 9), (1, 1), (1, 0), (4, 131072)]),
   (0x0E, capBody [(1, 32), (1, 128), (2, 4096), (4, 65536)]),
   (0x0F, capBody [(1, 0x1F), (1, 0x03), (1, 64), (1, 8), (2, 512), (2, 0)]),
   (0x10, capBody [(1, 16), (1, 1), (2, 1024), (4, 0)])]

/-- Room of a capability whose length is a multiple of 8 bytes. -/
def capRoom (body : List Byte) : Nat := (8 + body.length + 7) / 8 * 8

/-- The bytes of the list laid out from an offset on: header (R526), body, padding to the next multiple of 8. -/
def capBytes : List (Nat × List Byte) → Nat → List Byte
  | [], _ => []
  | c :: t, off =>
    let next := if t.isEmpty then 0 else off + capRoom c.2
    padTo (leBytes 2 c.1 ++ leBytes 1 1 ++ leBytes 1 ((8 + c.2.length) / 4) ++ leBytes 3 next ++ leBytes 1 0 ++ c.2) (capRoom c.2) ++
      capBytes t (off + capRoom c.2)

/-- The capability list lies from 0x200 on, in ascending order of ID; order and offsets are not fixed by the manual
(R528; DESIGN CHOICE, log entry 53). -/
def capArea : List Byte := capBytes capabilities 0x200

end Sys2Proof.Machine
end

