-- ==== Sys2Proof/Machine/Registers.lean ====
section
/-! DEFINITION. Accesses of the host through BAR0, BAR2 and configuration space: which register an access reaches, the
fields a write sets (R7, R8, R13), each register's own conditions, counters that a read clears, and the aperture into the
DPA space. -/

namespace Sys2Proof.Machine

/-! ### Where an access lands (R513 to R515, R523, R590, R919) -/

/-- What a 4-byte unit of BAR0 holds. -/
inductive Bar0Unit where
  /-- nothing: it reads zero and ignores writes -/
  | hole
  /-- part of a register: its row, index, and byte within it -/
  | reg (r : RegRow) (i : Nat) (byte : Nat)
  /-- part of an MSI-X table entry: function, vector and dword of it -/
  | msix (f : Func) (v : Nat) (dword : Nat)
  /-- 32 bits of an MSI-X pending bit array -/
  | pba (f : Func) (dword : Nat)
  /-- part of the capability list, by its offset from 0x200 -/
  | cap (off : Nat)

/-- The unit at offset `off` of the physical function's BAR0. -/
def pfUnit (off : Nat) : Bar0Unit :=
  if 0x308000 ≤ off && off < 0x309000 then .msix .pf ((off - 0x308000) / 16) (off % 16 / 4)
  else if 0x309000 ≤ off && off < 0x309020 then .pba .pf ((off - 0x309000) / 4)
  else if 0x200 ≤ off && off < 0x10000 then .cap (off - 0x200)
  else
    match findReg off with
    | some (r, i, byte) => .reg r i byte
    | none => .hole

/-- The unit at offset `off` of VF `n`'s BAR0, whose partition is `p` (R523). -/
def vfUnit (n : Fin 16) (p : Part) (off : Nat) (write : Bool) : Bar0Unit :=
  if off < 0x100 then pfUnit (0x20000 + 0x100 * p.val + off)
  else if 0x1000 ≤ off && off < 0x11A0 then pfUnit (0x21000 + 0x400 * p.val + (off - 0x1000))
  else if 0x2000 ≤ off && off < 0x2100 then (if write then .hole else pfUnit (0x40000 + 0x100 * p.val + (off - 0x2000)))
  else if 0x8000 ≤ off && off < 0x8100 then .msix (.vf n) ((off - 0x8000) / 16) (off % 16 / 4)
  else if 0x9000 ≤ off && off < 0x9008 then .pba (.vf n) ((off - 0x9000) / 4)
  else .hole

/-- Offsets that PF BAR0 serves from configuration-ready on, before READY (R881, R919). -/
def servedEarly (off : Nat) : Bool :=
  decide (off < 0x10008) || (decide (0x10024 ≤ off) && decide (off < 0x10028)) || (decide (0xC0000 ≤ off) && decide (off < 0x100000))

/-- PF BAR0 answers: the package is configuration-ready, or in service (R514, R919). -/
def State.bar0On (s : State) : Bool :=
  s.boot.phase = .ready || (s.boot.cfgReady && (s.boot.phase = .booting || s.boot.phase = .bootFailed))

/-- The unit that function `f` reaches at offset `off`. -/
def State.unitAt (s : State) (f : Func) (off : Nat) (write : Bool) : Bar0Unit :=
  match f with
  | .pf => if s.boot.phase = .ready || servedEarly off then pfUnit off else .hole
  | .vf n =>
    if s.boot.phase = .ready && s.host.vfEnable then
      match s.partOf n with
      | some p => vfUnit n p off write
      | none => .hole
    else .hole

/-- An access of a size or alignment that BAR0 does not serve (R514). -/
def badAccess (off size : Nat) : Bool := (size ≠ 4 && size ≠ 8) || off % size ≠ 0

/-- A refused access is counted; refused read data are zero (R514). -/
def State.refuseAccess (s : State) (write : Bool) : State :=
  let s := s.count .glbBadAccess 0 1
  if write then s else { s with host := { s.host with bar0Data := 0 } }

/-! ### Reads (R13, R17, R18, R969) -/

/-- The register counts events and is cleared by a read. -/
def RegRow.isRc (r : RegRow) : Bool := r.flds.any (fun f => decide (f.acc = .rc))

/-- Clear a counter that was read. -/
def State.clearCounter (s : State) (n : RegName) (i : Nat) : State :=
  match n with
  | .tileDbgSamerow => (match s.dbgTile with | some t => s.modTile t (fun x => { x with dbgSameRow := 0 }) | none => s)
  | .tileDbgHold => (match s.dbgTile with | some t => s.modTile t (fun x => { x.countFreeze s.now with dbgHold := 0 }) | none => s)
  | _ => s.clearReg n i

/-- Set or release the bits that a read of the lower half of a 64-bit counter holds (R969). -/
def State.hold (s : State) (h : Option (Nat × W32)) : State := { s with host := { s.host with rcHeld := h } }

/-- Pending bits of a function's vectors 32 `d` to 32 `d` + 31 (R590). -/
def State.pbaWord (s : State) (f : Func) (d : Nat) : Nat :=
  (List.range 32).foldl (fun a i => a + bit (dget s.host.msix (msixKey f (32 * d + i)) {}).pending * 2 ^ i) 0

/-- A dword of an MSI-X table entry. -/
def MsixEntry.dword (e : MsixEntry) (d : Nat) : Nat :=
  if d = 0 then e.addr.toNat % 2 ^ 32 else if d = 1 then e.addr.toNat / 2 ^ 32 else if d = 2 then e.data.toNat else bit e.masked

/-- Read a 4-byte unit. -/
def State.readUnit (s : State) : Bar0Unit → Nat × State
  | .hole => (0, s)
  | .msix f v d => ((dget s.host.msix (msixKey f v) {}).dword d, s)
  | .pba f d => (s.pbaWord f d, s)
  | .cap off => (fieldAt capArea off 4, s)
  | .reg r i byte =>
    let v := s.view r.name i
    if r.isRc then
      if r.bytes = 4 then (v % 2 ^ 32, s.clearCounter r.name i)
      else if byte = 0 then (v % 2 ^ 32, (s.clearCounter r.name i).hold (some (regKey r.name i, BitVec.ofNat 32 (v / 2 ^ 32))))
      else (match s.host.rcHeld with
        | some h => if h.1 = regKey r.name i then h.2.toNat else 0
        | none => 0, s.hold none)
    else (v / 2 ^ (8 * byte) % 2 ^ 32, s)

/-- Read 4 or 8 bytes. A 64-bit register read whole gives one instant (R17); any other 8-byte read is two reads of 4
bytes, the lower first. -/
def State.readBar0 (s : State) (f : Func) (off size : Nat) : Nat × State :=
  let u := s.unitAt f off false
  if size = 4 then s.readUnit u
  else
    let halves := let a := s.readUnit u
      let b := a.2.readUnit (a.2.unitAt f (off + 4) false)
      (a.1 + b.1 * 2 ^ 32, b.2)
    match u with
    | .reg r i byte =>
      if r.bytes = 8 && byte = 0 then
        (s.view r.name i, if r.isRc then (s.clearCounter r.name i).hold none else s)
      else halves
    | _ => halves

/-! ### Writes (R7, R8, R13) -/

/-- A field takes the value. -/
def RegFld.takes (f : RegFld) (x : Nat) : Bool :=
  match f.legal with
  | some (a, b) => decide (a ≤ x) && decide (x ≤ b)
  | none => true

/-- The register value that a write leaves: each RW field takes its new bits unless they are outside what the field may
hold (R8); reserved bits stay zero (R7). -/
def RegRow.merge (r : RegRow) (old new : Nat) : Nat :=
  r.flds.foldl (fun v f =>
    let x := bitsOf new f.lsb f.width
    if f.acc = .rw && f.takes x then setBits v f.lsb f.width x else v) old

/-- A field of `old` where the condition to change it does not hold. -/
def keepUnless (c : Bool) (old v lsb width : Nat) : Nat := if c then v else setBits v lsb width (bitsOf old lsb width)

/-- MEM_HBM_MAP may become valid (R267). -/
def State.hbmMapOk (s : State) (p : Part) (v : Nat) : Bool :=
  let gs := bitsSet 48 v
  let first := bitsOf v 48 6
  let n := gs.length
  decide (n ≠ 0) && decide (first + n ≤ 48) &&
    allParts.all (fun q => decide (q = p) || !s.hbmValid q ||
      (let n' := (s.groups q).length
       let first' := s.regBits .memHbmMap q.val 48 6
       !gs.any (s.groups q).contains && (decide (first + n ≤ first') || decide (first' + n' ≤ first)))) &&
    gs.all (fun g => !s.repair.lostStacks.contains (g / 4) &&
      (List.range 8).all (fun c => !s.repair.lostChans.contains (g / 4, 8 * (g % 4) + c)))

/-- MEM_FIRN_MAP may become valid (R272). -/
def State.firnMapOk (s : State) (p : Part) (v : Nat) : Bool :=
  let first := bitsOf v 0 14
  let n := bitsOf v 16 15
  decide ((first + n) * 0x4000000 ≤ s.firnMapped) &&
    allParts.all (fun q => decide (q = p) || !s.firnValid q ||
      (let first' := s.regBits .memFirnMap q.val 0 14
       let n' := s.regBits .memFirnMap q.val 16 15
       decide (first + n ≤ first') || decide (first' + n' ≤ first)))

/-- WATCH_EN may be set (R199). -/
def State.watchOk (s : State) (p : Part) : Bool :=
  let b := s.reg .numTableBase p.val
  decide (b % 256 = 0) && s.inHbm p b 0x200000

/-- The bounds of KV_BUCKET are in order: strictly rising up to the first zero, and zero from there on (R330). -/
def bucketsOk : List Nat → Bool
  | [] => true
  | [_] => true
  | a :: b :: t => (b = 0 || (a ≠ 0 && a < b)) && bucketsOk (b :: t)

/-- The partition is OFF. -/
def State.partOff (s : State) (p : Part) : Bool := (s.part p).fn.st = .off

/-- Every ring of the partition is OFF. -/
def State.ringsOff (s : State) (p : Part) : Bool := (s.part p).rings.toList.all (fun r => decide (r.fn.st = .off))

/-- Every port is OFF. -/
def State.portsOff (s : State) : Bool := s.fabric.ports.toList.all (fun x => decide (x.fn.st = .off))

/-- Write `size` bytes of register `r`, index `i`, from byte `byte` on, with what the register's own rules add. A write of
RING_NUDGE, PART_RESET.GO and the like runs the operation of the row that the manual gives it; the GO bits whose
operations read the host's memory are `State.writeGo`'s. -/
def State.writeRegister (s : State) (r : RegRow) (i byte size value : Nat) : State :=
  let p : Part := Fin.ofNat 16 i
  let old := s.reg r.name i
  let raw := setBits 0 (8 * byte) (8 * size) value
  let v := r.merge old (setBits old (8 * byte) (8 * size) value)
  match r.name with
  | .memHbmMap =>
    if !s.partOff p then s
    else s.setReg .memHbmMap i (if bitOf v 63 && !s.hbmMapOk p v then v % 2 ^ 63 else v)
  | .memHostRegion => if s.partOff p then s.setReg .memHostRegion i v else s
  | .memFirnMap =>
    if !s.partOff p then s
    else s.setReg .memFirnMap i (if bitOf v 31 && !s.firnMapOk p v then v % 2 ^ 31 else v)
  | .memUeLog => if bitOf raw 63 then s.modRepair (fun x => { x with ueLog := none }) else s
  | .numCfg => s.setReg .numCfg i (if bitOf v 20 && !s.watchOk p then v % 2 ^ 20 else v)
  | .numTableBase => if bitOf (s.reg .numCfg i) 20 then s else s.setReg .numTableBase i v
  | .kvBucket =>
    let k := i / 16 * 16
    if bucketsOk ((List.range 16).map (fun j => if k + j = i then v else s.reg .kvBucket (k + j))) then s.setReg .kvBucket i v else s
  | .uagPortCtrl =>
    let u : PortNo := Fin.ofNat 8 i
    let off := decide ((s.port u).fn.st = .off)
    let v := keepUnless off old (keepUnless off old v 1 2) 3 2
    let t := s.setReg .uagPortCtrl i (v / 2 * 2)
    if bitOf raw 0 then t.enablePort u else t.disablePort u
  | .uagNode => if s.portsOff then s.setReg .uagNode 0 v else s
  | .uagTimeSet => s.timeSet (BitVec.ofNat 64 raw)
  | .uagFence => s.clearFence (Fin.ofNat 16 i) (BitVec.ofNat 32 raw)
  | .uagFenceSet => s.fenceSet raw
  | .uagRoute => (s.setReg .uagRoute i v).followRoutes s
  | .ringNudge => s.nudge p
  | .ringDoorbellAddr => if s.ringsOff p then s.setReg .ringDoorbellAddr i v else s
  | .ringStatusAddr => if s.ringsOff p then s.setReg .ringStatusAddr i v else s
  | .ringBase =>
    if (s.ring (Fin.ofNat 16 (i / 13)) (Fin.ofNat 13 i)).fn.st = .off then s.setReg .ringBase i v else s
  | .ringCfg =>
    let q : Part := Fin.ofNat 16 (i / 13)
    let n : RingNo := Fin.ofNat 13 i
    (s.setReg .ringCfg i (keepUnless (decide ((s.ring q n).fn.st = .off)) old v 0 5)).moderate q n
  | .ringCtrl =>
    let q : Part := Fin.ofNat 16 (i / 13)
    let n : RingNo := Fin.ofNat 13 i
    if bitOf raw 0 then s.enableRing q n else s.disableRing q n
  | .partCtrl => if bitOf raw 0 then s.enablePart p else s.disablePart p
  | .partReset => if bitOf raw 0 then s.startPartReset p false else s
  | .partCfg => if s.partOff p then s.setReg .partCfg i v else s
  | .partTiles => if s.partOff (Fin.ofNat 16 (i / 17)) then s.setReg .partTiles i v else s
  | .jnlWitness => s.writeWitness p v
  | .jnlCfg => s.writeJnlCfg p v
  | .pwrFallback => s.writeFallback (BitVec.ofNat 32 raw)
  | _ => if v = old then s else s.setReg r.name i v

/-- A write that sets GO of SPR_MAP_CTRL or SEC_RECOVERY_CTRL (R13) starts what the rows SPR_MAP_LOAD and SEC_RECOVERY_GO do
(R867, R882). -/
def State.writeGo (s : State) (n : RegName) (raw : Nat) (go : GoIn) : State :=
  if !bitOf raw 0 then s
  else if n = .sprMapCtrl then s.sprMapLoad go.data
  else if n = .secRecoveryCtrl && s.mayRecover then s.recover go.data go.boot
  else s

/-- Write a 4-byte unit, or all 8 bytes of a 64-bit register. A vector that a write unmasks sends the message it holds
(R595). -/
def State.writeUnit (s : State) (u : Bar0Unit) (size value : Nat) (go : GoIn) : State :=
  match u with
  | .hole | .pba _ _ | .cap _ => s
  | .reg r i byte => (s.writeRegister r i byte size value).writeGo r.name (setBits 0 (8 * byte) (8 * size) value) go
  | .msix f v d =>
    let e := dget s.host.msix (msixKey f v) {}
    let a := e.addr.toNat
    let e := if d = 0 then { e with addr := BitVec.ofNat 64 (setBits a 0 32 value) }
      else if d = 1 then { e with addr := BitVec.ofNat 64 (setBits a 32 32 value) }
      else if d = 2 then { e with data := BitVec.ofNat 32 value } else { e with masked := bitOf value 0 }
    ({ s with host := { s.host with msix := dset s.host.msix (msixKey f v) e } }).sendPendingBit f v

/-- Write 4 or 8 bytes. An 8-byte write that is not a 64-bit register's is two writes of 4 bytes, the lower first. -/
def State.writeBar0 (s : State) (f : Func) (off size value : Nat) (go : GoIn) : State :=
  let u := s.unitAt f off true
  if size = 4 then s.writeUnit u 4 (value % 2 ^ 32) go
  else
    let halves := let t := s.writeUnit u 4 (value % 2 ^ 32) go
      t.writeUnit (t.unitAt f (off + 4) true) 4 (value / 2 ^ 32) go
    match u with
    | .reg r _ byte => if r.bytes = 8 && byte = 0 then s.writeUnit u 8 value go else halves
    | _ => halves

/-! ### Rows of BAR0 -/

/-- A BAR0 access of illegal size or alignment (R514). -/
def execBar0BadAccess (_f : Func) (write : Bool) (s : State) : Out :=
  served s (if s.bar0On then s.refuseAccess write else s)

/-- A BAR0 read; a counter of access RC is cleared by it (R13, R17, R969). -/
def execRcCounterRead (f : Func) (off size : Nat) (s : State) : Out :=
  served s (
    if !s.bar0On then s
    else if badAccess off size then s.refuseAccess false
    else
      let r := s.readBar0 f off size
      { r.2 with host := { r.2.host with bar0Data := BitVec.ofNat 64 r.1 } })

/-- A BAR0 write (R8). -/
def execRegisterWrite (f : Func) (off size : Nat) (value : W64) (go : GoIn) (s : State) : Out :=
  served s (
    if !s.bar0On then s
    else if badAccess off size then s.refuseAccess true
    else s.writeBar0 f off size value.toNat go)

/-- A write of MEM_HBM_MAP (R267, R293). -/
def execMemHbmMapWrite (p : Part) (v : W64) (s : State) : Out :=
  inService s (fun s => s.writeRegister (regRow .memHbmMap) p.val 0 8 v.toNat)

/-- A write of MEM_FIRN_MAP (R272, R293). -/
def execMemFirnMapWrite (p : Part) (v : W32) (s : State) : Out :=
  inService s (fun s => s.writeRegister (regRow .memFirnMap) p.val 0 4 v.toNat)

/-- A write of NUM_CFG that sets WATCH_EN (R199). -/
def execWatchEnSet (p : Part) (v : W32) (s : State) : Out :=
  inService s (fun s => s.writeRegister (regRow .numCfg) p.val 0 4 (setBits v.toNat 20 1 1))

/-- A write of JNL_WITNESS with VALID set (R749, R750). -/
def execJnlWitnessSet (p : Part) (v : W32) (s : State) : Out :=
  inService s (fun s => s.writeRegister (regRow .jnlWitness) p.val 0 4 (setBits v.toNat 31 1 1))

/-- A write of JNL_WITNESS with VALID clear (R751). -/
def execJnlWitnessClear (p : Part) (v : W32) (s : State) : Out :=
  inService s (fun s => s.writeRegister (regRow .jnlWitness) p.val 0 4 (setBits v.toNat 31 1 0))

/-! ### BAR2 (R237, R289, R518 to R522, R919) -/

/-- DPA of offset `off` of BAR2 (R518). -/
def State.bar2Dpa (s : State) (off : Nat) : Nat := s.reg .glbBar2Base + off % 2 ^ 36

/-- A host write through BAR2: it reaches the DPA space, or is discarded as a whole where it touches an unmapped DPA
(R237, R518). -/
def execBar2Write (off : Nat) (bytes : List Byte) (s : State) : Out :=
  inService s (fun s => if s.mapped (s.bar2Dpa off) bytes.length then s.writeDpa (s.bar2Dpa off) bytes else s)

/-- A host read through BAR2: its data, or Completer Abort where it touches an unmapped DPA, where it cannot be corrected,
or before READY (R237, R289, R520, R919). -/
def execBar2Read (off len : Nat) (ue : Option Nat) (s : State) : Out :=
  served s (
    if s.boot.phase = .ready then
      let a := s.bar2Dpa off
      -- a read of a page under copy, or of a channel or granule under test, waits (R253, R845)
      if s.heldAt a len then s
      else if !s.mapped a len then { s with host := { s.host with bar2 := .abort } }
      else
        match s.badByte a len ue with
        | some x => let t := s.uncorrectable x; { t with host := { t.host with bar2 := .abort } }
        | none => { s with host := { s.host with bar2 := .data (s.readDpa a len) } }
    else if s.bar0On then { s with host := { s.host with bar2 := .abort } }
    else s)

/-! ### Configuration space (R507 to R509, R595, R918, R919) -/

/-- Device ID of a function (R507). -/
def deviceId : Func → Nat
  | .pf => 0x4C05
  | .vf _ => 0x4C06

/-- The package answers a configuration request. -/
def State.answerCfg (s : State) (a : CfgAnswer) : State := { s with host := { s.host with cfg := a } }

/-- Change the configuration space of a function. -/
def State.modSpace (s : State) (f : Func) (g : CfgSpace → CfgSpace) : State :=
  { s with host := { s.host with space := s.host.space.set (funcIx f) (g (s.host.space.get (funcIx f))) } }

/-- What a change of MSI-X Enable or Function Mask lets go: held messages, and the messages that moderation has waiting
(R595). -/
def State.msixChanged (s : State) (f : Func) : State :=
  let s := (List.range (vectorsOf f)).foldl (fun (s : State) v => s.sendPendingBit f v) s
  allParts.foldl (fun (s : State) p =>
    if decide ((s.vectorOf p 0).1 = f) then (List.finRange 13).foldl (fun (s : State) n => s.moderate p n) s else s) s

/-- A function that answers: a VF only once it is enabled, which READY allows (R919). -/
def State.hasFunc (s : State) : Func → Bool
  | .pf => true
  | .vf _ => decide (s.boot.phase = .ready) && s.host.vfEnable

/-- The capability IDs of configuration space (R508; the numbers of the PCI Express standard, PRESUMED, log entry 109): Power
Management 0x01, PCI Express 0x10, MSI-X 0x11; extended: Advanced Error Reporting 0x0001, Device Serial Number 0x0003, ARI
0x000E, SR-IOV 0x0010, and the Physical Layer of 16, 32 and 64 GT/s. There is no ATS, PASID or page request interface. -/
def cfgCapabilities (extended : Bool) : List Nat :=
  if extended then [0x0001, 0x0003, 0x000E, 0x0010, 0x0026, 0x002A, 0x0031] else [0x01, 0x10, 0x11]

/-- CONFIG_REQUEST (R507, R508, R509, R595, R918, R919). -/
def execConfigRequest (f : Func) (r : CfgReq) (s : State) : Out :=
  served s (
    if s.boot.phase = .off || s.boot.phase = .held || !s.hasFunc f then s.answerCfg .none
    else if !s.bar0On then s.answerCfg .retry
    else
      match r with
      | .readId => s.answerCfg (.value (BitVec.ofNat 64 (Config.vendorId.toNat + 65536 * deviceId f)))
      | .readClass => s.answerCfg (.value 0x12000011)
      | .readSerial => s.answerCfg (.value Config.serial)
      | .hasCapability x n => s.answerCfg (.value (if (cfgCapabilities x).contains n then 1 else 0))
      | .writeMsix en mask => ((s.modSpace f (fun c => { c with msixEnable := en, funcMask := mask })).msixChanged f).answerCfg .done
      | .writeCommand m b => (s.modSpace f (fun c => { c with memSpace := m, busMaster := b })).answerCfg .done
      | .writePower d => (s.modSpace f (fun c => { c with d3hot := d })).answerCfg .done
      | .writeSriov v =>
        (match f with
         | .pf => if s.boot.phase = Phase.ready then { s with host := { s.host with vfEnable := v } } else s
         | .vf _ => s).answerCfg .done
      | .other => s.answerCfg .done)

end Sys2Proof.Machine
end

