-- ==== Sys2Proof/Machine/Tile.lean ====
section
/-! DEFINITION. A run on its tile: bundles and their slots, the array and its block runs, tile DMA, freezes, and the
arbiters of the scratchpad's banks (chapters 02, 03 and 04). -/

namespace Sys2Proof.Machine

/-! ### Bundles (R164 to R171) -/

/-- A decoded vector slot (R169). -/
structure VecOp where
  vop : Nat
  bf : Bool
  dst : Nat
  srcA : Nat
  srcB : Nat
  srcC : Nat
  car : Nat
  seg : Nat
  imm : Nat

/-- A decoded bundle. Pairs are stream and count, or carousel and count. -/
structure Bundle where
  array : Option ArrayOp
  vec : Option VecOp
  fill : Option (Nat × Nat)
  skip : Option (Nat × Nat)
  drain : Option (Nat × Nat)
  advHead : Option (Nat × Nat)
  advTail : Option (Nat × Nat)
  sop : Nat
  arg : Nat

/-- The array slot (R168); the outer `none` is a malformed slot. -/
def decodeArray (v : Nat) : Option (Option ArrayOp) :=
  let f := bitsOf v
  let aop := f 60 4
  let rows := f 39 7
  let cols := f 32 7
  let sizes := decide (1 ≤ rows) && decide (rows ≤ 96) && decide (1 ≤ cols) && decide (cols ≤ 96)
  if aop = 0 then (if v = 0 then some none else none)
  else if aop = 1 || aop = 2 then
    let index := bitOf v 46
    if sizes && decide (f 47 3 ≤ 5) && decide (f 0 12 ≤ if index then 127 else 1023) then
      some (some { kind := if aop = 1 then .run else .runAcc, car := f 55 5, acar := f 50 5, wstream := f 47 3, index := index,
                   rows := rows, cols := cols, blocks := f 24 8 + 1, actK := f 12 12, off := f 0 12, ofmt := 0 })
    else none
  else if aop = 3 || aop = 4 then
    let ofmt := f 50 5 + 32 * f 47 3
    if sizes && decide (f 46 1 = 0) && decide (f 24 8 = 0) && decide (f 0 12 = 0) && (if aop = 3 then formatOut ofmt else decide (ofmt = 0)) then
      some (some { kind := if aop = 3 then .drainAcc else .loadAcc, car := f 55 5, acar := 0, wstream := 0, index := false,
                   rows := rows, cols := cols, blocks := 0, actK := f 12 12, off := 0, ofmt := ofmt })
    else none
  else none

/-- Operations of the vector slot (R169). -/
def vectorOps : List Nat := [0x01, 0x02, 0x10, 0x11, 0x12, 0x13, 0x14, 0x15, 0x16, 0x17, 0x20, 0x21, 0x30, 0x31, 0x32]

/-- Registers in the chain of a SAMPLE or TOPK (DESIGN CHOICE, log entry 22). -/
def VecOp.chain (o : VecOp) : List Nat := (List.range (o.imm % 32 + 1)).map (o.srcA + ·)

/-- Registers an operation reads. -/
def VecOp.sources (o : VecOp) : List Nat :=
  if o.vop = 0x30 then o.chain ++ [o.srcB] else if o.vop = 0x32 then o.chain else vectorSources o.vop o.srcA o.srcB o.srcC

/-- The vector slot (R169). -/
def decodeVec (v : Nat) : Option (Option VecOp) :=
  let f := bitsOf v
  let vop := f 56 8
  let o : VecOp := { vop := vop, bf := decide (f 54 2 = 1), dst := f 49 5, srcA := f 44 5, srcB := f 39 5, srcC := f 34 5,
                     car := f 29 5, seg := f 17 12, imm := f 0 17 }
  let fmt := o.imm % 256
  let ok := if vop = 0x01 then (formatIn fmt || decide (fmt = 0x07)) && decide (fmt ≠ 0x03)
    else if vop = 0x02 then formatOut fmt
    else if vop = 0x30 || vop = 0x32 then decide (o.srcA + o.imm % 32 ≤ 31)
    else true
  if vop = 0 then (if v = 0 then some none else none)
  else if vectorOps.contains vop && decide (f 54 2 ≤ 1) && ok then some (some o)
  else none

/-- A bundle by its 256 bits (R164, R170); `none` is malformed by itself (R167). -/
def decodeBundle (b : BitVec 256) : Option Bundle :=
  let w (lo n : Nat) : Nat := bitsOf b.toNat lo n
  let dmaIn := w 96 32
  let dmaOut := w 64 32
  let car := w 32 32
  let seq := w 0 32
  let inOp := bitsOf dmaIn 28 4
  let outOp := bitsOf dmaOut 28 4
  let sop := bitsOf seq 28 4
  let inOk := if inOp = 0 then decide (dmaIn = 0) else if inOp = 1 then decide (bitsOf dmaIn 8 17 = 0) else decide (inOp = 2)
  let outOk := if outOp = 0 then decide (dmaOut = 0) else decide (outOp = 1) && decide (bitsOf dmaOut 8 18 = 0)
  let seqOk := decide (sop ≤ 4) && decide (bitsOf seq 20 8 = 0) && (decide (sop = 1) || decide (sop = 3) || decide (bitsOf seq 0 20 = 0))
  match decodeArray (w 192 64), decodeVec (w 128 64) with
  | some a, some v =>
    if inOk && outOk && seqOk && decide (bitsOf dmaIn 25 3 ≤ 5) then
      some { array := a, vec := v,
             fill := if inOp = 1 then some (bitsOf dmaIn 25 3, bitsOf dmaIn 0 8 + 1) else none,
             skip := if inOp = 2 then some (bitsOf dmaIn 25 3, bitsOf dmaIn 8 17 + 1) else none,
             drain := if outOp = 1 then some (bitsOf dmaOut 26 2, bitsOf dmaOut 0 8 + 1) else none,
             advHead := if bitOf car 31 then some (bitsOf car 26 5, bitsOf car 16 10 + 1) else none,
             advTail := if bitOf car 15 then some (bitsOf car 10 5, bitsOf car 0 10 + 1) else none,
             sop := sop, arg := bitsOf seq 0 20 }
    else none
  | _, _ => none

/-! ### Streams that an operation takes its formats from (R974) -/

/-- The lowest-numbered stream of a carousel, with every stream that names it in agreement. -/
def Run.layout (r : Run) (car : Nat) (insFirst : Bool) : Option Stream :=
  let all := (if insFirst then r.ins ++ r.outs else r.outs ++ r.ins).filter (fun x => decide (x.carousel = car))
  match all with
  | x :: xs => if xs.all (fun y => decide (y.kind = x.kind) && decide (y.format = x.format) && decide (y.unitBytes = x.unitBytes)) then some x else none
  | [] => none

/-- The plane side of a RUN: an LBP stream, or one fed as the plane-side operand under R66. -/
def planeFormat (f : Nat) : Bool := f = 0x00 || f = 0x01 || f = 0x04 || f = 0x05

/-- The array slot meets R155, R156, R159 and R974 in this run. -/
def Run.arrayOk (r : Run) (o : ArrayOp) : Bool :=
  let b := blockLenOf r.task.desc.blockLen.toNat
  decide (o.car < r.cars.length) && (match o.kind with
    | .run | .runAcc =>
      decide (o.acar < r.cars.length) && (match r.ins[o.wstream]? with
        | some w => decide (w.carousel = o.car) && (decide (w.kind = 1) || (!o.index && planeFormat w.format))
        | none => false) && (match r.layout o.acar true with
        | some a => decide (a.kind ≠ 1) && formatIn a.format
        | none => false)
    | .drainAcc => (match r.layout o.car false with
        | some x => decide (x.format = o.ofmt) &&
          decide (scaleGroup o.ofmt b = 0 ∨ o.actK % scaleGroup o.ofmt b = 0)
        | none => false)
    | .loadAcc => (match r.layout o.car true with
        | some x => decide (x.format = 0x07)
        | none => false))

/-- A carousel of the task. -/
def Run.hasCar (r : Run) : Option (Nat × Nat) → Bool
  | some x => decide (x.1 < r.cars.length)
  | none => true

/-- The bundle is well formed in this run (R147, R167, R171). DESIGN CHOICE (log entry 23): a carousel beyond CAROUSELS and
an ENDLOOP outside a loop are malformed. -/
def Run.bundleOk (r : Run) (b : Bundle) : Bool :=
  let left (xs : List Stream) (o : Option (Nat × Nat)) (asks : Bool) : Bool := match o with
    | some (i, n) => (match xs[i]? with | some x => !asks || decide (x.done + n ≤ x.total) | none => false)
    | none => true
  (match b.array with | some o => r.arrayOk o | none => true) &&
    (match b.vec with | some o => !(o.vop = 0x01 || o.vop = 0x02) || decide (o.car < r.cars.length) | none => true) &&
    left r.ins b.fill true && left r.ins b.skip false && left r.outs b.drain true && r.hasCar b.advHead && r.hasCar b.advTail &&
    (if b.sop = 1 then decide (r.loops.length < 4) else if b.sop = 2 then !r.loops.isEmpty else true)

/-! ### Slots that a bundle addresses (R128, R131) -/

/-- Carousel `i`. -/
def Run.car (r : Run) (i : Nat) : Carousel := r.cars.getD i default

/-- Change carousel `i`. -/
def Run.modCar (r : Run) (i : Nat) (f : Carousel → Carousel) : Run := { r with cars := modAt r.cars i f }

/-- A slot of a carousel by the pointer value that names it. -/
abbrev SlotRef := Nat × Nat

/-- Slots ahead of a pointer. -/
def slotsFrom (car : Nat) (p : W32) (off n : Nat) : List SlotRef := (List.range n).map (fun i => (car, ptrPlus p (off + i)))

/-- Slot and block position of block `i` of column `c` of a RUN: slots ahead of HEAD, position in the slot
(R155, R156). -/
def Run.planeAt (r : Run) (o : ArrayOp) (c i : Nat) : Nat × Nat :=
  let p := panelBlocks (blockLenOf r.task.desc.blockLen.toNat)
  match r.ins[o.wstream]? with
  | some w =>
    if o.index then
      let q := c * (match w.header with | some h => h.kBlocks | none => 0) + o.actK + i + o.off
      (q / p, q % p)
    else (o.off + c, if w.kind = 1 then (o.actK + i) % p else o.actK + i)
  | none => (0, 0)

/-- Slots that an array operation reads. -/
def Run.arrayReads (r : Run) (o : ArrayOp) : List SlotRef :=
  match o.kind with
  | .run | .runAcc =>
    let ahead := (List.range o.cols).flatMap (fun c =>
      let lo := (r.planeAt o c 0).1
      let hi := (r.planeAt o c (o.blocks - 1)).1
      (List.range (hi + 1 - lo)).map (lo + ·))
    ahead.eraseDups.map (fun k => (o.car, ptrPlus (r.car o.car).head k)) ++ slotsFrom o.acar (r.car o.acar).head 0 o.rows
  | .loadAcc => slotsFrom o.car (r.car o.car).head 0 o.rows
  | .drainAcc => []

/-- Slots that the bundle's engines read, that they write, and that its DRAIN reads. -/
def Run.slotsOf (r : Run) (b : Bundle) : List SlotRef × List SlotRef × List SlotRef :=
  let reads := (match b.array with | some o => r.arrayReads o | none => []) ++
    (match b.vec with | some o => if o.vop = 0x01 then slotsFrom o.car (r.car o.car).head 0 1 else [] | none => [])
  let writes := (match b.array with | some o => if o.kind = .drainAcc then slotsFrom o.car (r.car o.car).tail 0 o.rows else [] | none => []) ++
    (match b.vec with | some o => if o.vop = 0x02 then slotsFrom o.car (r.car o.car).tail 0 1 else [] | none => [])
  let drains := match b.drain with
    | some (i, n) => (match r.outs[i]? with | some x => slotsFrom x.carousel (r.car x.carousel).head 0 n | none => [])
    | none => []
  (reads, writes, drains)

/-- Commands in the tile DMA queue (R144). A command leaves it with its last slot: filled, or read from the scratchpad
(DESIGN CHOICE, log entry 95). -/
def Run.queued (r : Run) : Nat := ((r.fills.map FillOp.cmd ++ r.drains.map DrainOp.cmd).eraseDups).length

/-- Registers that await a LOAD under way (R133). -/
def Run.loadWait (r : Run) : List Nat := r.vec.filterMap (fun v => v.load.map (fun x => x.1))

/-- A STORE has writes to make or to be granted. -/
def Run.storing (r : Run) : Bool := r.vec.any (fun v => v.load.isNone)

/-- The conditions that freeze the tile in the bundle's issue cycle (R131 to R133). A SKIP is no command of the queue, and a FILL
accesses no slot before its data come, so neither is held (DESIGN CHOICE, log entry 95). -/
def Run.freezeCauses (r : Run) (b : Bundle) : List FreezeCause :=
  let x := r.slotsOf b
  let late := (x.1 ++ x.2.1 ++ x.2.2).any (fun a => (r.car a.1).isBusy a.2)
  let need := (if b.fill.isSome then 1 else 0) + (if b.drain.isSome then 1 else 0)
  let wait := match b.vec with | some o => !r.task.desc.flat && o.sources.any r.loadWait.contains | none => false
  (if late then [.lateSlot] else []) ++ (if 0 < need && 64 < r.queued + need then [.queueFull] else []) ++ (if wait then [.loadWait] else [])

/-! ### The array (R73 to R83, R155 to R160, R973, R179 to R192, R200 to R203) -/

/-- Block length of the task. -/
def Run.blockLen (r : Run) : Nat := blockLenOf r.task.desc.blockLen.toNat

/-- Data and scale bytes of a unit of a stream in the slot of `ptr`. -/
def State.unitInSlot (s : State) (t : Nat) (r : Run) (x : Stream) (car ptr : Nat) : List Byte × List Byte :=
  let c := (r.car car).cfg
  (s.slotRead t c ptr 0 x.unitBytes, s.slotRead t c ptr (x.scaleOff c.slotRows r.blockLen) (x.scaleBytes r.blockLen))

/-- Values of a unit. -/
def Stream.values (x : Stream) : Nat := x.unitBytes * 8 / elemBits x.format

/-- The plane-side block of column `c` in block run `i`. A position past the layer's last block takes the bytes that the slot
holds, and one past the last block of a token that R66 feeds takes zeros with SCALE 0 (DESIGN CHOICE, log entry 96). -/
def State.planeBlock (s : State) (t : Nat) (r : Run) (a : ArrayRun) (c i : Nat) : PlaneBlock :=
  let o := a.op
  let b := r.blockLen
  let at_ := r.planeAt o c i
  let ptr := ptrPlus a.headW at_.1
  let cfg := (r.car o.car).cfg
  match r.ins[o.wstream]? with
  | some w =>
    if w.kind = 1 then
      let rows := (List.range w.width).map (fun k => s.slotRead t cfg ptr (256 * k) 256)
      let last := 256 * (cfg.slotRows - 1)
      let byte (off : Nat) : Nat := leNat (s.slotRead t cfg ptr off 1)
      match w.header with
      | some h => { scale := byte (last + at_.2), q := planeInts rows at_.2 b,
                    corr := if h.readsCorr w.width then byte (last + 128 + at_.2) else 0,
                    offs := if h.offset then byte (last - 256 + at_.2) else 0, depth := h.wStore - w.width }
      | none => ⟨0, [], 0, 0, 0⟩
    else
      let u := s.unitInSlot t r w o.car ptr
      let blk := if isLbi w.format then (rawLbi w.format u.1 u.2 w.values b).getD at_.2 (0, List.replicate b 0)
        else (toLbi w.format u.1 u.2 w.values b 8).getD at_.2 (0, List.replicate b 0)
      ⟨blk.1, blk.2, 0, 0, 0⟩
  | none => ⟨0, [], 0, 0, 0⟩

/-- Width of the plane side, as R85 counts it. -/
def Run.planeWidth (r : Run) (o : ArrayOp) : Nat :=
  match r.ins[o.wstream]? with
  | some w => if w.kind = 1 then w.width else if w.format = 0x01 then 4 else 8
  | none => 0

/-- Bits of the activation width. -/
def Run.actBits (r : Run) : Nat := if r.task.actWidth = 0 then 4 else if r.task.actWidth = 1 then 8 else 16

/-- The activation block of row `k` in block run `i`; past a token's last block the format edge feeds zeros (R56). -/
def State.actBlock (s : State) (t : Nat) (r : Run) (a : ArrayRun) (k i : Nat) : Nat × List Int :=
  match r.layout a.op.acar true with
  | some x =>
    let u := s.unitInSlot t r x a.op.acar (ptrPlus a.headA k)
    (toLbi x.format u.1 u.2 x.values r.blockLen r.actBits).getD (a.op.actK + i) (0, List.replicate r.blockLen 0)
  | none => (0, [])

/-- Cycles for which an array operation keeps the array busy (R160). -/
def Run.arrayCycles (r : Run) (o : ArrayOp) : Nat :=
  match o.kind with
  | .run | .runAcc => o.blocks * blockCycles r.blockLen (r.planeWidth o) r.task.actWidth
  | _ => o.rows

/-- One row of a block run: new accumulators, narrow overflow, and whether the residue check fails (R79, R200 to
R203). `w` are the columns' blocks with the error that a fault adds. -/
def Run.rowRun (r : Run) (row : Nat) (act : Nat × List Int) (w : List (PlaneBlock × Int)) : List (Nat × W32) × Bool × Bool :=
  let cells := w.zipIdx.map (fun x =>
    let n := narrowSum r.actBits act.2 x.1.1.q x.1.2
    let key := 96 * row + x.2
    ((key, promote (dget r.acc key 0) n.1 (act.2.foldl (· + ·) 0) act.1 x.1.1), n.1, n.2, dot act.2 x.1.1.q))
  let sumN : Int := (cells.map (fun c => c.2.1)).foldl (· + ·) 0
  let sumC : Int := (cells.map (fun c => c.2.2.2)).foldl (· + ·) 0
  (cells.map (·.1), cells.any (fun c => c.2.2.1), decide (sumN % 127 ≠ sumC % 127))

/-- One block run over every row of the operation. -/
def State.blockRun (s : State) (t : Nat) (r : Run) (a : ArrayRun) (fault : Option CellFault) : Run × Bool × Bool :=
  let ws := (List.range a.op.cols).map (fun c => s.planeBlock t r a c a.block)
  let rows := (List.range a.op.rows).map (fun k =>
    r.rowRun k (s.actBlock t r a k a.block) (ws.zipIdx.map (fun w => (w.1, match fault with
      | some f => if f.row = k && f.col = w.2 then f.err else 0
      | none => 0))))
  ({ r with acc := (rows.flatMap (·.1)).foldl (fun m x => dset m x.1 x.2) r.acc, array := some { a with block := a.block + 1 } },
   rows.any (fun x => x.2.1), rows.any (fun x => x.2.2))

/-- A watch block that counts as measured meets the jump test (R192). -/
def EwmaEntry.jumps (e : EwmaEntry) (l : Int) : Bool :=
  e.valid && (decide (256 * (e.tUp : Int) < 256 * l - e.mean) || (decide (e.tDown ≠ 0) && decide (256 * (e.tDown : Int) < e.mean - 256 * l)))

/-- Count one watch block (R185, R192); the jump test is met only while WATCH_EN is set (R193). -/
def Run.watch (r : Run) (on : Bool) (accs : List W32) (o : OutBlock) : Run :=
  match classify accs o with
  | .nanBlock => { r with thin := r.thin + 1 }
  | .whiteout => { r with white := r.white + 1 }
  | .zeroBlock => { r with zero := r.zero + 1 }
  | .measured l =>
    if on && r.ewma.jumps l then { r with thin := r.thin + 1 } else { r with cleanSum := r.cleanSum + l, cleanCount := r.cleanCount + 1 }

/-- Write converted values to a slot from a value offset on: data, and the scales of their blocks (R151, R158). The unused nibble
of an odd number of 4-bit values is written as zero (DESIGN CHOICE, log entry 96). -/
def State.writeValues (s : State) (t : Nat) (c : CarouselCfg) (ptr f first scaleAt group : Nat) (blocks : List OutBlock) : State :=
  let s := s.slotWrite t c ptr (first * elemBits f / 8) (packBits (elemBits f) (blocks.flatMap OutBlock.codes))
  if scaleGroup f group = 0 then s
  else s.slotWrite t c ptr (scaleAt + first / scaleGroup f group) (blocks.map (fun o => BitVec.ofNat 8 (o.scale.getD 0)))

/-- DRAIN_ACC: each row converted to OFMT and written to its slot through the numeric watch unit (R158, R179 to
R186). -/
def State.drainAcc (s : State) (t : Nat) (r : Run) (o : ArrayOp) : State × Run :=
  let g := if isMx o.ofmt then 32 else r.blockLen
  let c := (r.car o.car).cfg
  let scaleAt := match r.layout o.car false with | some x => x.scaleOff c.slotRows r.blockLen | none => 0
  (List.range o.rows).foldl (fun (y : State × Run) k =>
    let bs := (piecesOf g ((List.range o.cols).map (fun j => dget r.acc (96 * k + j) 0))).map (fun accs => (accs, encodeBlock o.ofmt accs))
    (y.1.writeValues t c (ptrPlus (r.car o.car).tail k) o.ofmt o.actK scaleAt r.blockLen (bs.map (·.2)),
     bs.foldl (fun r b => r.watch (s.watchEn r.part) b.1 b.2) y.2)) (s, r)

/-- LOAD_ACC: accumulators loaded from FP32 values (R973). -/
def State.loadAcc (s : State) (t : Nat) (r : Run) (o : ArrayOp) : Run :=
  { r with acc := (List.range o.rows).foldl (fun m k =>
      let bs := s.slotRead t (r.car o.car).cfg (ptrPlus (r.car o.car).head k) (4 * o.actK) (4 * o.cols)
      (List.range o.cols).foldl (fun m j => dset m (96 * k + j) (BitVec.ofNat 32 (fieldAt bs (4 * j) 4))) m) r.acc }

/-- Start an array operation (R160, R166). -/
def Run.startArray (r : Run) (o : ArrayOp) : Run :=
  let r := if o.kind = .run then
      { r with acc := r.acc.filter (fun e => !(decide (e.1 / 96 < o.rows) && decide (e.1 % 96 < o.cols))) } else r
  { r with array := some { op := o, headW := (r.car o.car).head, headA := (r.car o.acar).head },
           arrayBusy := r.arrayCycles o, delayed := [] }

/-! ### The vector unit (R161 to R163, R413 to R415) -/

/-- Set the first lanes of register `reg` to the results of an operation; the lanes that no rule states are free values, the same
on every tile for the same inputs `ins` (R163). -/
def Run.setLanes (r : Run) (o : VecOp) (ins : List W32) (reg : Nat) (vs : List W32) : Run :=
  { r with vregs := writeLanes r.vregs o.bf reg (vs ++ (List.range (lanesOf o.bf - vs.length)).map (fun i =>
      Config.vectorRest o.vop o.bf o.imm ins (vs.length + i))) }

/-- Byte offset of the scales of a slot that LOAD and STORE use: those of the carousel's stream, else its last row
(DESIGN CHOICE, log entry 22). -/
def Run.scaleAt (r : Run) (car : Nat) (insFirst : Bool) : Nat :=
  let c := (r.car car).cfg
  match r.layout car insFirst with
  | some x => x.scaleOff c.slotRows r.blockLen
  | none => 256 * (c.slotRows - 1)

/-- LOAD: narrow reads of the slot at HEAD, which the register awaits (R162, R169). -/
def Run.loadVec (r : Run) (o : VecOp) : Run :=
  let f := o.imm % 256
  let n := lanesOf o.bf
  let c := (r.car o.car).cfg
  let ptr := (r.car o.car).head.toNat
  let first := 256 * o.seg / elemBits f
  let g := scaleGroup f r.blockLen
  let scaleOff := r.scaleAt o.car true + first / g
  let data := c.segments ptr (32 * o.seg) (n * elemBits f / 8)
  let scales := if g = 0 then [] else c.segments ptr scaleOff ((first % g + n + g - 1) / g)
  { r with vec := r.vec ++ [{ load := some (o.dst, o.bf, f, first), data := data, scales := scales, scaleSkip := scaleOff % 32,
                              group := g, todo := ((data ++ scales).eraseDups).map (fun a => (a, none)) }] }

/-- The segments of a LOAD have all come back: its register, converted as the format edge decodes and rounded once (R68, R162). -/
def Run.endLoad (r : Run) (v : VecAccess) : Run :=
  match v.load with
  | none => r
  | some (dst, bf, f, first) =>
    let bytes (as : List Nat) : List Byte := as.flatMap (fun a => dget v.got a [])
    let scales := (bytes v.scales).drop v.scaleSkip
    let vs := (unpack (bytes v.data) (elemBits f) (lanesOf bf)).zipIdx.map (fun x =>
      BitVec.ofNat 32 ((laneFmt bf).encodeIeee (decodeElem f x.1
        (if v.group = 0 then 0 else (scales.getD ((first + x.2) / v.group - first / v.group) 0).toNat))))
    { r with vregs := writeLanes r.vregs bf dst vs }

/-- Read data of a segment reaches the vector unit: it goes to the oldest LOAD that awaits the segment. -/
def Run.vecReturn (r : Run) (a : Nat) (bs : List Byte) : Run :=
  let awaits (v : VecAccess) : Bool :=
    v.load.isSome && (v.data ++ v.scales).contains a && (dget? v.got a).isNone && !v.todo.any (fun x => decide (x.1 = a))
  match r.vec.findIdx? awaits with
  | none => r
  | some i =>
    let v := r.vec.getD i {}
    let v := { v with got := dset v.got a bs }
    if (v.data ++ v.scales).all (fun a => (dget? v.got a).isSome) then { r with vec := r.vec.eraseIdx i }.endLoad v
    else { r with vec := modAt r.vec i (fun _ => v) }

/-- A lane as FP32. -/
def lane32 (bf : Bool) (v : W32) : W32 := if bf then v <<< 16 else v

/-- The narrow writes that set bytes of a slot from byte `off` on. -/
def CarouselCfg.segWrites (c : CarouselCfg) (ptr off : Nat) (bs : List Byte) : List (Nat × Option (Nat × List Byte)) :=
  (c.segments ptr off bs.length).zipIdx.map (fun x =>
    let lo := max off ((off / 32 + x.2) * 32)
    let hi := min (off + bs.length) ((off / 32 + x.2 + 1) * 32)
    (x.1, some (lo % 32, sliceAt bs (lo - off) (hi - lo))))

/-- STORE: narrow writes of a register to the slot at TAIL, converted as R71 gives (R162). -/
def Run.storeVec (r : Run) (o : VecOp) (regs : Dict W32) : Run :=
  let f := o.imm % 256
  let c := (r.car o.car).cfg
  let ptr := (r.car o.car).tail.toNat
  let g := if isMx f then 32 else r.blockLen
  let bs := (piecesOf g ((readLanes regs o.bf o.srcA).map (lane32 o.bf))).map (encodeBlock f)
  let n := scaleGroup f r.blockLen
  let scales := if n = 0 then [] else
    c.segWrites ptr (r.scaleAt o.car false + 256 * o.seg / elemBits f / n) (bs.map (fun b => BitVec.ofNat 8 (b.scale.getD 0)))
  { r with vec := r.vec ++ [{ todo := c.segWrites ptr (32 * o.seg) (packBits (elemBits f) (bs.flatMap OutBlock.codes)) ++ scales }] }

/-- The other operations of the vector slot. SAMPLE takes its logits from a chain of registers at SRC_A, and T, K, P and u
from lanes 0 to 3 of SRC_B; PHILOX its key from SRC_A and its counter from SRC_B; TOPK a chain at SRC_A and a count of
IMM[15:5] (DESIGN CHOICE, log entry 22). -/
def Run.vecOp (r : Run) (o : VecOp) : Run :=
  let lane (k : Nat) : List W32 := readLanes r.vregs o.bf k
  let chain := o.chain.flatMap lane
  let b (i : Nat) : W32 := (lane o.srcB).getD i 0
  let a (i : Nat) : W32 := (lane o.srcA).getD i 0
  let ins := o.sources.flatMap lane
  if o.vop = 0x20 || o.vop = 0x21 then r.setLanes o ins o.dst [reduceLanes o.vop o.bf (lane o.srcA)]
  else if o.vop = 0x30 then
    r.setLanes o ins o.dst [BitVec.ofNat 32 (sampleToken (chain.map (lane32 o.bf)) (lane32 o.bf (b 0)) (b 1).toNat (lane32 o.bf (b 2)) (lane32 o.bf (b 3)))]
  else if o.vop = 0x31 then
    let x := philox (b 0, b 1, b 2, b 3) (a 0, a 1)
    r.setLanes o ins o.dst [x.1, x.2.1, x.2.2.1, x.2.2.2]
  else if o.vop = 0x32 then
    let n := if o.imm / 32 % 2048 = 0 then 1024 else min 1024 (o.imm / 32 % 2048)
    let ix := (topIndices (chain.map (lane32 o.bf)) n).map (BitVec.ofNat 32)
    (piecesOf (lanesOf o.bf) ix).zipIdx.foldl (fun (y : Run) p => y.setLanes o ins ((o.dst + p.2) % 32) p.1) r
  else
    { r with vregs := writeLanes r.vregs o.bf o.dst (((lane o.srcA).zip ((lane o.srcB).zip (lane o.srcC))).map (fun x =>
      laneOp o.vop o.bf x.1 x.2.1 x.2.2)) }

/-! ### Tile DMA (R123, R125, R143 to R153) -/

/-- Class of a run's data on the fabric (R450). -/
def Run.tc (r : Run) : Fin 4 := if r.task.desc.cls = 0 then 1 else 2

/-- Cut a piece into requests of at most 256 B that stay in one 256 B row (R143). -/
def requestsOf (ga n : Nat) : List (Nat × Nat) := (rowPieces ga n).map (fun x => (256 * x.1 + x.2.1, x.2.2))

/-- Outstanding memory requests of the run's tile DMA (R143). -/
def State.outstanding (s : State) (r : Run) : Nat :=
  let due (ks : List Nat) (near : Nat) : Nat := (ks.filter (fun k => (s.outcome? k).isNone)).length + near
  (r.fills.map (fun f => due f.xids f.near) ++ r.writes.map (fun d => due d.xids d.near)).foldl (· + ·) 0

/-- Send the first `room` queued requests of a fill. -/
def State.pumpFill (s : State) (r : Run) (room : Nat) (f : FillOp) : State × FillOp :=
  (f.queued.take room).foldl (fun (y : State × FillOp) q =>
    if y.1.isSelf q.1 then (y.1, { y.2 with near := y.2.near + 1 })
    else
      let z := y.1.sendAcked tyRead r.tc (nodeOf (BitVec.ofNat 64 q.1)) r.part (BitVec.ofNat 64 q.1) (BitVec.ofNat 32 q.2) []
        (some (r.part, r.task.desc.epoch))
      (z.2, { y.2 with xids := y.2.xids ++ [z.1] })) (s, { f with queued := f.queued.drop room })

/-- Send the first `room` queued requests of a drain. -/
def State.pumpWrite (s : State) (r : Run) (room : Nat) (d : DrainOp) : State × DrainOp :=
  (d.queued.take room).foldl (fun (y : State × DrainOp) q =>
    if y.1.isSelf q.1 then (y.1, { y.2 with near := y.2.near + 1 })
    else
      let z := y.1.sendAcked tyWrite r.tc (nodeOf (BitVec.ofNat 64 q.1)) r.part (BitVec.ofNat 64 q.1) 0 q.2 (some (r.part, r.task.desc.epoch))
      (z.2, { y.2 with xids := y.2.xids ++ [z.1] })) (s, { d with queued := d.queued.drop room })

/-- The held bundle of a late-slot hold waits for the slot that this fill fills (R131, R137). -/
def Run.awaits (r : Run) (f : FillOp) : Bool :=
  match r.freeze, (r.bundles[r.pc]?).bind decodeBundle with
  | some z, some b =>
    let x := r.slotsOf b
    z.causes.contains .lateSlot && (x.1 ++ x.2.1 ++ x.2.2).any (fun a =>
      decide (a.1 = f.carousel) && decide (a.2 % (r.car a.1).cfg.slots = f.ptr % (r.car a.1).cfg.slots))
  | _, _ => false

/-- Tile DMA sends queued requests, up to 256 outstanding: those of the fill that a late-slot hold waits for first, then fills in
their order, then drains (R135, R137, R143; the order of the others is a DESIGN CHOICE, log entry 95). -/
def State.pumpDma (s : State) (r : Run) : State × Run :=
  let ix := List.range r.fills.length
  let first (i : Nat) : Bool := match r.fills[i]? with | some f => r.awaits f | none => false
  let y := (ix.filter first ++ ix.filter (fun i => !first i)).foldl (fun (y : State × Run × Nat) i =>
    match y.2.1.fills[i]? with
    | some f =>
      let z := y.1.pumpFill r y.2.2 f
      (z.1, { y.2.1 with fills := modAt y.2.1.fills i (fun _ => z.2) }, y.2.2 - f.queued.length)
    | none => y) (s, r, 256 - s.outstanding r)
  let y := (List.range r.writes.length).foldl (fun (y : State × Run × Nat) i =>
    match y.2.1.writes[i]? with
    | some d =>
      let z := y.1.pumpWrite r y.2.2 d
      (z.1, { y.2.1 with writes := modAt y.2.1.writes i (fun _ => z.2) }, y.2.2 - d.queued.length)
    | none => y) y
  (y.1, y.2.1)

/-- A stream entry of the run. -/
def Run.modStream (r : Run) (isIn : Bool) (i : Nat) (f : Stream → Stream) : Run :=
  if isIn then { r with ins := modAt r.ins i f } else { r with outs := modAt r.outs i f }

/-- The list block of a unit is read, unless the run has read it before or it cannot be read, and kept for the rest of the run. -/
def State.keepBlock (s : State) (r : Run) (i u : Nat) : Run :=
  match (r.ins[i]?).bind (fun x => (x.blockOf u).filter (fun l => (dget? x.blocks l).isNone && (s.withdrawnIn l 4096).isNone)) with
  | some l =>
    let b := s.readDpa l 4096
    { r with ins := r.ins.map (fun y => if y.paged then { y with blocks := dset y.blocks l b } else y) }
  | none => r

/-- FILL: BUSY on the slots from TAIL on; its requests are queued and sent as room allows (R123, R143). -/
def State.startFill (s : State) (r : Run) (i n : Nat) : State × Run :=
  match r.ins[i]? with
  | none => (s, r)
  | some x =>
    let tail := (r.car x.carousel).tail
    let cmd := r.dmaCmds
    let r' := (List.range n).foldl (fun (y : Run) k =>
      let u := (x.unitAt (x.done + k)).toNat
      let ptr := ptrPlus tail k
      let y := s.keepBlock y i u
      let ps := (s.unitPieces (y.ins.getD i x) u (r.car x.carousel).cfg.slotRows r.blockLen).getD []
      { y.modCar x.carousel (fun c => c.take ptr) with
        filled := y.filled ++ [(i, u)],
        fills := y.fills ++ [{ stream := i, unit := u, carousel := x.carousel, ptr := ptr, cmd := cmd,
                               queued := ps.flatMap (fun p => requestsOf p.1 p.2.1) }] }) r
    s.pumpDma { r'.modStream true i (fun x => { x with done := x.done + n }) with dmaCmds := cmd + 1 }

/-- DRAIN: BUSY on the slots from HEAD on (R125). -/
def Run.startDrain (r : Run) (i n : Nat) : Run :=
  match r.outs[i]? with
  | none => r
  | some x =>
    let head := (r.car x.carousel).head
    let cmd := r.dmaCmds
    let r' := (List.range n).foldl (fun (y : Run) k =>
      { y.modCar x.carousel (fun c => c.take (ptrPlus head k)) with
        drains := y.drains ++ [{ stream := i, unit := (x.unitAt (x.done + k)).toNat, carousel := x.carousel, ptr := ptrPlus head k, cmd := cmd }] }) r
    { r'.modStream false i (fun x => { x with done := x.done + n }) with dmaCmds := cmd + 1 }

/-! ### Issue (R165, R166, R172) -/

/-- Add cycles: at issue ratio 1/n each takes n cycles of the clock (R802). The array goes on meanwhile. -/
def Run.addCycles (r : Run) (issueLog2 n : Nat) : Run := { r with cycles := r.cycles + n * 2 ^ issueLog2, arrayBusy := r.arrayBusy - n }

/-- Pointer advances of the bundle, which take effect at its end, with stamps and overruns (R123 to R127, R166). ADV_TAIL acts
alike on a carousel that a stream fills (DESIGN CHOICE, log entry 95). -/
def Run.advance (old r : Run) (b : Bundle) : Run :=
  let fillCar : Option (Nat × Nat) := b.fill.bind (fun f => (r.ins[f.1]?).map (fun x => (x.carousel, f.2)))
  let drainCar : Option (Nat × Nat) := b.drain.bind (fun f => (r.outs[f.1]?).map (fun x => (x.carousel, f.2)))
  let up (r : Run) (o : Option (Nat × Nat)) (f : Carousel → Nat → Carousel) : Run := match o with
    | some (c, n) => r.modCar c (fun x => f x n)
    | none => r
  let r := up r drainCar (fun x n => { x with head := x.head + BitVec.ofNat 32 n })
  let r := up r b.advHead (fun x n => { x with head := x.head + BitVec.ofNat 32 n })
  let r := up r fillCar (fun x n => { x with tail := x.tail + BitVec.ofNat 32 n })
  let r := match b.advTail with
    | some (c, n) =>
      let tail := (old.car c).tail
      r.modCar c (fun x => { (List.range n).foldl (fun x k => x.stamp (ptrPlus tail k)) x with tail := x.tail + BitVec.ofNat 32 n })
    | none => r
  let r := match fillCar with | some (c, _) => r.modCar c Carousel.checkOverrun | none => r
  match b.advTail with | some (c, _) => r.modCar c Carousel.checkOverrun | none => r

/-- Sequencer control (R170 to R172). -/
def Run.sequence (r : Run) (b : Bundle) : Run :=
  if b.sop = 1 then { r with pc := r.pc + 1, loops := (r.pc + 1, b.arg + 1) :: r.loops }
  else if b.sop = 2 then
    match r.loops with
    | (start, n) :: rest => if 1 < n then { r with pc := start, loops := (start, n - 1) :: rest } else { r with pc := r.pc + 1, loops := rest }
    | [] => r
  else if b.sop = 4 then { r with atEnd := true, endCycles := r.cycles }
  else { r with pc := r.pc + 1 }

/-- Every slot of a bundle issues in the same cycle (R165). An underrun counts once for each slot that an operation names
(DESIGN CHOICE, log entry 95). -/
def State.issueBundle (s : State) (t : Nat) (r : Run) (b : Bundle) : State :=
  let x := r.slotsOf b
  let counted := (x.1 ++ x.2.2).foldl (fun (r : Run) a => r.modCar a.1 (fun c => c.touch a.2)) r
  -- reads of the scratchpad come before the bundle's writes
  let r1 := match b.array with | some o => if o.kind = .loadAcc then s.loadAcc t counted o else counted | none => counted
  let r2 := match b.vec with | some o => if o.vop = 0x01 then r1.loadVec o else r1 | none => r1
  let y3 : State × Run := match b.array with | some o => if o.kind = .drainAcc then s.drainAcc t r2 o else (s, r2) | none => (s, r2)
  let r5 := match b.vec with
    | some o => if o.vop = 0x01 then y3.2 else if o.vop = 0x02 then y3.2.storeVec o r.vregs else y3.2.vecOp o
    | none => y3.2
  let r6 := match b.array with | some o => r5.startArray o | none => r5
  let y7 : State × Run := match b.fill with | some (i, n) => y3.1.startFill r6 i n | none => (y3.1, r6)
  let r8 := match b.skip with | some (i, n) => y7.2.modStream true i (fun x => { x with done := x.done + n }) | none => y7.2
  let r9 := match b.drain with | some (i, n) => r8.startDrain i n | none => r8
  let r10 := (r.advance r9 b).addCycles (s.tile t).issueLog2 (1 + (if b.sop = 3 then b.arg else 0))
  y7.1.modTile t (fun z => { z with mode := .running, run := some { r10.sequence b with freeze := none, arrayWait := false, endNs := s.now } })

/-- Block runs of the operation in the array whose cycles have passed (R85, R160). -/
def Run.blocksDue (r : Run) (a : ArrayRun) : Nat :=
  match a.op.kind with
  | .run | .runAcc =>
    let per := blockCycles r.blockLen (r.planeWidth a.op) r.task.actWidth
    if per = 0 then a.op.blocks else min a.op.blocks ((r.arrayCycles a.op - r.arrayBusy) / per)
  | _ => 0

/-- The cycle of the bundle's issue has not come yet: a block run of an earlier cycle has still to end (R84), under FLAT a LOAD's
data have still to come, or a LOAD_ACC follows a STORE whose writes have still to be granted (DEDUCED: log entry 94). -/
def Run.notYet (r : Run) (b : Bundle) : Bool :=
  (match r.array with | some a => decide (a.block < r.blocksDue a) | none => false) ||
    (match b.vec with | some o => r.task.desc.flat && o.sources.any r.loadWait.contains | none => false) ||
    (match b.array with | some o => decide (o.kind = .loadAcc) && r.storing | none => false)

/-- The bundle at the sequencer's index issues, waits for the array, freezes the tile, or ends the run as malformed. -/
def State.tryIssue (s : State) (t : Nat) (r : Run) : State :=
  match (r.bundles[r.pc]?).bind decodeBundle with
  | none => s.stopRun t .malformed
  | some b =>
    if !r.bundleOk b then s.stopRun t .malformed
    else if b.array.isSome && r.array.isSome then s.modTile t (fun x => { x with run := some { r with arrayWait := true } })
    else if r.notYet b then s
    else
      let causes := r.freezeCauses b
      if causes.isEmpty then s.issueBundle t r b
      else s.modTile t (fun x => { x with
        mode := .frozen, run := some { r with freeze := some { causes := causes, startNs := s.now, countedNs := s.now } } })

/-- BUNDLE_ISSUE (R165). -/
def execBundleIssue (t : TileNo) (s : State) : Out :=
  inService s (fun s =>
    match (s.tile t.val).run with
    | some r =>
      if (s.tile t.val).mode = .running && r.ended.isNone && !r.atEnd && !r.arrayWait then s.tryIssue t.val r else s
    | none => s)

/-- PROGRAM_LOADED: the whole program is resident (R173). -/
def execProgramLoaded (t : TileNo) (s : State) : Out :=
  inService s (fun s =>
    let x := s.tile t.val
    match x.run with
    | some r =>
      let d := r.task.desc
      if x.mode = .loading && r.ended.isNone && (s.withdrawnIn d.program d.programLen).isNone then
        let bs := bundlesOf (s.readDpa d.program d.programLen)
        s.modTile t.val (fun x => { x with
          mode := .running, codeCache := cacheProgram x.codeCache ⟨d.program, bs⟩,
          run := some { r with bundles := bs, codeLoadCycles := x.cyclesOf (s.time - r.placedAt) } })
      else s
    | none => s)

/-- The tile site of a logical tile as a part. -/
def State.tilePart (s : State) (t : Nat) : Option PartId := (s.siteOf t).map (fun i => .tile (i % 24) (i / 24))

/-- Fence a tile and test its array (R206, R845). -/
def State.testTile (s : State) (t : Nat) : State :=
  match s.tilePart t with
  | some q => s.startTest q
  | none => s

/-- A run raises ARRAY_CHECK or NARROW_OVERFLOW: it ends at once, its events are raised, its tile is tested (R205 to
R207). -/
def State.raiseArithmetic (s : State) (t : Nat) (r : Run) (check overflow : Bool) : State :=
  let sub := runSubject t r.task.desc.layerTag
  let s := s.modTile t (fun x => { x with run := some { r with arrayCheck := r.arrayCheck || check, overflow := r.overflow || overflow } })
  let s := s.stopRun t .arithmetic
  let s := if check then s.raiseEvent r.part evArrayCheck sub else s
  (if overflow then s.raiseEvent r.part evNarrowOverflow sub else s).testTile t

/-- The cycles of the array's next block run have passed, or pass while the sequencer waits for the array or has ended; no STORE
is still writing (log entry 94). -/
def Run.blockEnds (r : Run) (a : ArrayRun) : Bool :=
  decide (a.op.kind = .run ∨ a.op.kind = .runAcc) && decide (a.block < a.op.blocks) && !r.storing &&
    (decide (a.block < r.blocksDue a) || r.arrayWait || r.atEnd)

/-- BLOCK_RUN_END (R73 to R83, R200 to R207). -/
def execBlockRunEnd (t : TileNo) (fault : Option CellFault) (s : State) : Out :=
  inService s (fun s =>
    match (s.tile t.val).run with
    | some r =>
      match r.array with
      | some a =>
        if r.blockEnds a && (s.tile t.val).mode = .running && r.ended.isNone then
          let x := s.blockRun t.val r a fault
          if x.2.1 || x.2.2 then s.raiseArithmetic t.val x.1 x.2.2 x.2.1
          else s.modTile t.val (fun y => { y with run := some x.1 })
        else s
      | none => s
    | none => s)

/-- ARRAY_FREE: the array is free again; a bundle that waited for it issues (R160). -/
def execArrayFree (t : TileNo) (s : State) : Out :=
  inService s (fun s =>
    match (s.tile t.val).run with
    | some r =>
      match r.array with
      | some a =>
        let past := match a.op.kind with | .run | .runAcc => decide (a.op.blocks ≤ a.block) | _ => true
        if past && r.ended.isNone && (s.tile t.val).mode = .running && (r.arrayWait || r.atEnd || r.arrayBusy = 0) then
          let r' := { r.addCycles (s.tile t.val).issueLog2 r.arrayBusy with array := none, arrayBusy := 0, arrayWait := false }
          let s := s.modTile t.val (fun x => { x with run := some r' })
          if r.arrayWait then s.tryIssue t.val r' else s
        else s
      | none => s
    | none => s)

/-! ### Fills and drains (R123, R125, R135, R142, R145, R153, R154, R278) -/

/-- Data of the pieces of a unit, each with its offset in the slot: local ones from memory, others from the READs'
answers. -/
def State.gather (s : State) (ps : List Piece) (xids : List Nat) : List (Nat × List Byte) :=
  let far := (xids.map (fun k => match s.outcome? k with | some x => x.2 | none => [])).flatten
  (ps.foldl (fun (y : List (Nat × List Byte) × List Byte) x =>
    if s.isSelf x.1 then (y.1 ++ [(x.2.2, s.readDpa (x.1 % 2 ^ 48) x.2.1)], y.2)
    else (y.1 ++ [(x.2.2, y.2.take x.2.1)], y.2.drop x.2.1)) ([], far)).1

/-- A local piece can be read: nothing of it is withdrawn. -/
def State.readable (s : State) (ps : List Piece) : Bool :=
  ps.all (fun x => !s.isSelf x.1 || (s.withdrawnIn (x.1 % 2 ^ 48) x.2.1).isNone)

/-- A local piece waits for a page copy or a test (R253, R845). -/
def State.piecesHeld (s : State) (ps : List Piece) : Bool := ps.any (fun x => s.isSelf x.1 && s.heldAt (x.1 % 2 ^ 48) x.2.1)

/-- The list block of a fill's unit, where the fill is the first of the run that needs it. -/
def Run.blockRead (r : Run) (f : FillOp) : Option Nat :=
  let at_ (e : Nat × Nat) : Option Nat := (r.ins[e.1]?).bind (fun x => x.blockOf e.2)
  (at_ (f.stream, f.unit)).filter (fun l => r.filled.find? (fun e => decide (at_ e = some l)) = some (f.stream, f.unit))

/-- The list block that a fill needs could be read. -/
def Run.blockKept (r : Run) (f : FillOp) : Bool :=
  match (r.ins[f.stream]?).bind (fun x => (x.blockOf f.unit).map (fun l => (dget? x.blocks l).isSome)) with
  | some kept => kept
  | none => true

/-- A frame of a paged stream lies in the partition's extents (R307). -/
def State.frameOk (s : State) (p : Part) (x : Stream) (ps : List Piece) : Bool :=
  !x.paged || ps.all (fun y => s.inHbm p (y.1 % 2 ^ 48) y.2.1 || s.inFirnExtent p (y.1 % 2 ^ 48) y.2.1)

/-- Pieces of a fill, unless its page is not published or its frame lies outside (R307). -/
def State.fillPieces (s : State) (r : Run) (f : FillOp) : Option (List Piece) :=
  match r.ins[f.stream]? with
  | some x => (s.unitPieces x f.unit (r.car f.carousel).cfg.slotRows r.blockLen).filter (fun ps => s.frameOk r.part x ps)
  | none => none

/-- What has come to pass may clear causes of a freeze in force (R136). -/
def State.recheckFreeze (s : State) (t : Nat) : State :=
  let x := (s.tile t).countFreeze s.now
  match x.run, x.run.bind Run.freeze, x.run.bind (fun r => (r.bundles[r.pc]?).bind decodeBundle) with
  | some r, some f, some b =>
    if f.cleared.isSome then s
    else
      let left := r.freezeCauses b
      s.setTile t { x with run := some { r with freeze := some { f with
        causes := left, cleared := if left.isEmpty then some (f.causes, s.now) else none } } }
  | _, _, _ => s

/-- Tile DMA goes on: requests leave as there is room, and what it has done may clear a freeze (R135, R136). -/
def State.dmaGoesOn (s : State) (t : Nat) : State :=
  match (s.tile t).run with
  | some r =>
    let y := s.pumpDma r
    (y.1.modTile t (fun x => { x with run := some y.2 })).recheckFreeze t
  | none => s

/-- FILL_SLOT_COMPLETE: the last byte of a slot's fill is written; the slot is stamped (R123, R145, R976). -/
def execFillSlotComplete (t : TileNo) (i : Nat) (s : State) : Out :=
  inService s (fun s =>
    match (s.tile t.val).run with
    | some r =>
      match r.fills[i]? with
      | some f =>
        match s.fillPieces r f with
        | some ps =>
          if !f.queued.isEmpty then s.dmaGoesOn t.val
          else if r.blockKept f && s.readable ps && !s.piecesHeld ps && f.xids.all (fun k => match s.outcome? k with | some x => decide (x.1 = stOk) | none => false) then
            let c := (r.car f.carousel).cfg
            let s' := (s.gather ps f.xids).foldl (fun s x => s.slotWrite t.val c f.ptr x.1 x.2) s
            ((s'.dropAnswers f.xids).modTile t.val (fun x => { x with
              run := some { r.modCar f.carousel (fun c => (c.stamp f.ptr).release f.ptr) with fills := r.fills.eraseIdx i } })).dmaGoesOn t.val
          else s
        | none => s
      | none => s
    | none => s)

/-- Status of a failed fill (R278, R307). -/
def causeStatus : FillCause → W16
  | .uncorrectable _ => stUnrecoverable
  | .withdrawn _ => stUnrecoverable
  | .remoteUncorrectable => stUnrecoverable
  | .nodeLost => stNodeLost
  | .refused => stMalformed
  | .unpublished => stMalformed

/-- The DPA of this package that could not be read. -/
def causeDpa : FillCause → Option Nat
  | .uncorrectable d => some d
  | .withdrawn d => some d
  | _ => none

/-- A fill, or a read that loads the run, can have failed for this cause. -/
def State.mayFail (s : State) (r : Run) (i : Nat) (c : FillCause) : Bool :=
  let f := r.fills[i]?
  let answered (st : W16) : Bool := match f with
    | some f => f.xids.any (fun k => match s.outcome? k with | some x => decide (x.1 = st) | none => false)
    | none => false
  -- the DPA lies in what the fill reads, or in the program that is loaded
  let reads (d : Nat) : Bool := match f with
    | some f => (match r.blockRead f with | some l => decide (l ≤ d) && decide (d < l + 4096) | none => false) || (match s.fillPieces r f with
      | some ps => ps.any (fun x => s.isSelf x.1 && decide (x.1 % 2 ^ 48 ≤ d) && decide (d < x.1 % 2 ^ 48 + x.2.1))
      | none => false)
    | none => decide (r.task.desc.program ≤ d) && decide (d < r.task.desc.program + r.task.desc.programLen)
  match c with
  | .uncorrectable d => (s.place d).isSome && decide (d < windowBase) && !s.withdrawnDpa d && reads d
  | .withdrawn d => s.withdrawnDpa d && reads d
  | .remoteUncorrectable => answered stUnrecoverable
  | .nodeLost => answered stNodeLost
  | .refused => answered stMalformed
  | .unpublished => match f with | some f => (s.fillPieces r f).isNone && r.blockKept f | none => false

/-- FILL_FAILED (R142, R276, R278, R975): an uncorrectable read is recorded and its part tested; the run ends. -/
def execFillFailed (t : TileNo) (i : Nat) (cause : FillCause) (s : State) : Out :=
  inService s (fun s =>
    match (s.tile t.val).run with
    | some r =>
      if r.ended.isNone && (r.fills[i]?.isSome || (s.tile t.val).mode = .loading) && s.mayFail r i cause then
        let s := match cause with
          | .uncorrectable d => s.uncorrectable d
          | .withdrawn d => s.recordUe d
          | _ => s
        (s.dropAnswers (r.fills.flatMap FillOp.xids)).stopRun t.val (.fillFailed (causeStatus cause) (causeDpa cause))
      else s
    | none => s)

/-- The requests that write the data of a drain (R143). -/
def writeRequests (data : List (Nat × List Byte)) : List (Nat × List Byte) :=
  data.flatMap (fun x => (requestsOf x.1 x.2.length).map (fun q => (q.1, sliceAt x.2 (q.1 - x.1) q.2)))

/-- DRAIN_SLOT_READ_DONE: the last byte of a slot has been read from the scratchpad; BUSY clears (R125, R976). It comes after the
writes of STOREs under way (log entry 94). -/
def execDrainSlotReadDone (t : TileNo) (i : Nat) (s : State) : Out :=
  inService s (fun s =>
    match (s.tile t.val).run with
    | some r =>
      match r.drains[i]?, (r.drains[i]?).bind (fun d => r.outs[d.stream]?) with
      | some d, some x =>
        if r.storing then s
        else
        let c := (r.car d.carousel).cfg
        let data := ((s.unitPieces x d.unit c.slotRows r.blockLen).getD []).map (fun p => (p.1, s.slotRead t.val c d.ptr p.2.2 p.2.1))
        (s.modTile t.val (fun y => { y with
          run := some { r.modCar d.carousel (fun c => c.release d.ptr) with
            drains := r.drains.eraseIdx i, writes := r.writes ++ [{ d with data := data, queued := writeRequests data }],
            checkData := if r.task.desc.check then r.checkData ++ [(d.stream, d.unit, (data.map (·.2)).flatten)] else r.checkData } })).dmaGoesOn t.val
      | _, _ => s
    | none => s)

/-- DRAIN_WRITE_DONE: a slot's write has completed at its destination (R154). The mesh drops it for a run of another epoch
(R643). A WRITE that failed ends the run with its status. -/
def execDrainWriteDone (t : TileNo) (i : Nat) (s : State) : Out :=
  inService s (fun s =>
    match (s.tile t.val).run with
    | some r =>
      match r.writes[i]? with
      | some d =>
        let outs := d.xids.map s.outcome?
        if !d.queued.isEmpty then s.dmaGoesOn t.val
        else if outs.any Option.isNone then s
        else
          let local_ := d.data.filter (fun x => s.isSelf x.1)
          let s := if r.task.desc.epoch = (s.part r.part).epoch then
              local_.foldl (fun s x => s.writeDpa (x.1 % 2 ^ 48) x.2) s else s
          let s := s.dropAnswers d.xids
          let s := (s.modTile t.val (fun y => { y with run := some { r with writes := r.writes.eraseIdx i } })).dmaGoesOn t.val
          match (outs.filterMap id).find? (fun x => decide (x.1 ≠ stOk)) with
          | some x => s.stopRun t.val (.fillFailed x.1 none)
          | none => s
      | none => s
    | none => s)

/-! ### Freezes (R131 to R141) -/

/-- A freeze has outlasted TILE_HOLD_LIMIT: the run ends and its tile is tested (R141, R845). -/
def State.expireFreeze (s : State) (t : Nat) (r : Run) : State :=
  ((s.dropAnswers (r.fills.flatMap FillOp.xids)).stopRun t .freezeExpired).testTile t

/-- A freeze whose last cause has cleared: the held bundle issues (R136), unless the freeze had outlasted TILE_HOLD_LIMIT before
(R138, R141). -/
def State.releaseFreeze (s : State) (t : Nat) : State :=
  let x := s.tile t
  match x.run, x.run.bind Run.freeze, x.run.bind (fun r => (r.bundles[r.pc]?).bind decodeBundle) with
  | some r, some f, some b =>
    match f.cleared with
    | some c =>
      if s.reg .tileHoldLimit < c.2 - f.startNs then s.expireFreeze t r
      else
        let s := s.closeFreeze t true
        match (s.tile t).run with
        | some r => s.issueBundle t r b
        | none => s
    | none => s
  | _, _, _ => s

/-- FREEZE_RELEASE: the last condition has cleared, and the held bundle issues 2 cycles later (R136, R138 to R141). -/
def execFreezeRelease (t : TileNo) (s : State) : Out :=
  inService s (fun s =>
    match (s.tile t.val).run with
    | some r => if (s.tile t.val).mode = .frozen && r.ended.isNone then (s.recheckFreeze t.val).releaseFreeze t.val else s
    | none => s)

/-- FREEZE_EXPIRY: a freeze outlasts TILE_HOLD_LIMIT (R141). One whose last cause has cleared is about to end. -/
def execFreezeExpiry (t : TileNo) (s : State) : Out :=
  inService s (fun s =>
    let x := s.tile t.val
    match x.run, x.run.bind Run.freeze with
    | some r, some f =>
      if x.mode = .frozen && r.ended.isNone && f.cleared.isNone then
        (s.advanceTo (f.startNs + s.reg .tileHoldLimit + 1)).expireFreeze t.val r
      else s
    | _, _ => s)

/-! ### Banks (R95 to R112, R846) -/

/-- Order of wide requests, and of requests of equal age (R100, R104). -/
def whoRank : Requester → Nat
  | .planeFeed => 0
  | .actFeed => 1
  | .preloadFeed => 2
  | .arrayDrain => 3
  | .dma => 4
  | .vector => 5

def isWide (q : BankReq) : Bool := q.seg.isNone

/-- Narrow requests to one row that join a row slot: every read, and writes to distinct segments (R96), the earliest
first. -/
def joinRow (row : Nat) (writes : Bool) (qs : List BankReq) : List BankReq :=
  qs.foldl (fun acc q =>
    if q.row ≠ row then acc
    else if q.write.isNone then acc ++ [q]
    else if writes && !acc.any (fun a => a.write.isSome && decide (a.seg = q.seg)) then acc ++ [q]
    else acc) []

/-- The oldest request; among equals tile DMA comes before the vector unit (R100), or the order of R104. -/
def oldest (qs : List BankReq) : Option BankReq :=
  qs.foldl (fun m q => match m with
    | some a => if q.since < a.since || (q.since = a.since && whoRank q.who < whoRank a.who) then some q else some a
    | none => some q) none

/-- What a bank grants in a cycle under WIDE_FIRST (R100). -/
def grantWideFirst (b : Bank) : List BankReq :=
  let byAge := sortBy (fun x y => decide (x.since < y.since) || (decide (x.since = y.since) && decide (whoRank x.who ≤ whoRank y.who))) b.narrow
  match byAge with
  | n :: rest =>
    if n.since + 32 ≤ b.cycle then joinRow n.row true byAge
    else
      match b.wide.find? (fun w => b.wide.all (fun y => whoRank w.who ≤ whoRank y.who)) with
      | some w => w :: joinRow w.row w.write.isNone byAge
      | none => joinRow n.row true (n :: rest)
  | [] =>
    match b.wide.find? (fun w => b.wide.all (fun y => whoRank w.who ≤ whoRank y.who)) with
    | some w => [w]
    | none => []

/-- What a bank grants in a cycle under FLAT (R103 to R106): a DMA slot where `open_` says so. Requests that wait for the queue
count too, so that tile DMA keeps no engine access waiting. -/
def grantFlat (b : Bank) (open_ : Bool) : List BankReq :=
  let dma := decide (b.frame = 3) || open_
  ((oldest ((b.wide ++ b.narrow ++ b.outside).filter (fun q => decide ((q.who = .dma) = dma)))).toList)

/-- Bytes of a request in its tile's scratchpad. -/
def reqAddr (bank : Nat) (q : BankReq) : Nat × Nat :=
  (bank * 2 ^ 18 + q.row * 256 + 32 * q.seg.getD 0, if isWide q then 256 else 32)

/-- Requests of this cycle join: wide ones, and narrow ones behind those that wait for the queue of 8, tile DMA first (R101). The age
of a request counts from its arrival (DESIGN CHOICE, log entry 94). -/
def Bank.join (b : Bank) (came : List BankReq) : Bank :=
  let narrow := came.filter (fun q => !isWide q)
  let outside := b.outside ++ narrow.filter (fun q => decide (q.who = .dma)) ++ narrow.filter (fun q => decide (q.who ≠ .dma))
  let room := 8 - b.narrow.length
  { b with wide := b.wide ++ came.filter isWide, narrow := b.narrow ++ outside.take room, outside := outside.drop room }

/-- A granted request leaves. -/
def Bank.leave (b : Bank) (q : BankReq) : Bank :=
  if b.wide.contains q then { b with wide := b.wide.erase q }
  else if b.narrow.contains q then { b with narrow := b.narrow.erase q }
  else { b with outside := b.outside.erase q }

/-- The access that the vector unit makes to a bank in cycle `c`: the first of its oldest LOAD or STORE that has one there, at most
8 in a cycle (R162). -/
def Run.vecRequest (r : Run) (bank c : Nat) : Option BankReq × Run :=
  let here (x : Nat × Option (Nat × List Byte)) : Bool := decide (x.1 / 2 ^ 18 = bank)
  match r.vec.findIdx? (fun v => v.todo.any here) with
  | some i =>
    match (r.vec.getD i {}).todo.find? here with
    | some x =>
      if 8 ≤ dget r.vecMade c 0 then (none, r)
      else
        (some { who := .vector, row := x.1 / 256 % 1024, seg := some (x.1 / 32 % 8), write := x.2.map Prod.snd, since := c,
                skip := x.2.map Prod.fst },
         { r with vecMade := dset r.vecMade c (dget r.vecMade c 0 + 1), vec := modAt r.vec i (fun v => { v with
            todo := v.todo.erase x, waiting := if x.2.isSome then v.waiting + 1 else v.waiting }) })
    | none => (none, r)
  | none => (none, r)

/-- A write of the vector unit has been granted; a STORE with nothing left is over. -/
def Run.vecWritten (r : Run) : Run :=
  match r.vec.findIdx? (fun v => decide (0 < v.waiting)) with
  | some i =>
    let v := r.vec.getD i {}
    if v.waiting = 1 && v.todo.isEmpty then { r with vec := r.vec.eraseIdx i }
    else { r with vec := modAt r.vec i (fun v => { v with waiting := v.waiting - 1 }) }
  | none => r

/-- A wide request of an array drain or preload was not granted in cycle `c`: the operation takes a cycle longer (R107, R160). -/
def Run.delay (r : Run) (c : Nat) : Run :=
  match r.array with
  | some a =>
    if (a.op.kind = .drainAcc || a.op.kind = .loadAcc) && !r.delayed.contains c then
      { r with arrayBusy := r.arrayBusy + 1, delayed := c :: r.delayed }
    else r
  | none => r

/-- One cycle of a bank: arrivals join, requests are granted, reads see the row before the cycle's writes (R95 to R112). Under
FLAT the frames begin with the first bundle; before it every cycle is a DMA slot (R103; DESIGN CHOICE, log entry 94). -/
def State.bankCycle (s : State) (t bank : Nat) (arrivals : List BankReq) : State :=
  let x := s.tile t
  let flat := match x.run with | some r => r.task.desc.flat | none => false
  let open_ := decide (x.mode = .frozen) || (match x.run with | some r => decide (r.cycles = 0) | none => true)
  let b := dget x.banks bank {}
  let v : Option BankReq × Option Run := match x.run with
    | some r => let y := r.vecRequest bank b.cycle; (y.1, some y.2)
    | none => (none, none)
  let b := b.join ((arrivals.map (fun q => { q with since := b.cycle })) ++ v.1.toList)
  let won := if flat then grantFlat b open_ else grantWideFirst b
  let reads := won.filter (fun q => q.write.isNone)
  let rets := reads.map (fun q =>
    let a := reqAddr bank q
    ({ who := q.who, row := q.row, seg := q.seg, due := b.cycle + 3, data := s.padRead t a.1 a.2 } : ReadReturn))
  let same := won.any (fun q => decide (q.who = .dma) && q.write.isSome) &&
    reads.any (fun q => decide (q.who ≠ .dma) && decide (q.who ≠ .arrayDrain))
  let s := won.foldl (fun s q =>
    let a := reqAddr bank q
    match q.write, q.skip with
    | some bs, some k => s.padWrite t (a.1 + k) bs
    | some bs, none => s.padWrite t a.1 (padTo bs a.2)
    | none, _ => s) s
  let left := won.foldl Bank.leave b
  let late := left.wide.any (fun q => decide (q.who = .arrayDrain) || decide (q.who = .preloadFeed))
  let run := v.2.map (fun r =>
    let r := if same then { r with sameRow := r.sameRow + 1 } else r
    let r := if late then r.delay b.cycle else r
    (won.filter (fun q => decide (q.who = .vector) && q.write.isSome)).foldl (fun r _ => r.vecWritten) r)
  s.modTile t (fun x => { x with
    banks := dset x.banks bank { left with returns := left.returns ++ rets, cycle := b.cycle + 1,
                                           frame := if open_ then b.frame else (b.frame + 1) % 4 },
    dbgSameRow := if same then x.dbgSameRow + 1 else x.dbgSameRow, run := run })

/-- Cycles of a bank in which nothing arrives. -/
def State.bankCycles (t bank : Nat) : Nat → State → State
  | 0, s => s
  | n + 1, s => State.bankCycles t bank n (s.bankCycle t bank [])

/-- A request that an engine or tile DMA can make (R90, R91): the array's are wide, those of tile DMA narrow; while the tile is
frozen the engines make none (R134). The vector unit's come from its LOADs and STOREs. -/
def arrives (frozen : Bool) (q : BankReq) : Bool :=
  decide (q.row < 1024) && (match q.who with
    | .vector => false
    | .dma => (match q.seg with | some g => decide (g < 8) | none => false)
    | _ => q.seg.isNone && !frozen)

/-- BANK_GRANT (R95): the next cycle of a bank, once data due in an earlier cycle have reached their requesters (R98). -/
def execBankGrant (t : TileNo) (bank : Fin 16) (arrivals : List BankReq) (s : State) : Out :=
  inService s (fun s =>
    let b := dget (s.tile t.val).banks bank.val {}
    if b.returns.any (fun q => decide (q.due < b.cycle)) then s
    else s.bankCycle t.val bank.val (arrivals.filter (arrives (decide ((s.tile t.val).mode = .frozen)))))

/-- The row of a bank of a logical tile as a part. -/
def State.rowPart (s : State) (t bank row : Nat) : Option PartId := (s.siteOf t).map (fun i => .row (i % 24) (i / 24) bank row)

/-- Read data leaves a bank for its requester (R98): a segment for the vector unit goes to its LOAD. -/
def State.deliverRead (s : State) (t bank : Nat) (q : ReadReturn) (lost : Bool) : State :=
  (s.modTile t (fun x =>
    let b := dget x.banks bank {}
    { x with banks := dset x.banks bank { b with returns := b.returns.tail }, delivered := if lost then none else some q,
             run := if q.who = .vector && !lost then x.run.map (fun r => r.vecReturn (bank * 2 ^ 18 + q.row * 256 + 32 * q.seg.getD 0) q.data)
               else x.run })).recheckFreeze t

/-- SCRATCHPAD_READ_RETURN: read data reaches its requester 3 cycles after its grant (R98); the cycles of the bank up to then go by
without an arrival. A corrected error starts the row test; an uncorrectable read is an ARRAY_CHECK of the run and starts the
tests of row and tile (R845, R846). -/
def execScratchpadReadReturn (t : TileNo) (bank : Fin 16) (ecc : Ecc) (s : State) : Out :=
  inService s (fun s =>
    let b := dget (s.tile t.val).banks bank.val {}
    match b.returns with
    | [] => s
    | q :: _ =>
      let s := (State.bankCycles t.val bank.val (q.due - b.cycle) s).deliverRead t.val bank.val q (decide (ecc = .uncorrectable))
      let test (s : State) : State := match s.rowPart t.val bank.val q.row with | some p => s.startTest p | none => s
      match ecc with
      | .clean => s
      | .corrected => test s
      | .uncorrectable =>
        match (s.tile t.val).run with
        | some r => if r.ended.isNone then test (s.raiseArithmetic t.val r true false) else (test s).testTile t.val
        | none => (test s).testTile t.val)

end Sys2Proof.Machine
end

