-- ==== Sys2Proof/Machine/Verdicts.lean ====
section
/-! DEFINITION. Verdicts of targeted tests, page copies, and the failure of channels, stacks and control cores (chapters 05
and 14). -/

namespace Sys2Proof.Machine

/-! ### Page copies (R252, R253, R848) -/

/-- PAGE_COPY_DONE: the page lies in its slot and requests go there. `bad` lists the sectors that read uncorrectable: each
is written as zeros and counted, the one that started the test excepted. -/
def execPageCopyDone (stack chan page : Nat) (bad : List Nat) (s : State) : Out :=
  inService s (fun s =>
    match s.repair.copies.find? (fun c => decide (c.stack = stack) && decide (c.chan = chan) && decide (c.page = page)) with
    | none => s
    | some c =>
      let base := (32 * stack + chan) * chanBytes + 65536 * page
      let s := ((bad.filter (· < 1024)).eraseDups).foldl (fun (s : State) i =>
        let x := base + 64 * i
        -- bytes that held writes have set since lie in the slot (R253)
        let s := { s with mem := ((List.range 64).filter (fun j => !c.written.contains (64 * i + j))).foldl (fun m j => m.write (x + j) 0) s.mem }
        if c.counted = some i then s
        else
          match s.dpaOfPlace x with
          | some d => s.recordUe d
          | none => s.count .memUeTotal 0 1) s
      s.modRepair (fun r => { r with
        copies := r.copies.erase c,
        retests := (match r.slotOf stack chan page with | some y => [(stack, chan, page, y.1, y.2)] | none => []) ++ r.retests,
        remaps := (stack, chan, page, c.slotChan, c.slot) :: (r.remaps.filter (fun x =>
          !(decide (x.1 = stack) && decide (x.2.1 = chan) && decide (x.2.2.1 = page)))) }))

/-! ### Verdicts (R845, R848 to R853, R870) -/

/-- The threshold of SPR_THRESH for a part. -/
def State.threshold (s : State) (part : PartId) : Nat :=
  let f (i : Nat) : Nat := s.regBits .sprThresh 0 (3 * i) 3
  match part with
  | .tile _ _ => f 0
  | .row _ _ _ _ => f 1
  | .page _ _ _ => f 2
  | .chan _ _ => 7
  | .granule _ => f 3
  | .lane _ _ => f 4
  | .core _ => f 5
  | .sm3 _ => f 6
  | .conv _ => 7

/-- A tile leaves the fence of its tests once none of them is left and no internal reset runs. -/
def State.unfence (s : State) (x y : Nat) : State :=
  match s.repair.tileAt x y with
  | some n =>
    let more := s.repair.tests.any (fun q => match q with | .tile a b | .row a b _ _ => decide (a = x) && decide (b = y) | _ => false)
    s.modTile n (fun t => if t.mode = .fenced && !more && !t.resetting then { t with mode := .free } else t)
  | none => s

/-- The slot that a retired page had before the test of that slot. -/
def Repair.retestOf (r : Repair) (h c p : Nat) : Option (Nat × Nat) :=
  (r.retests.find? (fun x => decide (x.1 = h) && decide (x.2.1 = c) && decide (x.2.2.1 = p))).map (fun x => x.2.2.2)

/-- A part is in service again, in its state before the test (R850). A tile's scratchpad is undefined (R842). -/
def State.restorePart (s : State) (part : PartId) : State :=
  match part with
  | .tile x y | .row x y _ _ =>
    let s := match s.repair.tileAt x y with | some n => s.openPad n | none => s
    s.unfence x y
  | .page h c p =>
    -- copied back, to its own place or to the slot it had (R850), and the slot of the test is free again
    match s.repair.slotOf h c p, s.repair.retestOf h c p with
    | some x, some y => s.modRepair (fun r => { r.unmap h c p x with
        remaps := (h, c, p, y) :: (r.unmap h c p x).remaps, retests := r.retests.erase (h, c, p, y) })
    | some x, none => if (s.repair.ent part).st = 0 then s.modRepair (fun r => r.unmap h c p x) else s
    | none, _ => s
  | .lane u l =>
    if h : u < 8 then
      let q := s.port ⟨u, h⟩
      if q.spareUsed && q.sparedLane = l && q.lanes.contains 8 then
        s.modPort ⟨u, h⟩ (fun q => { q with lanes := q.lanes.map (fun k => if k = 8 then l else k), spareUsed := false })
      else s
    else s
  | .core c =>
    match s.repair.coreSubs.find? (fun x => decide (x.1 = c)) with
    | some x => s.modRepair (fun r => { r with
        coresUsed := (match x.2 with | some k => r.coresUsed.erase k | none => r.coresUsed) ++ [c],
        coreSubs := r.coreSubs.filter (fun y => decide (y.1 ≠ c)) })
    | none => s
  | .sm3 l => s.modRepair (fun r => if r.sm3Lanes.length < 48 && !r.sm3Lanes.contains l then { r with sm3Lanes := r.sm3Lanes ++ [l] } else r)
  | _ => s

/-- The partition whose groups hold a channel. -/
def State.ownerOfChannel (s : State) (h c : Nat) : Option Part := allParts.find? (fun p => s.hbmValid p && (s.groups p).contains (4 * h + c / 8))

/-- Tests of pages of stack `h` that a failed channel has cut short end without a verdict (R853): of pages whose channel has
failed, and of pages whose copy ended with the slot it went to. -/
def State.endPageTests (s : State) (h : Nat) : State :=
  let r := s.repair
  let ended (q : PartId) : Bool := match q with
    | .page h' c p => decide (h' = h) && (r.chanFailed h c ||
        ((r.slotOf h c p).isNone && !r.copies.any (fun k => decide (k.stack = h) && decide (k.chan = c) && decide (k.page = p))))
    | _ => false
  let gone := r.asked.filter (fun a => ended a.2.2.1)
  let s := s.modRepair (fun r => { r with tests := r.tests.filter (fun q => !ended q), asked := r.asked.filter (fun a => !ended a.2.2.1) })
  gone.foldl (fun s a => s.finishOrder a.1 a.2.1 stOk 0 (2 * s.repair.transients a.2.2.1)) s

/-- A channel fails as a whole in service (R256 to R261): re-homing, then a reset of the partition it belongs to. -/
def State.loseChannelLive (s : State) (h c : Nat) : State :=
  if s.repair.chanFailed h c then s
  else
    let s := (s.retirePart (.chan h c) true).endPageTests h
    match s.ownerOfChannel h c with
    | some p => s.startPartReset p false
    | none => s

/-- Relocations that have no tile left to wait for complete FAILED_REPLAY_EXHAUSTED (R843). -/
def State.failStranded (s : State) : State :=
  allParts.foldl (fun (s : State) p =>
    if (s.tileSet p).any (fun i => decide ((s.tile i).mode ≠ .retired)) then s
    else
      let x := s.part p
      let gone := (x.lcQ ++ x.beQ).filter (fun t => t.relocated)
      let s := s.modPart p (fun x => { x with lcQ := x.lcQ.filter (fun t => !t.relocated), beQ := x.beQ.filter (fun t => !t.relocated) })
      gone.foldl (fun s t => s.completeTask p t stExhausted {}) s) s

/-- A part fails its test, or has passed too many (R845, R851). -/
def State.condemn (s : State) (part : PartId) : State :=
  match part with
  | .page h c p =>
    match s.repair.slotOf h c p with
    | some x =>
      -- the remap of the test stays as a retirement (R848); the slot that a retired page had before is condemned (R255)
      s.modRepair (fun r =>
        let r := match r.retestOf h c p with
          | some y => { r with condemned := (h, y.1, y.2) :: r.condemned, retests := r.retests.erase (h, c, p, y) }
          | none => r
        r.setEnt part 1 (slotAux x))
    | none => s.retirePart part true
  | .chan h c => s.loseChannelLive h c
  | .row x y _ _ => ((s.retirePart part true).unfence x y).failStranded
  | .tile _ _ => (s.retirePart part true).failStranded
  | .lane u l =>
    let s := s.retirePart part true
    -- a lane that still carries traffic takes its port down (R438)
    if h : u < 8 then (if (s.port ⟨u, h⟩).lanes.contains l && (s.port ⟨u, h⟩).fn.st = .on then s.portDown ⟨u, h⟩ else s) else s
  | _ => s.retirePart part true

/-- A test has ended: what an error leads to. -/
def State.judgeTest (s : State) (part : PartId) (v : Verdict) (scope : PageFault) (act : Bool) : State :=
  let chanWide : Option (Nat × Nat) := match part with | .page h c _ => if scope = .wholeChannel then some (h, c) else none | _ => none
  let repaired : Bool := match part with | .chan _ _ => decide (scope = .laneRepaired) | _ => false
  match v with
  | .none => s.restorePart part
  | .pass =>
    if !act then s.restorePart part
    else
      let n := min 7 (s.repair.transients part + 1)
      let s := (s.modRepair (fun r => r.setTransients part n)).count .sprTransients 0 1
      let s := match part with
        | .tile x y => s.raisePackage evTileTransient (s.repair.tileSubject (24 * y + x)) n
        | _ => s
      if s.threshold part < s.repair.transients part then s.condemn part else s.restorePart part
  | .fail =>
    let s := s.count .sprTestsFailed 0 1
    if !act || repaired then s.restorePart part
    else
      match chanWide with
      | some x => (s.restorePart part).startTest (.chan x.1 x.2)
      | none => s.condemn part

/-- The map load that waited for the tests goes on once none is left (R866). -/
def State.mapGoesOn (s : State) : State :=
  if s.repair.tests.isEmpty then
    match s.repair.mapWait with
    | some x => s.finishMap x.1 x.2
    | none => s
  else s

/-- A granule test writes zeros to the sectors that read uncorrectable before it (R849). -/
def State.zeroSectors (s : State) (part : PartId) (bad : List Nat) : State :=
  match part with
  | .granule g => ((bad.filter (· < 64)).eraseDups).foldl (fun (s : State) i =>
      s.writeDpa (firnBase + 4096 * g + 64 * i) (List.replicate 64 0)) s
  | _ => s

/-- SELF_TEST_VERDICT: a targeted test ends. `bad` gives the sectors of a granule that read uncorrectable before its test. -/
def execSelfTestVerdict (part : PartId) (v : Verdict) (scope : PageFault) (bad : List Nat) (s : State) : Out :=
  inService s (fun s =>
    let copying : Bool := match part with
      | .page h c p => s.repair.copies.any (fun y => decide (y.stack = h) && decide (y.chan = c) && decide (y.page = p))
      | _ => false
    if !s.repair.tests.contains part || copying then s
    else
      let asked := s.repair.asked.find? (fun a => decide (a.2.2.1 = part))
      let act := match asked with | some a => a.2.2.2 | none => true
      let s := s.modRepair (fun r => { r with tests := r.tests.erase part, asked := r.asked.filter (fun a => decide (a.2.2.1 ≠ part)) })
      let s := (s.zeroSectors part bad).judgeTest part v scope act
      let s := match asked with
        | some a => s.finishOrder a.1 a.2.1 stOk 0 ((if v = Verdict.pass then 1 else 0) + 2 * s.repair.transients part)
        | none => s
      s.mapGoesOn)

/-! ### Failures outside a test -/

/-- CHANNEL_FAILED: a channel fails as a whole, or HBM4E lane repair has no lane left for it (R256). -/
def execChannelFailed (stack chan : Nat) (s : State) : Out :=
  inService s (fun s => if stack < 12 && chan < 32 then s.loseChannelLive stack chan else s)

/-- STACK_FAILED: a whole stack fails; its groups are withdrawn and every partition that owns one is reset (R262). -/
def execStackFailed (stack : Nat) (s : State) : Out :=
  inService s (fun s =>
    if 12 ≤ stack || s.repair.lostStacks.contains stack then s
    else
      let owners := allParts.filter (fun p => s.hbmValid p && (s.groups p).any (fun g => decide (g / 4 = stack)))
      let s := ((s.openPlaces (32 * stack * chanBytes) (32 * chanBytes)).modRepair (fun r => r.failStack stack)).endPageTests stack
      owners.foldl (fun s p => s.startPartReset p false) s)

/-- CONTROL_CORE_FAULT: a cache ECC error or watchdog expiry of a core starts its test; its work moves (R844, R845). -/
def execControlCoreFault (core : Fin 8) (s : State) : Out := inService s (fun s => s.startTest (.core core.val))

end Sys2Proof.Machine
end

