-- ==== Sys2Proof/Machine/Dispatch.lean ====
section
/-! DEFINITION. The meaning of every command: one arm per constructor of Instr. -/

namespace Sys2Proof.Machine

open Sys2Proof

/-- The effect of a command on everything but the queue. -/
def exec (i : Instr) (s : State) : Host.Outcome State Fault Refusal :=
  match i with
  | .coldPowerUp b => Sys2Proof.Machine.execColdPowerUp b s
  | .configurationReady passed => Sys2Proof.Machine.execConfigurationReady passed s
  | .bistPhaseTimeout passed => Sys2Proof.Machine.execBistPhaseTimeout passed s
  | .ready b => Sys2Proof.Machine.execReady b s
  | .configRequest f r => Sys2Proof.Machine.execConfigRequest f r s
  | .warmReset => Sys2Proof.Machine.execWarmReset s
  | .perstNRelease b => Sys2Proof.Machine.execPerstNRelease b s
  | .flr vf => Sys2Proof.Machine.execFlr vf s
  | .partResetGo p => Sys2Proof.Machine.execPartResetGo p s
  | .vinOvervoltageStop => Sys2Proof.Machine.execVinOvervoltageStop s
  | .vinUndervoltageStop => Sys2Proof.Machine.execVinUndervoltageStop s
  | .supplyLowEnter mv => Sys2Proof.Machine.execSupplyLowEnter mv s
  | .supplyLowExit mv => Sys2Proof.Machine.execSupplyLowExit mv s
  | .pwrWarnNEdge asserted => Sys2Proof.Machine.execPwrWarnNEdge asserted s
  | .converterFault ix => Sys2Proof.Machine.execConverterFault ix s
  | .thermalSample t => Sys2Proof.Machine.execThermalSample t s
  | .thermtrip => Sys2Proof.Machine.execThermtrip s
  | .estimateEpoch e => Sys2Proof.Machine.execEstimateEpoch e s
  | .calibrate c => Sys2Proof.Machine.execCalibrate c s
  | .rampWindowStart => Sys2Proof.Machine.execRampWindowStart s
  | .setNumericEffecterValue m id value => Sys2Proof.Machine.execSetNumericEffecterValue m id value s
  | .getSensorReading m id => Sys2Proof.Machine.execGetSensorReading m id s
  | .mctpOtherMessage m typ => Sys2Proof.Machine.execMctpOtherMessage m typ s
  | .entdaa m addr => Sys2Proof.Machine.execEntdaa m addr s
  | .leaseExpiry m => Sys2Proof.Machine.execLeaseExpiry m s
  | .pwrFallbackWrite v => Sys2Proof.Machine.execPwrFallbackWrite v s
  | .presenceNChange level => Sys2Proof.Machine.execPresenceNChange level s
  | .presenceWindowExpiry => Sys2Proof.Machine.execPresenceWindowExpiry s
  | .nudge p => Sys2Proof.Machine.execNudge p s
  | .doorbellPoll p => Sys2Proof.Machine.execDoorbellPoll p s
  | .doorbellReadReturn p d => Sys2Proof.Machine.execDoorbellReadReturn p d s
  | .descriptorReturn p ring d => Sys2Proof.Machine.execDescriptorReturn p ring d s
  | .indirectPayloadReturn p ring d => Sys2Proof.Machine.execIndirectPayloadReturn p ring d s
  | .modTimerExpiry p ring => Sys2Proof.Machine.execModTimerExpiry p ring s
  | .msixUnmask f vector => Sys2Proof.Machine.execMsixUnmask f vector s
  | .nop p ring => Sys2Proof.Machine.execNop p ring s
  | .fence p ring => Sys2Proof.Machine.execFence p ring s
  | .admitRequest p ring tokens => Sys2Proof.Machine.execAdmitRequest p ring tokens s
  | .appendTokens p ring tokens => Sys2Proof.Machine.execAppendTokens p ring tokens s
  | .freezeRequest p ring bits => Sys2Proof.Machine.execFreezeRequest p ring bits s
  | .thawRequest p ring core ue => Sys2Proof.Machine.execThawRequest p ring core ue s
  | .cancelRequest p ring => Sys2Proof.Machine.execCancelRequest p ring s
  | .setDeadline p ring => Sys2Proof.Machine.execSetDeadline p ring s
  | .restoreRequest p ring tokens => Sys2Proof.Machine.execRestoreRequest p ring tokens s
  | .migrateRequest p ring => Sys2Proof.Machine.execMigrateRequest p ring s
  | .loadWeights p ring h place => Sys2Proof.Machine.execLoadWeights p ring h place s
  | .pullWeights p ring h place => Sys2Proof.Machine.execPullWeights p ring h place s
  | .broadcastWeights p ring h receivers place => Sys2Proof.Machine.execBroadcastWeights p ring h receivers place s
  | .stageShadow p ring h place => Sys2Proof.Machine.execStageShadow p ring h place s
  | .trapezeSwitch p ring => Sys2Proof.Machine.execTrapezeSwitch p ring s
  | .swapModel p ring place => Sys2Proof.Machine.execSwapModel p ring place s
  | .evictModel p ring => Sys2Proof.Machine.execEvictModel p ring s
  | .installPublisherKey p ring => Sys2Proof.Machine.execInstallPublisherKey p ring s
  | .setRecipe p ring => Sys2Proof.Machine.execSetRecipe p ring s
  | .setExpertPolicy p ring => Sys2Proof.Machine.execSetExpertPolicy p ring s
  | .setSpecPolicy p ring => Sys2Proof.Machine.execSetSpecPolicy p ring s
  | .setAttnPattern p ring ranges => Sys2Proof.Machine.execSetAttnPattern p ring ranges s
  | .runTaskGraph p ring ue => Sys2Proof.Machine.execRunTaskGraph p ring ue s
  | .copy p ring src ue => Sys2Proof.Machine.execCopy p ring src ue s
  | .queryAccounting p ring => Sys2Proof.Machine.execQueryAccounting p ring s
  | .queryExpertCounts p ring => Sys2Proof.Machine.execQueryExpertCounts p ring s
  | .readRepairMap p ring => Sys2Proof.Machine.execReadRepairMap p ring s
  | .writeRepairMap p ring map => Sys2Proof.Machine.execWriteRepairMap p ring map s
  | .runSelfTest p ring => Sys2Proof.Machine.execRunSelfTest p ring s
  | .flashUpdate p ring image => Sys2Proof.Machine.execFlashUpdate p ring image s
  | .flashPageProgrammed page => Sys2Proof.Machine.execFlashPageProgrammed page s
  | .fuseCommit p ring => Sys2Proof.Machine.execFuseCommit p ring s
  | .fuseWordBurned => Sys2Proof.Machine.execFuseWordBurned s
  | .debugUnlock p ring => Sys2Proof.Machine.execDebugUnlock p ring s
  | .attestQuote p ring => Sys2Proof.Machine.execAttestQuote p ring s
  | .bar2Write off bytes => Sys2Proof.Machine.execBar2Write off bytes s
  | .bar2Read off len ue => Sys2Proof.Machine.execBar2Read off len ue s
  | .bar0BadAccess f write => Sys2Proof.Machine.execBar0BadAccess f write s
  | .rcCounterRead f off size => Sys2Proof.Machine.execRcCounterRead f off size s
  | .registerWrite f off size value go => Sys2Proof.Machine.execRegisterWrite f off size value go s
  | .partEnable p => Sys2Proof.Machine.execPartEnable p s
  | .partDisable p => Sys2Proof.Machine.execPartDisable p s
  | .ringEnable p ring => Sys2Proof.Machine.execRingEnable p ring s
  | .ringDisable p ring => Sys2Proof.Machine.execRingDisable p ring s
  | .portEnable u => Sys2Proof.Machine.execPortEnable u s
  | .portDisable u => Sys2Proof.Machine.execPortDisable u s
  | .functionReady f => Sys2Proof.Machine.execFunctionReady f s
  | .functionDrained f => Sys2Proof.Machine.execFunctionDrained f s
  | .memHbmMapWrite p v => Sys2Proof.Machine.execMemHbmMapWrite p v s
  | .memFirnMapWrite p v => Sys2Proof.Machine.execMemFirnMapWrite p v s
  | .watchEnSet p v => Sys2Proof.Machine.execWatchEnSet p v s
  | .jnlWitnessSet p v => Sys2Proof.Machine.execJnlWitnessSet p v s
  | .jnlWitnessClear p v => Sys2Proof.Machine.execJnlWitnessClear p v s
  | .uagFenceSet v => Sys2Proof.Machine.execUagFenceSet v s
  | .uagFenceClear n v => Sys2Proof.Machine.execUagFenceClear n v s
  | .uagTimeSet v => Sys2Proof.Machine.execUagTimeSet v s
  | .sprMapLoad map => Sys2Proof.Machine.execSprMapLoad map s
  | .secRecoveryGo image b => Sys2Proof.Machine.execSecRecoveryGo image b s
  | .dispatchPlace p ue => Sys2Proof.Machine.execDispatchPlace p ue s
  | .programLoaded t => Sys2Proof.Machine.execProgramLoaded t s
  | .bundleIssue t => Sys2Proof.Machine.execBundleIssue t s
  | .bankGrant t bank arrivals => Sys2Proof.Machine.execBankGrant t bank arrivals s
  | .scratchpadReadReturn t bank ecc => Sys2Proof.Machine.execScratchpadReadReturn t bank ecc s
  | .blockRunEnd t fault => Sys2Proof.Machine.execBlockRunEnd t fault s
  | .arrayFree t => Sys2Proof.Machine.execArrayFree t s
  | .fillSlotComplete t ix => Sys2Proof.Machine.execFillSlotComplete t ix s
  | .drainSlotReadDone t ix => Sys2Proof.Machine.execDrainSlotReadDone t ix s
  | .drainWriteDone t ix => Sys2Proof.Machine.execDrainWriteDone t ix s
  | .freezeRelease t => Sys2Proof.Machine.execFreezeRelease t s
  | .freezeExpiry t => Sys2Proof.Machine.execFreezeExpiry t s
  | .fillFailed t ix cause => Sys2Proof.Machine.execFillFailed t ix cause s
  | .taskRunEnd t ue => Sys2Proof.Machine.execTaskRunEnd t ue s
  | .boundOver t => Sys2Proof.Machine.execBoundOver t s
  | .watchdogExpiry t => Sys2Proof.Machine.execWatchdogExpiry t s
  | .tileInternalResetDone t => Sys2Proof.Machine.execTileInternalResetDone t s
  | .selfTestVerdict part v scope bad => Sys2Proof.Machine.execSelfTestVerdict part v scope bad s
  | .pageCopyDone stack chan page bad => Sys2Proof.Machine.execPageCopyDone stack chan page bad s
  | .channelFailed stack chan => Sys2Proof.Machine.execChannelFailed stack chan s
  | .stackFailed stack => Sys2Proof.Machine.execStackFailed stack s
  | .chunkVerify p slot chunk data root disagree ue => Sys2Proof.Machine.execChunkVerify p slot chunk data root disagree ue s
  | .taskReissue p found => Sys2Proof.Machine.execTaskReissue p found s
  | .stepReplay p => Sys2Proof.Machine.execStepReplay p s
  | .stepBoundary p out ue => Sys2Proof.Machine.execStepBoundary p out ue s
  | .waitingDeadlineCheck p ice ue => Sys2Proof.Machine.execWaitingDeadlineCheck p ice ue s
  | .walkEpochAdvance p => Sys2Proof.Machine.execWalkEpochAdvance p s
  | .kvReclaim p => Sys2Proof.Machine.execKvReclaim p s
  | .commitCheck p out => Sys2Proof.Machine.execCommitCheck p out s
  | .flushingReadDone p => Sys2Proof.Machine.execFlushingReadDone p s
  | .recordDurable p => Sys2Proof.Machine.execRecordDurable p s
  | .witnessResend p => Sys2Proof.Machine.execWitnessResend p s
  | .witnessLag p => Sys2Proof.Machine.execWitnessLag p s
  | .witnessMirror u pkt => Sys2Proof.Machine.execWitnessMirror u pkt s
  | .claim u pkt a => Sys2Proof.Machine.execClaim u pkt a s
  | .migrateAsk u pkt a => Sys2Proof.Machine.execMigrateAsk u pkt a s
  | .censusBlock p c gate => Sys2Proof.Machine.execCensusBlock p c gate s
  | .admission p layer half own ue => Sys2Proof.Machine.execAdmission p layer half own ue s
  | .tokenPacket u pkt outputs ue => Sys2Proof.Machine.execTokenPacket u pkt outputs ue s
  | .combinePacket u pkt => Sys2Proof.Machine.execCombinePacket u pkt s
  | .mapAnnounce u pkt a => Sys2Proof.Machine.execMapAnnounce u pkt a s
  | .policyAnnounce u pkt a => Sys2Proof.Machine.execPolicyAnnounce u pkt a s
  | .switchAnnounce u pkt a => Sys2Proof.Machine.execSwitchAnnounce u pkt a s
  | .replicaVerified p layer expert node => Sys2Proof.Machine.execReplicaVerified p layer expert node s
  | .lookaheadFetch p layer predicted => Sys2Proof.Machine.execLookaheadFetch p layer predicted s
  | .expertFetchDone p layer expert found ue => Sys2Proof.Machine.execExpertFetchDone p layer expert found ue s
  | .drainingRelease p => Sys2Proof.Machine.execDrainingRelease p s
  | .placementEpochAdvance p nodeLoss => Sys2Proof.Machine.execPlacementEpochAdvance p nodeLoss s
  | .epochAdvanceComplete p => Sys2Proof.Machine.execEpochAdvanceComplete p s
  | .collectiveStart plan ue => Sys2Proof.Machine.execCollectiveStart plan ue s
  | .portTrained u t => Sys2Proof.Machine.execPortTrained u t s
  | .portRetrainTimer u => Sys2Proof.Machine.execPortRetrainTimer u s
  | .laneSpared u lane => Sys2Proof.Machine.execLaneSpared u lane s
  | .linkDown u => Sys2Proof.Machine.execLinkDown u s
  | .flitReceive u f => Sys2Proof.Machine.execFlitReceive u f s
  | .ackTimer u => Sys2Proof.Machine.execAckTimer u s
  | .nakHoldoffExpiry u => Sys2Proof.Machine.execNakHoldoffExpiry u s
  | .idleFlitTimer u => Sys2Proof.Machine.execIdleFlitTimer u s
  | .write u pkt => Sys2Proof.Machine.execWrite u pkt s
  | .read u pkt ue pull => Sys2Proof.Machine.execRead u pkt ue pull s
  | .readData u pkt => Sys2Proof.Machine.execReadData u pkt s
  | .ack u pkt => Sys2Proof.Machine.execAck u pkt s
  | .nack u pkt => Sys2Proof.Machine.execNack u pkt s
  | .coll u pkt c ue => Sys2Proof.Machine.execColl u pkt c ue s
  | .timeSync u pkt t => Sys2Proof.Machine.execTimeSync u pkt t s
  | .route u pkt => Sys2Proof.Machine.execRoute u pkt s
  | .e2eResend dst tc xid => Sys2Proof.Machine.execE2eResend dst tc xid s
  | .nodeLost n => Sys2Proof.Machine.execNodeLost n s
  | .timeSyncSend => Sys2Proof.Machine.execTimeSyncSend s
  | .linkDelayMeasure => Sys2Proof.Machine.execLinkDelayMeasure s
  | .syncLoss => Sys2Proof.Machine.execSyncLoss s
  | .becomeMaster => Sys2Proof.Machine.execBecomeMaster s
  | .controlCoreFault core => Sys2Proof.Machine.execControlCoreFault core s
  | .mctpControlMessage m c => Sys2Proof.Machine.execMctpControlMessage m c s
  | .tapInstruction ix => Sys2Proof.Machine.execTapInstruction ix s
  | .migrateHandover p order h => Sys2Proof.Machine.execMigrateHandover p order h s
  | .timeDelayExchange u m => Sys2Proof.Machine.execTimeDelayExchange u m s
  | .chunkResendRequest p order chunk node noSlot data => Sys2Proof.Machine.execChunkResendRequest p order chunk node noSlot data s

end Sys2Proof.Machine
end

