-- ==== Sys2Proof/Machine/Time.lean ====
section
/-! DEFINITION. One nanosecond without a command: what the passing of time itself does. -/

namespace Sys2Proof.Machine

/-- A follower corrects its count only by slewing, at most 1 ns in each µs (R486). -/
def Fabric.slewStep (f : Fabric) : Fabric :=
  if 0 < f.slew then { f with time := f.time + 1, slew := f.slew - 1 }
  else if f.slew < 0 then { f with time := f.time - 1, slew := f.slew + 1 }
  else f

/-- What one µs does: fabric time slews, band voltages move one step (R800), floor load is counted (R836). -/
def State.eachUs (s : State) : State :=
  let s := { s with fabric := s.fabric.slewStep, power := s.power.slew }
  if s.power.floorLoad then s.count .pwrFloorUs 0 1 else s

/-- Doorbell reads that a NUDGE scheduled are issued (R558). -/
def State.issueNudged (s : State) : State :=
  allParts.foldl (fun (s : State) p => if (s.part p).doorbellPending then s.issueDoorbell p else s) s

/-- One nanosecond passes with no command waiting. The table has no row for a tick; this is what a step on an empty queue
does (DESIGN CHOICE, log entry 1). Fabric time counts from power-up (R502), without a supply nothing but the outside
clock moves, and a package whose lands are taken shows nothing (R966). -/
def State.tick (s : State) : State :=
  if s.boot.landsTaken then s
  else if s.boot.phase = .off then { s with now := s.now + 1 }
  else
    let s : State := { s with now := s.now + 1, fabric := { s.fabric with time := s.fabric.time + 1 } }
    let s := if s.now % 1000 = 0 then s.eachUs else s
    if s.boot.phase = .ready then s.issueNudged else s

end Sys2Proof.Machine
end

