-- ==== Sys2Proof/Safety.lean ====
section
/-! DEFINITION. What counts as safe: the properties of states, and of one step, that the claims use. -/

namespace Sys2Proof.Machine

/-- Both memories and the list of register values are in their canonical form, so that equal contents are equal data. -/
def State.canonical (s : State) : Prop := s.mem.wf = true ∧ s.host.mem.wf = true ∧ Dict.wf s.regs = true

/-- No burned fuse bit is lost (R873): every bit that is 1 in a word of the record area stays 1. -/
def FusesKept (s t : State) : Prop := ∀ i, s.sec.fuseWord i &&& t.sec.fuseWord i = s.sec.fuseWord i

/-- The identity of the package is never rewritten: its device secret and the two digests of its fuses (R873, R883). -/
def IdentityKept (s t : State) : Prop :=
  t.sec.uds = s.sec.uds ∧ t.sec.vendorDigest = s.sec.vendorDigest ∧ t.sec.devidDigest = s.sec.devidDigest

/-- The package is in service: READY is set, and no test-access instruction has taken its lands (R920, R966). Between
commands no read is being found uncorrectable. -/
def State.serving (s : State) : Prop := s.boot.phase = .ready ∧ s.boot.landsTaken = false ∧ s.found = []

/-- A function's latch holds only what R935 lets wait: a disable while ENABLING, an enable while QUIESCING. -/
def Fn.legal (f : Fn) : Prop := f.latch = true → f.st = .enabling ∨ f.st = .quiescing

/-- A command that resets or stops the whole package: it acts at any time, and it is the way out of an undefined
behaviour of the lands (R782, R955, R958, R966). -/
def wholePackage : Instr → Bool
  | .warmReset | .vinOvervoltageStop | .vinUndervoltageStop | .thermtrip => true
  | _ => false

/-- A command that has an effect only once READY is set (R26, R919, R920): any but those of power-up, supply, reset,
presence, management and test access, and the accesses that BAR0, BAR2 and configuration space answer before READY. -/
def needsReady : Instr → Bool
  | .coldPowerUp _ | .configurationReady _ | .bistPhaseTimeout _ | .ready _ | .configRequest .. | .warmReset | .perstNRelease _
  | .vinOvervoltageStop | .vinUndervoltageStop | .converterFault _ | .thermtrip | .setNumericEffecterValue .. | .getSensorReading ..
  | .mctpOtherMessage .. | .mctpControlMessage .. | .entdaa .. | .presenceNChange _ | .presenceWindowExpiry | .bar2Read ..
  | .bar0BadAccess .. | .rcCounterRead .. | .registerWrite .. | .secRecoveryGo .. | .tapInstruction _ => false
  | _ => true

/-! ### What a command leaves unchanged -/

/-- The state with partition `p` and what the package has written and signalled to its host blanked out. -/
def State.sansPart (s : State) (p : Part) : State :=
  { s.setPart p {} with host := { s.host with mem := {}, msgs := [], msix := [] } }

/-- Two states differ at most in partition `p` and in host memory, messages and MSI-X entries. -/
def PartOnly (p : Part) (s t : State) : Prop := t.sansPart p = s.sansPart p

/-- The state with every ring, the registers, and what the package has written and signalled to its host blanked out. -/
def State.sansEvents (s : State) : State :=
  { s with parts := s.parts.map (fun x => { x with rings := Vector.replicate 13 {} }), regs := [],
           host := { s.host with mem := {}, msgs := [], msix := [] } }

/-- Two states differ at most by events raised (R549): in rings, host memory, messages, MSI-X entries and the two counts
of dropped events. -/
def EventsOnly (s t : State) : Prop :=
  t.sansEvents = s.sansEvents ∧
  ∀ n i, i < 65536 → n ≠ .ringEvtDropped → n ≠ .evtGlobalDropped → t.reg n i = s.reg n i

/-- Two states differ at most by events raised and by the registers `ns`. -/
def EventsAnd (ns : List RegName) (s t : State) : Prop :=
  t.sansEvents = s.sansEvents ∧
  ∀ n i, i < 65536 → n ≠ .ringEvtDropped → n ≠ .evtGlobalDropped → n ∉ ns → t.reg n i = s.reg n i

/-- Address `a` lies outside the part of partition `p`'s status page that the package writes (R553). -/
def State.offStatus (s : State) (p : Part) (a : Nat) : Prop :=
  a < s.reg .ringStatusAddr p.val ∨ s.reg .ringStatusAddr p.val + 0x90 ≤ a

/-- Host address of the entry that the next completion of CMD ring `r` takes (R533, R571). -/
def State.cplSlot (s : State) (p : Part) (r : CmdRing) : Nat := s.slotAddr p (cplRing r) (s.ring p (cplRing r)).pi

/-- The CPL entry of the next completion of CMD ring `r` does not overlap the status page. -/
def State.cplApart (s : State) (p : Part) (r : CmdRing) : Prop :=
  s.cplSlot p r + 32 ≤ s.reg .ringStatusAddr p.val ∨ s.reg .ringStatusAddr p.val + 0x90 ≤ s.cplSlot p r

/-- Command `c` of partition `p` has completed with a status, INFO and RESULT, and nothing else has happened since `u`: the
command is gone and every other is still there; of the partition only commands and the rings of the command have changed;
where the paired CPL ring is ON or QUIESCING it has one more entry, which is the completion record (R571, R572); host
memory outside that entry and the status page is as it was. -/
def Completed (u t : State) (p : Part) (c : Cmd) (status : W16) (info result : Nat) : Prop :=
  PartOnly p u t ∧
  t.part p = { u.part p with
    cmds := (t.part p).cmds, rings := (t.part p).rings, cmdTokens := (t.part p).cmdTokens, cmdRanges := (t.part p).cmdRanges,
    cmdPages := (t.part p).cmdPages, cmdFreeze := (t.part p).cmdFreeze, cmdRestore := (t.part p).cmdRestore } ∧
  t.cmd? p c.order = none ∧ (∀ o, o ≠ c.order → (t.cmd? p o).isSome = (u.cmd? p o).isSome) ∧
  (∀ n, n ≠ cplRing c.ring → n ≠ cmdRing c.ring → t.ring p n = u.ring p n) ∧
  (t.ring p (cplRing c.ring)).pi = (u.ring p (cplRing c.ring)).pi + (if (u.ring p (cplRing c.ring)).live then 1 else 0) ∧
  (u.host.mem.wf = true →
    (∀ a, u.offStatus p a → (a < u.cplSlot p c.ring ∨ u.cplSlot p c.ring + 32 ≤ a) → t.host.mem.read a = u.host.mem.read a) ∧
    ((u.ring p (cplRing c.ring)).live = true → u.cplApart p c.ring →
      t.host.mem.readBytes (u.cplSlot p c.ring) 32 =
        completionBytes c.seq status c.ring.val (phaseAt (u.ring p (cplRing c.ring)).pi (u.ringEntries p (cplRing c.ring))) info
          u.time result))

/-- The state once command `c` of partition `p` has started. -/
def State.started (s : State) (p : Part) (c : Cmd) : State := s.modCmd p c.order (fun c => { c with stage := .started })

/-- The command with take order `order` is still under way in partition `p`, in stage `st`. -/
def StageIs (t : State) (p : Part) (order : Nat) (st : CmdStage) : Prop :=
  (∃ e ∈ (t.part p).cmds, e.order = order) ∧ ∀ e ∈ (t.part p).cmds, e.order = order → e.stage = st

/-- Command `i`, which is command `c` of partition `p` next to start, completes at once: its effect makes `u` of the state. -/
def CompletesAtOnce (i : Instr) (s u : State) (p : Part) (c : Cmd) (status : W16) (info result : Nat := 0) : Prop :=
  ∃ t, exec i s = .next t ∧ Completed u t p c status info result

/-! ### The journal -/

/-- The records of partition `p` that are not durable yet: body, request, and what happens when it is. -/
def State.recordsOf (s : State) (p : Part) : List (JBody × Nat × OnDurable) :=
  (s.part p).jnl.recs.map (fun r => (r.jrec.body, r.jrec.request, r.effect))

/-- Command `c` has written its records between `s` and `t` (R731, R732): `bodies`, the three carriers of its payload, and its
head, on which it waits to be accepted; requests, package memory and the other partitions are as they were. -/
def Journalled (s t : State) (p : Part) (c : Cmd) (id first count : Nat) (payload : List Byte) (bodies : List JBody) : Prop :=
  StageIs t p c.order .journalled ∧ (t.part p).requests = (s.part p).requests ∧ (∀ q, q ≠ p → t.part q = s.part q) ∧
  t.mem = s.mem ∧ t.sec = s.sec ∧ t.power = s.power ∧
  t.recordsOf p = s.recordsOf p ++ bodies.map (fun b => (b, id, .nothing)) ++
    [0, 1, 2].map (fun i => (.carrier i c.client c.be (sliceAt payload (16 * i) 16), id, .nothing)) ++
    [(.head c.opcode c.seq first count, id, .accept c.order)]

/-! ### Packets that arrive -/

/-- The state once a packet has left the receive buffer of port `u`. -/
def State.received (s : State) (u : PortNo) (k : Packet) : State := s.modPort u (fun p => p.takeRx k)

/-- A packet is for this node and passes every check of R456 to R458 and R495. -/
def State.hears (s : State) (k : Packet) : Prop :=
  k.src ∉ s.fabric.fenced ∧ k.reservedZero = true ∧ k.hops < 64 ∧ k.dst = s.self ∧ k.ecrc = k.makeEcrc

/-- A packet that is acknowledged comes for the first time and in order, and none is held behind it (R468, R469). -/
def State.inTurn (s : State) (k : Packet) : Prop :=
  (dget s.fabric.xidRecs (recKey k.src k.tc) {}).judge k = .now ∧ (dget s.fabric.xidRecs (recKey k.src k.tc) {}).heldBack = []

/-- The state once such a packet is noted. -/
def State.noted (s : State) (u : PortNo) (k : Packet) : State := (s.received u k).modRec k (fun r => r.note k)

/-- Port, packet and type of a command by which a packet arrives. -/
def arrival : Instr → Option (PortNo × Packet × Byte)
  | .write u k => some (u, k, tyWrite)
  | .read u k _ _ => some (u, k, tyRead)
  | .readData u k => some (u, k, tyReadData)
  | .ack u k => some (u, k, tyAck)
  | .nack u k => some (u, k, tyNack)
  | .coll u k _ _ => some (u, k, tyColl)
  | .timeSync u k _ => some (u, k, tyTime)
  | .route u k => some (u, k, tyRoute)
  | .witnessMirror u k => some (u, k, tyMsg)
  | .claim u k _ => some (u, k, tyMsg)
  | .migrateAsk u k _ => some (u, k, tyMsg)
  | .mapAnnounce u k _ => some (u, k, tyMsg)
  | .policyAnnounce u k _ => some (u, k, tyMsg)
  | .switchAnnounce u k _ => some (u, k, tyMsg)
  | .tokenPacket u k _ _ => if bitOf (fieldAt k.payload 6 1) 1 then none else some (u, k, tyExchange)
  | .combinePacket u k => if bitOf (fieldAt k.payload 6 1) 1 then some (u, k, tyExchange) else none
  | _ => none

/-! ### The function state machine -/

/-- Row of an enable: from function state `f` to `g` (R934, R935). -/
def EnableRow (f g : Fn) : Prop :=
  g.enable = true ∧ g.unhandled = f.unhandled ∧
  match f.st with
  | .off => g.st = .enabling ∧ g.latch = false
  | .enabling => g.st = .enabling ∧ g.latch = false
  | .on => g.st = .on
  | .quiescing => g.st = .quiescing ∧ g.latch = true

/-- Row of a disable. -/
def DisableRow (f g : Fn) : Prop :=
  g.enable = false ∧ g.unhandled = f.unhandled ∧
  match f.st with
  | .off => g.st = .off
  | .enabling => g.st = .enabling ∧ g.latch = true
  | .on => g.st = .quiescing ∧ g.latch = false
  | .quiescing => g.st = .quiescing ∧ g.latch = false

/-! ### Power-up -/

/-- The boot ROM has run between `s` and `t` (R880, R883, R921): it has stopped on a fuse error or for want of a verified
slot, or it has chosen a slot, measured it and handed over to BIST; it has written neither fuses nor flash. -/
def RomRan (b : BootIn) (s t : State) : Prop :=
  EventsOnly { s with boot := t.boot, sec := t.sec } t ∧
  t.sec.fuses = s.sec.fuses ∧ t.sec.slotA = s.sec.slotA ∧ t.sec.slotB = s.sec.slotB ∧ t.sec.uds = s.sec.uds ∧
  t.sec.presMode = b.presMode ∧ t.sec.debugOpen = 0 ∧ t.boot.slotId = b.slotId ∧
  (if b.fuseError then t.boot.phase = .bootFailed ∧ t.boot.cause = 2 ∧ t.sec.bootCause = 2
   else match s.sec.chooseSlot with
     | none => t.boot.phase = .bootFailed ∧ t.boot.cause = 1 ∧ t.sec.bootCause = 1
     | some sl => t.boot.phase = .booting ∧ t.boot.bootPhase = 2 ∧ t.boot.cause = 0 ∧ t.boot.slotB = sl ∧
         t.boot.fwVersion = (s.sec.slot sl).fwVersion ∧ t.sec.udsLocked = true ∧ t.sec.runningSvn = (s.sec.slot sl).svn ∧
         t.sec.mfw = sm3 ((s.sec.slot sl).header ++ (s.sec.slot sl).body))

end Sys2Proof.Machine
end

