-- ==== Sys2Proof/WellFormed.lean ====
section
/-! DEFINITION. Which commands are well formed: operands lie in the ranges that the manual gives them. The machine's
meaning does not depend on it; a sender that follows the manual sends no other command. -/

namespace Sys2Proof

/-- A packet: at most 4,096 bytes of payload, an 8-bit hop count (R455). -/
def packetWf (k : Packet) : Bool := decide (k.payload.length ≤ 4096) && decide (k.hops < 256)

/-- A flit: 242 bytes of payload, and 10-bit errors at symbols of codewords of 544 symbols (R439, R441). -/
def flitWf (f : Flit) : Bool :=
  decide (f.payload.length = 242) && decide (f.credits < 4096) &&
    f.words.all (fun w => w.all (fun e => decide (e.1 < 544) && decide (e.2 < 1024)))

/-- A part lies in the package (R90, R239, R247, R426, R861). -/
def partIdWf : PartId → Bool
  | .tile x y => decide (x < 24) && decide (y < 24)
  | .row x y bank row => decide (x < 24) && decide (y < 24) && decide (bank < 16) && decide (row < 1024)
  | .page stack chan page => decide (stack < 12) && decide (chan < 32) && decide (page < 31744)
  | .chan stack chan => decide (stack < 12) && decide (chan < 32)
  | .granule index => decide (index < 2 ^ 28)
  | .lane port lane => decide (port < 8) && decide (lane < 9)
  | .core core => decide (core < 8)
  | .sm3 lane => decide (lane < 52)
  | .conv conv => decide (conv < 9)

/-- Vectors of a function's MSI-X table (R590). -/
def vectorCount : Func → Nat
  | .pf => 256
  | .vf _ => 16

/-- Bytes of a function's BAR0 (R513). -/
def bar0Bytes : Func → Nat
  | .pf => 0x1000000
  | .vf _ => 0x10000

/-- A doorbell read returns 16 64-bit indices (R552). -/
def doorbellWf (d : Doorbell) : Bool :=
  decide (d.cmdPi.length = 4) && decide (d.cplCi.length = 4) && decide (d.tokCi.length = 2) &&
    (d.cmdPi ++ d.cplCi ++ d.tokCi ++ [d.evtCi, d.jnlCi, d.witCi]).all (fun x => decide (x < 2 ^ 64))

/-- A census block: step, layer and half with at most 12-bit expert numbers (R364, R371). -/
def censusWf (c : Census) : Bool := c.lists.all (fun l => decide (l.length ≤ 16) && l.all (fun x => decide (x.expert < 4096)))

/-- Findings of power-up name existing parts (R843, R917). -/
def bistWf (b : Bist) : Bool :=
  b.badSites.all (fun x => decide (x.1 < 24) && decide (x.2 < 24)) && b.badChannels.all (fun x => decide (x.1 < 12) && decide (x.2 < 32)) &&
    b.badStacks.all (fun h => decide (h < 12)) && b.badCores.all (fun c => decide (c < 8)) && b.badSm3.all (fun l => decide (l < 52)) &&
    b.badLanes.all (fun x => decide (x.1 < 8) && decide (x.2 < 9)) && decide (b.firn.length ≤ 16) &&
    b.firn.all (fun x => decide (1 ≤ x.1) && decide (x.1 ≤ 4) && decide (x.2 ≤ 12800))

/-- What training finds: at each of the three rates, lanes of the nine (R426, R430). -/
def trainingWf (t : Training) : Bool := decide (t.byRate.length ≤ 3) && t.byRate.all (fun ls => ls.all (fun l => decide (l < 9)))

/-- The gate of an expert layer gives a logit and a weight for each of at most 4,096 experts (R364, R368). -/
def gateWf (g : List GateOut) : Bool := g.all (fun t => decide (t.length ≤ 4096))

/-- A member's place in the tree of a broadcast of weights lies among its at most 507 members (R693, R697). -/
def castWf (c : CollPlan) : Bool :=
  match c.weights with
  | some w => decide (w.me ≤ w.receivers.length) && decide (w.receivers.length ≤ 506)
  | none => true

/-- Data of a host read has the expected length, or the read failed. -/
def hostDataWf (n : Nat) : HostData → Bool
  | .bytes b => decide (b.length = n)
  | .failed => true

/-- A well-formed command. -/
def Instr.wf : Instr → Bool
  | .ready b => bistWf b
  | .configurationReady n | .bistPhaseTimeout n => decide (n ≤ 576)
  | .estimateEpoch e => decide (e.counts.length = 9) && decide (e.targets.length ≤ 8)
  | .portTrained _ t => trainingWf t
  | .collectiveStart c _ => castWf c
  | .supplyLowEnter mv | .supplyLowExit mv => decide (mv < 65536)
  | .msixUnmask f v => decide (v < vectorCount f)
  | .doorbellReadReturn _ (some d) => doorbellWf d
  | .descriptorReturn _ _ d => hostDataWf 64 d
  | .bar2Write off bytes => decide (off + bytes.length ≤ 2 ^ 36) && decide (bytes.length ≤ 512)
  | .bar2Read off len _ => decide (off + len ≤ 2 ^ 36) && decide (len ≤ 4096)
  | .rcCounterRead f off size => decide (off + size ≤ bar0Bytes f)
  | .registerWrite f off size _ _ => decide (off + size ≤ bar0Bytes f)
  | .selfTestVerdict part _ _ _ => partIdWf part
  | .pageCopyDone stack chan page _ => partIdWf (.page stack chan page)
  | .channelFailed stack chan => partIdWf (.chan stack chan)
  | .stackFailed stack => decide (stack < 12)
  | .censusBlock _ c g => censusWf c && gateWf g
  | .chunkVerify _ _ _ _ _ disagree _ => disagree.all (fun l => partIdWf (.sm3 l))
  | .witnessMirror _ k | .claim _ k _ | .migrateAsk _ k _ | .tokenPacket _ k _ _ | .combinePacket _ k | .mapAnnounce _ k _
  | .policyAnnounce _ k _ | .switchAnnounce _ k _ | .write _ k | .read _ k _ _ | .readData _ k | .ack _ k | .nack _ k
  | .coll _ k _ _ | .timeSync _ k _ | .route _ k => packetWf k
  | .flitReceive _ f => flitWf f
  | _ => true

end Sys2Proof
end

