-- ==== Sys2Proof/Certificates/Slice0/Obligations.lean ====
section
/-! DEFINITION. The statements for the provers. -/

open Sys2Proof Sys2Proof.Machine

/-- A step runs the command at the front of the queue. For every command c and state s with c at the front of its queue,
a step of s is exec of c on s with the queue's rest. The queue is the model's own. (95_what_each_step_holds.md) -/
def Obligations.StepRunsFrontCommand : Prop :=
  ∀ (c : Instr) (rest : List Instr) (s : State), s.pending = c :: rest → step s = exec c { s with pending := rest }

/-- What the state after reset holds. After reset no command waits and no supply is up; every register holds its Reset
column; every partition, ring and port is OFF and every tile free; the effective cap is the fallback cap 0x4B0 and
every converter is good; presence is closed; and memory is in its canonical form. That memory which nothing has
written reads 0 is the model's choice (log entry 3). (R19, R810, R836, R890, R934) -/
def Obligations.ResetLeavesResetValues : Prop :=
  State.reset.pending = [] ∧ State.reset.boot.phase = .off ∧
  (∀ n i, State.reset.reg n i = (BitVec.ofNat 64 (regReset n i)).toNat) ∧
  (∀ p, State.reset.part p = {} ∧ ({} : Partition).fn.st = .off) ∧ (∀ p n, (State.reset.ring p n).fn.st = .off) ∧
  (∀ u, (State.reset.port u).fn.st = .off) ∧ (∀ t, (State.reset.tile t).mode = .free) ∧
  State.reset.power.cap = 0x4B0 ∧ State.reset.power.source = .fallback ∧ State.reset.power.goodConv = 0x1FF ∧
  State.reset.sec.present = false ∧ (∀ a, State.reset.mem.read a = 0) ∧ State.reset.canonical

/-- Every step keeps memory and registers in canonical form. In every state, whatever command stands at the front of the
queue, a step keeps package memory, host memory and the list of register values in canonical form: addresses rise
strictly, and no entry of a memory repeats what an unlisted address reads as. (95_what_each_step_holds.md) -/
def Obligations.StepKeepsMemoryCanonical : Prop :=
  ∀ s t : State, s.canonical → step s = .next t → t.canonical

/-- No step clears a fuse or rewrites the identity of the package. In every state, whatever command stands at the front
of the queue, a step clears no burned bit of the fuse record area and leaves the device secret and the two digests
of the fuses as they are. (R873, R875, R883, R925) -/
def Obligations.StepKeepsFusesAndIdentity : Prop :=
  ∀ s t : State, step s = .next t → FusesKept s t ∧ IdentityKept s t

/-- Before READY, and with the lands taken, commands have no effect. Once EXTEST, INTEST or CLAMP has taken the lands,
every command but warm reset and the stops of the package ends in the fault landsTaken: the manual calls the
behaviour undefined, and the fault is the model's form of it (log entry 2). While READY is not set, every command
that needs the package in service changes nothing. (R26, R919, R920, R966) -/
def Obligations.NothingActsBeforeReadyOrWithLandsTaken : Prop :=
  ∀ (c : Instr) (s : State),
    (s.boot.landsTaken = true → wholePackage c = false → exec c s = .fault .landsTaken) ∧
    (needsReady c = true → s.boot.phase ≠ .ready → s.boot.landsTaken = false → exec c s = .next s)

/-- A power-up runs the boot ROM. A cold power-up from no supply, and the release of PERST_N after a warm reset, run the
boot ROM: it stops with cause 2 on a fuse error and with cause 1 when no slot verifies; else it runs the chosen
slot, holds its version, measurement and SVN, locks the device secret and goes on to BIST. It writes no fuse and no
flash, and changes nothing outside boot and security state but by events raised. After a thermal trip a cold
power-up waits until VIN has fallen below 20 V. (R830, R880, R881, R883, R916, R918, R921) -/
def Obligations.PowerUpRunsBootRom : Prop :=
  ∀ (b : BootIn) (s : State), s.boot.landsTaken = false →
    (s.boot.phase = .off → (s.boot.thermtripN = false ∨ b.vinFell = true) →
      ∃ t, exec (.coldPowerUp b) s = .next t ∧ RomRan b s t) ∧
    (s.boot.phase = .off → s.boot.thermtripN = true → b.vinFell = false → exec (.coldPowerUp b) s = .next s) ∧
    (s.boot.phase = .held → ∃ t, exec (.perstNRelease b) s = .next t ∧ RomRan b s t ∧ t.boot.linkUp = true) ∧
    (s.boot.phase ≠ .off → s.boot.phase ≠ .held →
      exec (.perstNRelease b) s = .next { s with boot := { s.boot with linkUp := true } })

/-- How power-up ends. While power-up runs, the package becomes configuration-ready, and the count of good sites takes in the
sites that have passed BIST so far; a BIST phase past its maximum ends in BOOT_FAILED with cause 6; a fatal finding of
BIST ends in BOOT_FAILED with its cause; and with no fatal finding READY sets, PHASE reads 4, GLB_RESET_CFG returns to
zero, and HBM_RETAINED shows whether every stack kept its contents through a retained warm reset. Where no row is bad
the good sites at the end are those that BIST did not name. (R35, R36, R918, R920, R921, R922, R923, R926) -/
def Obligations.BootEndsInReadyOrFails : Prop :=
  ∀ (b : Bist) (s : State), s.boot.landsTaken = false → s.boot.phase = .booting →
    (let good := (s.absorbSites b).repair.goodSites
     (∀ n, s.boot.bootPhase ≠ 2 → exec (.configurationReady n) s = .next { s with boot := { s.boot with cfgReady := true } }) ∧
     (b.badRows = [] → s.repair.sites = [] →
       good = ((List.range 576).filter (fun i => !b.badSites.any (fun x => decide (24 * x.2 + x.1 = i)))).length) ∧
     (s.boot.bootPhase = 2 →
      (∀ n,
        exec (.configurationReady n) s =
          .next { s with boot := { s.boot with goodSites := max s.boot.goodSites (min n 576), cfgReady := true } } ∧
        exec (.bistPhaseTimeout n) s = .next { s with boot := { s.boot with
          goodSites := max s.boot.goodSites (min n 576), phase := .bootFailed, bootPhase := 5, cause := 6, faultN := true } }) ∧
      (∀ k, fatalCause b good = some k → ∃ t, exec (.ready b) s = .next t ∧ t = { s with boot := t.boot } ∧
        t.boot.phase = .bootFailed ∧ t.boot.bootPhase = 5 ∧ t.boot.cause = k ∧ t.boot.goodSites = good) ∧
      (fatalCause b good = none → s.canonical → ∃ t, exec (.ready b) s = .next t ∧ t.boot.phase = .ready ∧ t.boot.bootPhase = 4 ∧
        t.boot.cause = 0 ∧ t.boot.goodSites = good ∧ t.reg .glbResetCfg = 0 ∧
        t.boot.hbmRetained = (s.boot.warm && s.boot.retain && b.keptAll))))

/-- The package stops on overvoltage and undervoltage of VIN, and on a thermal trip. The package stops when VIN has
stayed above 66.0 V, or below 42.0 V, for as long as the rules give, which are the two commands, and on a thermal
trip. A stop keeps nothing but fuses, flash and what lies outside the package, and asserts FAULT_N, with THERMTRIP_N
after a thermal trip. (R783, R792) -/
def Obligations.PackageStopsOnOvervoltageAndUndervoltage : Prop :=
  ∀ s : State, s.boot.phase ≠ .off →
    (let down (trip : Bool) : State :=
       { pending := s.pending, now := s.now, free := s.free, boot := { faultN := true, thermtripN := trip },
         host := { mem := s.host.mem, msgs := s.host.msgs, aer := s.host.aer },
         sec := { uds := s.sec.uds, vendorDigest := s.sec.vendorDigest, devidDigest := s.sec.devidDigest, fuses := s.sec.fuses,
                  slotA := s.sec.slotA, slotB := s.sec.slotB, presLevel := s.sec.presLevel } }
     exec .vinOvervoltageStop s = .next (down false) ∧ exec .vinUndervoltageStop s = .next (down false) ∧
     exec .thermtrip s = .next (down true))

/-- What a warm reset leaves. A warm reset keeps fuses, flash slots, GLB_RESET_CFG, SEAL_BROKEN, DEBUG_EVER and, with
HBM_RETAIN, every byte of HBM; partitions, rings, tiles, fabric, power state, publisher keys and debug access are
lost. (R873, R923, R924, R925, R926) -/
def Obligations.WarmResetLosesEverythingVolatile : Prop :=
  ∀ s : State, s.boot.phase ≠ .off →
    ∃ t, exec .warmReset s = .next t ∧ t.boot.phase = .held ∧ t.reg .glbResetCfg = s.reg .glbResetCfg ∧ t.power = {} ∧ t.fabric = {} ∧
      t.tiles = [] ∧ (∀ p, (t.part p).fn = {} ∧ (t.part p).requests = [] ∧ (t.part p).slots = [] ∧ ∀ n, t.ring p n = {}) ∧
      t.sec.keys = [] ∧ t.sec.debugOpen = 0 ∧ t.sec.slotA = s.sec.slotA ∧ t.sec.slotB = s.sec.slotB ∧
      t.sec.sealBroken = s.sec.sealBroken ∧ t.sec.debugEver = s.sec.debugEver ∧ FusesKept s t ∧ t.host.mem = s.host.mem ∧
      (s.mem.wf = true → bitOf (s.reg .glbResetCfg) 0 = true → ∀ a, a < hbmEnd → t.mem.read a = s.mem.read a)

/-- Test access, configuration reads and recovery. EXTEST, INTEST and CLAMP take the lands; BYPASS, IDCODE and
SAMPLE/PRELOAD disturb nothing, and IDCODE puts out an identity of version 1 and part number 0x4C05 whose lowest bit is
1; a debug instruction takes effect only when DEBUG_UNLOCK has opened it. A configuration request is answered with
retry until the package is configuration-ready, and a read of the identity gives the device ID 0x4C05 of the PF or
0x4C06 of a VF. SEC_RECOVERY_CTRL.GO in the boot-failed state with presence
open and an image that verifies writes slot A, marked VALID, and performs a cold power-up. (R507, R509, R881, R882,
R903, R918, R964, R966) -/
def Obligations.TestAccessAndRecovery : Prop :=
  ∀ s : State, s.boot.landsTaken = false → s.boot.phase ≠ .off →
    (∀ i, i = .extest ∨ i = .intest ∨ i = .clamp →
      exec (.tapInstruction i) s = .next { s with boot := { s.boot with landsTaken := true, tap := i } }) ∧
    (∀ i, i = .bypass ∨ i = .samplePreload →
      exec (.tapInstruction i) s = .next { s with boot := { s.boot with tap := i, tapOut := none } }) ∧
    (∀ i, i = .idcode ∨ i = .trst →
      exec (.tapInstruction i) s = .next { s with boot := { s.boot with tap := .idcode, tapOut := some idcode } }) ∧
    (idcode.extractLsb' 28 4 = 1 ∧ idcode.extractLsb' 12 16 = 0x4C05 ∧ idcode.getLsbD 0 = true) ∧
    (exec (.tapInstruction .debug) s = .next (if s.sec.debugOpen.getLsbD 0 then { s with boot := { s.boot with tap := .debug } } else s)) ∧
    (exec (.tapInstruction .coreAccess) s =
      .next (if s.sec.debugOpen.getLsbD 1 then { s with boot := { s.boot with tap := .coreAccess } } else s)) ∧
    (∀ f, s.boot.phase ≠ .held → s.hasFunc f = true → s.boot.cfgReady = false → s.boot.phase ≠ .ready →
      ∀ r, exec (.configRequest f r) s = .next { s with host := { s.host with cfg := .retry } }) ∧
    (∀ f, s.boot.phase = .ready → s.hasFunc f = true →
      exec (.configRequest f .readId) s = .next { s with host := { s.host with
        cfg := .value (BitVec.ofNat 64 (Config.vendorId.toNat + 65536 * (if f = .pf then 0x4C05 else 0x4C06))) } }) ∧
    (∀ (bs : List Byte) (b : BootIn), s.boot.phase = .bootFailed → (s.boot.cause = 1 ∨ s.boot.cause = 2) → s.sec.present = true →
      s.sec.recBusy = false → 0 < (imageOf bs).imageBytes → (imageOf bs).imageBytes ≤ 0x1FFF000 →
      bs.length = 192 + (imageOf bs).imageBytes → s.sec.rollback ≤ (imageOf bs).svn → s.sec.imageOk (imageOf bs) = true →
      ∃ t, exec (.secRecoveryGo (.bytes bs) b) s = .next t ∧
        RomRan b (({ s with sec := { s.sec with slotA := { imageOf bs with valid := true, seq := s.sec.runningSeq + 1 } } }).powerDown
          false) t)

/-- An event is posted on the EVT ring or counted as dropped. An event of a partition whose EVT ring is ON with a free
entry is written there with its code, ARG, SUBJECT and fabric time, and the producer index advances; otherwise
RING_EVT_DROPPED counts it. Nothing changes but rings, host memory, interrupts and that count. (R549, R553, R575,
R576) -/
def Obligations.EventIsPostedOrCounted : Prop :=
  ∀ (s : State) (p : Part) (code : W16) (subject arg : Nat), EventsOnly s (s.raiseEvent p code subject arg) ∧
    (s.evtTakes p = true →
      ((s.raiseEvent p code subject arg).ring p evtRing).pi = (s.ring p evtRing).pi + 1 ∧
      (∀ q, q ≠ p → (s.raiseEvent p code subject arg).part q = s.part q) ∧ (s.raiseEvent p code subject arg).regs = s.regs ∧
      (s.host.mem.wf = true →
        (s.slotAddr p evtRing (s.ring p evtRing).pi + 16 ≤ s.reg .ringStatusAddr p.val ∨
          s.reg .ringStatusAddr p.val + 0x90 ≤ s.slotAddr p evtRing (s.ring p evtRing).pi) →
        (s.raiseEvent p code subject arg).host.mem.readBytes (s.slotAddr p evtRing (s.ring p evtRing).pi) 16 =
          leBytes 2 code.toNat ++ [0, BitVec.ofNat 8 (min arg 255)] ++ leBytes 4 subject ++ leBytes 8 s.time)) ∧
    (s.evtTakes p = false → s.raiseEvent p code subject arg = s.count .ringEvtDropped p.val 1)

/-- Supply low. Averaged VIN below 47.0 V, or an assertion of PWR_WARN_N, puts the package in supply low: SUPPLY_LOW is
raised once with the averaged VIN, each edge of PWR_WARN_N raises PWR_WARN with ARG 1 or 0, and a flash or fuse
write under way is marked to halt at its next safe point. Supply low ends once VIN is at least 48.0 V with
PWR_WARN_N released. Nothing else changes. (R785, R786, R788) -/
def Obligations.SupplyLowBeginsAndEnds : Prop :=
  ∀ s : State, s.serving →
    (let halted : Security := { s.sec with flash := s.sec.flash.map (fun j => { j with halt := true }),
                                           fuse := s.sec.fuse.map (fun j => { j with halt := true }) }
     (∀ mv, mv < 47000 → s.power.supplyLow = false → exec (.supplyLowEnter mv) s = .next
        (({ s with power := { s.power with vinMv := mv, vinLow := true, supplyLow := true }, sec := halted }).raisePackage
          evSupplyLow mv)) ∧
     (s.power.pwrWarn = false → exec (.pwrWarnNEdge true) s = .next
        (({ s with power := { s.power with pwrWarn := true, supplyLow := true }, sec := halted }).raisePackage evPwrWarn 0 1))) ∧
    (∀ mv, mv < 47000 → s.power.supplyLow = true →
      exec (.supplyLowEnter mv) s = .next { s with power := { s.power with vinMv := mv, vinLow := true } }) ∧
    (s.power.pwrWarn = true → exec (.pwrWarnNEdge false) s = .next
      (({ s with power := { s.power with pwrWarn := false } }).raisePackage evPwrWarn 0 0)) ∧
    (∀ mv, 48000 ≤ mv → s.power.pwrWarn = false → exec (.supplyLowExit mv) s =
      .next { s with power := { s.power with vinMv := mv, vinLow := false, supplyLow := false } })

/-- A thermal sample throttles and releases bands. A read of the sensors shows the highest temperatures; a band comes
under throttle when a sensor of it or an HBM stack reads 95 °C or more, leaves it when every sensor of it reads
below 93 °C and no stack 95 °C, and keeps its state between. Band voltages stay, and beside the power state only
events change. (R827, R828, R829) -/
def Obligations.ThermalSampleThrottlesBands : Prop :=
  ∀ (x : Temps) (s : State), s.serving →
    ∃ t, exec (.thermalSample x) s = .next t ∧ EventsOnly { s with power := t.power } t ∧
      t.power.hbmMax = x.hbm.foldl max 0 ∧ t.power.hubMax = x.hub ∧ t.power.cap = s.power.cap ∧ t.power.est = s.power.est ∧
      ∀ b : Fin 8, (t.power.bands.get b).temp = x.bands.getD b.val 0 ∧
        (t.power.bands.get b).volt = (s.power.bands.get b).volt ∧ (t.power.bands.get b).target = (s.power.bands.get b).target ∧
        (t.power.bands.get b).throttled =
          (if 95 ≤ x.bands.getD b.val 0 ∨ 95 ≤ x.hbm.foldl max 0 then true
           else if x.bands.getD b.val 0 < 93 then false else (s.power.bands.get b).throttled)

/-- A converter fault. When a converter in service fails its GOOD bit clears. With seven good converters left the
effective cap is limited to 2,100 W; with six or fewer the package stops. A converter already lost changes nothing.
(R779, R780, R807) -/
def Obligations.ConverterFaultUsesSpareLimitsOrStops : Prop :=
  ∀ (i : Fin 9) (s : State), s.boot.landsTaken = false → s.boot.phase ≠ .off →
    (s.power.goodConv.getLsbD i.val = false → exec (.converterFault i) s = .next s) ∧
    (s.power.goodConv.getLsbD i.val = true → ∃ t, exec (.converterFault i) s = .next t ∧
      (let g := s.power.goodConv &&& ~~~(BitVec.ofNat 9 (2 ^ i.val))
       let left := ((List.range 9).filter (fun k => g.getLsbD k)).length
       (left ≤ 6 → t.boot.phase = .off ∧ t.boot.faultN = true ∧ t.mem = {} ∧ t.sec.fuses = s.sec.fuses) ∧
       (7 ≤ left → t.power.goodConv = g ∧ t.power.cap = min s.baseCap.1 (if left ≤ 7 then 2100 else 2400) ∧
         EventsAnd [.pwrSafeCount] { s with power := t.power, tiles := t.tiles, repair := t.repair } t)))

/-- Estimate epochs, calibration and ramp windows. An estimate epoch takes D as the sum of the nine class counts by their
weights, forms E = g × D + S, and adds D, S and E to the sums of the interval and of the ramp window. A calibration
takes the measured power and the floor, leaves g where the mean of D over the interval is below 100 W / g, else moves
it a quarter of the way to (M - S) / D between 0.80 and 1.25, and begins a new interval; it enters or leaves
UNREACHABLE. A ramp window takes its bounds from the mean estimate of the window before and the effective rates, a
rate of 0 setting none, counts a window that ended below its lower bound, and starts a new mean. Each leaves all but
the power state, tile ceilings and what they count. (R793, R794, R796, R818, R820, R821, R823) -/
def Obligations.EstimateCalibrationAndRampWindow : Prop :=
  (∀ counts : List Nat, counts.length = 9 →
    dynamicPower counts = ((List.range 9).map (fun k => Config.classWeight k * counts.getD k 0)).sum) ∧
  ∀ s : State, s.serving →
    (∀ e : Estimate,
      (let d := dynamicPower e.counts
       let est : Ratio := ⟨s.power.gain.num * d + e.staticW * s.power.gain.den * 1000000, s.power.gain.den * 1000000⟩
       ∃ t, exec (.estimateEpoch e) s = .next t ∧ t = { s with power := t.power, tiles := t.tiles } ∧
        t.power.est = est ∧ t.power.winSum = s.power.winSum.add est ∧ t.power.winCount = s.power.winCount + 1 ∧
        t.power.dSum = s.power.dSum + d ∧ t.power.sSum = s.power.sSum + e.staticW ∧ t.power.epochs = s.power.epochs + 1 ∧
        t.power.lastEpoch = s.time ∧ t.power.cap = s.power.cap ∧ t.power.gain = s.power.gain)) ∧
    (∀ c : Calibration,
      (let g := s.power.gain
       let d := s.power.dSum
       let n := s.power.epochs
       let num : Int := 3 * g.num * d + ((c.measuredW * n : Int) - s.power.sSum) * 1000000 * g.den
       let den : Nat := 4 * g.den * d
       ∃ t, exec (.calibrate c) s = .next t ∧ EventsOnly { s with power := t.power, tiles := t.tiles } t ∧
        t.power.meas = c.measuredW ∧ t.power.floor = c.floorW ∧ t.power.cap = s.power.cap ∧ t.power.est = s.power.est ∧
        t.power.dSum = 0 ∧ t.power.sSum = 0 ∧ t.power.epochs = 0 ∧
        ((n = 0 ∨ d * g.num < 100000000 * g.den * n) → t.power.gain = g) ∧
        (0 < n → 100000000 * g.den * n ≤ d * g.num →
          (1000 * num < 800 * (den : Int) → t.power.gain = ⟨4, 5⟩) ∧ (1250 * (den : Int) < 1000 * num → t.power.gain = ⟨5, 4⟩) ∧
          (800 * (den : Int) ≤ 1000 * num → 1000 * num ≤ 1250 * (den : Int) → t.power.gain = ⟨num.toNat, den⟩)) ∧
        (t.power.unreachable =
          (if s.power.unreachable then decide (100 * s.power.cap < 102 * c.floorW) else decide (s.power.cap < c.floorW))))) ∧
    (let up := effectiveRate s.power.leaseA s.power.leaseB Lease.up s.fallbackUp
     let down := effectiveRate s.power.leaseA s.power.leaseB Lease.down s.fallbackDown
     let mean : Ratio := if s.power.winCount = 0 then s.power.est else ⟨s.power.winSum.num, s.power.winSum.den * s.power.winCount⟩
     ∃ t, exec .rampWindowStart s = .next t ∧
      t.power.hi = (if up = 0 then none else some (mean.add ⟨up * 131072, 1000000⟩)) ∧
      t.power.lo = (if down = 0 then none else some (mean.sub ⟨down * 131072, 1000000⟩)) ∧
      t.power.winSum = {} ∧ t.power.winCount = 0 ∧ t.power.cap = s.power.cap ∧ t.power.est = s.power.est ∧
      ((s.power.lo = none ∨ s.power.winCount = 0) → t = { s with power := t.power, tiles := t.tiles }) ∧
      (∀ lo, s.power.lo = some lo → 0 < s.power.winCount →
        (lo.leR mean = true → t = { s with power := t.power, tiles := t.tiles }) ∧
        (lo.leR mean = false → t = { s.count .pwrRampMiss 0 1 with power := t.power, tiles := t.tiles })))

/-- Leases and the fallback set the cap; management ports answer. A manager's write of an effecter within its range
starts or renews its lease from the last values written, and the effective cap follows; a value outside the range
changes and renews nothing and is answered with 0x02 (PRESUMED to be ERROR_INVALID_DATA, log entry 10). An expiring
lease and a write of PWR_FALLBACK move the cap likewise; a fallback cap outside 800 to 2,400 leaves the register
unchanged. A cap below the last estimate applies the safe step. A management port shows its provisional ID and takes its
dynamic address by ENTDAA and until then answers nothing else; with an address it answers sensor reads, control messages of its
endpoint ID, and any other message type with an error response (completion codes PRESUMED from DSP0248 and DSP0233,
log entry 10). (R805, R806, R807, R809, R811, R812, R814, R836, R912, R961, R962) -/
def Obligations.LeasesFallbackAndManagementPorts : Prop :=
  (∀ (s : State), s.serving →
    (∀ m id v l, (s.mgmt m).dynAddr.isSome = true → 1 ≤ id → id ≤ 4 → (s.power.lease m).setEffecter id v = some l →
      (id = 1 → 800 ≤ v ∧ v ≤ 2400 ∧ l.effCap = some v) ∧
      ∃ t, exec (.setNumericEffecterValue m id v) s = .next t ∧
        (let u : State := { s with power := s.power.setLease m (l.renew s.fallbackCap s.now) }
         t.power.lease m = l.renew s.fallbackCap s.now ∧ t.power.cap = u.effectiveCap ∧ t.power.source = u.baseCap.2 ∧
         (t.mgmt m).answers = (0, 0) :: (s.mgmt m).answers ∧
         (u.effectiveCap < s.power.cap → s.power.est.le u.effectiveCap = false → t.power.safeStep = true) ∧
         EventsAnd [.pwrSafeCount] { s with power := t.power, tiles := t.tiles, mgmtA := t.mgmtA, mgmtB := t.mgmtB } t)) ∧
    (∀ m id v, (s.mgmt m).dynAddr.isSome = true → 1 ≤ id → id ≤ 4 → (s.power.lease m).setEffecter id v = none →
      exec (.setNumericEffecterValue m id v) s = .next (s.mgmtAnswer m 0x02 0)) ∧
    (∀ m, (s.power.lease m).held = true → ∃ t, exec (.leaseExpiry m) s = .next t ∧
      (let u : State := { (s.advanceTo (s.power.lease m).expiry) with
         power := s.power.setLease m { s.power.lease m with held := false } }
       t.power.lease m = { s.power.lease m with held := false } ∧ t.power.cap = u.effectiveCap ∧ t.power.source = u.baseCap.2 ∧
       EventsAnd [.pwrSafeCount] { u with power := t.power, tiles := t.tiles } t)) ∧
    (∀ v : W32, (bitsOf v.toNat 0 12 < 800 ∨ 2400 < bitsOf v.toNat 0 12) → exec (.pwrFallbackWrite v) s = .next s) ∧
    (∀ v : W32, 800 ≤ bitsOf v.toNat 0 12 → bitsOf v.toNat 0 12 ≤ 2400 → ∃ t, exec (.pwrFallbackWrite v) s = .next t ∧
      t.reg .pwrFallback = v.toNat ∧ t.power.cap = (s.setReg .pwrFallback 0 v.toNat).effectiveCap ∧
      EventsAnd [.pwrSafeCount, .pwrFallback] { s with power := t.power, tiles := t.tiles } t)) ∧
  (∀ (m : MgmtPort) (s : State), s.boot.landsTaken = false → s.boot.phase ≠ .off →
    (∀ a : Byte, exec (.entdaa m a) s =
      .next (s.setMgmt m { s.mgmt m with dynAddr := some a, provisional := some (provisionalId m) })) ∧
    ((s.mgmt m).dynAddr.isSome = true →
      (∀ x ∈ [(0x0010, s.power.meas), (0x0011, s.power.vinMv), (0x0013, s.power.hbmMax), (0x0014, s.power.cap), (0x0015, s.power.floor),
              (0x0016, s.power.est.num / s.power.est.den), (0x0020, 0x4C4B0105)],
        exec (.getSensorReading m x.1) s = .next (s.mgmtAnswer m 0 x.2)) ∧
      (∀ typ, exec (.mctpOtherMessage m typ) s = .next (s.mgmtAnswer m (Config.mctpError typ) 0)) ∧
      (∀ id, s.sensor id = none → exec (.getSensorReading m id) s = .next (s.mgmtAnswer m 0x80 0)) ∧
      (∀ id v, id = 0 ∨ 4 < id → exec (.setNumericEffecterValue m id v) s = .next (s.mgmtAnswer m 0x80 0)) ∧
      exec (.mctpControlMessage m .getEndpointId) s = .next (s.mgmtAnswer m 0 (s.mgmt m).eid.toNat) ∧
      exec (.mctpControlMessage m .getMessageTypes) s = .next (s.mgmtAnswer m 0 0x0100) ∧
      (∀ x, exec (.mctpControlMessage m (.other x)) s = .next (s.mgmtAnswer m 0x05 0)) ∧
      (∀ eid : Byte, eid = 0 ∨ eid = 0xFF → exec (.mctpControlMessage m (.setEndpointId eid)) s = .next (s.mgmtAnswer m 0x02 0)) ∧
      ∀ eid : Byte, eid ≠ 0 → eid ≠ 0xFF →
        exec (.mctpControlMessage m (.setEndpointId eid)) s =
          .next ((s.setMgmt m { s.mgmt m with eid := eid }).mgmtAnswer m 0 eid.toNat)) ∧
    ((s.mgmt m).dynAddr = none →
      (∀ id, exec (.getSensorReading m id) s = .next s) ∧ (∀ typ, exec (.mctpOtherMessage m typ) s = .next s) ∧
      (∀ c, exec (.mctpControlMessage m c) s = .next s) ∧ (∀ id v, exec (.setNumericEffecterValue m id v) s = .next s)))

/-- Presence in its three modes. In button mode a press and release opens presence for 120 s, a press while open begins
the window again, and the end of the window closes presence and any opened debug access; in jumper mode presence
follows the pin; in seal-loop mode a broken loop sets SEAL_BROKEN and opens presence. Nothing else changes but
events. (R890, R891, R893, R904) -/
def Obligations.PresenceOpensAndCloses : Prop :=
  ∀ s : State, s.boot.landsTaken = false → s.boot.phase ≠ .off →
    (s.sec.presMode = 0 → s.sec.presLevel = false →
      (let w := if s.sec.present then s.now + 120000000000 else s.sec.windowEnd
       exec (.presenceNChange true) s = .next { s with sec := { s.sec with presLevel := true, pressed := true, windowEnd := w } })) ∧
    (s.sec.presMode = 0 → s.sec.presLevel = true → s.sec.pressed = true → ∃ t, exec (.presenceNChange false) s = .next t ∧
      EventsOnly { s with sec := { s.sec with presLevel := false, pressed := false, present := true, windowEnd := s.now + 120000000000 } } t) ∧
    (s.sec.presMode = 1 → s.sec.presLevel = false → ∃ t, exec (.presenceNChange true) s = .next t ∧
      EventsOnly { s with sec := { s.sec with presLevel := true, present := true } } t) ∧
    (s.sec.presMode = 1 → s.sec.presLevel = true → s.sec.present = true → exec (.presenceNChange false) s = .next
      (({ s with sec := { s.sec with presLevel := false, present := false, debugOpen := 0 } }).raisePackage evPresenceClosed 0 1)) ∧
    (s.sec.presMode = 2 → s.sec.presLevel = true → s.sec.sealBroken = false → ∃ t, exec (.presenceNChange false) s = .next t ∧
      EventsOnly { s with sec := { s.sec with presLevel := false, sealBroken := true, present := true } } t) ∧
    (s.sec.presMode = 0 → s.sec.present = true → ∃ t, exec .presenceWindowExpiry s = .next t ∧
      EventsOnly { (s.advanceTo s.sec.windowEnd) with sec := { s.sec with present := false, debugOpen := 0 } } t)

/-- An enable or disable of a ring, a partition or a port. A write of ENABLE moves a ring, a partition and a port as the
table of the function state machine gives, with the latches, and ENABLE then reads what was written. A ring that
leaves OFF has both indices zero. An enable of an OFF partition whose settings are refused leaves it OFF with
REFUSED set, and while its reset runs ENABLE is ignored. Everything else stays, but for the routes that used a port
that goes down. (R934, R935, R537, R602, R930) -/
def Obligations.EnableAndDisableFollowTheTable : Prop :=
  ∀ s : State, s.serving →
    (∀ p n, ∃ t, exec (.ringEnable p n) s = .next t ∧ t = s.modRing p n (fun _ => t.ring p n) ∧
      EnableRow (s.ring p n).fn (t.ring p n).fn ∧ (t.ring p n).pending = (s.ring p n).pending ∧
      ((s.ring p n).fn.st = .off → (t.ring p n).pi = 0 ∧ (t.ring p n).ci = 0) ∧
      ((s.ring p n).fn.st ≠ .off → (t.ring p n).pi = (s.ring p n).pi ∧ (t.ring p n).ci = (s.ring p n).ci)) ∧
    (∀ p n, ∃ t, exec (.ringDisable p n) s = .next t ∧ t = s.modRing p n (fun _ => t.ring p n) ∧
      DisableRow (s.ring p n).fn (t.ring p n).fn ∧ (t.ring p n).pi = (s.ring p n).pi ∧ (t.ring p n).ci = (s.ring p n).ci) ∧
    (∀ p, (s.part p).advance.reset = false → ((s.part p).fn.st = .off → s.enableRefused p = false) →
      ∃ t, exec (.partEnable p) s = .next t ∧ EnableRow (s.part p).fn (t.part p).fn ∧
        t = s.modPart p (fun x => { x with fn := (t.part p).fn, refused := (t.part p).refused })) ∧
    (∀ p, (s.part p).advance.reset = false → (s.part p).fn.st = .off → s.enableRefused p = true →
      exec (.partEnable p) s = .next (s.modPart p (fun x => { x with refused := true, fn := { x.fn with enable := false } }))) ∧
    (∀ p, (s.part p).advance.reset = false → ∃ t, exec (.partDisable p) s = .next t ∧ DisableRow (s.part p).fn (t.part p).fn ∧
      t = s.modPart p (fun x => { x with fn := (t.part p).fn })) ∧
    (∀ p, (s.part p).advance.reset = true → exec (.partEnable p) s = .next s ∧ exec (.partDisable p) s = .next s) ∧
    (∀ u, ∃ t, exec (.portEnable u) s = .next t ∧ EnableRow (s.port u).fn (t.port u).fn ∧
      t = s.modPort u (fun x => { x with fn := (t.port u).fn })) ∧
    (∀ u, ∃ t, exec (.portDisable u) s = .next t ∧ DisableRow (s.port u).fn (t.port u).fn ∧ t = { s with fabric := t.fabric })

/-- A function becomes ready or has drained. A function that is ENABLING and has what it needs enters ON, or begins to
quiesce where a disable is latched; one that is QUIESCING and has drained enters OFF, or ENABLING again where an
enable is latched. A ring at OFF has no ERROR, and its indices are zero when it leaves OFF. An event that comes too
early changes nothing; one without a row is counted in UNHANDLED. (R23, R432, R538, R539, R551, R604, R935) -/
def Obligations.ReadyAndDrainedFollowTheTable : Prop :=
  ∀ s : State, s.serving →
    (∀ p n, (s.ring p n).fn.st = .enabling → s.ringReady p n = true → ∃ t, exec (.functionReady (.ring p n)) s = .next t ∧
      PartOnly p s t ∧ (∀ m, m ≠ n → t.ring p m = s.ring p m) ∧
      (t.ring p n).fn.st = (if (s.ring p n).fn.latch then .quiescing else .on) ∧ (t.ring p n).fn.latch = false) ∧
    (∀ p n, (s.ring p n).fn.st = .enabling → s.ringReady p n = false → exec (.functionReady (.ring p n)) s = .next s) ∧
    (∀ p, (s.part p).fn.st = .enabling → exec (.functionReady (.part p)) s = .next (s.modPart p (fun x =>
      { x with fn := { x.fn with st := if x.fn.latch then .quiescing else .on, latch := false }, sems := [] }))) ∧
    (∀ p, (s.part p).fn.st = .on → exec (.functionReady (.part p)) s = .next (s.modPart p (fun x =>
      { x with fn := { x.fn with unhandled := min 15 (x.fn.unhandled + 1) } }))) ∧
    (∀ u, (s.port u).fn.st = .enabling → (s.port u).trainedOk = true → s.nodeValid = true →
      exec (.functionReady (.port u)) s = .next (((s.setPortFn u (s.port u).fn.onReady).degraded u).pump u)) ∧
    (∀ p n, (s.ring p n).fn.st = .quiescing → s.ringDrained p n = true → ∃ t, exec (.functionDrained (.ring p n)) s = .next t ∧
      t = s.modRing p n (fun _ => t.ring p n) ∧ (t.ring p n).error = false ∧ (t.ring p n).fn.latch = false ∧
      ((s.ring p n).fn.latch = false → (t.ring p n).fn.st = .off) ∧
      ((s.ring p n).fn.latch = true → (t.ring p n).fn.st = .enabling ∧ (t.ring p n).pi = 0 ∧ (t.ring p n).ci = 0)) ∧
    (∀ p n, (s.ring p n).fn.st = .quiescing → s.ringDrained p n = false → exec (.functionDrained (.ring p n)) s = .next s) ∧
    (∀ p, (s.part p).fn.st = .quiescing → s.partDrained p = true → exec (.functionDrained (.part p)) s = .next (s.modPart p (fun x =>
      { x with fn := { x.fn with st := if x.fn.latch then .enabling else .off, latch := false } }))) ∧
    (∀ u, (s.port u).fn.st = .quiescing → (s.port u).drained = true →
      exec (.functionDrained (.port u)) s = .next ((s.setPortFn u (s.port u).fn.onDrained).modPort u Port.fresh))

/-- Accesses through BAR0 and BAR2. A BAR0 access of illegal size or alignment is counted in GLB_BAD_ACCESS and reads
zero; a read of a counter of access RC returns and clears it, and a read of another register changes nothing; a
write outside the registers is ignored, one of GLB_RESET_CFG sets its two bits and no other register, and one that
sets GO of SPR_MAP_CTRL loads a map. BAR2 writes and reads the DPA space where it is mapped; elsewhere a write changes
nothing and a read gives Completer Abort, as does a read that cannot be corrected. A read of a page that is being
copied waits (log entry 114). (R7, R13, R237, R253, R289, R514, R515, R518, R520, R867, R922) -/
def Obligations.BarAccesses : Prop :=
  ∀ s : State, s.serving →
    (∀ f w, exec (.bar0BadAccess f w) s = .next (if w then s.count .glbBadAccess 0 1
      else { s.count .glbBadAccess 0 1 with host := { s.host with bar0Data := 0 } })) ∧
    (∀ f off size, badAccess off size = true → exec (.rcCounterRead f off size) s =
        .next { s.count .glbBadAccess 0 1 with host := { s.host with bar0Data := 0 } } ∧
      ∀ v go, exec (.registerWrite f off size v go) s = .next (s.count .glbBadAccess 0 1)) ∧
    (∀ f off r i, badAccess off 4 = false → s.unitAt f off false = .reg r i 0 → r.isRc = true → r.bytes = 4 →
      r.name ≠ .tileDbgSamerow → r.name ≠ .tileDbgHold →
      exec (.rcCounterRead f off 4) s =
        .next { s.clearReg r.name i with host := { s.host with bar0Data := BitVec.ofNat 64 (s.view r.name i % 2 ^ 32) } }) ∧
    (∀ f off r i, badAccess off 8 = false → s.unitAt f off false = .reg r i 0 → r.isRc = false → r.bytes = 8 →
      exec (.rcCounterRead f off 8) s = .next { s with host := { s.host with bar0Data := BitVec.ofNat 64 (s.view r.name i) } }) ∧
    (∀ f off v go, badAccess off 4 = false → s.unitAt f off true = .hole → exec (.registerWrite f off 4 v go) s = .next s) ∧
    (∀ f off i (v : W64) go, badAccess off 4 = false → s.unitAt f off true = .reg (regRow .sprMapCtrl) i 0 → v.getLsbD 0 = true →
      exec (.registerWrite f off 4 v go) s =
        .next ((s.writeRegister (regRow .sprMapCtrl) i 0 4 (v.toNat % 2 ^ 32)).sprMapLoad go.data)) ∧
    (∀ (v : W64) go, ∃ t, exec (.registerWrite .pf 0x010020 4 v go) s = .next t ∧ t = { s with regs := t.regs } ∧
      bitsOf (t.reg .glbResetCfg) 0 2 = v.toNat % 4 ∧
      ∀ n i, i < 65536 → n ≠ .glbResetCfg → t.reg n i = s.reg n i) ∧
    (∀ off bytes, s.mapped (s.reg .glbBar2Base + off % 2 ^ 36) bytes.length = false → exec (.bar2Write off bytes) s = .next s) ∧
    (∀ off b x, s.place (s.reg .glbBar2Base + off % 2 ^ 36) = some x →
      s.withdrawnDpa (s.reg .glbBar2Base + off % 2 ^ 36) = false →
      ∃ t, exec (.bar2Write off [b]) s = .next t ∧ t = { s with mem := s.mem.write x b, repair := t.repair } ∧
        (s.repair.copies = [] → t.repair = s.repair)) ∧
    (∀ off len ue,
      (let a := s.reg .glbBar2Base + off % 2 ^ 36
       (s.heldAt a len = true → exec (.bar2Read off len ue) s = .next s) ∧
       (s.heldAt a len = false →
         (s.mapped a len = false → exec (.bar2Read off len ue) s = .next { s with host := { s.host with bar2 := .abort } }) ∧
         (s.mapped a len = true →
           (s.badByte a len ue = none →
             exec (.bar2Read off len ue) s = .next { s with host := { s.host with bar2 := .data (s.readDpa a len) } }) ∧
           (∀ x, s.badByte a len ue = some x → ∃ t, exec (.bar2Read off len ue) s = .next t ∧ t.host.bar2 = .abort ∧ t.mem = s.mem)))))

/-- Writes of the memory maps and of WATCH_EN. MEM_HBM_MAP and MEM_FIRN_MAP of a partition keep their value unless the
partition is OFF; a write takes every field (COUNT within its range), but VALID stays clear where the map overlaps
another or lies outside what the package has. WATCH_EN is set only where NUM_TABLE_BASE lies in the partition's HBM
and is aligned. Only the register written changes. (R199, R267, R272, R293) -/
def Obligations.MapWritesTakeHoldOnlyWhileOff : Prop :=
  ∀ s : State, s.serving →
    (∀ p (v : W64), (s.part p).fn.st ≠ .off → exec (.memHbmMapWrite p v) s = .next s) ∧
    (∀ p (v : W32), (s.part p).fn.st ≠ .off → exec (.memFirnMapWrite p v) s = .next s) ∧
    (∀ p (v : W64), (s.part p).fn.st = .off → ∃ w, exec (.memHbmMapWrite p v) s = .next (s.setReg .memHbmMap p.val w) ∧
      bitsOf w 0 54 = bitsOf v.toNat 0 54 ∧ bitOf w 63 = (bitOf v.toNat 63 && s.hbmMapOk p v.toNat)) ∧
    (∀ p (v : W32), (s.part p).fn.st = .off → 1 ≤ bitsOf v.toNat 16 15 → bitsOf v.toNat 16 15 ≤ 16384 →
      ∃ w, exec (.memFirnMapWrite p v) s = .next (s.setReg .memFirnMap p.val w) ∧
      bitsOf w 0 14 = bitsOf v.toNat 0 14 ∧ bitsOf w 16 15 = bitsOf v.toNat 16 15 ∧
      bitOf w 31 = (bitOf v.toNat 31 && s.firnMapOk p v.toNat)) ∧
    (∀ p (v : W32), ∃ w, exec (.watchEnSet p v) s = .next (s.setReg .numCfg p.val w) ∧ bitOf w 20 = s.watchOk p)

/-- Training, lane sparing and loss of a Uagor port. A port in ENABLING whose nine lanes train at the first rate, from the
one its register names, at which eight do uses the first eight, takes the neighbour's node ID unless it is its own, and
starts with an empty retry buffer and full credits; one that trains at no rate stays as it is. A lane that fails on a
port that is ON gives way to the spare and is tested; a silent neighbour sends the port back to ENABLING with its
buffer discarded, and a failure of a port that is OFF or QUIESCING is counted in UNHANDLED. (R23, R430, R431, R432,
R436, R438, R445, R451, R492, R932) -/
def Obligations.PortTrainingSparingAndLoss : Prop :=
  ∀ (u : PortNo) (s : State), s.serving →
    (∀ x : Training, (s.port u).fn.st ≠ .enabling → exec (.portTrained u x) s = .next s) ∧
    (∀ x : Training, (∀ l ∈ x.byRate, l.length < 4) → exec (.portTrained u x) s = .next s) ∧
    (∀ (x : Training) (n : Node) (rate : Nat), (s.port u).fn.st = .enabling → s.nodeValid = true → rate ≤ 2 →
      s.regBits .uagPortCtrl u.val 1 2 ≤ rate → x.byRate.getD rate [] = List.range 9 →
      (∀ q, s.regBits .uagPortCtrl u.val 1 2 ≤ q → q < rate → (x.byRate.getD q []).length < 8) →
      (∀ l < 9, s.repair.retired (.lane u.val l) = false) →
      x.identity = some n → ∃ t, exec (.portTrained u x) s = .next t ∧ t = s.modPort u (fun _ => t.port u) ∧
        (t.port u).fn = (s.port u).fn ∧ (t.port u).rate = rate ∧ (t.port u).lanes = List.range 8 ∧ (t.port u).width4 = false ∧
        (t.port u).spareUsed = false ∧ (t.port u).neighbour = n ∧ (t.port u).dupId = decide (n = s.self) ∧
        (t.port u).nbValid = decide (n ≠ s.self) ∧ (t.port u).retry = [] ∧ (t.port u).rxSeq = 0xFFFF ∧
        (t.port u).credits = [128, 128, 768, 768, 512, 512, 640, 640]) ∧
    ((s.port u).fn.st = .enabling → (s.port u).lanes = [] → exec (.portRetrainTimer u) s =
      .next (s.modPort u (fun p => { p with nbValid := false, dupId := false, trained := [] }))) ∧
    (∀ lane : Fin 9, (s.port u).lanes.contains lane.val = false → exec (.laneSpared u lane) s = .next s) ∧
    (∀ lane : Fin 9, (s.port u).fn.st = .on → (s.port u).lanes.contains lane.val = true →
      ((s.substituteLane u lane.val).port u).lanes.contains lane.val = false →
      exec (.laneSpared u lane) s = .next ((s.substituteLane u lane.val).startTest (.lane u.val lane.val))) ∧
    ((s.port u).fn.st = .on → ∃ t, exec (.linkDown u) s = .next t ∧ EventsOnly { s with fabric := t.fabric } t ∧
      (t.port u).fn.st = .enabling ∧ (t.port u).retry = [] ∧ (t.port u).out = [] ∧ (t.port u).lanes = []) ∧
    ((s.port u).fn.st = .enabling → exec (.linkDown u) s = .next s) ∧
    (((s.port u).fn.st = .off ∨ (s.port u).fn.st = .quiescing) → exec (.linkDown u) s =
      .next (s.modPort u (fun p => { p with fn := { p.fn with unhandled := min 15 (p.fn.unhandled + 1) } })))

/-- Receiving flits and the timers of a port. Where no symbol error of the last millisecond is on record, a DATA flit in
sequence is accepted; one out of sequence is refused with a NAK and accepts nothing; IDLE and CONTROL flits bring
acknowledgement and credits; and a NAK replays the retry buffer, which is counted. A flit with a codeword that FEC
cannot correct, which is counted, or with its FCRC in error, is refused with a NAK and accepts nothing. Accepted flits
are acknowledged by the timer at the latest; without flits to send IDLE flits go out, carrying the last sequence
number accepted. Only the port changes, and the error counters. (R440, R442, R444, R446, R447, R448, R449, R500) -/
def Obligations.FlitsAreAcceptedRefusedAndAcknowledged : Prop :=
  ∀ (u : PortNo) (s : State), s.serving →
    (∀ f, (s.port u).live = false → exec (.flitReceive u f) s = .next s) ∧
    (∀ f : Flit, (s.port u).live = true → (s.port u).errLog = [] → f.words = [] → (s.port u).fecOk f = true →
      (f.fcrcOk = false → ∃ t, exec (.flitReceive u f) s = .next t ∧ t = s.modPort u (fun p => (p.fecNext f).nak)) ∧
      (f.fcrcOk = true →
        (let v := s.modPort u (fun p => ((p.fecNext f).acked f.ack).credit f.vc.val f.credits)
         (f.ftype = .data → f.fseq = (s.port u).rxSeq + 1 → ∃ t, exec (.flitReceive u f) s = .next t ∧
           t = (v.modPort u (fun p => p.acceptData f)).pump u ∧ t = s.modPort u (fun _ => t.port u) ∧
           (t.port u).rxSeq = f.fseq ∧ (t.port u).nakOut = false) ∧
         (f.ftype = .data → f.fseq ≠ (s.port u).rxSeq + 1 → ∃ t, exec (.flitReceive u f) s = .next t ∧ t = v.modPort u Port.nak ∧
           (t.port u).rxSeq = (s.port u).rxSeq ∧ (t.port u).rx = (s.port u).rx ∧ (t.port u).rxBytes = (s.port u).rxBytes ∧
           (t.port u).nakOut = true) ∧
         ((f.ftype = .idle ∨ f.ftype = .control) → exec (.flitReceive u f) s = .next (v.pump u)) ∧
         (f.ftype = .nak → (∀ x ∈ (v.port u).retry, x.2 < 15) → exec (.flitReceive u f) s =
           .next ((v.modPort u Port.replay).count .uagPortReplay u.val (v.port u).retry.length))))) ∧
    (∀ f : Flit, (s.port u).live = true → (s.port u).errLog = [] → (s.port u).fecOk f = false →
      (∀ w ∈ (s.port u).wordsOf f, correctable w = true → errorsOf w = []) →
      (let bad := ((s.port u).wordsOf f).countP (fun w => !correctable w)
       exec (.flitReceive u f) s =
         .next ((if bad = 0 then s else s.count .uagPortFecUncorr u.val bad).modPort u (fun p => (p.fecNext f).nak)))) ∧
    ((s.port u).live = true → 0 < (s.port u).unacked → ∃ t, exec (.ackTimer u) s = .next t ∧ t = s.modPort u (fun _ => t.port u) ∧
      (t.port u).unacked = 0 ∧ (t.port u).rxSeq = (s.port u).rxSeq ∧
      ∃ g, (t.port u).wire = g :: (s.port u).wire ∧ g.ftype = .idle ∧ g.ack = (s.port u).rxSeq ∧ g.fseq = (s.port u).txSeq ∧
        g.fcrcOk = true) ∧
    ((s.port u).unacked = 0 → exec (.ackTimer u) s = .next s) ∧
    exec (.nakHoldoffExpiry u) s = .next (s.modPort u (fun p => { p with nakOut := false })) ∧
    ((s.port u).live = true → ∃ t, exec (.idleFlitTimer u) s = .next t ∧ t = s.modPort u (fun _ => t.port u) ∧
      ∃ g, (t.port u).wire = g :: (s.port u).wire ∧ g.ftype = .idle ∧ g.ack = (s.port u).rxSeq)

/-- Publisher keys, debug unlock and the quote. INSTALL_PUBLISHER_KEY installs a key that is a point of the curve in an
empty index with an unused key ID, or removes one; an index in use completes REJECT_STATE. DEBUG_UNLOCK opens its
scope while presence is open, and completes REJECT_PRESENCE otherwise. ATTEST_QUOTE writes the quote and its
signature to the host's buffer and reports its length, or completes REJECT_NO_CAPACITY with the size needed; a
partition of a VF may not ask for all partitions. (R887, R888, R894, R895, R903, R905, R906, R907, R909) -/
def Obligations.KeysDebugAndQuoteCommands : Prop :=
  ∀ (s : State) (p : Part) (r : CmdRing) (c : Cmd), s.serving →
    ((s.part p).nextCmd r opInstallKey = some c → c.indirect = true → c.xbytes = 128 → c.field 0x11 1 ≤ 15 → c.field 0x12 1 ≤ 32 →
      (c.field 0x10 1 = 0 → (sm2Point (c.bytes 0x20 64)).isSome = true → allZero ((c.bytes 0x60 32).drop (c.field 0x12 1)) = true →
        dget? s.sec.keys (c.field 0x11 1) = none → (∀ e ∈ s.sec.keys, e.2.keyId ≠ BitVec.ofNat 64 (c.field 0x18 8)) →
        CompletesAtOnce (.installPublisherKey p r) s { s with sec := { s.sec with keys := (dset s.sec.keys (c.field 0x11 1)
          ⟨BitVec.ofNat 64 (c.field 0x18 8), c.bytes 0x20 64,
           if c.field 0x12 1 = 0 then defaultDistId else (c.bytes 0x60 32).take (c.field 0x12 1)⟩) } } p c stOk) ∧
      (c.field 0x10 1 = 0 → (sm2Point (c.bytes 0x20 64)).isSome = true → allZero ((c.bytes 0x60 32).drop (c.field 0x12 1)) = true →
        (dget? s.sec.keys (c.field 0x11 1)).isSome = true → CompletesAtOnce (.installPublisherKey p r) s s p c stState) ∧
      (c.field 0x10 1 = 1 → c.field 0x18 8 = 0 → allZero (c.bytes 0x20 64) = true →
        allZero ((c.bytes 0x60 32).drop (c.field 0x12 1)) = true → (dget? s.sec.keys (c.field 0x11 1)).isSome = true →
        CompletesAtOnce (.installPublisherKey p r) s { s with sec := { s.sec with keys := derase s.sec.keys (c.field 0x11 1) } } p c
          stOk)) ∧
    ((s.part p).nextCmd r opDebug = some c → 1 ≤ c.field 0x10 1 → c.field 0x10 1 ≤ 3 →
      (s.sec.present = true → CompletesAtOnce (.debugUnlock p r) s { s with sec := { s.sec with
        debugOpen := s.sec.debugOpen ||| BitVec.ofNat 2 (c.field 0x10 1), debugEver := true } } p c stOk) ∧
      (s.sec.present = false → CompletesAtOnce (.debugUnlock p r) s s p c stPresence)) ∧
    ((s.part p).nextCmd r opAttest = some c → c.field 0x30 8 % 64 = 0 →
      (bitOf (c.field 0x3D 1) 0 = true → (s.vfOf p).isSome = true → CompletesAtOnce (.attestQuote p r) s s p c stState) ∧
      ((bitOf (c.field 0x3D 1) 0 = true → s.vfOf p = none) →
        (let body := s.quoteBody p (c.bytes 0x10 32) (c.field 0x3C 1) (bitOf (c.field 0x3D 1) 0)
         (c.field 0x38 4 < body.length + 64 →
           CompletesAtOnce (.attestQuote p r) s s p c stNoCapacity (body.length + 64)) ∧
         (body.length + 64 ≤ c.field 0x38 4 → CompletesAtOnce (.attestQuote p r) s
           (({ s with free := s.free + 1 }).hostWrite (c.field 0x30 8)
             (body ++ padTo (Config.sm2Sign s.sec.aliasKey body s.free) 64)) p c stOk 0 (body.length + 64)))))

/-- Flash updates and fuse commits. FLASH_UPDATE and FUSE_COMMIT complete REJECT_PRESENCE without presence,
REJECT_SUPPLY in supply low, which PWR_NV_HALT counts, and REJECT_STATE while another write is in progress. An image
that fails its checks completes REJECT_SIGNATURE. A write marks its slot invalid first, programs page after page,
and marks it valid with the next SEQ at the end; it halts at a safe point when supply low has begun. A fuse record
is written after the last burned word, a word at a time, its commit word last. (R787, R788, R895, R896, R897, R898,
R899, R900, R901, R902) -/
def Obligations.FlashAndFuseWrites : Prop :=
  ∀ (s : State) (p : Part) (r : CmdRing) (c : Cmd), s.serving →
    (∀ bs, (s.part p).nextCmd r opFlash = some c → c.field 0x10 1 ≤ 1 → c.field 0x18 8 % 4096 = 0 → 0 < (imageOf bs).imageBytes →
      (imageOf bs).imageBytes ≤ 0x1FFF000 → c.field 0x20 4 = 192 + (imageOf bs).imageBytes →
      (s.sec.present = false → CompletesAtOnce (.flashUpdate p r (.bytes bs)) s s p c stPresence) ∧
      (s.sec.present = true → s.power.supplyLow = true →
        CompletesAtOnce (.flashUpdate p r (.bytes bs)) s (s.count .pwrNvHalt 0 1) p c stSupply) ∧
      (s.sec.present = true → s.power.supplyLow = false → s.sec.writing = true →
        CompletesAtOnce (.flashUpdate p r (.bytes bs)) s s p c stState) ∧
      (s.sec.present = true → s.power.supplyLow = false → s.sec.writing = false →
        c.field 0x10 1 ≠ (if s.boot.slotB then 1 else 0) → s.sec.rollback ≤ (imageOf bs).svn →
        (s.sec.imageOk (imageOf bs) = false → CompletesAtOnce (.flashUpdate p r (.bytes bs)) s s p c stSignature) ∧
        (s.sec.imageOk (imageOf bs) = true → ∃ t j, exec (.flashUpdate p r (.bytes bs)) s = .next t ∧
          t = ({ s with sec := t.sec }).modPart p (fun x => { x with cmds := (t.part p).cmds }) ∧ StageIs t p c.order .running ∧
          t.sec.flash = some j ∧ j.part = some p ∧ j.cmd = c.order ∧ j.done = 0 ∧
          j.slotB = decide (c.field 0x10 1 = 1) ∧ j.image = imageOf bs ∧ (t.sec.slot j.slotB).valid = false ∧
          t.sec.slot (!j.slotB) = s.sec.slot (!j.slotB) ∧ t.sec.fuses = s.sec.fuses))) ∧
    (∀ page : List Byte, ∀ j, s.sec.flash = some j → j.done < j.pages → j.halt = false → j.done + 1 < j.pages →
      exec (.flashPageProgrammed (.bytes page)) s = .next { s with sec := { s.sec with
        flash := some { j with done := j.done + 1, written := j.written ++ page.take 4096 } } }) ∧
    (∀ page : List Byte, ∀ j, s.sec.flash = some j → j.done < j.pages → j.halt = true → j.part = some p → s.cmd? p j.cmd = some c →
      ∃ t, exec (.flashPageProgrammed (.bytes page)) s = .next t ∧
        Completed { s.count .pwrNvHalt 0 1 with sec := { s.sec with flash := none } } t p c stSupply (j.done + 1) 0) ∧
    (∀ d j, s.sec.flash = some j → j.done = j.pages → j.part = some p → s.cmd? p j.cmd = some c →
      ∃ t u, exec (.flashPageProgrammed d) s = .next t ∧ Completed u t p c stOk 0 j.pages ∧ u = { s with sec := u.sec } ∧
        u.sec.flash = none ∧ u.sec.slot (!j.slotB) = s.sec.slot (!j.slotB) ∧ u.sec.slot j.slotB = { j.image with
          valid := true, seq := s.sec.runningSeq + 1, body := j.written.take j.image.body.length }) ∧
    ((s.part p).nextCmd r opFuse = some c → c.field 0x10 1 = 1 → 0 < c.field 0x14 4 → c.field 0x14 4 ≤ 65535 →
      allZero (c.bytes 0x18 32) = true →
      (s.sec.present = false → CompletesAtOnce (.fuseCommit p r) s s p c stPresence) ∧
      (s.sec.present = true → s.power.supplyLow = true → CompletesAtOnce (.fuseCommit p r) s (s.count .pwrNvHalt 0 1) p c stSupply) ∧
      (s.sec.present = true → s.power.supplyLow = false → s.sec.writing = false → c.field 0x14 4 ≤ s.sec.rollback →
        CompletesAtOnce (.fuseCommit p r) s s p c stState) ∧
      (s.sec.present = true → s.power.supplyLow = false → s.sec.writing = false → s.sec.rollback < c.field 0x14 4 →
        c.field 0x14 4 ≤ s.sec.runningSvn → bitOf (c.field 0x11 1) 0 = true → s.sec.fuseNext + 3 ≤ 1024 →
        ∃ t, exec (.fuseCommit p r) s = .next t ∧ StageIs t p c.order .running ∧
          t = ({ s with sec := t.sec }).modPart p (fun x => { x with cmds := (t.part p).cmds }) ∧ t.sec = { s.sec with fuse := (some
          { part := p, cmd := c.order, at_ := s.sec.fuseNext, rollback := true,
            words := [BitVec.ofNat 32 (1 + 256 + 65536 * 0x4652), BitVec.ofNat 32 (c.field 0x14 4), 0x4D4D4F43] }) })) ∧
    (∀ j, s.sec.fuse = some j → j.done + 1 < j.words.length → j.halt = false →
      exec .fuseWordBurned s = .next { s with sec := { s.sec with
        fuses := dset s.sec.fuses (j.at_ + j.done) (s.sec.fuseWord (j.at_ + j.done) ||| j.words.getD j.done 0),
        fuse := some { j with done := j.done + 1 } } }) ∧
    (∀ j, s.sec.fuse = some j → j.done + 1 = j.words.length → j.part = p → j.rollback = false → s.cmd? p j.cmd = some c →
      ∃ t, exec .fuseWordBurned s = .next t ∧ Completed { s with sec := { s.sec with
        fuses := dset s.sec.fuses (j.at_ + j.done) (s.sec.fuseWord (j.at_ + j.done) ||| j.words.getD j.done 0),
        fuse := none } } t p c stOk 0 j.words.length)

/-- Partition resets and placement epochs. A partition reset ends every request, advances PART_EPOCH, completes every
command taken whose descriptor was read, and shows QUIESCING with ENABLE 0 until the epoch advance completes; then
rings and partition are OFF, slots are free, counters are zero and WATCH_EN is clear, and a witness that is set is in
sync again, lost where its node is fenced (DEDUCED, log entry 111). An FLR does the same without
completions or writes to host memory, and resets the VF. An epoch advance discards tasks of other epochs and fails
the step in progress. A reset that runs already is not started again. (R643, R644, R924, R925, R929, R930, R931) -/
def Obligations.PartitionResetsAndEpochs : Prop :=
  ∀ (s : State) (p : Part), s.serving →
    ((s.part p).advance.reset = true → exec (.partResetGo p) s = .next s) ∧
    ((s.part p).advance.reset = false → ∃ t, exec (.partResetGo p) s = .next t ∧
      (t.part p).fn = { (s.part p).fn with st := .quiescing, latch := false, enable := false } ∧ (t.part p).requests = [] ∧
      (t.part p).epoch = (s.part p).epoch + 1 ∧ (t.part p).advance.reset = true ∧ (t.part p).loads = [] ∧ (t.part p).migrations = [] ∧
      (∀ c ∈ (t.part p).cmds, c.stage = .fetching) ∧ t.sec = s.sec ∧ (∀ q, q ≠ p → (t.part q).requests = (s.part q).requests)) ∧
    (∀ vf : Fin 16, s.partOf vf = some p → (s.part p).advance.reset = false → ∃ t, exec (.flr vf) s = .next t ∧
      (t.part p).fn.st = .quiescing ∧ (t.part p).requests = [] ∧ (t.part p).epoch = (s.part p).epoch + 1 ∧ (t.part p).cmds = [] ∧
      t.host.mem = s.host.mem ∧ t.host.space.get (funcIx (.vf vf)) = {}) ∧
    (∀ vf : Fin 16, s.partOf vf = none → exec (.flr vf) s = .next { s with host := { s.host with
      space := s.host.space.set (funcIx (.vf vf)) {},
      msix := s.host.msix.filter (fun e => !(decide (256 + 16 * vf.val ≤ e.1) && decide (e.1 < 272 + 16 * vf.val))) } }) ∧
    (∀ nl, (s.part p).advance.reset = false → ∃ t, exec (.placementEpochAdvance p nl) s = .next t ∧
      (t.part p).epoch = (s.part p).epoch + 1 ∧ (t.part p).advance = { (s.part p).advance with running := true, afterNodeLoss := nl } ∧
      (t.part p).requests = (s.part p).requests ∧ (t.part p).step.failed = ((s.part p).step.failed || (s.part p).step.running) ∧
      (∀ x ∈ (t.part p).lcQ ++ (t.part p).beQ, x.desc.epoch = (t.part p).epoch) ∧ (t.part p).fwWait = [] ∧ t.sec = s.sec) ∧
    ((s.part p).advance.running = true → s.epochPackets p = false → (s.part p).advance.reset = false →
      exec (.epochAdvanceComplete p) s = .next (s.modPart p (fun x => { x with advance := { x.advance with running := false } }))) ∧
    ((s.part p).advance.running = true → s.epochPackets p = false → (s.part p).advance.reset = true →
      (∀ c ∈ (s.part p).cmds, c.stage ≠ .fetching) → ∃ t, exec (.epochAdvanceComplete p) s = .next t ∧
        t = { s with parts := t.parts, regs := t.regs } ∧ (∀ q, q ≠ p → t.part q = s.part q) ∧
        (t.part p).fn = { (s.part p).fn with st := .off, latch := false, enable := false } ∧ (t.part p).epoch = (s.part p).epoch ∧
        (t.part p).requests = [] ∧ (t.part p).slots = [] ∧ (t.part p).cmds = [] ∧ (t.part p).advance = {} ∧ (∀ n, t.ring p n = {}) ∧
        (t.part p).jnl = { witness := s.witnessKept p } ∧
        (s.canonical → t.reg .ringEvtDropped p.val = 0 ∧ t.reg .kvFreezeCount p.val = 0 ∧ t.regBits .numCfg p.val 20 1 = 0)) ∧
    ((s.part p).advance.running = false → exec (.epochAdvanceComplete p) s = .next s)

/-- Polls, nudges and doorbell reads. A poll, or a nudge followed by time, issues a read of the doorbell page where a
ring of the partition is ON or QUIESCING. A read that fails is reported through AER and changes no index. The data of
a read move the producer index of each CMD ring, and the consumer index of each other ring, that is ON and not in
ERROR; an index that goes backwards or beyond what the ring holds sets the ring's ERROR and moves nothing. While more
than 512 reads of host memory are issued the later ones wait (log entry 110). (R510, R545, R550, R551, R557, R558,
R937) -/
def Obligations.DoorbellReadsFollowTheHost : Prop :=
  ∀ (s : State) (p : Part), s.serving →
    ((s.part p).anyLive = true → exec (.nudge p) s = .next (s.modPart p (fun x => { x with doorbellPending := true }))) ∧
    ((s.part p).anyLive = false → exec (.nudge p) s = .next s ∧ exec (.doorbellPoll p) s = .next s) ∧
    ((s.part p).anyLive = true → exec (.doorbellPoll p) s = .next
      { s.modPart p (fun x => { x with doorbellPending := false, doorbellIssued := x.doorbellIssued + 1 }) with
        host := { s.host with reads := s.host.reads ++ [.doorbell p] } }) ∧
    ((s.part p).doorbellIssued = 0 → (s.part p).doorbellPending = false → ∀ d, exec (.doorbellReadReturn p d) s = .next s) ∧
    ((0 < (s.part p).doorbellIssued ∨ (s.part p).doorbellPending = true) →
      (let u : State := if (s.part p).doorbellIssued = 0 then
         { s.modPart p (fun x => { x with doorbellPending := false, doorbellIssued := 1 }) with
           host := { s.host with reads := s.host.reads ++ [.doorbell p] } } else s
       (HostRead.doorbell p ∉ u.host.reads.take 512 → ∀ d, exec (.doorbellReadReturn p d) s = .next u) ∧
       (HostRead.doorbell p ∈ u.host.reads.take 512 →
        exec (.doorbellReadReturn p none) s = .next
          { u.modPart p (fun x => { x with doorbellIssued := x.doorbellIssued - 1 }) with
            host := { u.host with reads := u.host.reads.erase (.doorbell p), aer := s.host.aer + 1 } } ∧
        ∀ d : Doorbell, ∃ t, exec (.doorbellReadReturn p (some d)) s = .next t ∧
          (t.part p).doorbellIssued = (u.part p).doorbellIssued - 1 ∧ t.sec = s.sec ∧ t.power = s.power ∧ t.host.aer = s.host.aer ∧
          (∀ n : RingNo, ((s.ring p n).fn.st ≠ .on ∨ (s.ring p n).error = true) →
            (t.ring p n).error = (s.ring p n).error ∧
            (n.val < 4 → (t.ring p n).pi = (s.ring p n).pi) ∧ (4 ≤ n.val → (t.ring p n).ci = (s.ring p n).ci)) ∧
          (∀ r : CmdRing,
            (let v := d.cmdPi.getD r.val 0
             let g := s.ring p (cmdRing r)
             g.fn.st = .on → g.error = false →
              ((v < g.pi ∨ s.ringEntries p (cmdRing r) < v - g.ci) →
                (t.ring p (cmdRing r)).error = true ∧ (t.ring p (cmdRing r)).pi = g.pi) ∧
              (g.pi ≤ v → v - g.ci ≤ s.ringEntries p (cmdRing r) →
                (t.ring p (cmdRing r)).pi = v ∧ (t.ring p (cmdRing r)).error = false))) ∧
          (∀ n : RingNo, 4 ≤ n.val →
            (let v := doorbellIndex d n
             let g := s.ring p n
             g.fn.st = .on → g.error = false →
              ((v < g.ci ∨ g.pi < v) → (t.ring p n).error = true ∧ (t.ring p n).ci = g.ci) ∧
              (g.ci ≤ v → v ≤ g.pi → (t.ring p n).ci = v ∧ (t.ring p n).error = false))))))

/-- Descriptors and extended payloads. A descriptor whose read fails completes REJECT_MALFORMED with INFO 0xFFFF; one
with a fault in its header or payload completes REJECT_MALFORMED with the offset of the field; a command that only
the PF may give completes REJECT_STATE on a partition of a VF; one whose partition is being reset completes
FAILED_PARTITION_RESET. An extended payload is read before the checks of the payload. A whole command awaits its
start. A read that waits for room among the 512 outstanding ones has not returned. (R510, R559, R564, R565, R566, R573,
R577, R929) -/
def Obligations.DescriptorsAndPayloadsAreJudged : Prop :=
  ∀ (s : State) (p : Part) (r : CmdRing) (c : Cmd), s.serving →
    ((s.part p).awaits r .fetching = none → ∀ d, exec (.descriptorReturn p r d) s = .next s) ∧
    ((s.part p).awaits r .payload = none → ∀ d, exec (.indirectPayloadReturn p r d) s = .next s) ∧
    ((s.part p).awaits r .fetching = some c → HostRead.descriptor p c.order ∉ s.host.reads.take 512 →
      ∀ d, exec (.descriptorReturn p r d) s = .next s) ∧
    ((s.part p).awaits r .payload = some c → HostRead.indirect p c.order ∉ s.host.reads.take 512 →
      ∀ d, exec (.indirectPayloadReturn p r d) s = .next s) ∧
    ((s.part p).awaits r .fetching = some c → HostRead.descriptor p c.order ∈ s.host.reads.take 512 →
      (let u : State := { s with host := { s.host with reads := s.host.reads.erase (.descriptor p c.order) } }
       (∃ t, exec (.descriptorReturn p r .failed) s = .next t ∧ Completed u t p c stMalformed 0xFFFF 0) ∧
       ∀ bs : List Byte, bs.length = 64 →
         (let e := c.read bs
          ((s.part p).advance.reset = true → ∃ t, exec (.descriptorReturn p r (.bytes bs)) s = .next t ∧ Completed u t p e stPartReset 0 0) ∧
          ((s.part p).advance.reset = false → ∀ off, headerFault bs = some off →
            ∃ t, exec (.descriptorReturn p r (.bytes bs)) s = .next t ∧ Completed u t p e stMalformed off 0) ∧
          ((s.part p).advance.reset = false → headerFault bs = none → e.indirect = true →
            ∃ t, exec (.descriptorReturn p r (.bytes bs)) s = .next t ∧ StageIs t p c.order .payload ∧
              .indirect p c.order ∈ t.host.reads) ∧
          ((s.part p).advance.reset = false → headerFault bs = none → e.indirect = false →
            (∀ off, payloadFault e = some off → ∃ t, exec (.descriptorReturn p r (.bytes bs)) s = .next t ∧
              Completed u t p e stMalformed off 0) ∧
            (payloadFault e = none → pfOnly.contains e.opcode.toNat = true → (s.vfOf p).isSome = true →
              ∃ t, exec (.descriptorReturn p r (.bytes bs)) s = .next t ∧ Completed u t p e stState 0 0) ∧
            (payloadFault e = none → pfOnly.contains e.opcode.toNat = false → e.opcode.toNat ≠ opFence →
              ∃ t, exec (.descriptorReturn p r (.bytes bs)) s = .next t ∧ PartOnly p u t ∧
                t.cmd? p c.order = some { e with stage := .held } ∧ ∀ m, m ≠ cmdRing r → t.ring p m = s.ring p m))))) ∧
    ((s.part p).awaits r .payload = some c → HostRead.indirect p c.order ∈ s.host.reads.take 512 →
      (let u : State := { s with host := { s.host with reads := s.host.reads.erase (.indirect p c.order) } }
       (∃ t, exec (.indirectPayloadReturn p r .failed) s = .next t ∧ Completed u t p c stMalformed 0x10 0) ∧
       ∀ bs, (let e : Cmd := { c with payload := padTo bs c.xbytes }
          payloadFault e = none → pfOnly.contains e.opcode.toNat = false → e.opcode.toNat ≠ opFence →
          ∃ t, exec (.indirectPayloadReturn p r (.bytes bs)) s = .next t ∧ PartOnly p u t ∧
            t.cmd? p c.order = some { e with stage := .held } ∧ ∀ m, m ≠ cmdRing r → t.ring p m = s.ring p m)))

/-- NOP has an all-reserved payload and completes OK. A NOP whose payload is all zero has no fault and any other has
one; a NOP that is next to start completes OK with INFO and RESULT zero and changes nothing else. (R578) -/
def Obligations.NopCompletesOk : Prop :=
  (∀ c : Cmd, c.opcode.toNat = opNop → c.indirect = false → c.payload.length = 48 →
    (payloadFault c = none ↔ allZero c.payload = true)) ∧
  (∀ (s : State) (p : Part) (r : CmdRing) (c : Cmd), s.serving → (s.part p).nextCmd r opNop = some c →
    CompletesAtOnce (.nop p r) s s p c stOk 0 0)

/-- FENCE and COPY. A FENCE completes OK with RESULT the number of commands it waited for, once each of them has
completed, and waits until then. COPY moves its bytes between host memory and the DPA space and completes OK with
RESULT the number of bytes; a field out of range completes REJECT_MALFORMED with its offset; an uncorrectable source
byte ends it with FAILED_UNRECOVERABLE_DATA, RESULT the bytes before it, and the rest of the destination undefined.
A host read that fails completes REJECT_MALFORMED (DEDUCED, log entry 58). A COPY from a page that is being copied
waits (log entry 114). (R253, R579, R580, R582, R583, R584, R585, R586) -/
def Obligations.FenceAndCopyComplete : Prop :=
  ∀ (s : State) (p : Part) (r : CmdRing) (c : Cmd), s.serving →
    (∀ w, (s.part p).cmds.find? (fun c => decide (c.ring = r) && decide (c.opcode.toNat = opFence) && c.waited.isSome) = some c →
      c.waited = some w →
      ((∀ o ∈ w, s.cmd? p o = none) → CompletesAtOnce (.fence p r) s s p c stOk 0 w.length) ∧
      (∀ o ∈ w, (s.cmd? p o).isSome = true → exec (.fence p r) s = .next s)) ∧
    ((s.part p).nextCmd r opCopy = some c → ∀ (src : HostData) (ue : Option Nat),
      (∀ off, s.copyFault p c = some off → CompletesAtOnce (.copy p r src ue) s s p c stMalformed off) ∧
      (s.copyFault p c = none →
        (let a := c.field 0x10 8
         let d := c.field 0x18 8
         let n := c.field 0x20 8
         let toDpa := bitOf (c.field 0x28 1) 1
         (bitOf (c.field 0x28 1) 0 = true → s.heldAt a n = true → exec (.copy p r src ue) s = .next s) ∧
         (bitOf (c.field 0x28 1) 0 = true → s.heldAt a n = false → s.badByte a n ue = none →
           CompletesAtOnce (.copy p r src ue) s (if toDpa then s.writeDpa d (s.readDpa a n) else s.hostWrite d (s.readDpa a n)) p c
             stOk 0 n) ∧
         (bitOf (c.field 0x28 1) 0 = true → s.heldAt a n = false → ∀ x, s.badByte a n ue = some x →
           (let u := s.uncorrectable x
            let bs := s.readDpa a (x - a)
            CompletesAtOnce (.copy p r src ue) s ((if toDpa then u.writeDpa d bs else u.hostWrite d bs).copyOpen toDpa
              (d + (x - a)) (n - (x - a))) p c stUnrecoverable 0 (x - a))) ∧
         (bitOf (c.field 0x28 1) 0 = false → src = .failed → CompletesAtOnce (.copy p r src ue) s s p c stMalformed 0x10) ∧
         (bitOf (c.field 0x28 1) 0 = false → ∀ bs, src = .bytes bs → bs.length = n →
           CompletesAtOnce (.copy p r src ue) s (if toDpa then s.writeDpa d bs else s.hostWrite d bs) p c stOk 0 n))))

/-- Moderation timers and vectors that are unmasked. When the moderation timer of a ring passes with entries pending,
its count is cleared and its vector signalled, once MOD_COUNT and MOD_TIME are set. A vector that the host unmasks
sends the message its pending bit holds, and clears the bit. (R591, R592, R595) -/
def Obligations.ModerationTimerAndUnmask : Prop :=
  ∀ s : State, s.serving →
    (∀ p (n : RingNo), (s.ring p n).pending = 0 → exec (.modTimerExpiry p n) s = .next s) ∧
    (∀ p (n : RingNo), s.regBits .ringCfg (ringIx p n) 16 10 = 0 → exec (.modTimerExpiry p n) s = .next s) ∧
    (∀ p (n : RingNo), 4 ≤ n.val → 0 < (s.ring p n).pending → s.regBits .ringCfg (ringIx p n) 8 8 ≠ 0 →
      s.regBits .ringCfg (ringIx p n) 16 10 ≠ 0 → s.msixOn p = true → exec (.modTimerExpiry p n) s = .next
        (((s.advanceTo ((s.ring p n).oldest + 1000 * s.regBits .ringCfg (ringIx p n) 16 10)).modRing p n (fun r =>
          { r with pending := 0 })).signalPart p (n.val - 4))) ∧
    (∀ f v, v < vectorsOf f → (s.host.space.get (funcIx f)).msixEnable = true → (s.host.space.get (funcIx f)).funcMask = false →
      (dget s.host.msix (msixKey f v) {}).pending = true → ∃ t, exec (.msixUnmask f v) s = .next t ∧
        t = { s with host := { s.host with msix := t.host.msix, msgs := t.host.msgs } } ∧
        t.host.msgs = ((dget s.host.msix (msixKey f v) {}).addr, (dget s.host.msix (msixKey f v) {}).data) :: s.host.msgs ∧
        dget t.host.msix (msixKey f v) {} = { dget s.host.msix (msixKey f v) {} with masked := false, pending := false } ∧
        ∀ k, k ≠ msixKey f v → dget t.host.msix k {} = dget s.host.msix k {}) ∧
    (∀ f v, v < vectorsOf f → (dget s.host.msix (msixKey f v) {}).pending = false →
      exec (.msixUnmask f v) s = .next { s with host := { s.host with
        msix := dset s.host.msix (msixKey f v) { dget s.host.msix (msixKey f v) {} with masked := false } } })

/-- ADMIT_REQUEST and APPEND_TOKENS. ADMIT_REQUEST and APPEND_TOKENS that pass their checks write COMMIT records of
their input tokens, three carriers and a head, and are accepted when the head is durable; until then the live
requests are as they were. A quiescing partition, a request ID in use, a TOK ring that is not ON, a model not served
or a missing witness completes REJECT_STATE; an epoch that is not the request's REJECT_EPOCH; a request too long, one
too many or one for which HBM has no room REJECT_NO_CAPACITY; a field out of range REJECT_MALFORMED with its offset.
(R247, R604, R606, R607, R608, R615, R616, R617, R731, R732, R750) -/
def Obligations.AdmitAndAppendAreJournalled : Prop :=
  ∀ (s : State) (p : Part) (r : CmdRing) (c : Cmd) (bs : List Byte), s.serving →
    ((s.part p).nextCmd r opAdmit = some c →
      (let id := c.field 0x10 4
       let model := c.field 0x34 2
       let ts := tokenWords bs
       ((s.part p).fn.st = .quiescing → CompletesAtOnce (.admitRequest p r (.bytes bs)) s s p c stState) ∧
       ((s.part p).fn.st ≠ .quiescing → (∀ off, admitFault c = some off →
         CompletesAtOnce (.admitRequest p r (.bytes bs)) s s p c stMalformed off)) ∧
       ((s.part p).fn.st ≠ .quiescing → admitFault c = none → bs.length = 4 * c.field 0x14 4 → s.tokensOk p model ts = true →
         ((s.idTaken p c id = true ∨ s.tokOn p (bitOf (c.field 0x32 2) 0) = false ∨ s.modelOk p model = false ∨
             (s.swapClass p = false ∧ s.modelActive p 0 = false) ∨ c.unwitnessed = true) →
           CompletesAtOnce (.admitRequest p r (.bytes bs)) s s p c stState) ∧
         (s.idTaken p c id = false → s.tokOn p (bitOf (c.field 0x32 2) 0) = true → s.modelOk p model = true →
           (s.swapClass p = true ∨ s.modelActive p 0 = true) → c.unwitnessed = false →
           ((s.requestsFull p = true ∨ s.roomForRequest p model = false) →
             CompletesAtOnce (.admitRequest p r (.bytes bs)) s s p c stNoCapacity) ∧
           (s.requestsFull p = false → s.roomForRequest p model = true → ∃ t, exec (.admitRequest p r (.bytes bs)) s = .next t ∧
             Journalled s t p c id 0 (c.field 0x14 4) (restoreBytes ((admitted c ts .waiting).restore id)) (commitBodies 0 ts)))))) ∧
    (∀ q, (s.part p).nextCmd r opAppend = some c → (s.part p).fn.st ≠ .quiescing → appendFault c = none → 0 < c.field 0x18 4 →
      bs.length = 4 * c.field 0x18 4 → s.req? p (c.field 0x10 4) = some q → s.tokensOk p q.model (tokenWords bs) = true →
      ((q.st ≠ .idle ∨ q.turn.isSome = true ∨ q.closing.isSome = true) →
        CompletesAtOnce (.appendTokens p r (.bytes bs)) s s p c stState) ∧
      (q.st = .idle → q.closing = none → q.turn = none → c.unwitnessed = false →
        (q.epoch.toNat ≠ c.field 0x14 2 → CompletesAtOnce (.appendTokens p r (.bytes bs)) s s p c stEpoch) ∧
        (q.epoch.toNat = c.field 0x14 2 → 1048576 < q.committed + c.field 0x18 4 + c.field 0x1C 4 →
          CompletesAtOnce (.appendTokens p r (.bytes bs)) s s p c stNoCapacity) ∧
        (q.epoch.toNat = c.field 0x14 2 → q.committed + c.field 0x18 4 + c.field 0x1C 4 ≤ 1048576 →
          ∃ t, exec (.appendTokens p r (.bytes bs)) s = .next t ∧
            Journalled s t p c (c.field 0x10 4) q.committed (c.field 0x18 4)
              (restoreBytes ((q.append c (tokenWords bs) .waiting).restore (c.field 0x10 4))) (commitBodies q.committed (tokenWords bs)))))

/-- CANCEL_REQUEST and SET_DEADLINE. CANCEL_REQUEST and SET_DEADLINE of a live request in its epoch write their carriers
and head, and act once the head is durable; an unknown request completes REJECT_STATE and another epoch
REJECT_EPOCH. SET_DEADLINE of an IDLE request completes REJECT_STATE. (R618, R620, R621, R731, R732) -/
def Obligations.CancelAndDeadlineAreJournalled : Prop :=
  ∀ (s : State) (p : Part) (r : CmdRing) (c : Cmd), s.serving →
    ((s.part p).nextCmd r opCancel = some c →
      (s.req? p (c.field 0x10 4) = none → CompletesAtOnce (.cancelRequest p r) s s p c stState) ∧
      ∀ q, s.req? p (c.field 0x10 4) = some q → q.closing = none → c.unwitnessed = false →
        (q.epoch.toNat ≠ c.field 0x14 2 → CompletesAtOnce (.cancelRequest p r) s s p c stEpoch) ∧
        (q.epoch.toNat = c.field 0x14 2 → ∃ t, exec (.cancelRequest p r) s = .next t ∧
          Journalled s t p c (c.field 0x10 4) 0 0 (c.bytes 0x10 48) [])) ∧
    ((s.part p).nextCmd r opSetDeadline = some c →
      (s.req? p (c.field 0x10 4) = none → CompletesAtOnce (.setDeadline p r) s s p c stState) ∧
      ∀ q, s.req? p (c.field 0x10 4) = some q →
        (q.st = .idle → CompletesAtOnce (.setDeadline p r) s s p c stState) ∧
        (q.st ≠ .idle → q.closing = none → c.unwitnessed = false →
          (q.epoch.toNat ≠ c.field 0x14 2 → CompletesAtOnce (.setDeadline p r) s s p c stEpoch) ∧
          (q.epoch.toNat = c.field 0x14 2 → ∃ t, exec (.setDeadline p r) s = .next t ∧
            Journalled s t p c (c.field 0x10 4) 0 0 (restoreBytes ((q.setDeadline c).restore (c.field 0x10 4))) [])))

/-- RESTORE_REQUEST, MIGRATE_REQUEST and the handover. RESTORE_REQUEST without a claim writes the history as COMMIT
records in the epoch after the one named, and its carriers and head; with a claim at another node it asks that node
first and waits; an ID in use completes REJECT_STATE, epoch 0xFFFF REJECT_EPOCH, too many live requests or no room in
HBM REJECT_NO_CAPACITY. MIGRATE_REQUEST asks the source and waits; a node of its own is REJECT_MALFORMED, a fenced one
FAILED_NODE_LOST. The handover brings the history, which is written as of a restore; a refusal or a loss completes the
command. (R247, R753, R757, R761, R762, R763, R765, R766, R767, R768, R731) -/
def Obligations.RestoreAndMigrateResumeRequests : Prop :=
  ∀ (s : State) (p : Part) (r : CmdRing) (c : Cmd), s.serving →
    (∀ bs, (s.part p).nextCmd r opRestore = some c → restoreFault c = none → bs.length = 4 * c.field 0x18 4 →
      s.tokensOk p (c.field 0x36 2) (tokenWords bs) = true →
      (s.idTaken p c (c.field 0x10 4) = true → CompletesAtOnce (.restoreRequest p r (.bytes bs)) s s p c stState) ∧
      (s.idTaken p c (c.field 0x10 4) = false → s.tokOn p (bitOf (c.field 0x16 2) 0) = true → s.modelOk p (c.field 0x36 2) = true →
        c.unwitnessed = false →
        (c.field 0x14 2 = 0xFFFF → CompletesAtOnce (.restoreRequest p r (.bytes bs)) s s p c stEpoch) ∧
        (c.field 0x14 2 ≠ 0xFFFF → (s.requestsFull p = true ∨ s.roomForRequest p (c.field 0x36 2) = false) →
          CompletesAtOnce (.restoreRequest p r (.bytes bs)) s s p c stNoCapacity) ∧
        (c.field 0x14 2 ≠ 0xFFFF → s.requestsFull p = false → s.roomForRequest p (c.field 0x36 2) = true →
          (bitOf (c.field 0x40 2) 15 = false →
            ∃ t, exec (.restoreRequest p r (.bytes bs)) s = .next t ∧
              Journalled s t p c (c.field 0x10 4) 0 (c.field 0x18 4)
                (restoreBytes { restoreOf c with count := (tokenWords bs).length }) (commitBodies 0 (tokenWords bs))) ∧
          (let node : Node := Fin.ofNat 512 (c.field 0x40 2 % 512)
           bitOf (c.field 0x40 2) 15 = true → node ≠ s.self →
            (s.fabric.fenced.contains node = true → CompletesAtOnce (.restoreRequest p r (.bytes bs)) s s p c stNodeLost) ∧
            (s.fabric.fenced.contains node = false → ∃ t k, exec (.restoreRequest p r (.bytes bs)) s = .next t ∧
              (t.part p).claimsOut = (s.part p).claimsOut ++ [(c.order, k)] ∧ t.unacked k = true ∧ StageIs t p c.order .started ∧
              (t.part p).requests = (s.part p).requests ∧ t.mem = s.mem ∧ t.host = s.host ∧ t.sec = s.sec))))) ∧
    ((s.part p).nextCmd r opMigrate = some c →
      (let node : Node := Fin.ofNat 512 (c.field 0x16 2 % 512)
       (node = s.self → CompletesAtOnce (.migrateRequest p r) s s p c stMalformed 0x16) ∧
       (node ≠ s.self → 1 < c.field 0x1C 1 → CompletesAtOnce (.migrateRequest p r) s s p c stMalformed 0x1C) ∧
       (node ≠ s.self → c.field 0x1C 1 ≤ 1 → s.idTaken p c (c.field 0x18 4) = false → s.tokOn p (bitOf (c.field 0x1D 1) 0) = true →
         c.unwitnessed = false → (s.requestsFull p = true ∨ s.roomForRequest p 0 = false) →
         CompletesAtOnce (.migrateRequest p r) s s p c stNoCapacity) ∧
       (node ≠ s.self → c.field 0x1C 1 ≤ 1 → s.idTaken p c (c.field 0x18 4) = false → s.tokOn p (bitOf (c.field 0x1D 1) 0) = true →
         c.unwitnessed = false → s.requestsFull p = false → s.roomForRequest p 0 = true →
         (s.fabric.fenced.contains node = true → CompletesAtOnce (.migrateRequest p r) s s p c stNodeLost) ∧
         (s.fabric.fenced.contains node = false → ∃ t k, exec (.migrateRequest p r) s = .next t ∧
           (t.part p).migrations = (s.part p).migrations ++ [(c.order, k)] ∧ t.unacked k = true ∧ StageIs t p c.order .started ∧
           (t.part p).requests = (s.part p).requests ∧ t.mem = s.mem ∧ t.host = s.host ∧ t.sec = s.sec)))) ∧
    (∀ o, s.cmd? p o = none → ∀ h, exec (.migrateHandover p o h) s = .next s) ∧
    (∀ k, s.cmd? p c.order = some c → (c.order, k) ∈ (s.part p).migrations →
      (let u : State := s.modPart p (fun x => { x with migrations := x.migrations.filter (fun m => decide (m.1 ≠ c.order)) })
       (∃ t, exec (.migrateHandover p c.order .lost) s = .next t ∧ Completed u t p c stNodeLost 0 0) ∧
       (∃ t, exec (.migrateHandover p c.order (.refused stEpoch)) s = .next t ∧ Completed u t p c stEpoch 0 0) ∧
       (∀ st, st ≠ stEpoch → ∃ t, exec (.migrateHandover p c.order (.refused st)) s = .next t ∧ Completed u t p c stState 0 0) ∧
       ∀ x ts layers, ∃ t, exec (.migrateHandover p c.order (.given x ts layers)) s = .next t ∧
         Journalled u t p c (c.field 0x18 4) 0 ts.length
           (restoreBytes { x with request := c.field 0x18 4, epoch := BitVec.ofNat 16 (c.field 0x14 2 + 1),
                                  tokRing := bitOf (c.field 0x1D 1) 0, count := ts.length }) (commitBodies 0 ts)))

/-- FREEZE_REQUEST and THAW_REQUEST. FREEZE_REQUEST of a live request writes its carriers and head; a field out of range
completes REJECT_MALFORMED with its offset, and a request that is not live, ends or freezes already REJECT_STATE. Once
its ice core is made a freeze to a host buffer that is too small completes REJECT_NO_CAPACITY with the 4 KiB pages
needed. THAW_REQUEST of a core with a fault in its header completes REJECT_MALFORMED with INFO 0xFFFF; one of another
model REJECT_STATE; one that cannot be read or whose digest is wrong FAILED_UNRECOVERABLE_DATA; one without room
REJECT_NO_CAPACITY. A core of the firn extent that passes its checks is discarded at once where that is asked; else
the history of the core is written as of a restore in the epoch after the core's. What Nelnus firmware keeps of a
request in a core is the model's choice (log entry 104). (R347, R350, R352, R353, R355, R356, R357, R358, R359, R731) -/
def Obligations.FreezeAndThawUseIceCores : Prop :=
  ∀ (s : State) (p : Part) (r : CmdRing) (c : Cmd), s.serving →
    (∀ bits, (s.part p).nextCmd r opFreeze = some c →
      (s.req? p (c.field 0x10 4) = none →
        (∀ off, freezeFault c bits 0 = some off → CompletesAtOnce (.freezeRequest p r bits) s s p c stMalformed off) ∧
        (freezeFault c bits 0 = none → CompletesAtOnce (.freezeRequest p r bits) s s p c stState)) ∧
      (∀ q, s.req? p (c.field 0x10 4) = some q →
        (let layers := ((s.infoOf p q.model).getD default).attnLayers
         (∀ off, freezeFault c bits layers = some off → CompletesAtOnce (.freezeRequest p r bits) s s p c stMalformed off) ∧
         (freezeFault c bits layers = none →
          ((q.freezing.isSome = true ∨ q.closing.isSome = true ∨ c.unwitnessed = true) →
            CompletesAtOnce (.freezeRequest p r bits) s s p c stState) ∧
          (q.freezing = none → q.closing = none → c.unwitnessed = false → ∃ t, exec (.freezeRequest p r bits) s = .next t ∧
            Journalled s t p c (c.field 0x10 4) 0 0 (c.bytes 0x10 48) []))))) ∧
    (∀ id q (f : Freezing) pl, s.req? p id = some q → s.kvUnreadable p q = none → f.firn = false → f.cmd = c.order →
      s.cmd? p c.order = some c → f.room < (s.iceCoreOf p id q f).length →
      ∃ u, u = s.modReq p id (fun x => { x with freezing := none }) ∧
        Completed u (s.freezeOne p id q f pl) p c stNoCapacity (((s.iceCoreOf p id q f).length + 4095) / 4096) 0) ∧
    (∀ ue, (s.part p).nextCmd r opThaw = some c → c.field 0x15 1 = 0 → c.field 0x14 1 ≤ 1 →
      CompletesAtOnce (.thawRequest p r .failed ue) s s p c stUnrecoverable) ∧
    (∀ core ue, (s.part p).nextCmd r opThaw = some c → c.field 0x14 1 = 2 → c.field 0x15 1 = 1 →
      (let a := c.field 0x18 8
       let n := c.field 0x20 8
       let h := s.readDpa a (min n 256)
       let total := fieldAt h 0x18 8
       s.inFirnExtent p a n = true →
        (∀ d, s.badByte a (min n 256) ue = some d →
          CompletesAtOnce (.thawRequest p r core ue) s (s.noteUnreadable d) p c stUnrecoverable) ∧
        (s.badByte a (min n 256) ue = none → iceHeaderOk h n = true → iceMatches (s.iceModelNow p) h = true →
          s.idTaken p c (c.field 0x10 4) = false → s.badByte a total ue = none → iceDigestOk (s.readDpa a total) = true →
          CompletesAtOnce (.thawRequest p r core ue) s (s.modPart p (fun x => { x with
            kv := { x.kv with ice := x.kv.ice.filter (fun i => decide (i.1 ≠ a)) } })) p c stOk))) ∧
    (∀ (d : HostData) ue (h core : List Byte), (s.part p).nextCmd r opThaw = some c → c.field 0x14 1 ≤ 1 →
      (let a := c.field 0x18 8
       let n := c.field 0x20 8
       let total := fieldAt h 0x18 8
       ((c.field 0x15 1 = 0 ∧ d = .bytes h ∧ core = h.take total) ∨
        (c.field 0x15 1 = 1 ∧ s.inFirnExtent p a n = true ∧ h = s.readDpa a (min n 256) ∧ core = s.readDpa a total ∧
          s.badByte a (min n 256) ue = none ∧ s.badByte a total ue = none)) →
        (iceHeaderOk h n = false → CompletesAtOnce (.thawRequest p r d ue) s s p c stMalformed 0xFFFF) ∧
        (iceHeaderOk h n = true →
          (iceMatches (s.iceModelNow p) h = false → CompletesAtOnce (.thawRequest p r d ue) s s p c stState) ∧
          (iceMatches (s.iceModelNow p) h = true → s.idTaken p c (c.field 0x10 4) = false → c.unwitnessed = false →
            (iceDigestOk core = false → CompletesAtOnce (.thawRequest p r d ue) s s p c stUnrecoverable) ∧
            (iceDigestOk core = true →
              (readIce (s.mainInfo p) core = none → CompletesAtOnce (.thawRequest p r d ue) s s p c stUnrecoverable) ∧
              (∀ x, readIce (s.mainInfo p) core = some x →
                ((s.requestsFull p = true ∨ s.hbmRoom p (thawBytes (s.mainInfo p) x.layers) = false) →
                  CompletesAtOnce (.thawRequest p r d ue) s s p c stNoCapacity) ∧
                (s.requestsFull p = false → s.hbmRoom p (thawBytes (s.mainInfo p) x.layers) = true →
                  ∃ t, exec (.thawRequest p r d ue) s = .next t ∧
                    Journalled s t p c (c.field 0x10 4) 0 x.history.length
                      (restoreBytes { x.restore with request := c.field 0x10 4, epoch := BitVec.ofNat 16 (fieldAt core 0xC 2 + 1),
                                                     count := x.history.length, maxNew := 0 }) (commitBodies 0 x.history))))))))

/-- Flushing reads, durable records and the witness timers. A record without an effect leaves the journal when it is
durable; the head of an ADMIT_REQUEST makes its request live over the prompt, in epoch 0, and the command goes on; a
CLOSE ends its request. A flushing read makes the entries it covers local-durable. Records whose packet was refused
are sent again after 1 ms, and a lag past LAG_US raises WITNESS_LAG once. (R606, R732, R733, R737, R739, R746, R747) -/
def Obligations.DurableRecordsTakeEffect : Prop :=
  ∀ (s : State) (p : Part), s.serving →
    (firstDurable (s.solo p) (s.part p).jnl.recs [] [] = none → exec (.recordDurable p) s = .next s) ∧
    (∀ x rest, firstDurable (s.solo p) (s.part p).jnl.recs [] [] = some (x, rest) →
      (x.effect = .nothing → ∃ t, exec (.recordDurable p) s = .next t ∧ (t.part p).requests = (s.part p).requests ∧
        t.recordsOf p = rest.map (fun r => (r.jrec.body, r.jrec.request, r.effect)) ∧ t.mem = s.mem ∧ t.sec = s.sec ∧
        (∀ q, q ≠ p → t.part q = s.part q)) ∧
      (∀ c : Cmd, x.effect = .accept c.order → s.cmd? p c.order = some c → c.opcode.toNat = opAdmit →
        ∃ t y, exec (.recordDurable p) s = .next t ∧ StageIs t p c.order .running ∧
          t.req? p (c.field 0x10 4) = some y ∧ y.tokens = dget (s.part p).cmdTokens c.order [] ∧ y.committed = y.tokens.length ∧
          y.epoch = 0 ∧ y.turn = some c.order ∧ y.maxNew = c.field 0x28 4 ∧ y.model = c.field 0x34 2 ∧
          (∀ i, i ≠ c.field 0x10 4 → t.req? p i = s.req? p i) ∧ t.mem = s.mem ∧ t.sec = s.sec ∧
          t.recordsOf p = rest.map (fun r => (r.jrec.body, r.jrec.request, r.effect))) ∧
      (∀ id q, x.effect = .close id → s.req? p id = some q → q.closing.isSome = true → (s.part p).leaving = [] →
        ∃ t, exec (.recordDurable p) s = .next t ∧ (t.part p).requests = derase (s.part p).requests id ∧ t.mem = s.mem ∧ t.sec = s.sec)) ∧
    (s.oldestFlush p = none → exec (.flushingReadDone p) s = .next s) ∧
    (s.oldestFlush p = some false → ∃ t, exec (.flushingReadDone p) s = .next t ∧
      (t.part p).jnl.recs.map PendRec.local_ = (s.part p).jnl.recs.map (fun r =>
        r.local_ || (match r.index with | some i => decide (i < (s.part p).jnl.flushTo) | none => false)) ∧
      t.recordsOf p = s.recordsOf p ∧ (t.part p).requests = (s.part p).requests ∧ t.mem = s.mem ∧ t.sec = s.sec) ∧
    ((∀ r ∈ (s.part p).jnl.recs, r.refusedAt = none) → exec (.witnessResend p) s = .next s) ∧
    ((∃ r ∈ (s.part p).jnl.recs, r.refusedAt.isSome = true) → ∃ t, exec (.witnessResend p) s = .next t ∧
      (∀ r ∈ (t.part p).jnl.recs, r.refusedAt = none) ∧ t.recordsOf p = s.recordsOf p ∧
      (t.part p).requests = (s.part p).requests ∧ t.mem = s.mem ∧ t.sec = s.sec ∧ s.now ≤ t.now) ∧
    ((s.part p).jnl.oldestSent = none → exec (.witnessLag p) s = .next s) ∧
    (∀ x, (s.part p).jnl.oldestSent = some x → (s.part p).jnl.lagSaid = false → exec (.witnessLag p) s = .next
      (((s.advanceTo (x + s.lagUs p * 1000 + 1)).modJnl p (fun j => { j with lagSaid := true })).raiseEvent p evWitnessLag
        (s.witnessOf p).1.val)) ∧
    (∀ x, (s.part p).jnl.oldestSent = some x → (s.part p).jnl.lagSaid = true → exec (.witnessLag p) s = .next s)

/-- Writes of JNL_WITNESS. A witness in the partition's own node is not taken. A write of JNL_WITNESS with VALID reseeds
every live request in the order of their first ACCEPT, or finds the witness lost where its node is fenced; under
SOLO only the register changes. A write with VALID clear ends the mirroring and drops what was meant for the witness
alone. (R743, R748, R749, R751, R752) -/
def Obligations.WitnessWritesStartAndEndMirroring : Prop :=
  ∀ (s : State) (p : Part) (v : W32), s.serving →
    (v.toNat % 512 = s.self.val → exec (.jnlWitnessSet p v) s = .next s) ∧
    (v.toNat % 512 ≠ s.self.val → s.solo p = true →
      exec (.jnlWitnessSet p v) s = .next (s.setReg .jnlWitness p.val (v.toNat % 2 ^ 13 + 2 ^ 31))) ∧
    (v.toNat % 512 ≠ s.self.val → s.solo p = false → s.fabric.fenced.contains (Fin.ofNat 512 (v.toNat % 512)) = true →
      ∃ t, exec (.jnlWitnessSet p v) s = .next t ∧ (t.part p).jnl.witness = .lost ∧
        EventsAnd [.jnlWitness] ({ s with parts := s.parts.set p { s.part p with jnl := { (s.part p).jnl with witness := .lost } } }) t) ∧
    (v.toNat % 512 ≠ s.self.val → s.solo p = false → s.fabric.fenced.contains (Fin.ofNat 512 (v.toNat % 512)) = false →
      ∃ t, exec (.jnlWitnessSet p v) s = .next t ∧ t.reg .jnlWitness p.val = v.toNat % 2 ^ 13 + 2 ^ 31 ∧
        (t.part p).jnl.witness = (if (s.part p).requests = [] then .inSync else .reseeding) ∧
        (t.part p).jnl.reseedLeft = (s.part p).byAccept.map Prod.fst ∧ (t.part p).requests = (s.part p).requests ∧
        (∀ q, q ≠ p → t.part q = s.part q) ∧ t.mem = s.mem ∧ t.sec = s.sec) ∧
    (s.solo p = false → exec (.jnlWitnessClear p v) s = .next ((s.setReg .jnlWitness p.val (v.toNat % 2 ^ 13)).modPart p (fun x =>
      { x with jnl := { x.jnl with witness := .none, reseedLeft := [], recs := x.jnl.recs.filter (fun r => !r.witnessOnly) } })))

/-- LOAD_WEIGHTS, PULL_WEIGHTS and BROADCAST_WEIGHTS. A load command names a slot it opens, which must be EMPTY, or a
slot that is not; anything else completes REJECT_STATE, and a field out of range REJECT_MALFORMED with its offset.
Without OPEN the tag of the slot's head must match, and the load starts with the chunks named that are not verified
yet; with none left it completes OK, INFO counting them as skipped. With OPEN the head is checked, with the status
of the first check that fails, and a slot without room completes REJECT_NO_CAPACITY; with room the slot opens and the
load starts in it. No chunk of a broadcast is in flight where a load completes at once. (R688, R693, R694, R695, R697,
R684, R685) -/
def Obligations.LoadCommandsOpenSlotsAndStart : Prop :=
  ∀ (s : State) (p : Part) (r : CmdRing) (c : Cmd) (i : Instr) (path : LoadPath) (h : HostData) (pl : Placement), s.serving →
    ((i = .loadWeights p r h pl ∧ (s.part p).nextCmd r opLoad = some c ∧ path = .host (BitVec.ofNat 64 (c.field 0x20 8))) ∨
     (i = .pullWeights p r h pl ∧ (s.part p).nextCmd r opPull = some c ∧
       s.fabric.fenced.contains (Fin.ofNat 512 (c.field 0x12 2 % 512)) = false ∧
       path = .pull (Fin.ofNat 512 (c.field 0x12 2 % 512)) (Fin.ofNat 16 (c.field 0x36 1 % 16))) ∨
     (∃ b, i = .broadcastWeights p r h (.bytes b) pl ∧ (s.part p).nextCmd r opBroadcast = some c ∧
       (∀ x ∈ s.receiversOf p c, s.fabric.fenced.contains x.1 = false) ∧ path = .broadcast (BitVec.ofNat 64 (c.field 0x20 8)))) →
    (let slot := c.field 0x10 1
     let x := (s.part p).slot slot
     let all := decide (c.opcode.toNat = opBroadcast)
     let begins (u : State) (hd : Head) : Prop :=
       (let todo := if all then wantedChunks hd c else (wantedChunks hd c).filter (fun k => !((u.part p).slot slot).verified.contains k)
        (todo ≠ [] → ∃ t l, exec i s = .next t ∧ StageIs t p c.order .running ∧ (t.part p).loads = (s.part p).loads ++ [l] ∧
          l.cmd = c.order ∧ l.slot = slot ∧ l.path = path ∧ l.todo = todo ∧ l.written = 0 ∧
          l.skipped = (wantedChunks hd c).length - todo.length ∧ (t.part p).slots = (u.part p).slots ∧
          t = u.modPart p (fun y => { y with cmds := (t.part p).cmds, loads := (t.part p).loads })) ∧
        (todo = [] → (s.part p).swap = none → s.cmd? p c.order = some c →
          (∀ f ∈ s.fabric.colls.map Coll.plan ++ s.fabric.waiting, f.weights = none) → CompletesAtOnce i s
          (u.modPart p (fun y => { y with loads := y.loads.filter (fun m => decide (m.cmd ≠ c.order)) })) p c stOk
          (wantedChunks hd c).length 0))
     (∀ off, loadFault c = some off → CompletesAtOnce i s s p c stMalformed off) ∧
     (loadFault c = none → (bitOf (c.field 0x11 1) 0 = true → x.st ≠ .empty) → (bitOf (c.field 0x11 1) 0 = false → x.st = .empty) →
       CompletesAtOnce i s s p c stState) ∧
     (loadFault c = none → bitOf (c.field 0x11 1) 0 = false → x.st ≠ .empty → (slot < 16 ∨ s.swapClass p = true) → ∀ hd, x.head = some hd →
       (fieldAt hd.root 0 8 ≠ c.field 0x38 8 → CompletesAtOnce i s s p c stState) ∧
       (fieldAt hd.root 0 8 = c.field 0x38 8 → hd.chunks < c.field 0x18 4 + c.field 0x1C 4 → CompletesAtOnce i s s p c stMalformed 0x1C) ∧
       (fieldAt hd.root 0 8 = c.field 0x38 8 → c.field 0x18 4 + c.field 0x1C 4 ≤ hd.chunks → begins s hd)) ∧
     (∀ bs, loadFault c = none → bitOf (c.field 0x11 1) 0 = true → x.st = .empty → (slot < 16 ∨ s.swapClass p = true) → h = .bytes bs →
       0 < bs.length → (bs.length = c.field 0x30 4 ∨ c.field 0x30 4 = 0) →
       (∀ st info, s.checkHead slot (c.field 0x14 4) (c.field 0x38 8) bs = .error (st, info) → CompletesAtOnce i s s p c st info) ∧
       (∀ hd, s.checkHead slot (c.field 0x14 4) (c.field 0x38 8) bs = .ok hd → c.field 0x18 4 + c.field 0x1C 4 ≤ hd.chunks →
         (s.openSlot p slot (c.field 0x14 4) hd pl = none → CompletesAtOnce i s s p c stNoCapacity) ∧
         (∀ u, s.openSlot p slot (c.field 0x14 4) hd pl = some u → begins u hd))))

/-- STAGE_SHADOW, TRAPEZE_SWITCH, SWAP_MODEL and EVICT_MODEL. STAGE_SHADOW opens the shadow of an ACTIVE main slot with
a checked head and completes OK with RESULT its base. TRAPEZE_SWITCH is taken up when the shadow is COMPLETE with
the tag named and no switch runs, and then waits for a step boundary: in an expert group, once every other member has
been asked, for the group step that it names. SWAP_MODEL of the active variant completes at once, and of another,
from its resting copy, a neighbour or the host, takes its place where its image fits; EVICT_MODEL frees a slot that
nothing uses. What does not fit the state completes REJECT_STATE. (R705, R706, R708, R709, R714, R715, R719, R720,
R721) -/
def Obligations.StageSwitchSwapAndEvict : Prop :=
  ∀ (s : State) (p : Part) (r : CmdRing) (c : Cmd), s.serving →
    (∀ bs pl, (s.part p).nextCmd r opStage = some c → c.field 0x10 1 ≤ 1 → c.field 0x18 8 % 4096 = 0 → bs.length = c.field 0x14 4 → bs ≠ [] →
      (let main := 2 * c.field 0x10 1
       let shard := ((s.part p).slot main).shard
       ((s.swapClass p = true ∨ ((s.part p).slot main).st ≠ .active ∨ ((s.part p).slot (main + 1)).st ≠ .empty) →
         CompletesAtOnce (.stageShadow p r (.bytes bs) pl) s s p c stState) ∧
       (s.swapClass p = false → ((s.part p).slot main).st = .active → ((s.part p).slot (main + 1)).st = .empty →
         (∀ st info, s.checkHead (main + 1) shard (c.field 0x20 8) bs = .error (st, info) →
           CompletesAtOnce (.stageShadow p r (.bytes bs) pl) s s p c st info) ∧
         (∀ hd, s.checkHead (main + 1) shard (c.field 0x20 8) bs = .ok hd →
           (s.openSlot p (main + 1) shard hd pl = none → CompletesAtOnce (.stageShadow p r (.bytes bs) pl) s s p c stNoCapacity) ∧
           (∀ u, s.openSlot p (main + 1) shard hd pl = some u → CompletesAtOnce (.stageShadow p r (.bytes bs) pl) s u p c stOk 0
             ((u.part p).slot (main + 1)).base))))) ∧
    ((s.part p).nextCmd r opTrapeze = some c → c.field 0x10 1 ≤ 1 →
      (let main := 2 * c.field 0x10 1
       (s.switchOk p main (c.field 0x18 8) = false → CompletesAtOnce (.trapezeSwitch p r) s s p c stState) ∧
       (s.switchOk p main (c.field 0x18 8) = true → main = 0 → (s.part p).exp.members ≠ [] →
         ((∃ n ∈ (s.part p).exp.members, s.fabric.fenced.contains n = true) → CompletesAtOnce (.trapezeSwitch p r) s s p c stState) ∧
         ((∀ n ∈ (s.part p).exp.members, s.fabric.fenced.contains n = false) →
           ∃ t keys, exec (.trapezeSwitch p r) s = .next t ∧ StageIs t p c.order .running ∧
             (t.part p).switch = some { cmd := some c.order, target := main, keepOld := bitOf (c.field 0x11 1) 0, atStep := some (s.stepAhead p), keys := keys } ∧
             keys.length = ((s.part p).exp.members.filter (fun n => decide (n ≠ s.self))).length ∧ (t.part p).slots = (s.part p).slots ∧ t.mem = s.mem)) ∧
       (s.switchOk p main (c.field 0x18 8) = true → (main ≠ 0 ∨ (s.part p).exp.members = []) →
         ∃ t, exec (.trapezeSwitch p r) s = .next t ∧ StageIs t p c.order .running ∧
           t = s.modPart p (fun x => { x with cmds := (t.part p).cmds, switch := some { cmd := some c.order, target := main, keepOld := bitOf (c.field 0x11 1) 0, atStep := none, keys := [] } })))) ∧
    (∀ pl, (s.part p).nextCmd r opSwap = some c → 1 ≤ c.field 0x10 1 → c.field 0x10 1 ≤ 63 → c.field 0x11 1 ≤ 2 →
      (c.field 0x11 1 ≠ 1 → c.field 0x12 2 = 0 ∧ c.field 0x14 1 = 0) → (c.field 0x11 1 ≠ 2 → c.field 0x18 8 = 0) → c.field 0x18 8 % 4096 = 0 →
      (let v := c.field 0x10 1
       let source := c.field 0x11 1
       let x := s.part p
       let rounded (n : Nat) : Nat := (n + 2097151) / 2097152 * 2097152
       let known := (x.slot (16 + v)).st ≠ .empty ∧ (source = 0 → (x.slot (16 + v)).st = .complete)
       let fits (hd : Head) : Prop := x.slotBytes.1 - rounded (((x.slot 0).head.map Head.localBytes).getD 0) + rounded hd.localBytes +
         (s.kvBytes p).1 + s.hbmLost p ≤ s.hostRegion p - s.hbmBase p ∧ s.hbmPlace p pl.base 2097152 hd.localBytes = true ∧ modelBounds pl.info = true
       ((s.swapClass p = false ∨ ¬known ∨ x.swap.isSome = true) → CompletesAtOnce (.swapModel p r pl) s s p c stState) ∧
       (s.swapClass p = true → known → x.swap = none → x.activeVariant = v → CompletesAtOnce (.swapModel p r pl) s s p c stOk) ∧
       (∀ hd, s.swapClass p = true → known → x.swap = none → x.activeVariant ≠ v → (x.slot (16 + v)).head = some hd →
         (¬fits hd → CompletesAtOnce (.swapModel p r pl) s s p c stNoCapacity) ∧
         (fits hd → ∃ t, exec (.swapModel p r pl) s = .next t ∧ StageIs t p c.order .running ∧
           t = s.modPart p (fun x => { x with cmds := (t.part p).cmds, swap := some {
             cmd := c.order, variant := v, place := pl, phase := .boundary,
             path := if source = 0 then .resting (16 + v) else if source = 1 then .pull (Fin.ofNat 512 (c.field 0x12 2 % 512)) (Fin.ofNat 16 (c.field 0x14 1 % 16))
               else .host (BitVec.ofNat 64 (c.field 0x18 8)) } }))))) ∧
    ((s.part p).nextCmd r opEvict = some c → isSlot (c.field 0x10 1) = true →
      (let n := c.field 0x10 1
       let variantUsed := 16 < n ∧ s.swapClass p = true ∧ ((s.part p).activeVariant = n - 16 ∨ ∃ e ∈ (s.part p).requests, e.2.model = n - 16)
       (((s.part p).slotBusy n = true ∨ ((s.part p).slot n).st = .draining ∨ (n = 0 ∧ (s.part p).requests ≠ []) ∨ variantUsed) →
         CompletesAtOnce (.evictModel p r) s s p c stState) ∧
       ((s.part p).slotBusy n = false → ((s.part p).slot n).st ≠ .draining → (n = 0 → (s.part p).requests = []) → ¬variantUsed →
         CompletesAtOnce (.evictModel p r) s
           (s.modPart p (fun x => { x.setSlot n {} with activeVariant := if n = 0 then 0 else x.activeVariant })) p c stOk)))

/-- Chunks arriving, repeated and released. A chunk of a host load that matches its digest is written in its live form
and counts as verified; a first mismatch is counted and read again, a second completes the load REJECT_SIGNATURE
with INFO the chunk and RESULT those written. A chunk of another package's broadcast finds no slot where none is open:
its member 0 is told so. A receiver of a broadcast of this package may ask for a chunk once more, and is sent it, or
say that it has no slot. An SM3 lane whose digest disagrees goes into its test. A DRAINING copy that nothing needs
becomes the shadow again with KEEP_OLD, or is freed. The messages of a broadcast are laid out by the model's own
numbers (log entry 112). (R687, R690, R691, R696, R698, R699, R712, R845, R847) -/
def Obligations.ChunksAreVerifiedAndCopiesReleased : Prop :=
  ∀ (s : State) (p : Part), s.serving →
    (∀ slot k bs og l hd b o, (s.part p).loads.find? (fun l => decide (l.slot = slot) && l.todo.contains k) = some l → l.self = true →
      (∃ a, l.path = .host a) → ((s.part p).slot slot).verified.contains k = false → ((s.part p).slot slot).head = some hd →
      ((s.part p).slot slot).place k = some (b, o, false) →
      (((s.part p).slot slot).matches_ k bs = true → (∀ f ∈ s.fabric.colls.map Coll.plan ++ s.fabric.waiting, f.weights = none) →
        ∃ t, exec (.chunkVerify p slot k (.bytes bs) og [] []) s = .next t ∧
        ((t.part p).slot slot).verified = k :: ((s.part p).slot slot).verified ∧
        t.mem = (s.writeDpa (b + o) (s.liveForm ((s.part p).slot slot) hd o bs)).mem ∧
        (∀ m ∈ (t.part p).loads, m.cmd = l.cmd → m.todo.contains k = false) ∧ (t.part p).requests = (s.part p).requests ∧ t.sec = s.sec) ∧
      (((s.part p).slot slot).matches_ k bs = false → l.retried.contains k = false →
        exec (.chunkVerify p slot k (.bytes bs) og [] []) s = .next ((s.count .wgtVerifyFail p.val 1).modPart p (fun x => { x with
          loads := x.loads.map (fun m => if m.cmd = l.cmd then { m with retried := k :: m.retried } else m) }))) ∧
      (∀ c : Cmd, ((s.part p).slot slot).matches_ k bs = false → l.retried.contains k = true → (s.part p).swap = none →
        l.cmd = c.order → s.cmd? p c.order = some c → ∃ t, exec (.chunkVerify p slot k (.bytes bs) og [] []) s = .next t ∧
          Completed ((s.count .wgtVerifyFail p.val 1).modPart p (fun x => { x with
            loads := x.loads.filter (fun m => decide (m.cmd ≠ c.order)) })) t p c stSignature k l.written)) ∧
    (∀ slot k d, (s.part p).loads = [] → ((s.part p).slot slot).head = none →
      (∀ o, exec (.chunkVerify p slot k d (some o) [] []) s = .next (s.askAgain p slot k o true)) ∧
      exec (.chunkVerify p slot k d none [] []) s = .next s ∧ ∀ a, s.repair.sm3Lanes.contains a = true → s.repair.retired (.sm3 a) = false → PartId.sm3 a ∉ s.repair.tests → s.repair.mapWait = none →
        exec (.chunkVerify p slot k d none [a] []) s = .next (({ s with repair := { s.repair with
          sm3Lanes := s.repair.sm3Lanes.erase a, tests := s.repair.tests ++ [.sm3 a] } } : State).count .sprTestsRun 0 1)) ∧
    (∀ order k node noSlot d, ∃ t, exec (.chunkResendRequest p order k node noSlot d) s = .next t ∧
      t = { s.modPart p (fun x => { x with loads := (t.part p).loads }) with fabric := t.fabric } ∧
      (noSlot = true → t.fabric = s.fabric) ∧
      (∀ l bs r, (s.part p).loads.find? (fun l => decide (l.cmd = order) && (match l.path with | .broadcast _ => true | _ => false)) = some l →
        l.receivers.find? (fun r => decide (r.1 = node)) = some r → noSlot = false → d = .bytes bs →
        l.retried.contains (k * 512 + node.val + 2 ^ 41) = false →
        t.fabric = (s.sendAcked tyMsg 3 node r.2.1 0 (Config.messageKind kindChunkData)
          (Config.messageBody ([r.2.2.1, k] ++ bs.map BitVec.toNat))).2.fabric) ∧
      (∀ l ∈ (s.part p).loads, l.cmd ≠ order → l ∈ (t.part p).loads) ∧
      (∀ l ∈ (s.part p).loads, ∀ a, l.cmd = order → l.path = .broadcast a →
        (noSlot = false → l.retried.contains (k * 512 + node.val + 2 ^ 41) = false →
          { l with retried := (k * 512 + node.val + 2 ^ 41) :: l.retried } ∈ (t.part p).loads) ∧
        (noSlot = true → { l with receivers := l.receivers.map (fun r =>
          if r.1 = node ∧ r.2.2.2.2 = 0 then (r.1, r.2.1, r.2.2.1, r.2.2.2.1, stState) else r) } ∈ (t.part p).loads))) ∧
    ((∀ e ∈ (s.part p).slots, e.2.st ≠ .draining) → exec (.drainingRelease p) s = .next s) ∧
    (∀ n y, (s.part p).slots.find? (fun e => decide (e.2.st = .draining) && s.drained p e.1) = some (n, y) →
      (∀ w, (s.part p).swap = some w → n ≠ 0 ∨ w.phase ≠ .draining) →
      ((s.part p).keepOld = true → n % 2 = 1 → exec (.drainingRelease p) s = .next
        (s.modPart p (fun x => { x.setSlot n { y with st := .complete } with keepOld := false }))) ∧
      ((s.part p).keepOld = false ∨ n % 2 = 0 → exec (.drainingRelease p) s = .next (s.modPart p (fun x => x.setSlot n {}))))

/-- SET_RECIPE, SET_SPEC_POLICY, SET_ATTN_PATTERN, SET_EXPERT_POLICY. Each command is checked field by field in the
order of its descriptor, and completes at once with the status and, for a field at fault, the offset that the check
names. Where every check passes SET_RECIPE, SET_SPEC_POLICY and SET_ATTN_PATTERN are kept for the next step boundary
and nothing else changes; SET_EXPERT_POLICY completes with the step at which it applies, after every other member of
the group has been asked. (R229, R230, R231, R339, R340, R341, R343, R416, R417, R418, R420, R422) -/
def Obligations.PoliciesAreJudgedThenAwaitTheBoundary : Prop :=
  ∀ (s : State) (p : Part) (r : CmdRing) (c : Cmd), s.serving →
    ((s.part p).nextCmd r opSetRecipe = some c →
      (∀ off, recipeFault c = some off → CompletesAtOnce (.setRecipe p r) s s p c stMalformed off) ∧
      (recipeFault c = none → (∃ g ∈ tagsNamed c, (s.recipeAfter p c g).wMax < (s.recipeAfter p c g).wMin) →
        CompletesAtOnce (.setRecipe p r) s s p c stState) ∧
      (recipeFault c = none → (∀ g ∈ tagsNamed c, (s.recipeAfter p c g).wMin ≤ (s.recipeAfter p c g).wMax) →
        ∃ t, exec (.setRecipe p r) s = .next t ∧ StageIs t p c.order .running ∧
          t = s.modPart p (fun x => { x with cmds := (t.part p).cmds, atBoundary := x.atBoundary ++ [c.order] }))) ∧
    ((s.part p).nextCmd r opSetSpec = some c →
      (∀ off, specFault c (s.mainInfo p).exitHeads = some off → CompletesAtOnce (.setSpecPolicy p r) s s p c stMalformed off) ∧
      (specFault c (s.mainInfo p).exitHeads = none →
        ((bitOf (c.field 0x14 1) 0 = true ∧ s.req? p (c.field 0x10 4) = none) ∨
          (bitOf (c.field 0x14 1) 2 = true ∧ (s.mainInfo p).hasBarker = false)) →
        CompletesAtOnce (.setSpecPolicy p r) s s p c stState) ∧
      (specFault c (s.mainInfo p).exitHeads = none →
        (bitOf (c.field 0x14 1) 0 = true → (s.req? p (c.field 0x10 4)).isSome = true) →
        (bitOf (c.field 0x14 1) 2 = true → (s.mainInfo p).hasBarker = true) →
        ∃ t, exec (.setSpecPolicy p r) s = .next t ∧ StageIs t p c.order .running ∧
          t = s.modPart p (fun x => { x with cmds := (t.part p).cmds, atBoundary := x.atBoundary ++ [c.order] }))) ∧
    (∀ d : HostData, (s.part p).nextCmd r opSetAttn = some c →
      (∀ off, patternFault c (s.mainInfo p).attnLayers d = some off → CompletesAtOnce (.setAttnPattern p r d) s s p c stMalformed off) ∧
      (patternFault c (s.mainInfo p).attnLayers d = none → bitOf (c.field 0x19 1) 0 = true →
        (∀ e ∈ (s.part p).requests, e.1 ≠ c.field 0x14 4) → CompletesAtOnce (.setAttnPattern p r d) s s p c stState) ∧
      (patternFault c (s.mainInfo p).attnLayers d = none → bitOf (c.field 0x19 1) 0 = true →
        (∃ e ∈ (s.part p).requests, e.1 = c.field 0x14 4) →
        (∀ e ∈ (s.part p).requests, e.1 = c.field 0x14 4 → e.2.wouldMiss (patternOf c (rangesOf c d)) (layersNamed c) = false) →
        ∃ t, exec (.setAttnPattern p r d) s = .next t ∧ StageIs t p c.order .running ∧
          t = s.modPart p (fun x => { x with cmds := (t.part p).cmds, atBoundary := x.atBoundary ++ [c.order],
                                             cmdRanges := dset x.cmdRanges c.order (rangesOf c d) })) ∧
      (patternFault c (s.mainInfo p).attnLayers d = none → bitOf (c.field 0x19 1) 0 = true →
        (∃ e ∈ (s.part p).requests, e.1 = c.field 0x14 4 ∧ e.2.wouldMiss (patternOf c (rangesOf c d)) (layersNamed c) = true) →
        CompletesAtOnce (.setAttnPattern p r d) s s p c stState) ∧
      (patternFault c (s.mainInfo p).attnLayers d = none → bitOf (c.field 0x19 1) 0 = false →
        (∃ e ∈ (s.part p).requests, e.2.wouldMiss (patternOf c (rangesOf c d)) ((layersNamed c).filter (fun l => (dget? e.2.patterns l).isNone)) = true) →
        CompletesAtOnce (.setAttnPattern p r d) s s p c stState) ∧
      (patternFault c (s.mainInfo p).attnLayers d = none → bitOf (c.field 0x19 1) 0 = false →
        (∀ e ∈ (s.part p).requests, e.2.wouldMiss (patternOf c (rangesOf c d)) ((layersNamed c).filter (fun l => (dget? e.2.patterns l).isNone)) = false) →
        ∃ t, exec (.setAttnPattern p r d) s = .next t ∧ StageIs t p c.order .running ∧
          t = s.modPart p (fun x => { x with cmds := (t.part p).cmds, atBoundary := x.atBoundary ++ [c.order],
                                             cmdRanges := dset x.cmdRanges c.order (rangesOf c d) }))) ∧
    ((s.part p).nextCmd r opSetExpert = some c →
      (∀ off, expertPolicyFault c = some off → CompletesAtOnce (.setExpertPolicy p r) s s p c stMalformed off) ∧
      (expertPolicyFault c = none →
        ((s.mainInfo p).expertLayers = 0 → CompletesAtOnce (.setExpertPolicy p r) s s p c stState) ∧
        (0 < (s.mainInfo p).expertLayers →
          ((s.mainInfo p).expertLayers ≤ c.field 0x10 2 → CompletesAtOnce (.setExpertPolicy p r) s s p c stMalformed 0x10) ∧
          (c.field 0x10 2 < (s.mainInfo p).expertLayers → (s.mainInfo p).expertLayers < c.field 0x10 2 + c.field 0x12 2 →
            CompletesAtOnce (.setExpertPolicy p r) s s p c stMalformed 0x12) ∧
          (c.field 0x10 2 + c.field 0x12 2 ≤ (s.mainInfo p).expertLayers →
            ((∃ n ∈ (s.part p).exp.members, n ∈ s.fabric.fenced) → CompletesAtOnce (.setExpertPolicy p r) s s p c stNodeLost) ∧
            (s.otherMembers p = [] → (∀ n ∈ (s.part p).exp.members, n ∉ s.fabric.fenced) →
              CompletesAtOnce (.setExpertPolicy p r) s
                (s.modPart p (fun x => { x with exp := { x.exp with
                  announced := x.exp.announced ++ [⟨policyAsk c (s.stepAhead p), s.self⟩] } })) p c stOk 0 (s.stepAhead p)) ∧
            (s.otherMembers p ≠ [] → (∀ n ∈ (s.part p).exp.members, n ∉ s.fabric.fenced) →
              ∃ t ks, exec (.setExpertPolicy p r) s = .next t ∧ StageIs t p c.order .running ∧
                ks.length = (s.otherMembers p).length ∧
                t.part p = { s.part p with cmds := (t.part p).cmds, exp := { (s.part p).exp with
                  announced := (s.part p).exp.announced ++ [⟨policyAsk c (s.stepAhead p), s.self⟩],
                  asking := (s.part p).exp.asking ++ [⟨c.order, ks, s.stepAhead p⟩] } } ∧
                t.mem = s.mem ∧ t.sec = s.sec ∧ t.power = s.power)))))

/-- QUERY_EXPERT_COUNTS, QUERY_ACCOUNTING, RUN_TASK_GRAPH. QUERY_EXPERT_COUNTS writes the records of a completed step
and answers its number. QUERY_ACCOUNTING writes the accounting records of the tags named, clears them where asked,
and answers the time. RUN_TASK_GRAPH waits while 64 graphs are in progress; else it is refused in a QUIESCING
partition, on a field or a task at fault, on an uncorrectable error, on an epoch that is not current and where a graph in
progress names a semaphore of its range, and where no other task is queued or runs it is taken: its semaphores are cleared and its tasks belong to a new graph. (R389,
R390, R391, R656, R658, R659, R660, R661, R662, R663, R664) -/
def Obligations.CountsAccountingAndTaskGraphs : Prop :=
  ∀ (s : State) (p : Part) (r : CmdRing) (c : Cmd), s.serving →
    ((s.part p).nextCmd r opQueryExperts = some c →
      (let l := c.field 0x10 2
       let n := c.field 0x12 2
       let e := c.field 0x14 2
       let m := c.field 0x16 2
       ((s.mainInfo p).expertLayers ≤ l → CompletesAtOnce (.queryExpertCounts p r) s s p c stMalformed 0x10) ∧
       (1 ≤ n → l + n ≤ (s.mainInfo p).expertLayers → e ≤ 4095 → 1 ≤ m → e + m ≤ 4096 → c.field 0x18 1 ≤ 7 → c.field 0x20 8 % 16 = 0 →
         (c.field 0x28 8 < 16 * n * m → CompletesAtOnce (.queryExpertCounts p r) s s p c stNoCapacity) ∧
         (16 * n * m ≤ c.field 0x28 8 →
           ((s.part p).exp.history[c.field 0x18 1]? = none → CompletesAtOnce (.queryExpertCounts p r) s s p c stState) ∧
           (∀ h, (s.part p).exp.history[c.field 0x18 1]? = some h →
             CompletesAtOnce (.queryExpertCounts p r) s
               (s.hostWrite (c.field 0x20 8) ((List.range n).flatMap (fun i => (List.range m).flatMap (fun j =>
                 (dget h.2 (expertKey (l + i) (e + j)) {}).bytes)))) p c stOk 0 h.1.toNat))))) ∧
    ((s.part p).nextCmd r opQueryAcct = some c →
      (let first := c.field 0x10 2
       let n := c.field 0x12 2
       let recs := (List.range n).flatMap (fun i => (dget (s.part p).acct (first + i) {}).bytes)
       (4095 < first → CompletesAtOnce (.queryAccounting p r) s s p c stMalformed 0x10) ∧
       (first ≤ 4095 → (n = 0 ∨ 4096 < first + n) → CompletesAtOnce (.queryAccounting p r) s s p c stMalformed 0x12) ∧
       (1 ≤ n → first + n ≤ 4096 → c.field 0x18 8 % 64 = 0 →
         (c.field 0x20 8 < 64 * n → CompletesAtOnce (.queryAccounting p r) s s p c stNoCapacity) ∧
         (64 * n ≤ c.field 0x20 8 → bitOf (c.field 0x14 1) 0 = false →
           CompletesAtOnce (.queryAccounting p r) s (s.hostWrite (c.field 0x18 8) recs) p c stOk 0 s.time) ∧
         (64 * n ≤ c.field 0x20 8 → bitOf (c.field 0x14 1) 0 = true →
           CompletesAtOnce (.queryAccounting p r) s ((s.hostWrite (c.field 0x18 8) recs).modPart p (fun x =>
             { x with acct := (List.range n).foldl (fun m i => derase m (first + i)) x.acct })) p c stOk 0 s.time)))) ∧
    (∀ ue : Option Nat,
      (64 ≤ (s.part p).graphs.length → exec (.runTaskGraph p r ue) s = .next s) ∧
      ((s.part p).graphs.length < 64 → (s.part p).nextCmd r opGraph = some c →
        ((s.part p).fn.st = .quiescing → CompletesAtOnce (.runTaskGraph p r ue) s s p c stState) ∧
        ((s.part p).fn.st ≠ .quiescing →
          (∀ off, s.graphField p c = some off → CompletesAtOnce (.runTaskGraph p r ue) s s p c stMalformed off) ∧
          (s.graphField p c = none →
            (let a := c.field 0x10 8
             let n := c.field 0x18 4
             let lo := c.field 0x1C 2
             let k := c.field 0x1E 2
             let ds := (List.range n).map (fun i => parseTask (s.readDpa (a + 128 * i) 128))
             (∀ d, s.badByte a (128 * n) ue = some d →
               CompletesAtOnce (.runTaskGraph p r ue) s ((s.started p c).uncorrectable d) p c stUnrecoverable) ∧
             (s.badByte a (128 * n) ue = none →
               ((∃ d ∈ ds, d.partition.toNat ≠ p.val ∨ ∃ g ∈ d.waits ++ d.signals, g.sem < 3072) →
                 CompletesAtOnce (.runTaskGraph p r ue) s s p c stMalformed 0x10) ∧
               ((∀ d ∈ ds, d.partition.toNat = p.val ∧ ∀ g ∈ d.waits ++ d.signals, 3072 ≤ g.sem) →
                 ((∃ d ∈ ds, d.epoch ≠ (s.part p).epoch) → CompletesAtOnce (.runTaskGraph p r ue) s s p c stEpoch) ∧
                 ((∀ d ∈ ds, d.epoch = (s.part p).epoch) → (∃ g ∈ (s.part p).graphs, ∃ i ∈ g.names, lo ≤ i ∧ i < lo + k) →
                   CompletesAtOnce (.runTaskGraph p r ue) s s p c stState) ∧
                 ((∀ d ∈ ds, d.epoch = (s.part p).epoch) → (s.part p).lcQ = [] → (s.part p).beQ = [] → (s.part p).graphs = [] →
                   (∀ y ∈ s.tiles, ∀ u, y.2.run = some u → u.part ≠ p) →
                   ∃ t, exec (.runTaskGraph p r ue) s = .next t ∧ StageIs t p c.order .running ∧
                     t = s.modPart p (fun x => { x with
                       cmds := (t.part p).cmds, sems := (List.range k).foldl (fun m i => derase m (lo + i)) x.sems, graphs := (t.part p).graphs, lcQ := (t.part p).lcQ,
                       beQ := (t.part p).beQ, fwWait := (t.part p).fwWait }) ∧
                     ∃ g ∈ (t.part p).graphs, g.cmd = c.order ∧ g.total = n ∧ g.done = 0 ∧ g.bad = [] ∧ g.semFirst = lo ∧ g.semCount = k ∧
                       g.deadline.toNat = c.field 0x20 8 ∧ g.stopOnFail = bitOf (c.field 0x28 1) 0))))))))

/-- STEP_BOUNDARY. A step boundary does nothing while the partition is OFF or resets, while its step has not ended and
while a switch holds it. In a partition with nothing pending, no request and no active model it ends the step,
updates its recipes and advances the walker epoch. Where one request is served that decodes, and nothing of its KV is
due, a step with that request is formed and runs; where it is being prefilled and a chunk task is given for it, a chunk
is started that ends 8192 positions on from the page its first position lies in, or takes what is left. That a step
starts at the command is the model's form of it (log entry 105). (R195, R316, R331, R332, R333, R401, R412, R623) -/
def Obligations.StepBoundaryFormsAStep : Prop :=
  ∀ (s : State) (p : Part) (out : StepOut) (ue : List Nat), s.serving →
    (((s.part p).fn.st = .off ∨ (s.part p).advance.running = true ∨ s.stepEnded p = false ∨ (s.part p).switchHolds = true) →
      exec (.stepBoundary p out ue) s = .next s) ∧
    ((s.part p).fn.st ≠ .off → (s.part p).advance.running = false → s.stepEnded p = true → (s.part p).switch = none → (s.part p).swap = none →
      s.watchEn p = false → (s.part p).atBoundary = [] → (s.part p).step.chunks = [] → (s.part p).exp.members = [] → (s.part p).leaving = [] →
      (((s.part p).slot 0).st ≠ .complete ∨ ((s.part p).slot 1).st ≠ .empty) →
      (((s.part p).slot 2).st ≠ .complete ∨ ((s.part p).slot 3).st ≠ .empty) →
      (((s.part p).slot 0).st ≠ .active → (s.part p).requests = [] →
        ∃ t, exec (.stepBoundary p out ue) s = .next t ∧
          t = s.modPart p (fun x => { x with
            recipes := (t.part p).recipes,
            step := { x.step with running := false, batch := [], halfOf := [], tasks := [] },
            kv := { x.kv.advance with
              bounds := ((List.range 16).map (fun k => s.reg .kvBucket (p.val * 16 + k))).takeWhile (fun b => decide (b ≠ 0)) } })) ∧
      (∀ (id : Nat) (r : Request), ((s.part p).slot 0).st = .active → (s.part p).stepsBlocked = false →
        (s.part p).requests = [(id, r)] → r.settled = true → out.kv = [] →
        (∀ l < r.layers.length, (s.patternAt p r l).window = false ∧
          ∀ e ∈ (r.layers.getD l {}).pages.zipIdx, e.1.present = true → e.1.pinned = (s.patternAt p r l).pins e.2) →
        r.cancel = [] → r.closing = none → r.freezing = none → r.thawing = none → r.expired = false → r.warming = false →
        r.chunkFails < 3 → r.deadline = 0 → id ∉ (s.part p).jnl.reseedLeft → s.modelActive p r.model = true →
        (r.st = .decode → r.held = [] → r.undurable = 0 → r.finalSeen = false → r.backfill = none →
          1 + s.draftLength p r ≤ s.regBits .partBatch p.val 0 16 →
          ∃ t, exec (.stepBoundary p out ue) s = .next t ∧ (t.part p).step.running = true ∧
            (t.part p).step.batch = [(id, s.draftLength p r)] ∧ (t.part p).step.halfOf = [(id, false)] ∧
            (t.part p).step.checked = false ∧ (t.part p).step.chunks = [] ∧ (t.part p).kv.epoch = (s.part p).kv.advance.epoch ∧
            ((∀ f ∈ out.tasks, f.kind ≠ .barker) → (t.part p).requests = (s.part p).requests) ∧ t.mem = s.mem ∧ t.host = s.host ∧ ∀ q, q ≠ p → t.part q = s.part q) ∧
        (r.st = .prefill → 0 < r.toPrefill → 1 ≤ s.regBits .kvCfg p.val 16 4 → (∃ f ∈ out.tasks, f.kind = .chunk ∧ id ∈ f.requests) →
          (∀ k ∈ s.fwTasks p, k.kind = .chunk → id ∉ k.reqs) →
          ∃ t, exec (.stepBoundary p out ue) s = .next t ∧ (t.part p).step.running = false ∧ (t.part p).step.batch = [] ∧
            (t.part p).step.chunks = [(id, min r.toPrefill (8192 - (r.committed - r.toPrefill) % 128))] ∧
            ((∀ f ∈ out.tasks, f.kind ≠ .barker) → (t.part p).requests = (s.part p).requests) ∧ t.mem = s.mem ∧ t.host = s.host ∧ ∀ q, q ≠ p → t.part q = s.part q)))

/-- COMMIT_CHECK and WAITING_DEADLINE_CHECK. COMMIT_CHECK does nothing unless the step's tasks have ended, it has not
been judged and what it produced covers its batch. For a request that drafted nothing and is not late it appends the
token, writes one COMMIT record, marks the last token of the turn final, and closes a request that is not kept; at an
exit head whose test it passes, the token is the one sampled from that head, and the backfill of the layers it skipped
is due. With no variant active, a WAITING request whose deadline has passed ends with DEADLINE, or with OK_LATE where
its final token was late; with FREEZE_ON_EXPIRE it is frozen into the firn extent where Nelnus firmware has found room.
(R403, R405, R406, R409, R574, R612, R646, R648, R649, R719, R729, R739) -/
def Obligations.CommitCheckWritesWhatTheStepProduced : Prop :=
  ∀ (s : State) (p : Part), s.serving →
    (∀ out : List Produced,
      (((s.part p).step.running = false ∨ (s.part p).step.checked = true ∨ (s.part p).step.failed = true ∨ s.stepTasksLeft p = true ∨
        (s.grouped p = true ∧ s.expertsDone p = false) ∨ coversBatch (s.part p).step.batch out = false) →
        exec (.commitCheck p out) s = .next s) ∧
      ((s.part p).step.running = true → (s.part p).step.checked = false → (s.part p).step.failed = false → s.stepTasksLeft p = false →
        (s.grouped p = true → s.expertsDone p = true) →
        ((s.part p).step.batch = [] → out = [] →
          exec (.commitCheck p out) s = .next (s.modPart p (fun x => { x with step := { x.step with checked := true } }))) ∧
        (∀ (id : Nat) (r : Request) (tok : W32) (exits : List (Nat × List W32)), (s.part p).step.batch = [(id, 0)] → out = [⟨id, [], [tok], exits⟩] →
          s.req? p id = some r → (r.spec.getD {}).barkerEn = false → r.deadline = 0 → r.committed < 1048575 → s.earlyTokens p = false →
          (let m := (s.infoOf p r.model).getD default
           ((r.mayExit 0 = false ∨ (r.spec.getD {}).exitAt m.vocab exits = none) →
            (1 < r.maxNew → tok.toNat ≠ m.endToken →
              ∃ t r', exec (.commitCheck p out) s = .next t ∧ (t.part p).step = { (s.part p).step with checked := true } ∧
                t.req? p id = some r' ∧
                r' = { r with tokens := r.tokens ++ [tok], committed := r.committed + 1, maxNew := r.maxNew - 1, undurable := r.undurable + 1,
                              finalSeen := false, lateFinal := false, expired := false, layers := r'.layers } ∧
                t.recordsOf p = s.recordsOf p ++ [(.commit r.committed [tok], id, .commit id r.committed [(tok, 0)])]) ∧
            ((r.maxNew ≤ 1 ∨ tok.toNat = m.endToken) → r.cancel = [] → r.keep = true →
              ∃ t r', exec (.commitCheck p out) s = .next t ∧ t.req? p id = some r' ∧ r'.finalSeen = true ∧ r'.closing = r.closing ∧
                r'.tokens = r.tokens ++ [tok] ∧
                t.recordsOf p = s.recordsOf p ++ [(.commit r.committed [tok], id, .commit id r.committed [(tok, tokFinal)])]) ∧
            ((r.maxNew ≤ 1 ∨ tok.toNat = m.endToken) → r.cancel = [] → r.keep = false →
              ∃ t r', exec (.commitCheck p out) s = .next t ∧ t.req? p id = some r' ∧
                r'.closing = some ⟨stOk, turnInfo (r.committed + 1) false false, 0, 0, 0⟩ ∧
                t.recordsOf p = s.recordsOf p ++ [(.commit r.committed [tok], id, .commit id r.committed [(tok, tokFinal)]),
                  (.close stOk (r.committed + 1) .ended 0, id, .close id)])) ∧
           (∀ n z, r.mayExit 0 = true → (r.spec.getD {}).exitAt m.vocab exits = some (n, z) → 1 < r.maxNew →
            (r.sample z r.committed).toNat ≠ m.endToken →
            ∃ t r', exec (.commitCheck p out) s = .next t ∧ t.req? p id = some r' ∧ r'.tokens = r.tokens ++ [r.sample z r.committed] ∧
              r'.committed = r.committed + 1 ∧ r'.backfill = some (r.nextInput, m.exitLayers.getD n 0) ∧
              t.recordsOf p = s.recordsOf p ++
                [(.commit r.committed [r.sample z r.committed], id, .commit id r.committed [(r.sample z r.committed, tokEarlyExit)])]))))) ∧
    (∀ (ice : List (Nat × Nat)) (ue : List Nat),
      ((s.swapClass p = false ∨ (s.part p).activeVariant ≠ 0) → exec (.waitingDeadlineCheck p ice ue) s = .next s) ∧
      (s.swapClass p = true → (s.part p).activeVariant = 0 →
        ((∀ e ∈ (s.part p).requests, e.2.st = .waiting → e.2.expired = false ∧ s.deadlinePassed e.2 = false) →
          exec (.waitingDeadlineCheck p ice ue) s = .next s) ∧
        (∀ (id : Nat) (r : Request), (s.part p).requests = [(id, r)] → r.turn.isSome = true → r.closing = none → r.st = .waiting →
          s.deadlinePassed r = true →
          (let st := if r.lateFinal then stOkLate else stDeadline
           ((icePlace ice id = none ∨ r.freezeOnExpire = false) →
            ∃ t, exec (.waitingDeadlineCheck p ice ue) s = .next t ∧
              t.req? p id = some { r with closing := some ⟨st, turnInfo r.committed false false, 0, 0, 0⟩ } ∧
              t.recordsOf p = s.recordsOf p ++ [(.close st r.committed .ended 0, id, .close id)] ∧ t.mem = s.mem) ∧
           (∀ a, icePlace ice id = some a → r.freezeOnExpire = true → r.rebuild = false → ({ s with found := ue } : State).kvUnreadable p r = none →
            (let core := ({ s with found := ue } : State).iceCoreOf p id r
               { cmd := 0, bits := r.layers.map (fun _ => 0), keepPages := 0, firn := true, addr := a, room := 0 }
             s.iceFits p a core.length = true →
             ∃ t, exec (.waitingDeadlineCheck p ice ue) s = .next t ∧
               t.req? p id = some { r with closing := some ⟨st, turnInfo r.committed false true, a, 0, 0⟩ } ∧
               t.recordsOf p = s.recordsOf p ++ [(.close st r.committed .frozen (BitVec.ofNat 64 a), id, .close id)] ∧
               t.mem = (s.writeDpa a core).mem ∧ (a, core.length) ∈ (t.part p).kv.ice))))))

/-- TASK_REISSUE, STEP_REPLAY, walker epochs. A held walker epoch advances once no walk of four epochs before is left;
what is unlinked is reclaimed once no walk can hold it. The oldest task that failed is issued again, in front of its
queue and at most twice, once its data is there again: a weight chunk of another copy that verifies, a table from its
second copy, an estimate's sector as zeros. Lost KV is recomputed by prefill, a weight chunk that no copy holds blocks
the steps until the host has reloaded it, and a task of the step that cannot be recovered fails the step, whose other
unplaced tasks are withdrawn. A failed step is issued again at most twice, and the third time its requests end with
UNRECOVERABLE. (R281, R282, R283, R284, R285, R286, R287, R316, R317, R318) -/
def Obligations.RecoveryReissuesAndReplays : Prop :=
  ∀ (s : State) (p : Part), s.serving →
    ((s.part p).kv.advanceHeld = false → exec (.walkEpochAdvance p) s = .next s) ∧
    ((s.part p).kv.advanceHeld = true →
      ((s.part p).kv.counts.getD (((s.part p).kv.epoch + 1) % 4) 0 = 0 → exec (.walkEpochAdvance p) s =
        .next (s.modPart p (fun x => { x with kv := { x.kv with epoch := x.kv.epoch + 1, advanceHeld := false } }))) ∧
      ((s.part p).kv.counts.getD (((s.part p).kv.epoch + 1) % 4) 0 ≠ 0 → exec (.walkEpochAdvance p) s = .next s)) ∧
    (∃ t, exec (.kvReclaim p) s = .next t ∧
      t = s.modPart p (fun x => { x with kv := { x.kv with unlinked := (t.part p).kv.unlinked } }) ∧
      ∀ u : Nat × Nat × Nat, u ∈ (t.part p).kv.unlinked ↔ u ∈ (s.part p).kv.unlinked ∧ (s.part p).kv.oldest ≤ u.1) ∧
    (∀ found : Recovery,
      ((s.part p).recovering = [] → exec (.taskReissue p found) s = .next s) ∧
      (∀ (tk : Task) (st : W16) (dpa : Option Nat) (rest : List (Task × W16 × Option Nat)), (s.part p).recovering = (tk, st, dpa) :: rest →
        (let u := s.modPart p (fun x => { x with recovering := rest })
         let mine := tk.chunk = false ∧ (s.part p).step.running = true ∧ (s.part p).step.checked = false
         let fails (t : State) : Prop := (t.part p).step.failed = true ∧ t.mem = s.mem ∧
           (t.part p).requests = (s.part p).requests ∧
           ∀ x ∈ (t.part p).lcQ ++ (t.part p).beQ ++ (t.part p).fwWait, x.graph.isNone = true → x.chunk = true
         let again := u.modPart p (fun x =>
           let t := { tk with reissues := tk.reissues + 1, passed := true, readyAt := some s.time }
           if tk.desc.cls = 0 then { x with lcQ := t :: x.lcQ } else { x with beQ := t :: x.beQ })
         let twice := tk.reissues < 2 ∧ (tk.chunk = true ∨ tk.graph.isSome = true ∨ (s.part p).step.failed = false)
         ((dpa = none ∨ st ≠ stUnrecoverable) → mine → ∃ t, exec (.taskReissue p found) s = .next t ∧ fails t) ∧
         (∀ a, dpa = some a → st = stUnrecoverable →
           (s.classOf p a = .working → found.twin = none → mine → ∃ t, exec (.taskReissue p found) s = .next t ∧ fails t) ∧
           (∀ b, s.classOf p a = .working → found.twin = some b → twice → ∃ t, exec (.taskReissue p found) s = .next t ∧
             t.part p = again.part p ∧ t.mem = (s.writeDpa (a / 64 * 64) (s.readDpa (b / 64 * 64) 64)).mem) ∧
           (∀ id l r, (s.classOf p a = .drift id l ∨ ∃ n, s.classOf p a = .page id l n) → s.req? p id = some r →
             ∃ t r', exec (.taskReissue p found) s = .next t ∧ t.req? p id = some r' ∧ r'.rebuild = true ∧ r'.tokens = r.tokens ∧
               r'.toPrefill = max r.toPrefill (r.committed - (match s.classOf p a with
                 | .drift _ _ => 128 * (r.layers.getD l {}).pages.length
                 | _ => 0)) ∧ t.mem = s.mem) ∧
           (∀ i c hd b o bs more, s.classOf p a = .weights i c → ((s.part p).slot i).st ≠ .empty → ((s.part p).slot i).head = some hd →
             ((s.part p).slot i).place c = some (b, o, false) →
             (found.chunks = bs :: more → ((s.part p).slot i).matches_ c bs = true → twice →
               ∃ t, exec (.taskReissue p found) s = .next t ∧ (t.part p).lcQ = (again.part p).lcQ ∧ (t.part p).beQ = (again.part p).beQ ∧
                 ((t.part p).slot i).verified = c :: ((s.part p).slot i).verified ∧
                 t.mem = (s.writeDpa (b + o) (s.liveForm ((s.part p).slot i) hd o bs)).mem)) ∧
           (∀ i c, s.classOf p a = .weights i c → ((s.part p).slot i).st ≠ .empty →
             (∀ d ∈ found.chunks, ((s.part p).slot i).matches_ c d = false) →
             ∃ t, exec (.taskReissue p found) s = .next t ∧ (i, c) ∈ (t.part p).step.blocked ∧ c ∉ ((t.part p).slot i).verified) ∧
           (∀ f g n, s.classOf p a = .table f g n → twice →
             ∃ t, exec (.taskReissue p found) s = .next t ∧ t.part p = again.part p ∧ t.mem = (s.writeDpa f (s.readDpa g n)).mem ∧
               t.sec = s.sec ∧ t.host = s.host) ∧
           (s.classOf p a = .ewma → twice →
             ∃ t, exec (.taskReissue p found) s = .next t ∧ t.part p = again.part p ∧
               t.mem = (s.writeDpa (a / 64 * 64) (List.replicate 64 0)).mem ∧ t.sec = s.sec ∧ t.host = s.host))))) ∧
    ((s.part p).step.running = true → (s.part p).step.failed = true → (s.part p).step.checked = false → s.stepTasksRun p = false →
      (s.part p).stepsBlocked = false → s.groupBroken p = false → (s.part p).advance.running = false →
      ((s.part p).step.replays < 2 → (∀ a ∈ (s.part p).exp.nextMaps, (s.part p).exp.step.toNat + 1 < a.atStep) →
        ∃ t, exec (.stepReplay p) s = .next t ∧
          t = s.modPart p (fun x => { x with
            lcQ := (t.part p).lcQ, beQ := (t.part p).beQ, fwWait := (t.part p).fwWait, graphs := (t.part p).graphs, recipes := (t.part p).recipes,
            recovering := x.recovering.filter (fun r => r.1.graph.isSome || r.1.chunk),
            exp := { x.exp with halves := [], counts := [] }, step := { x.step with failed := false, replays := x.step.replays + 1 } })) ∧
      (2 ≤ (s.part p).step.replays →
        ∃ t, exec (.stepReplay p) s = .next t ∧ (t.part p).step.running = false ∧ (t.part p).step.failed = false ∧ (t.part p).step.batch = [] ∧
          ∀ (id d : Nat) (r : Request), (s.part p).step.batch = [(id, d)] → s.req? p id = some r → r.closing = none →
            t.req? p id = some { r with closing := some ⟨stUnrecoverable, turnInfo r.committed false false, 0, 0, 0⟩ })) ∧
    (((s.part p).step.running = false ∨ (s.part p).step.failed = false ∨ (s.part p).step.checked = true ∨ s.stepTasksRun p = true ∨
      (s.part p).stepsBlocked = true) → exec (.stepReplay p) s = .next s)

/-- Admission never gives a copy more first-pass assignments than its capacity. For every half-batch: no copy of an
expert gets more assignments in its first pass than the capacity of the layer; every primary choice of every token
is assigned or dropped; choices are dropped only under the drop policy and go to replicas only under the replica
policy. (R372, R375, R376, R377, R419) -/
def Obligations.AdmissionFillsCopiesWithinCapacity : Prop :=
  ∀ (s : State) (p : Part) (l : Nat) (blocks : List Census), 1 ≤ s.capacityOf p l →
    (let a := s.runAdmission p l blocks
     (∀ e copy : Nat, (a.assigns.filter (fun x => decide (x.expert = e) && decide (x.copy = copy) && decide (x.pass = 0))).length ≤
       s.capacityOf p l) ∧
     a.assigns.length + a.dropped = ((s.mainInfo p).expertLayer l).choices * (exchangeOrder blocks).length ∧
     ((s.policyOf p l).policy ≠ 3 → a.dropped = 0) ∧
     ((s.policyOf p l).policy ≠ 2 → a.toReplica = 0 ∧ ∀ x ∈ a.assigns, x.copy = 0))

/-- CENSUS_BLOCK and ADMISSION. A census block counts only in the running step of its group, and of one map version:
another map version aborts the half-batch and fails the step, and the lowest member announces its whole map. This
member's own block lists, for each of its tokens, the experts of greatest gate logit. Once every member's block is there
the half-batch is admitted once, with the assignments that the admission gives; an assignment to a copy on a lost member
aborts it, and an uncorrectable read of the exchange engine fails the step. (R289, R368, R371, R373, R374, R375, R379,
R396, R402) -/
def Obligations.CensusAndAdmissionOfAHalfBatch : Prop :=
  ∀ (s : State) (p : Part), s.serving →
    (∀ (b : Census) (gate : List GateOut),
      (let c := if b.node = s.self then s.ownCensus p b.layer b.half gate else b
       (b.node = s.self → c.lists = (gate.take (s.halfTokens p b.half)).map (fun g =>
         (topIndices (g.map Prod.fst) (s.listLength p b.layer)).map (fun e => (⟨e, (g.getD e default).2⟩ : Choice)))) ∧
       (((s.part p).step.running = false ∨ c.node ∉ (s.part p).exp.members ∨ c.step ≠ ((s.part p).exp.step + 1).setWidth 32 ∨
         (s.mainInfo p).expertLayers ≤ c.layer) → exec (.censusBlock p b gate) s = .next s) ∧
       ((s.part p).step.running = true → c.node ∈ (s.part p).exp.members → c.step = ((s.part p).exp.step + 1).setWidth 32 →
         c.layer < (s.mainInfo p).expertLayers →
         (c.node = s.self → ∀ y ∈ (s.part p).exp.halves, y.layer < c.layer → y.waitFetch = [] ∧ (y.half = c.half → s.halfDone p y = true)) →
         s.half? p c.layer c.half = none →
         (c.mapVersion = (s.part p).exp.mapVersion → exec (.censusBlock p b gate) s = .next (s.modPart p (fun x => { x with exp := { x.exp with
           halves := x.exp.halves ++ [{ layer := c.layer, half := c.half, blocks := [c] }] } }))) ∧
         (c.mapVersion ≠ (s.part p).exp.mapVersion → ∃ t, exec (.censusBlock p b gate) s = .next t ∧
           t = { s.modPart p (fun x => { x with
             exp := { x.exp with halves := x.exp.halves ++ [{ layer := c.layer, half := c.half, aborted := true }] },
             step := { x.step with failed := true } }) with fabric := t.fabric } ∧
           ((∃ n ∈ (s.part p).exp.members, n < s.self) → t.fabric = s.fabric))))) ∧
    (∀ (l : Nat) (h : Bool) (own : List OwnToken) (ue : Option Nat),
      (s.half? p l h = none → exec (.admission p l h own ue) s = .next s) ∧
      (∀ y, s.half? p l h = some y →
        ((y.admitted = true ∨ y.aborted = true ∨ (∃ n ∈ (s.part p).exp.members, ∀ b ∈ y.blocks, b.node ≠ n)) →
          exec (.admission p l h own ue) s = .next s) ∧
        (y.admitted = false → y.aborted = false → (∀ n ∈ (s.part p).exp.members, ∃ b ∈ y.blocks, b.node = n) →
          (let a := s.runAdmission p l y.blocks
           ((∃ x ∈ a.assigns, s.fabric.fenced.contains (s.copyAt p l x.expert x.copy) = true) →
             exec (.admission p l h own ue) s = .next (s.modPart p (fun x => { x with
               exp := { x.exp with halves := x.exp.halves.map (fun y => if y.layer = l && y.half = h then { y with aborted := true } else y) },
               step := { x.step with failed := true } }))) ∧
           ((∀ x ∈ a.assigns, s.fabric.fenced.contains (s.copyAt p l x.expert x.copy) = false) →
             (ue = none → ∃ t z, exec (.admission p l h own ue) s = .next t ∧ t.half? p l h = some z ∧ z.admitted = true ∧ z.blocks = y.blocks ∧
               z.assigns = a.assigns ∧ (t.part p).exp.step = (s.part p).exp.step ∧ (t.part p).exp.mapVersion = (s.part p).exp.mapVersion ∧
               (t.part p).requests = (s.part p).requests ∧ t.mem = s.mem ∧ t.sec = s.sec ∧ t.power = s.power) ∧
             (∀ d, ue = some d → (s.place d).isSome = true → d < windowBase → (s.part p).step.running = true → (s.part p).step.checked = false →
               ∃ t, exec (.admission p l h own ue) s = .next t ∧ (t.part p).step.failed = true ∧ t.mem = s.mem))))))

/-- Fetches of experts, replicas, token and combine packets. Where the model has a look-ahead gate, predicted experts that
are missing are fetched in descending demand while slots are free. An expert each of whose chunks some copy gives,
verified, takes its slot and frees the half-batches that wait for it; else it stays in flight. A replica that has verified
at a member is announced in the next map. A token packet is answered to its member with the partial sum of its entries,
acknowledged end to end; a combine packet of the step under way adds its partial sum once. An uncorrectable read of the
exchange engine fails the step. (R289, R383, R384, R385, R393, R394, R397, R398, R399, R400, R457) -/
def Obligations.ColdExpertsReplicasAndPartialSums : Prop :=
  ∀ (s : State) (p : Part), s.serving →
    (∀ (l : Nat) (es : List (Nat × Nat)),
      ((s.mainInfo p).lookahead = 0 → exec (.lookaheadFetch p l es) s = .next s) ∧
      ((s.mainInfo p).lookahead ≠ 0 → ∃ t, exec (.lookaheadFetch p l es) s = .next t ∧
        t = s.modPart p (fun x => { x with exp := { x.exp with
          ahead := (t.part p).exp.ahead, cache := (t.part p).exp.cache, fetching := (t.part p).exp.fetching, fetchWait := (t.part p).exp.fetchWait,
          slotOf := (t.part p).exp.slotOf } }) ∧
        (let order := sortBy (fun a b => decide (b.2 < a.2) || (decide (a.2 = b.2) && decide (a.1 ≤ b.1))) es
         let keys := ((order.map (fun x => expertKey l x.1)).eraseDups).filter (s.missing p)
         (s.part p).exp.fetchWait = [] → (s.part p).exp.cache.length + (s.part p).exp.fetching.length + keys.length ≤ (s.part p).exp.cacheSlots →
          (t.part p).exp.fetching = (s.part p).exp.fetching ++ keys ∧ (t.part p).exp.cache = (s.part p).exp.cache ∧ (t.part p).exp.fetchWait = []))) ∧
    (∀ (l e : Nat) (found : List (List Byte)) (ue : List Nat),
      (let key := expertKey l e
       let chunks := s.expertChunks p key
       (key ∉ (s.part p).exp.fetching → exec (.expertFetchDone p l e found ue) s = .next s) ∧
       (key ∈ (s.part p).exp.fetching → ue = [] → (∀ c ∈ chunks, s.chunkUnreadable p 0 c = none) →
         ((∃ c ∈ chunks, s.expertChunk p c found = none) → exec (.expertFetchDone p l e found ue) s = .next s) ∧
         ((∀ c ∈ chunks, (s.expertChunk p c found).isSome = true) → (s.part p).exp.fetchWait = [] →
           ∃ t, exec (.expertFetchDone p l e found ue) s = .next t ∧
             t.part p = { s.part p with exp := { (s.part p).exp with
               fetching := (s.part p).exp.fetching.filter (fun k => decide (k ≠ key)), cache := (s.part p).exp.cache ++ [key],
               halves := (s.part p).exp.halves.map (fun y => if y.layer = l then { y with waitFetch := y.waitFetch.filter (fun f => decide (f ≠ e)) } else y) } } ∧
             (s.cacheSlotAt p key = none → t.mem = s.mem) ∧
             (∀ a, s.cacheSlotAt p key = some a → t.mem = (s.writeDpa a (chunks.flatMap (fun c => (s.expertChunk p c found).getD []))).mem))))) ∧
    (∀ (l e : Nat) (n : Node),
      (let key := expertKey l e
       let now := (s.part p).exp.lastReplicas key
       let loading := dget? (s.part p).exp.replLoading key
       ((loading ≠ some n ∨ n ∉ (s.part p).exp.members ∨ n ∈ now ∨ n = homeOf (s.mainInfo p) l e ∨ 3 ≤ now.length) →
         exec (.replicaVerified p l e n) s = .next s) ∧
       (loading = some n → n ∈ (s.part p).exp.members → n ∉ now → n ≠ homeOf (s.mainInfo p) l e → now.length < 3 →
         ∃ t, exec (.replicaVerified p l e n) s = .next t ∧ t.mem = s.mem ∧ t.sec = s.sec ∧
           t.part p = { s.part p with exp := { (s.part p).exp with
             replLoading := derase (s.part p).exp.replLoading key,
             nextMaps := (s.part p).exp.nextMaps ++ [{ version := (s.part p).exp.lastVersion + 1, atStep := s.stepAhead p, replicas := [(key, now ++ [n])] }] } }))) ∧
    (∀ (u : PortNo) (k : Packet) (outs : List (List W32)) (ue : Option Nat),
      (bitOf (fieldAt k.payload 6 1) 1 = true → exec (.tokenPacket u k outs ue) s = .next s) ∧
      (bitOf (fieldAt k.payload 6 1) 1 = false → exec (.combinePacket u k) s = .next s) ∧
      (k.typ = tyExchange → s.hears k → exchangeOk k.payload = false →
        (bitOf (fieldAt k.payload 6 1) 1 = false → exec (.tokenPacket u k outs ue) s = .next ((s.received u k).count .uagMalformed 0 1)) ∧
        (bitOf (fieldAt k.payload 6 1) 1 = true → exec (.combinePacket u k) s = .next ((s.received u k).count .uagMalformed 0 1))) ∧
      (k.typ = tyExchange → s.hears k → exchangeOk k.payload = true → s.inTurn k →
        (bitOf (fieldAt k.payload 6 1) 1 = false → ue = none → (s.fabric.fenced.contains (Fin.ofNat 512 (fieldAt k.payload 0xC 2)) = false) →
          ∃ t h, exec (.tokenPacket u k outs ue) s = .next t ∧ h ∈ t.fabric.held ∧ h.pkt.typ = tyExchange ∧
            h.pkt.dst = Fin.ofNat 512 (fieldAt k.payload 0xC 2) ∧ t.parts = s.parts ∧ t.mem = s.mem ∧
            h.pkt.payload.drop 32 = (partialSum ((List.range (fieldAt k.payload 7 1)).map (fun i =>
              BitVec.ofNat 16 (fieldAt k.payload (0x22 + 4 * i) 2))) outs).flatMap (fun v => leBytes 4 v.toNat)) ∧
        (∀ d, bitOf (fieldAt k.payload 6 1) 1 = false → ue = some d → (s.place d).isSome = true → d < windowBase →
          (s.part k.part).step.running = true → (s.part k.part).step.checked = false →
          ∃ t, exec (.tokenPacket u k outs ue) s = .next t ∧ (t.part k.part).step.failed = true ∧ t.mem = s.mem) ∧
        (bitOf (fieldAt k.payload 6 1) 1 = true → k.part = p → (s.part p).exp.fetchWait = [] →
          ∃ t, exec (.combinePacket u k) s = .next t ∧ t.mem = s.mem ∧
            (BitVec.ofNat 32 (fieldAt k.payload 0 4) ≠ ((s.part p).exp.step + 1).setWidth 32 → t.parts = s.parts) ∧
            (BitVec.ofNat 32 (fieldAt k.payload 0 4) = ((s.part p).exp.step + 1).setWidth 32 →
              t.part p = { s.part p with exp := { (s.part p).exp with halves := (s.part p).exp.halves.map (fun y =>
                if y.layer = fieldAt k.payload 4 2 && y.half = bitOf (fieldAt k.payload 6 1) 0 then
                  (if y.aborted || y.partials.any (fun z => decide (z.1 = fieldAt k.payload 8 4) && decide (z.2.1 = lowestBit (fieldAt k.payload 0x10 4)))
                   then y
                   else { y with partials := y.partials ++ [(fieldAt k.payload 8 4, lowestBit (fieldAt k.payload 0x10 4),
                                                             tokenWords (k.payload.drop (exchangePayloadAt k.payload)))] })
                else y) } }))))

/-- What a packet meets before it is served. A packet leaves its receive buffer. One from a fenced node, one with a
reserved bit, an unknown type or 64 hops, and one whose ECRC does not match, are counted and dropped; one for
another node is sent on; nothing else happens. A READ of a page that is being copied, or of a part under test, waits
and is not meant here (log entry 114). (R456, R457, R458, R464, R472, R495) -/
def Obligations.ArrivingPacketsAreScreened : Prop :=
  ∀ (s : State) (i : Instr) (u : PortNo) (k : Packet) (ty : Byte), s.serving → arrival i = some (u, k, ty) →
    (∀ ue, i = .read u k ue none → s.heldAt (dpaOf k.addr) (min k.arg.toNat 4096) = false) →
    (k.typ ≠ ty → knownType k.typ = true → exec i s = .next s) ∧
    ((k.typ = ty ∨ knownType k.typ = false) →
      (k.src ∈ s.fabric.fenced → exec i s = .next ((s.received u k).count .uagDropFenced 0 1)) ∧
      (k.src ∉ s.fabric.fenced →
        ((k.reservedZero = false ∨ knownType k.typ = false ∨ 64 ≤ k.hops) →
          exec i s = .next ((s.received u k).count .uagMalformed 0 1)) ∧
        (k.reservedZero = true → knownType k.typ = true → k.hops < 64 →
          (k.dst ≠ s.self → exec i s = .next ((s.received u k).route k (some u))) ∧
          (k.dst = s.self → k.ecrc ≠ k.makeEcrc → exec i s = .next ((s.received u k).count .uagEcrcFail 0 1)))))

/-- WRITE, READ and the order of acknowledged packets. A write within the partition's memory at this node is stored and
acknowledged, any other is refused; a read is answered with its data, or refused; a read of a page that is being copied
waits (log entry 114). A read of a pull is answered from the slot with its ROOT_TAG, and refused where the chunk is not
verified there. A packet that comes again is answered again and has no other effect; on TC0 a packet after a gap is
held until the gap fills. The record of a source keeps the last 4,096 XIDs. What a pull's READ names comes with the
command (log entry 112). (R253, R459, R460, R461, R462, R463, R468, R469, R692, R702) -/
def Obligations.TransfersAreServedOnceAndInOrder : Prop :=
  ∀ (s : State) (u : PortNo) (k : Packet), s.serving → s.hears k →
    (k.typ = tyWrite →
      (s.inTurn k →
        (s.remoteOk k.part k.addr k.payload.length = true →
          exec (.write u k) s = .next (((s.noted u k).writeDpa (dpaOf k.addr) k.payload).sendAck k)) ∧
        (s.remoteOk k.part k.addr k.payload.length = false →
          exec (.write u k) s = .next ((s.noted u k).refusePacket k stMalformed))) ∧
      ((dget s.fabric.xidRecs (recKey k.src k.tc) {}).judge k = .hold →
        exec (.write u k) s = .next ((s.received u k).modRec k (fun r => { r with heldBack := r.heldBack ++ [(.write, k)] }))) ∧
      ((dget s.fabric.xidRecs (recKey k.src k.tc) {}).judge k = .again → s.stillServed k = false →
        exec (.write u k) s = .next ((s.received u k).answerAgain k)) ∧
      ((dget s.fabric.xidRecs (recKey k.src k.tc) {}).judge k = .drop → exec (.write u k) s = .next (s.received u k))) ∧
    (∀ ue : Option Nat, k.typ = tyRead →
      (let n := k.arg.toNat
       let waits := s.heldAt (dpaOf k.addr) (min n 4096)
       (waits = true → exec (.read u k ue none) s = .next s) ∧
       (s.inTurn k → waits = false →
        ((n = 0 ∨ 4096 < n ∨ s.remoteOk k.part k.addr n = false) → exec (.read u k ue none) s = .next ((s.noted u k).sendNack k stMalformed)) ∧
        (1 ≤ n → n ≤ 4096 → s.remoteOk k.part k.addr n = true →
          (s.badByte (dpaOf k.addr) n ue = none → exec (.read u k ue none) s =
            .next ((s.noted u k).sendPlain tyReadData k.tc k.src k.part 0 0 k.xid (s.readDpa (dpaOf k.addr) n))) ∧
          (∀ d, s.badByte (dpaOf k.addr) n ue = some d →
            exec (.read u k ue none) s = .next (((s.noted u k).uncorrectable d).sendNack k stUnrecoverable)))) ∧
       (∀ a : PullAsk, s.inTurn k →
        (let holds (x : Slot) : Bool := match x.head with
           | some h => decide (fieldAt h.root 0 8 = a.rootTag) && x.verified.contains a.chunk
           | none => false
         ((∀ e ∈ (s.part k.part).slots, holds e.2 = false) → exec (.read u k ue (some a)) s = .next ((s.noted u k).sendNack k stState)) ∧
         (∀ e bs, (s.part k.part).slots.find? (fun e => holds e.2) = some e → ue = none → s.chunkUnreadable k.part e.1 a.chunk = none →
           s.chunkOf k.part e.1 a.chunk = some bs →
           (1 ≤ n → n ≤ 4096 → a.offset + n ≤ bs.length → exec (.read u k ue (some a)) s =
             .next ((s.noted u k).sendPlain tyReadData k.tc k.src k.part 0 0 k.xid (sliceAt bs a.offset n))) ∧
           ((n = 0 ∨ 4096 < n ∨ bs.length < a.offset + n) → exec (.read u k ue (some a)) s =
             .next ((s.noted u k).sendNack k stMalformed))))))) ∧
    (let r := dget s.fabric.xidRecs (recKey k.src k.tc) {}
     (k.xid ∈ r.seen → r.judge k = .again) ∧
     (k.xid ∉ r.seen → (k.tc ≠ 0 ∨ k.xid = r.next) → r.judge k = .now) ∧
     (r.judge k = .hold → k.tc = 0 ∧ k.xid ≠ r.next ∧ r.heldBack.length < 256) ∧
     k.xid ∈ (r.note k).seen ∧ (r.note k).seen.length ≤ 4096 ∧ (k.tc = 0 → (r.note k).next = k.xid + 1))

/-- ACK, NACK, READ_DATA and resends. An answer to a transfer that is not outstanding only leaves its receive buffer;
one to an outstanding transfer settles it with its status and data, and where no command waits for it nothing else
happens. A refusal with a status that the table of statuses does not list as a failure refuses nothing (log entry 113).
A transfer that is not answered in time is sent again with the resend bit set, or waits for a route where
its destination cannot be reached. (R463, R464, R465, R466, R467) -/
def Obligations.AnswersSettleTransfers : Prop :=
  ∀ (s : State) (u : PortNo) (k : Packet), s.serving →
    (let unheard (key : Nat) : Prop := ∀ p : Part,
       xidKey (s.witnessOf p).1 0 (BitVec.ofNat 32 (key % 2 ^ 32)) ≠ key ∧ (∀ c ∈ (s.part p).claimsOut, c.2 ≠ key) ∧
       (∀ c ∈ (s.part p).migrations, c.2 ≠ key) ∧ (∀ w, (s.part p).switch = some w → key ∉ w.keys) ∧ (∀ a ∈ (s.part p).exp.asking, key ∉ a.keys)
     let done (key : Nat) (st : W16) (data : List Byte) : State :=
       (s.received u k).modFabric (fun f => { f with held := f.held.filter (fun h => decide (h.key ≠ key)), answers := dset f.answers key (st, data) })
     s.hears k →
      (k.typ = tyAck →
        (s.unacked (xidKey k.src k.tc k.arg) = false → exec (.ack u k) s = .next (s.received u k)) ∧
        (s.unacked (xidKey k.src k.tc k.arg) = true → unheard (xidKey k.src k.tc k.arg) →
          (∀ h ∈ s.fabric.held, h.key = xidKey k.src k.tc k.arg → h.pkt.typ = tyWrite) →
          exec (.ack u k) s = .next (done (xidKey k.src k.tc k.arg) stOk []))) ∧
      (k.typ = tyReadData →
        (s.unacked (xidKey k.src k.tc k.arg) = false → exec (.readData u k) s = .next (s.received u k)) ∧
        (s.unacked (xidKey k.src k.tc k.arg) = true → unheard (xidKey k.src k.tc k.arg) →
          (∀ h ∈ s.fabric.held, h.key = xidKey k.src k.tc k.arg → h.pkt.typ = tyRead) →
          exec (.readData u k) s = .next (done (xidKey k.src k.tc k.arg) stOk k.payload))) ∧
      (k.typ = tyNack → failStatus (k.arg.setWidth 16) = false → exec (.nack u k) s = .next (s.received u k)) ∧
      (k.typ = tyNack → failStatus (k.arg.setWidth 16) = true →
        (s.unacked (xidKey k.src k.tc k.xid) = false → exec (.nack u k) s = .next (s.received u k)) ∧
        (s.unacked (xidKey k.src k.tc k.xid) = true → unheard (xidKey k.src k.tc k.xid) →
          (∀ h ∈ s.fabric.held, h.key = xidKey k.src k.tc k.xid → h.pkt.typ = tyWrite ∨ h.pkt.typ = tyRead) →
          exec (.nack u k) s = .next (done (xidKey k.src k.tc k.xid) (k.arg.setWidth 16) [])))) ∧
    (∀ (dst : Node) (tc : Fin 4) (xid : W32),
      (s.unacked (xidKey dst tc xid) = false → exec (.e2eResend dst tc xid) s = .next s) ∧
      (∀ h, s.fabric.held = [h] → h.key = xidKey dst tc xid →
        (h.waiting = true → exec (.e2eResend dst tc xid) s = .next s) ∧
        (h.waiting = false →
          (let v := s.advanceTo (h.sentAt + 1000 * s.regBits .uagLostCfg 0 16 16)
           (s.reachable dst = false → exec (.e2eResend dst tc xid) s =
             .next (v.modFabric (fun f => { f with held := [{ h with waiting := true }] }))) ∧
           (s.reachable dst = true → ∃ t g, exec (.e2eResend dst tc xid) s = .next t ∧ t.fabric.held = [g] ∧ g.sentAt = v.now ∧ g.key = h.key ∧
             g.pkt.resend = true ∧ g.pkt.ecrc = g.pkt.makeEcrc ∧ g.pkt.payload = h.pkt.payload ∧ t.parts = s.parts ∧ t.mem = s.mem)))))

/-- Mirrors, claims, migrations, maps, policies and switches. A map, a policy and a switch that another member announces
are kept for their step and acknowledged, a switch only where its model is complete here. A request that another
node asks for is promised to it unless it is waiting, ending or of another epoch. A claim is recorded once, the
records of a claimed request are refused, and a mirror is refused where this partition is no witness. (R394, R418,
R709, R745, R746, R757, R758, R759, R766) -/
def Obligations.FirmwareMessagesAreServed : Prop :=
  ∀ (s : State) (u : PortNo) (k : Packet), s.serving → s.hears k → k.typ = tyMsg → s.inTurn k →
    (let v := s.noted u k
     let p := k.part
     (∀ a : MapAsk, exec (.mapAnnounce u k a) s = .next ((v.modPart p (fun x => { x with exp := { x.exp with nextMaps := x.exp.nextMaps ++ [a] } })).sendAck k)) ∧
     (∀ a : PolicyAsk, exec (.policyAnnounce u k a) s =
       .next ((v.modPart p (fun x => { x with exp := { x.exp with announced := x.exp.announced ++ [⟨a, k.src⟩] } })).sendAck k)) ∧
     (∀ a : SwitchAsk,
       (a.withdrawn = false → ((s.part p).slot 1).st = .complete → (∃ h, ((s.part p).slot 1).head = some h ∧ h.root = a.root) → (s.part p).switch = none →
         exec (.switchAnnounce u k a) s = .next ((v.modPart p (fun x => { x with switch := (some
           { cmd := none, target := 0, keepOld := a.keepOld, atStep := some a.atStep }) })).sendAck k)) ∧
       (a.withdrawn = false → (((s.part p).slot 1).st ≠ .complete ∨ ((s.part p).slot 1).head = none ∨ (s.part p).switch.isSome = true) →
         exec (.switchAnnounce u k a) s = .next (v.refusePacket k stState)) ∧
       (a.withdrawn = true → ∀ w, (s.part p).switch = some w → w.cmd = none →
         exec (.switchAnnounce u k a) s = .next ((v.modPart p (fun x => { x with switch := none })).sendAck k))) ∧
     (∀ a : MigrateAsk,
       (s.req? p a.request = none → exec (.migrateAsk u k a) s = .next (v.refusePacket k stState)) ∧
       (∀ r, s.req? p a.request = some r →
         ((r.st = .waiting ∨ r.freezing.isSome = true ∨ r.cancel ≠ [] ∨ r.closing.isSome = true) →
           exec (.migrateAsk u k a) s = .next (v.refusePacket k stState)) ∧
         (r.st ≠ .waiting → r.freezing = none → r.cancel = [] → r.closing = none →
           (((s.part p).slot 0).head.map Head.root).getD [] = a.root → (∀ l ∈ (s.part p).leaving, l.1 ≠ a.request) →
           (r.epoch ≠ a.epoch → exec (.migrateAsk u k a) s = .next (v.refusePacket k stEpoch)) ∧
           (r.epoch = a.epoch → exec (.migrateAsk u k a) s =
             .next ((v.modPart p (fun x => { x with leaving := x.leaving ++ [(a.request, k.src, a)] })).sendAck k))))) ∧
     (∀ a : ClaimAsk,
       (let j := (s.part p).jnl
        let known : Prop := ∃ c ∈ j.claims, c.origin = a.origin ∧ c.part = a.part ∧ c.request = a.request ∧ epochNotNewer a.epoch c.epoch = true
        (known → exec (.claim u k a) s = .next (v.refusePacket k stEpoch)) ∧
        (¬ known → 65536 ≤ j.claims.length → exec (.claim u k a) s = .next (v.refusePacket k stNoCapacity)) ∧
        (¬ known → j.claims.length < 65536 → ∃ t, exec (.claim u k a) s = .next t ∧
          (t.part p).jnl.claims = j.claims ++ [⟨a.origin, a.part, a.request, a.epoch⟩] ∧ (t.part p).requests = (s.part p).requests ∧
          t.mem = s.mem ∧ t.sec = s.sec))) ∧
     ((s.witAccept p = false ∨ (s.ring p witRing).fn.st ≠ .on) →
       exec (.witnessMirror u k) s = .next ((v.count .jnlWitRefused p.val 1).refusePacket k stState)) ∧
     (s.witAccept p = true → (s.ring p witRing).fn.st = .on →
       ((∃ r ∈ mirrorRecords k.payload, (s.part p).jnl.refuses r = true) →
         exec (.witnessMirror u k) s = .next ((v.count .jnlWitRefused p.val 1).refusePacket k stEpoch)) ∧
       ((∀ r ∈ mirrorRecords k.payload, (s.part p).jnl.refuses r = false) →
         ∃ t, exec (.witnessMirror u k) s = .next t ∧ (t.part p).requests = (s.part p).requests ∧ (t.part p).jnl.claims = (s.part p).jnl.claims ∧
           t.mem = s.mem ∧ t.sec = s.sec)))

/-- COLLECTIVE_START, COLL and ROUTE. A collective takes a slot of its class where one is free, else it waits; one with
a fenced member fails at once. Its first chunks may come before it starts here, and a packet of one that has ended
is dropped; an abort ends it with COLL_ABORTED, a result is kept, and an uncorrectable read of the engine ends it with
UNRECOVERABLE and fails the step. A chunk of a broadcast of weights is a broadcast on TC3 from this package to the
receivers of its command, while it is due, is not in flight and at most three others are. A ROUTE packet withdraws
destinations from its port and restores them. (R289, R477, R478, R479, R482, R483, R697, R700) -/
def Obligations.CollectivesAndRoutes : Prop :=
  ∀ (s : State), s.serving →
    (∀ c : CollPlan, c.weights = none →
      (∀ ue, ((s.coll? c.id).isSome = true ∨ ∃ w ∈ s.fabric.waiting, w.id = c.id) → exec (.collectiveStart c ue) s = .next s) ∧
      (s.coll? c.id = none → s.fabric.waiting = [] → (∀ x ∈ s.fabric.colls, x.complete s.self = false) →
        (∀ d, (s.extentOf d).isSome = true → ∃ t, exec (.collectiveStart c (some d)) s = .next t ∧ t.fabric.colls = s.fabric.colls ∧
          t.fabric.waiting = [] ∧ t.mem = s.mem ∧ (∃ v, (c.id, stUnrecoverable, v) ∈ t.fabric.finished) ∧
          ((s.part c.part).step.running = true → (s.part c.part).step.checked = false → (t.part c.part).step.failed = true)) ∧
        (collSlots c.tc ≤ (s.fabric.colls.filter (fun x => decide (x.plan.tc = c.tc))).length →
          exec (.collectiveStart c none) s =
            .next { s with fabric := { s.fabric with waiting := [c], finished := s.fabric.finished.filter (fun x => decide (x.1 ≠ c.id)) } }) ∧
        ((s.fabric.colls.filter (fun x => decide (x.plan.tc = c.tc))).length < collSlots c.tc →
          (∃ n ∈ c.members, n ≠ s.self ∧ n ∈ s.fabric.fenced) →
          ∃ t, exec (.collectiveStart c none) s = .next t ∧
            t.fabric.finished = (c.id, stCollAborted, []) :: s.fabric.finished.filter (fun x => decide (x.1 ≠ c.id)) ∧
            t.fabric.colls = s.fabric.colls ∧ t.fabric.waiting = [] ∧ t.parts = s.parts ∧ t.mem = s.mem) ∧
        ((s.fabric.colls.filter (fun x => decide (x.plan.tc = c.tc))).length < collSlots c.tc →
          (∀ n ∈ c.members, n ≠ s.self → n ∉ s.fabric.fenced) → c.op = .broadcast → c.parent.isSome = true → 1 ≤ c.chunks →
          (∀ e ∈ s.fabric.early, e.1.arg.toNat % 65536 ≠ c.id.toNat) →
          exec (.collectiveStart c none) s = .next { s with fabric := { s.fabric with colls := s.fabric.colls ++ [{ plan := c }], waiting := [], finished := s.fabric.finished.filter (fun x => decide (x.1 ≠ c.id)) } }))) ∧
    (∀ (c : CollPlan) (w : WeightsCast) (l : Load) (h : Head), c.weights = some w → w.me = 0 →
      (s.part c.part).loads.find? (fun l => decide (l.cmd = w.order) && (match l.path with | .broadcast _ => true | _ => false)) = some l →
      (dget (s.part c.part).slots l.slot {}).head = some h →
      (let due := w.chunk ∈ l.todo ∧ w.chunk ∉ s.inFlight c.part w.order ∧ (s.inFlight c.part w.order).length < 4
       (∀ ue, ¬due → exec (.collectiveStart c ue) s = .next s) ∧
       (due → s.coll? c.id = none → s.fabric.waiting = [] → (∀ x ∈ s.fabric.colls, x.complete s.self = false) →
         8 ≤ (s.fabric.colls.filter (fun x => decide (x.plan.tc = 3))).length →
         ∃ plan v, exec (.collectiveStart c none) s = .next { s with fabric := { s.fabric with waiting := [plan], finished := s.fabric.finished.filter (fun x => decide (x.1 ≠ c.id)) } } ∧
           plan.id = c.id ∧ plan.op = .broadcast ∧ plan.tc = 3 ∧ plan.parent = none ∧ plan.weights = some v ∧ v.chunk = w.chunk ∧
           v.receivers = (if l.self then l.receivers.dropLast else l.receivers).map (fun r => (r.1, h.inShard r.2.2.2.1 w.chunk)) ∧
           plan.members = s.self :: v.receivers.map Prod.fst))) ∧
    (∀ (u : PortNo) (k : Packet) (kind : CollKind) (ue : Option Nat), s.hears k → k.typ = tyColl →
      (let v := s.received u k
       let id : W16 := k.arg.setWidth 16
       (s.coll? id = none →
         ((∃ f ∈ s.fabric.finished, f.1 = id) → exec (.coll u k kind ue) s = .next v) ∧
         ((∀ f ∈ s.fabric.finished, f.1 ≠ id) → exec (.coll u k kind ue) s =
           .next (v.modFabric (fun f => { f with early := f.early ++ [(k, kind)] })))) ∧
       (∀ x, s.coll? id = some x → s.fabric.waiting = [] → (∀ y ∈ s.fabric.colls, y.plan.id ≠ id → y.complete s.self = false) →
         (kind = .abort → ∃ t, exec (.coll u k kind ue) s = .next t ∧ t.coll? id = none ∧
           t.fabric.finished = (id, stCollAborted, x.result) :: s.fabric.finished ∧ t.parts = s.parts ∧ t.mem = s.mem) ∧
         (∀ d, kind ≠ .abort → ue = some d → (s.extentOf d).isSome = true → ∃ t, exec (.coll u k kind ue) s = .next t ∧ t.coll? id = none ∧
           t.fabric.finished = (id, stUnrecoverable, x.result) :: s.fabric.finished ∧ t.mem = s.mem ∧
           ((s.part x.plan.part).step.running = true → (s.part x.plan.part).step.checked = false → (t.part x.plan.part).step.failed = true)) ∧
         (kind = .result → ue = none → k.arg.toNat / 65536 < x.plan.chunks → 2 ≤ x.plan.chunks → x.plan.op = .broadcast → x.result = [] →
           (∀ y ∈ s.fabric.colls, y.plan.id = id → y = x) →
           ∃ t y, exec (.coll u k kind ue) s = .next t ∧ t.coll? id = some y ∧ y.plan = x.plan ∧
             y.result = [(k.arg.toNat / 65536, collValues x.plan k.payload)] ∧ t.parts = s.parts ∧ t.mem = s.mem)))) ∧
    (∀ (u : PortNo) (k : Packet), s.hears k → k.typ = tyRoute →
      ∃ t, exec (.route u k) s = .next t ∧ t.parts = s.parts ∧ t.mem = s.mem ∧ t.sec = s.sec ∧
        (t.port u).withdrawn = (routeList k.payload).foldl (fun w x =>
          if x.2 then w.filter (fun n => decide (n ≠ x.1)) else if w.contains x.1 then w else x.1 :: w) (s.port u).withdrawn)

/-- Time packets, the time master and time writes. A follower takes its time from its sync port: it steps while LOCKED
is clear and slews while it is set; a master ignores syncs, an acting master yields to a lower node or to a master
set by its host. Loss of sync clears LOCKED, a backup node then becomes acting master, and the host sets the time of
its master while LOCKED is clear. (R484, R485, R486, R488, R489, R490, R491) -/
def Obligations.FabricTimeIsFollowed : Prop :=
  ∀ (s : State), s.serving →
    (∀ (u : PortNo) (k : Packet) (m : TimeSync), s.hears k → k.typ = tyTime →
      (let v := s.received u k
       (s.hostMaster = true → exec (.timeSync u k m) s = .next v) ∧
       (s.hostMaster = false → s.fabric.actingMaster = true →
         (s.parentPort ≠ some u → s.backupPort ≠ some u → exec (.timeSync u k m) s = .next v) ∧
         (¬ m.master < s.self → m.hostMaster = false → exec (.timeSync u k m) s = .next v) ∧
         ((s.parentPort = some u ∨ s.backupPort = some u) → (m.master < s.self ∨ m.hostMaster = true) →
           ∃ t, exec (.timeSync u k m) s = .next t ∧ t.fabric.actingMaster = false ∧ t.fabric.locked = true ∧
             t.fabric.masterNode = m.master ∧ t.fabric.lastSync = s.now ∧ t.fabric.time = s.fabric.time ∧
             t.fabric.slew = ((m.time + BitVec.ofNat 64 s.fabric.linkDelay).toNat : Int) - s.time)) ∧
       (s.hostMaster = false → s.fabric.actingMaster = false → s.syncPort ≠ some u → exec (.timeSync u k m) s = .next v) ∧
       (s.hostMaster = false → s.fabric.actingMaster = false → s.syncPort = some u →
         (let d := m.time + BitVec.ofNat 64 s.fabric.linkDelay
          ∃ t, exec (.timeSync u k m) s = .next t ∧ t.fabric.locked = true ∧ t.fabric.masterNode = m.master ∧ t.fabric.lastSync = s.now ∧
            t.fabric.lastCorr = (d.toNat : Int) - s.time ∧ t.mem = s.mem ∧
            (s.fabric.locked = false → t.fabric.time = d ∧ t.fabric.slew = 0) ∧
            (s.fabric.locked = true → t.fabric.time = s.fabric.time ∧ t.fabric.slew = (d.toNat : Int) - s.time)))) ) ∧
    (s.timeMaster = false → exec .timeSyncSend s = .next s) ∧
    (s.timeMaster = true → ∃ t, exec .timeSyncSend s = .next t ∧ t.fabric.lastSync = t.now ∧
      t.now = max s.now (s.fabric.lastSync + 1000 * s.regBits .uagTimeCfg 0 18 8) ∧ t.parts = s.parts ∧ t.mem = s.mem ∧
      (s.regBits .uagTimeCfg 0 10 8 = 0 →
        t = { s.advanceTo t.now with fabric := { (s.advanceTo t.now).fabric with lastSync := t.now } })) ∧
    (s.syncPort = none → exec .linkDelayMeasure s = .next s) ∧
    (∀ u, s.syncPort = some u →
      ((s.port u).fn.st ≠ .on → exec .linkDelayMeasure s = .next s) ∧
      ((s.port u).fn.st = .on → ∃ k, exec .linkDelayMeasure s = .next (s.enqueue u k) ∧ k.typ = tyTime ∧ k.dst = (s.port u).neighbour ∧ k.src = s.self)) ∧
    (∀ (u : PortNo) (r n : Nat),
      (s.syncPort = some u → exec (.timeDelayExchange u (.reply r n)) s =
        .next { s with fabric := { s.fabric with linkDelay := (r - n) / 2 } }) ∧
      (s.syncPort ≠ some u → exec (.timeDelayExchange u (.reply r n)) s = .next s) ∧
      ((s.port u).fn.st ≠ .on → exec (.timeDelayExchange u (.request n)) s = .next s) ∧
      ((s.port u).fn.st = .on → ∃ k, exec (.timeDelayExchange u (.request n)) s = .next (s.enqueue u k) ∧ k.typ = tyTime ∧ k.dst = (s.port u).neighbour)) ∧
    (s.timeMaster = true → exec .syncLoss s = .next s ∧ exec .becomeMaster s = .next s) ∧
    (s.isBackup = false → exec .becomeMaster s = .next s) ∧
    (s.timeMaster = false →
      (let v := s.advanceTo (s.fabric.lastSync + 1000000)
       exec .syncLoss s = .next { v with fabric := { v.fabric with locked := false, slew := 0 } }) ∧
      (s.isBackup = true → ∃ t, exec .becomeMaster s = .next t ∧ t.fabric.actingMaster = true ∧ t.fabric.slew = 0 ∧
        t.now = max s.now (s.fabric.lastSync + 100000) ∧ t.fabric.lastSync = t.now ∧ t.fabric.locked = s.fabric.locked ∧ t.mem = s.mem)) ∧
    (∀ x : W64,
      (s.hostMaster = true → s.fabric.locked = false → ∃ t, exec (.uagTimeSet x) s = .next t ∧ t.fabric.time = x ∧ t.fabric.locked = true ∧
        t.fabric.slew = 0 ∧ t.parts = s.parts ∧ t.mem = s.mem ∧ t.now = s.now) ∧
      ((s.hostMaster = false ∨ s.fabric.locked = true) → exec (.uagTimeSet x) s = .next s))

/-- NODE_LOST and the fence registers. When the grace timer of a destination expires the node is fenced and NODE_LOST
and NODE_FENCED are raised, in this order; a write of UAG_FENCE_SET fences a node that is not fenced yet and raises
NODE_FENCED. A node leaves the fence list by UAG_FENCE_CLEAR alone, and its XID records with it. (R493, R494, R496,
R497) -/
def Obligations.LostNodesAreFenced : Prop :=
  ∀ (s : State), s.serving →
    (∀ n : Node, dget? s.fabric.losing n.val = none → exec (.nodeLost n) s = .next s) ∧
    (∀ (n : Node) (at_ : Nat), dget? s.fabric.losing n.val = some at_ → ∃ t u : State, exec (.nodeLost n) s = .next t ∧
      t = (u.raisePackage evNodeLost n.val).raisePackage evNodeFenced n.val ∧ n ∈ u.fabric.fenced ∧
      (∀ m, m ∈ s.fabric.fenced → m ∈ u.fabric.fenced) ∧ u.mem = s.mem ∧ u.sec = s.sec ∧ s.now ≤ u.now) ∧
    (∀ v : W32,
      (let n : Node := Fin.ofNat 512 (v.toNat % 512)
       ((bitOf v.toNat 31 = false ∨ n ∈ s.fabric.fenced) → exec (.uagFenceSet v) s = .next s) ∧
       (bitOf v.toNat 31 = true → n ∉ s.fabric.fenced → ∃ t u : State, exec (.uagFenceSet v) s = .next t ∧
         t = u.raisePackage evNodeFenced n.val ∧ n ∈ u.fabric.fenced ∧ (∀ m, m ∈ s.fabric.fenced → m ∈ u.fabric.fenced) ∧
         u.mem = s.mem ∧ u.sec = s.sec))) ∧
    (∀ (i : Fin 16) (v : W32), ∃ t, exec (.uagFenceClear i v) s = .next t ∧ t.mem = s.mem ∧ t.sec = s.sec ∧
      (∀ n : Node, n ∈ t.fabric.fenced ↔ n ∈ s.fabric.fenced ∧ ¬ (n.val / 32 = i.val ∧ v.getLsbD (n.val % 32) = true)) ∧
      (∀ e, e ∈ t.fabric.xidRecs ↔ e ∈ s.fabric.xidRecs ∧
        ¬ (e.1 / 4 / 32 = i.val ∧ v.getLsbD (e.1 / 4 % 32) = true ∧ ∃ n ∈ s.fabric.fenced, n.val = e.1 / 4)) ∧
      ∀ p, (t.part p).requests = (s.part p).requests ∧ (t.part p).exp = (s.part p).exp)

/-- DISPATCH_PLACE and the end of runs. A ready task takes the first usable tile and loads its program; without tasks
nothing is placed. A run ends once its program has ended and all it started is done: its tile is free again, and a
run over its limits goes again in its next wider format, one that failed goes again elsewhere, in front of its
queue, unless it is a task of a step that is to be replayed. A bound is counted once; a watchdog, and a freeze that
outlasts TILE_HOLD_LIMIT, end the run, whose fills are dropped and whose DRAIN writes complete; after a watchdog the
tile resets, which empties its code cache. (R88, R139, R141, R172, R205, R209, R210, R213, R634, R635, R653, R932) -/
def Obligations.TasksAreOfferedToFreeTiles : Prop :=
  ∀ (s : State), s.serving →
    (∀ p : Part,
      (((s.part p).fn.st = .off ∨ (s.part p).advance.running = true) → ∀ ue, exec (.dispatchPlace p ue) s = .next s) ∧
      ((s.part p).lcQ = [] → (s.part p).beQ = [] → (s.part p).graphs = [] → ∀ ue, exec (.dispatchPlace p ue) s = .next s) ∧
      (∀ (tk : Task) (i : Nat) cars ins outs (w : EwmaEntry), (s.part p).fn.st ≠ .off → (s.part p).advance.running = false →
        (s.part p).lcQ = [tk] → (s.part p).beQ = [] → (s.part p).graphs = [] → (s.part p).fwWait = [] → (s.part p).isReady tk = true →
        (s.part p).kv.advanceHeld = false → s.usableTile p tk = some i → s.checkTask p 0 tk = .good cars ins outs →
        s.readEwma p tk.desc.layerTag = .inr w → (s.tile i).codeCache = [] →
        ∃ t r, exec (.dispatchPlace p []) s = .next t ∧ (t.tile i).mode = .loading ∧ (t.tile i).run = some r ∧ r.task.desc = tk.desc ∧ r.part = p ∧
          r.pc = tk.desc.entry ∧ r.placedAt = s.time ∧ r.ended = none ∧ r.ins = ins ∧ r.outs = outs ∧ r.ewma = w ∧
          (t.part p).lcQ = [] ∧ t.mem = s.mem ∧ t.sec = s.sec)) ∧
    (∀ k : TileNo,
      ((s.tile k.val).run = none → (∀ ue, exec (.taskRunEnd k ue) s = .next s) ∧ exec (.boundOver k) s = .next s ∧
        exec (.watchdogExpiry k) s = .next s ∧ exec (.freezeExpiry k) s = .next s) ∧
      (∀ r, (s.tile k.val).run = some r →
        (r.ended.isSome = true → r.writes ≠ [] → ∀ ue, exec (.taskRunEnd k ue) s = .next s) ∧
        (r.ended = none → (r.atEnd = false ∨ r.quiet = false) → ∀ ue, exec (.taskRunEnd k ue) s = .next s) ∧
        (r.ended = none → r.atEnd = true → r.quiet = true → (s.tile k.val).testAfterRun = [] → (s.tile k.val).resetting = false → ∀ ue,
          ∃ t, exec (.taskRunEnd k ue) s = .next t ∧ (t.tile k.val).run = none ∧ (t.tile k.val).mode = .free ∧ t.sec = s.sec ∧
            (r.task.desc.replayWiden = true → r.task.widened = false → r.overLimit = true → r.canWiden = true →
              (r.task.graph.isSome = true ∨ r.task.chunk = true ∨ (s.part r.part).step.failed = false) →
              ∃ tk rest, (if r.task.desc.cls = 0 then (t.part r.part).lcQ else (t.part r.part).beQ) = tk :: rest ∧ tk.desc = r.task.desc ∧
                tk.widened = true ∧ tk.excluded = [] ∧ tk.widths = r.wider.1 ∧ tk.actWidth = r.wider.2)) ∧
        ((r.ended = some .arithmetic ∨ r.ended = some .freezeExpired ∨ r.ended = some .watchdog) → r.writes = [] → r.task.relocated = false →
          (r.task.graph.isSome = true ∨ r.task.chunk = true ∨ (s.part r.part).step.failed = false) →
          (s.tile k.val).testAfterRun = [] → (s.tile k.val).resetting = false → ∀ ue,
          ∃ t tk rest, exec (.taskRunEnd k ue) s = .next t ∧ (t.tile k.val).run = none ∧ (t.tile k.val).mode = .free ∧
            (if r.task.desc.cls = 0 then (t.part r.part).lcQ else (t.part r.part).beQ) = tk :: rest ∧ tk.desc = r.task.desc ∧
            tk.relocated = true ∧ ∀ x, s.siteOf k.val = some x → x ∈ tk.excluded) ∧
        (r.ended.isSome = true → exec (.watchdogExpiry k) s = .next s ∧ exec (.boundOver k) s = .next s ∧ exec (.freezeExpiry k) s = .next s) ∧
        (r.ended = none → r.boundCounted = false →
          (let b := if r.task.desc.boundNs = 0 then s.reg .partBound r.part.val else r.task.desc.boundNs
           exec (.boundOver k) s = .next (((s.advanceTo (s.now + (r.placedAt + b + 1 - s.time))).modTile k.val (fun x =>
             { x with run := some { r with boundCounted := true } })).count .partBoundOver r.part.val 1))) ∧
        (r.boundCounted = true → exec (.boundOver k) s = .next s) ∧
        (r.ended = none →
          (let v := s.advanceTo (s.now + (r.placedAt + s.reg .partWatchdog r.part.val + 1 - s.time))
           (r.freeze = none → exec (.watchdogExpiry k) s = .next (v.modTile k.val (fun x =>
             { x with run := some (r.stop .watchdog v.now), resetting := true, mode := .fenced }))) ∧
           ∃ t r', exec (.watchdogExpiry k) s = .next t ∧ (t.tile k.val).run = some r' ∧ r'.ended = some .watchdog ∧ r'.freeze = none ∧
             r'.fills = [] ∧ r'.drains = [] ∧ r'.writes = r.writes ∧ r'.task = r.task ∧ (t.tile k.val).mode = .fenced ∧
             (t.tile k.val).resetting = true ∧ t.now = v.now ∧ t.mem = s.mem ∧ t.sec = s.sec)) ∧
        (∀ f, r.freeze = some f → (s.tile k.val).mode = .frozen → r.ended = none →
          (f.cleared.isSome = true → exec (.freezeExpiry k) s = .next s) ∧
          (f.cleared = none →
            ∃ t r', exec (.freezeExpiry k) s = .next t ∧ (t.tile k.val).run = some r' ∧ r'.ended = some .freezeExpired ∧ r'.freeze = none ∧
              r'.fills = [] ∧ r'.drains = [] ∧ r'.writes = r.writes ∧ r'.task = r.task ∧
              r'.cycles = r.cycles + (s.tile k.val).cyclesOf (t.now - f.startNs) ∧ (t.tile k.val).mode = .running ∧
              t.now = max s.now (f.startNs + s.reg .tileHoldLimit + 1) ∧ t.mem = s.mem ∧ t.sec = s.sec))) ∧
      (((s.tile k.val).resetting = false ∨ (s.tile k.val).run.isSome = true) → exec (.tileInternalResetDone k) s = .next s) ∧
      ((s.tile k.val).resetting = true → (s.tile k.val).run = none →
        ∃ t, exec (.tileInternalResetDone k) s = .next t ∧ (t.tile k.val).resetting = false ∧ (t.tile k.val).codeCache = [] ∧
          (t.tile k.val).run = none ∧ (s.repair.tests = [] → (t.tile k.val).mode = .free) ∧ t.parts = s.parts ∧ t.sec = s.sec))

/-- Program load, issue, freezes and the array. A program that is resident runs. Each bundle of a running tile issues
once: one that does not decode or does not fit the run ends it MALFORMED, one that needs the busy array waits, one
whose condition is not met freezes the tile, and any other moves the sequencer on and takes its cycles. A freeze
ends with the issue of its bundle, two cycles after its last cause cleared, unless it had outlasted TILE_HOLD_LIMIT,
which ends the run. The array runs block by block; an arithmetic check or an overflow ends the run. Which commands
wait for a block run or a write still to come, and what counts of a freeze, are the model's choice (log entries 93,
94 and 99). (R131, R138, R141, R160, R165, R166, R170, R171, R172, R173, R205) -/
def Obligations.BundlesIssueOrFreeze : Prop :=
  ∀ (s : State) (k : TileNo), s.serving →
    ((s.tile k.val).run = none → exec (.bundleIssue k) s = .next s ∧ exec (.programLoaded k) s = .next s ∧ exec (.arrayFree k) s = .next s ∧
      (∀ f, exec (.blockRunEnd k f) s = .next s) ∧ exec (.freezeRelease k) s = .next s) ∧
    (∀ r, (s.tile k.val).run = some r →
      ((s.tile k.val).mode = .loading → r.ended = none → s.withdrawnIn r.task.desc.program r.task.desc.programLen = none →
        (let bs := bundlesOf (s.readDpa r.task.desc.program r.task.desc.programLen)
         exec (.programLoaded k) s = .next (s.modTile k.val (fun x => { x with
           mode := .running, codeCache := cacheProgram x.codeCache ⟨r.task.desc.program, bs⟩,
           run := some { r with bundles := bs, codeLoadCycles := x.cyclesOf (s.time - r.placedAt) } })))) ∧
      (((s.tile k.val).mode ≠ .running ∨ r.ended.isSome = true ∨ r.atEnd = true ∨ r.arrayWait = true) → exec (.bundleIssue k) s = .next s) ∧
      ((s.tile k.val).mode = .running → r.ended = none → r.atEnd = false → r.arrayWait = false → r.freeze = none →
        ((r.bundles[r.pc]?).bind decodeBundle = none →
          exec (.bundleIssue k) s = .next (s.modTile k.val (fun x => { x with run := some (r.stop .malformed s.now) }))) ∧
        (∀ b, (r.bundles[r.pc]?).bind decodeBundle = some b →
          (r.bundleOk b = false → exec (.bundleIssue k) s = .next (s.modTile k.val (fun x => { x with run := some (r.stop .malformed s.now) }))) ∧
          (r.bundleOk b = true → b.array.isSome = true → r.array.isSome = true →
            exec (.bundleIssue k) s = .next (s.modTile k.val (fun x => { x with run := some { r with arrayWait := true } }))) ∧
          (r.bundleOk b = true → (b.array = none ∨ r.array = none) → r.notYet b = true → exec (.bundleIssue k) s = .next s) ∧
          (r.bundleOk b = true → (b.array = none ∨ r.array = none) → r.notYet b = false → r.freezeCauses b ≠ [] →
            exec (.bundleIssue k) s = .next (s.modTile k.val (fun x => { x with
              mode := .frozen, run := some { r with freeze := some { causes := r.freezeCauses b, startNs := s.now, countedNs := s.now } } }))) ∧
          (r.bundleOk b = true → (b.array = none ∨ r.array = none) → r.notYet b = false → r.freezeCauses b = [] →
            ∃ t r', exec (.bundleIssue k) s = .next t ∧ (t.tile k.val).mode = .running ∧ (t.tile k.val).run = some r' ∧
              r'.pc = (r.sequence b).pc ∧ r'.loops = (r.sequence b).loops ∧ r'.atEnd = (r.sequence b).atEnd ∧ r'.ended = none ∧
              r'.bundles = r.bundles ∧ r'.task = r.task ∧ r'.freeze = none ∧
              r'.cycles = r.cycles + (1 + (if b.sop = 3 then b.arg else 0)) * 2 ^ (s.tile k.val).issueLog2 ∧
              t.parts = s.parts ∧ t.sec = s.sec ∧
              (b.array = none → b.vec = none → b.fill = none → b.skip = none → b.drain = none → b.advHead = none → b.advTail = none →
                t.mem = s.mem ∧ t.fabric = s.fabric ∧ r'.cars = r.cars ∧ r'.acc = r.acc ∧ r'.vregs = r.vregs)))) ∧
      (((s.tile k.val).mode ≠ .frozen ∨ r.ended.isSome = true) → exec (.freezeRelease k) s = .next s) ∧
      (∀ f b, r.freeze = some f → (r.bundles[r.pc]?).bind decodeBundle = some b → (s.tile k.val).mode = .frozen → r.ended = none →
        (f.cleared = none → r.freezeCauses b ≠ [] → ∃ t r' g, exec (.freezeRelease k) s = .next t ∧ (t.tile k.val).mode = .frozen ∧
          (t.tile k.val).run = some r' ∧ r'.freeze = some g ∧ g.causes = r.freezeCauses b ∧ g.cleared = none ∧ g.startNs = f.startNs ∧
          r'.pc = r.pc ∧ r'.cycles = r.cycles ∧ t.mem = s.mem ∧ t.parts = s.parts ∧ t.sec = s.sec) ∧
        (∀ c, (c = s.now ∧ f.cleared = none ∧ r.freezeCauses b = [] ∨ ∃ l, f.cleared = some (l, c)) →
          (c - f.startNs ≤ s.reg .tileHoldLimit → ∃ t r', exec (.freezeRelease k) s = .next t ∧ (t.tile k.val).mode = .running ∧
            (t.tile k.val).run = some r' ∧ r'.freeze = none ∧ r'.pc = (r.sequence b).pc ∧ r'.ended = none ∧ t.sec = s.sec ∧
            r'.cycles = r.cycles + (s.tile k.val).cyclesOf (c - f.startNs) + 2 +
              (1 + (if b.sop = 3 then b.arg else 0)) * 2 ^ (s.tile k.val).issueLog2) ∧
          (s.reg .tileHoldLimit < c - f.startNs → ∃ t r', exec (.freezeRelease k) s = .next t ∧ (t.tile k.val).run = some r' ∧
            r'.ended = some .freezeExpired ∧ r'.freeze = none ∧ r'.fills = [] ∧ r'.writes = r.writes ∧ t.mem = s.mem ∧ t.sec = s.sec))) ∧
      ((r.array = none ∨ (s.tile k.val).mode ≠ .running ∨ r.ended.isSome = true) →
        exec (.arrayFree k) s = .next s ∧ ∀ f, exec (.blockRunEnd k f) s = .next s) ∧
      (∀ a, r.array = some a → r.ended = none → (s.tile k.val).mode = .running →
        (r.blockEnds a = false → ∀ f, exec (.blockRunEnd k f) s = .next s) ∧
        (r.blockEnds a = true → ∀ f,
          ((s.blockRun k.val r a f).2 = (false, false) →
            exec (.blockRunEnd k f) s = .next (s.modTile k.val (fun x => { x with run := some (s.blockRun k.val r a f).1 }))) ∧
          ((s.blockRun k.val r a f).2 ≠ (false, false) → ∃ t r', exec (.blockRunEnd k f) s = .next t ∧ (t.tile k.val).run = some r' ∧
            r'.ended = some .arithmetic ∧ r'.array = none ∧ r'.fills = [] ∧ r'.drains = [] ∧ t.mem = s.mem ∧ t.sec = s.sec)) ∧
        (let past := decide (a.op.kind ≠ .run ∧ a.op.kind ≠ .runAcc ∨ a.op.blocks ≤ a.block)
         let freed : State := s.modTile k.val (fun x => { x with
           run := some { r.addCycles x.issueLog2 r.arrayBusy with array := none, arrayBusy := 0, arrayWait := false } })
         ((past = false ∨ r.arrayWait = false ∧ r.atEnd = false ∧ r.arrayBusy ≠ 0) → exec (.arrayFree k) s = .next s) ∧
         (past = true → r.arrayWait = false → (r.atEnd = true ∨ r.arrayBusy = 0) → exec (.arrayFree k) s = .next freed) ∧
         (past = true → r.arrayWait = true → r.atEnd = false → exec (.arrayFree k) s = exec (.bundleIssue k) freed))))

/-- Fills, drains, banks and scratchpad reads. A fill writes the data of its pieces to its slot, stamps it and clears
BUSY; one that cannot be read ends its run with the status of the cause. A drain reads its slot and then writes, and
the write of a run of another epoch is dropped. A bank grants one row per cycle: a wide request at once where it is
alone, a narrow one after it has waited 32 cycles. A read returns three cycles later; an uncorrectable one delivers
nothing and ends the run. Requests of tile DMA that wait go on first; which of them go first, and in which order the
banks' cycles and the data they return come, is the model's choice (log entries 94 and 95). (R95, R98, R99, R100,
R123, R125, R142, R145, R154, R278, R643, R846) -/
def Obligations.TileDataMovesAsStated : Prop :=
  ∀ (s : State) (k : TileNo), s.serving →
    (∀ r i, (s.tile k.val).run = some r →
      (let still := r.freeze = none ∧ (∀ f ∈ r.fills, f.queued = []) ∧ (∀ d ∈ r.writes, d.queued = [])
       (r.fills[i]? = none → exec (.fillSlotComplete k i) s = .next s) ∧
       (∀ f ps, r.fills[i]? = some f → s.fillPieces r f = some ps →
         (f.queued ≠ [] → exec (.fillSlotComplete k i) s = .next (s.dmaGoesOn k.val)) ∧
         (f.queued = [] → (r.blockKept f = false ∨ s.piecesHeld ps = true ∨ ∃ x ∈ f.xids, s.outcome? x = none) →
           exec (.fillSlotComplete k i) s = .next s) ∧
         (f.queued = [] → r.blockKept f = true → s.readable ps = true → s.piecesHeld ps = false →
           (∀ x ∈ f.xids, ∃ d, s.outcome? x = some (stOk, d)) →
           ∃ t r', exec (.fillSlotComplete k i) s = .next t ∧ t.sec = s.sec ∧ (t.tile k.val).run = some r' ∧
             r'.cars = (r.modCar f.carousel (fun c => (c.stamp f.ptr).release f.ptr)).cars ∧ r'.fills.length + 1 = r.fills.length ∧
             (still → t.parts = s.parts ∧
               r' = { r.modCar f.carousel (fun c => (c.stamp f.ptr).release f.ptr) with fills := r.fills.eraseIdx i }) ∧
             t.mem = ((s.gather ps f.xids).foldl (fun s x => s.slotWrite k.val (r.car f.carousel).cfg f.ptr x.1 x.2) s).mem)) ∧
       (∀ c, (s.mayFail r i c = false ∨ r.ended.isSome = true) → exec (.fillFailed k i c) s = .next s) ∧
       (∀ c, r.ended = none → ((r.fills[i]?).isSome = true ∨ (s.tile k.val).mode = .loading) → s.mayFail r i c = true →
         ∃ t r', exec (.fillFailed k i c) s = .next t ∧ (t.tile k.val).run = some r' ∧
           r'.ended = some (.fillFailed (causeStatus c) (causeDpa c)) ∧ r'.fills = [] ∧ r'.writes = r.writes ∧ r'.freeze = none ∧
           (r.freeze = none → r' = r.stop (.fillFailed (causeStatus c) (causeDpa c)) s.now) ∧ t.sec = s.sec) ∧
       ((r.drains[i]? = none ∨ r.storing = true) → exec (.drainSlotReadDone k i) s = .next s) ∧
       (∀ d x, r.drains[i]? = some d → r.outs[d.stream]? = some x → r.storing = false →
         ∃ t r' w, exec (.drainSlotReadDone k i) s = .next t ∧ (t.tile k.val).run = some r' ∧ r'.drains = r.drains.eraseIdx i ∧
           r'.writes.length = r.writes.length + 1 ∧ r'.writes[r.writes.length]? = some w ∧
           r'.cars = (r.modCar d.carousel (fun c => c.release d.ptr)).cars ∧
           w.data = ((s.unitPieces x d.unit (r.car d.carousel).cfg.slotRows r.blockLen).getD []).map (fun p =>
             (p.1, s.slotRead k.val (r.car d.carousel).cfg d.ptr p.2.2 p.2.1)) ∧ t.mem = s.mem ∧ t.sec = s.sec) ∧
       (r.writes[i]? = none → exec (.drainWriteDone k i) s = .next s) ∧
       (∀ d, r.writes[i]? = some d →
         (d.queued ≠ [] → exec (.drainWriteDone k i) s = .next (s.dmaGoesOn k.val)) ∧
         (d.queued = [] → (∃ x ∈ d.xids, s.outcome? x = none) → exec (.drainWriteDone k i) s = .next s) ∧
         (d.queued = [] → d.xids = [] →
           ∃ t r', exec (.drainWriteDone k i) s = .next t ∧ (t.tile k.val).run = some r' ∧ r'.writes.length + 1 = r.writes.length ∧
             (still → r' = { r with writes := r.writes.eraseIdx i }) ∧
             (r.task.desc.epoch ≠ (s.part r.part).epoch → t.mem = s.mem) ∧
             (r.task.desc.epoch = (s.part r.part).epoch →
               t.mem = ((d.data.filter (fun x => s.isSelf x.1)).foldl (fun s x => s.writeDpa (x.1 % 2 ^ 48) x.2) s).mem))))) ∧
    (∀ (n : Fin 16) (qs : List BankReq), (∃ x ∈ (dget (s.tile k.val).banks n.val {}).returns, x.due < (dget (s.tile k.val).banks n.val {}).cycle) →
      exec (.bankGrant k n qs) s = .next s) ∧
    (∀ (n : Fin 16) (q : BankReq), (s.tile k.val).run = none →
      (∀ x ∈ (dget (s.tile k.val).banks n.val {}).returns, (dget (s.tile k.val).banks n.val {}).cycle ≤ x.due) →
      (let b := dget (s.tile k.val).banks n.val {}
       ∃ t c, exec (.bankGrant k n [q]) s = .next t ∧ c = dget (t.tile k.val).banks n.val {} ∧ c.cycle = b.cycle + 1 ∧ t.parts = s.parts ∧
        (arrives (decide ((s.tile k.val).mode = .frozen)) q = true → q.skip = none → b.wide = [] → b.outside = [] → q.seg = none →
          (b.narrow = [] → q.write = none → t.mem = s.mem ∧ c.wide = [] ∧ c.returns = b.returns ++
            [⟨q.who, q.row, none, b.cycle + 3, s.padRead k.val (n.val * 2 ^ 18 + q.row * 256) 256⟩]) ∧
          (∀ bs, b.narrow = [] → q.write = some bs →
            t.mem = (s.padWrite k.val (n.val * 2 ^ 18 + q.row * 256) (padTo bs 256)).mem ∧ c.wide = [] ∧ c.returns = b.returns) ∧
          (∀ m, b.narrow = [m] → m.seg.isSome = true → m.since + 32 ≤ b.cycle → c.narrow = [] ∧ c.wide = [{ q with since := b.cycle }])))) ∧
    (∀ (n : Fin 16) (e : Ecc),
      ((dget (s.tile k.val).banks n.val {}).returns = [] → exec (.scratchpadReadReturn k n e) s = .next s) ∧
      (∀ q rest, (dget (s.tile k.val).banks n.val {}).returns = q :: rest →
        (let b := dget (s.tile k.val).banks n.val {}
         (q.due ≤ b.cycle ∨ (s.tile k.val).run = none ∧ b.wide = [] ∧ b.narrow = [] ∧ b.outside = []) →
         ∃ t, exec (.scratchpadReadReturn k n e) s = .next t ∧ t.mem = s.mem ∧ t.sec = s.sec ∧
          (dget (t.tile k.val).banks n.val {}).returns = rest ∧ (dget (t.tile k.val).banks n.val {}).cycle = max b.cycle q.due ∧
          (e ≠ .uncorrectable → (t.tile k.val).delivered = some q) ∧
          (e = .clean → t.parts = s.parts ∧ t.repair = s.repair) ∧
          (e = .uncorrectable → (t.tile k.val).delivered = none ∧
            ∀ r, (s.tile k.val).run = some r → r.ended = none → ∃ r', (t.tile k.val).run = some r' ∧ r'.ended = some .arithmetic ∧ r'.arrayCheck = true))))

/-- READ_REPAIR_MAP, WRITE_REPAIR_MAP, SPR_MAP_CTRL, RUN_SELF_TEST. READ_REPAIR_MAP writes the map where it has room. A
map to be loaded is checked for form, for being this package's and for idle partitions, and is then performed at
once, or once the tests in progress have ended; the completion, or SPR_MAP_CTRL, says what came of it. RUN_SELF_TEST
checks its kind, mode and part, refuses a part that is retired or under test, and starts the test. (R862, R863,
R865, R866, R867, R868, R869, R870) -/
def Obligations.RepairMapsAndSelfTests : Prop :=
  ∀ (s : State), s.serving →
    (∀ (p : Part) (r : CmdRing) (c : Cmd),
      ((s.part p).nextCmd r opReadMap = some c →
        (c.field 0x10 8 % 64 ≠ 0 → CompletesAtOnce (.readRepairMap p r) s s p c stMalformed 0x10) ∧
        (c.field 0x10 8 % 64 = 0 → c.field 0x18 8 < s.repairMap.length →
          CompletesAtOnce (.readRepairMap p r) s s p c stNoCapacity s.repairMap.length) ∧
        (c.field 0x10 8 % 64 = 0 → s.repairMap.length ≤ c.field 0x18 8 →
          CompletesAtOnce (.readRepairMap p r) s (s.hostWrite (c.field 0x10 8) s.repairMap) p c stOk 0 s.repairMap.length)) ∧
      ((s.part p).nextCmd r opWriteMap = some c →
        CompletesAtOnce (.writeRepairMap p r .failed) s s p c stMalformed 0x10 ∧
        (∀ m, c.field 0x10 8 % 64 ≠ 0 ∨ s.judgeMap (some p) m (some (c.field 0x18 8)) = stMalformed →
          CompletesAtOnce (.writeRepairMap p r (.bytes m)) s s p c stMalformed 0x10) ∧
        (∀ m, c.field 0x10 8 % 64 = 0 →
          (s.judgeMap (some p) m (some (c.field 0x18 8)) = stState → CompletesAtOnce (.writeRepairMap p r (.bytes m)) s s p c stState) ∧
          (s.judgeMap (some p) m (some (c.field 0x18 8)) = stOk →
            (s.repair.mapWait.isSome = true → CompletesAtOnce (.writeRepairMap p r (.bytes m)) s s p c stState) ∧
            (s.repair.mapWait = none → s.repair.tests ≠ [] →
              ∃ t, exec (.writeRepairMap p r (.bytes m)) s = .next t ∧ StageIs t p c.order .running ∧
                t = ({ s with repair := { s.repair with mapWait := some (some (p, c.order), m), mapBusy := false } } : State).modPart p
                  (fun x => { x with cmds := (t.part p).cmds })) ∧
            (s.repair.mapWait = none → s.repair.tests = [] →
              (let x := ((s.started p c).setStage p c.order .running).applyMap m
               CompletesAtOnce (.writeRepairMap p r (.bytes m)) s
                 { x.1 with repair := { x.1.repair with mapWait := none, mapBusy := false, mapLoaded := true } } p c stOk x.2.2 x.2.1))))) ∧
      ((s.part p).nextCmd r opSelfTest = some c →
        (8 ≤ c.field 0x10 1 → CompletesAtOnce (.runSelfTest p r) s s p c stMalformed 0x10) ∧
        (c.field 0x10 1 < 8 → 1 < c.field 0x11 1 → CompletesAtOnce (.runSelfTest p r) s s p c stMalformed 0x11) ∧
        (c.field 0x10 1 < 8 → c.field 0x11 1 ≤ 1 →
          (s.partAt (c.field 0x10 1) (c.field 0x14 4) = none → CompletesAtOnce (.runSelfTest p r) s s p c stMalformed 0x14) ∧
          (∀ q, s.partAt (c.field 0x10 1) (c.field 0x14 4) = some q →
            ((s.repair.retired q = true ∨ q ∈ s.repair.tests ∨ s.repair.mapWait.isSome = true) →
              CompletesAtOnce (.runSelfTest p r) s s p c stState) ∧
            (∀ g, q = .granule g → s.repair.retired q = false → q ∉ s.repair.tests → s.repair.mapWait = none →
              (∀ e ∈ s.tiles, q ∉ e.2.testAfterRun) →
              ∃ t, exec (.runSelfTest p r) s = .next t ∧ StageIs t p c.order .running ∧
                (let rep := { s.repair with asked := s.repair.asked ++ [(p, c.order, q, decide (c.field 0x11 1 = 1))], tests := s.repair.tests ++ [q] }
                 t = (({ s with repair := rep } : State).count .sprTestsRun 0 1).modPart p (fun x => { x with cmds := (t.part p).cmds }))))))) ∧
    (∀ d : HostData, (s.repair.mapBusy = true ∨ s.repair.mapWait.isSome = true) → exec (.sprMapLoad d) s = .next s) ∧
    (s.repair.mapBusy = false → s.repair.mapWait = none →
      exec (.sprMapLoad .failed) s = .next { s with repair := { s.repair with mapResult := 2 } } ∧
      (∀ m,
        (s.judgeMap none m none = stMalformed → exec (.sprMapLoad (.bytes m)) s = .next { s with repair := { s.repair with mapResult := 2 } }) ∧
        (s.judgeMap none m none = stState → exec (.sprMapLoad (.bytes m)) s = .next { s with repair := { s.repair with mapResult := 3 } }) ∧
        (s.judgeMap none m none = stOk → s.repair.tests ≠ [] → exec (.sprMapLoad (.bytes m)) s =
          .next { s with repair := { s.repair with mapWait := some (none, m), mapBusy := true } }) ∧
        (s.judgeMap none m none = stOk → s.repair.tests = [] → ∃ t, exec (.sprMapLoad (.bytes m)) s = .next t ∧ t.repair.mapResult = 1 ∧
          t.repair.mapLoaded = true ∧ t.repair.mapBusy = false ∧ t.repair.mapWait = none ∧ t.sec = s.sec)))

/-- Test verdicts, page copies, failures of channels, stacks and cores. A verdict for a part that is not under test does
nothing. A passed test counts a transient of its part and puts it back, unless the count goes over its threshold; a
failed one withdraws it; a test that was asked for completes its command, and a granule test writes zeros where it
read uncorrectable. A copied page is remapped to its slot, its unreadable bytes zeros and counted. A channel or a stack that fails is withdrawn and its owners are reset. A core that faults is tested while its work
moves. (R252, R256, R261, R262, R845, R848, R849, R850, R851, R853, R870) -/
def Obligations.VerdictsAndFailuresRetireParts : Prop :=
  ∀ (s : State), s.serving →
    (∀ (q : PartId) (v : Verdict) (sc : PageFault) (bad : List Nat), q ∉ s.repair.tests → exec (.selfTestVerdict q v sc bad) s = .next s) ∧
    (∀ (g : Nat) (sc : PageFault), (PartId.granule g) ∈ s.repair.tests → s.repair.mapWait = none →
      (let q := PartId.granule g
       let u : State := { s with repair := { s.repair with tests := s.repair.tests.erase q } }
       s.repair.asked = [] →
        exec (.selfTestVerdict q .none sc []) s = .next u ∧
        (∀ bad, exec (.selfTestVerdict q .none sc bad) s = .next (((bad.filter (· < 64)).eraseDups).foldl (fun (s : State) i =>
          s.writeDpa (firnBase + 4096 * g + 64 * i) (List.replicate 64 0)) u)) ∧
        (min 7 (s.repair.transients q + 1) ≤ s.threshold q → exec (.selfTestVerdict q .pass sc []) s =
          .next (({ u with repair := u.repair.setTransients q (min 7 (s.repair.transients q + 1)) } : State).count .sprTransients 0 1)) ∧
        (s.threshold q < min 7 (s.repair.transients q + 1) → s.repair.retired q = false →
          ∃ t, exec (.selfTestVerdict q .pass sc []) s = .next t ∧ t.repair.retired q = true ∧ g ∈ t.repair.withdrawnFirn ∧ t.mem = s.mem) ∧
        (s.repair.retired q = false → exec (.selfTestVerdict q .fail sc []) s =
          .next { u.count .sprTestsFailed 0 1 with repair := { u.repair.setEnt q 2 0 with withdrawnFirn := g :: s.repair.withdrawnFirn } }))) ∧
    (∀ (g : Nat) (sc : PageFault) (p : Part) (c : Cmd), (PartId.granule g) ∈ s.repair.tests → s.repair.mapWait = none →
      s.cmd? p c.order = some c → (∀ e ∈ (s.part p).cmds, e.order = c.order → e = c) →
      s.repair.asked = [(p, c.order, .granule g, false)] →
      ∃ t, exec (.selfTestVerdict (.granule g) .pass sc []) s = .next t ∧
        Completed { s with repair := { s.repair with tests := s.repair.tests.erase (.granule g), asked := [] } } t p c stOk 0
          (1 + 2 * s.repair.transients (.granule g))) ∧
    (∀ (h c n : Nat) (bad : List Nat),
      ((∀ x ∈ s.repair.copies, ¬ (x.stack = h ∧ x.chan = c ∧ x.page = n)) → exec (.pageCopyDone h c n bad) s = .next s) ∧
      (∀ x, s.repair.copies = [x] → x.stack = h → x.chan = c → x.page = n →
        (let maps := (h, c, n, x.slotChan, x.slot) ::
           s.repair.remaps.filter (fun y => !(decide (y.1 = h) && decide (y.2.1 = c) && decide (y.2.2.1 = n)))
         let old := match s.repair.slotOf h c n with | some y => [(h, c, n, y.1, y.2)] | none => []
         let done (t : State) : State := { t with repair := { t.repair with copies := [], remaps := maps, retests := old ++ s.repair.retests } }
         let zeroed (i : Nat) : State := { s with mem := ((List.range 64).filter (fun j => !x.written.contains (64 * i + j))).foldl (fun m j =>
           m.write ((32 * h + c) * chanBytes + 65536 * n + 64 * i + j) 0) s.mem }
         exec (.pageCopyDone h c n []) s = .next (done s) ∧
         (∀ i, i < 1024 → x.counted = some i → exec (.pageCopyDone h c n [i]) s = .next (done (zeroed i))) ∧
         (∀ i d, i < 1024 → x.counted ≠ some i → s.dpaOfPlace ((32 * h + c) * chanBytes + 65536 * n + 64 * i) = some d →
           exec (.pageCopyDone h c n [i]) s = .next (done ((zeroed i).recordUe d)))))) ∧
    (∀ h c : Nat,
      ((12 ≤ h ∨ 32 ≤ c ∨ s.repair.chanFailed h c = true) → exec (.channelFailed h c) s = .next s) ∧
      (h < 12 → c < 32 → s.repair.chanFailed h c = false → s.repair.retired (.chan h c) = false →
        ∃ t, exec (.channelFailed h c) s = .next t ∧ t.repair.chanFailed h c = true ∧ t.sec = s.sec ∧
          ∀ p, s.ownerOfChannel h c = some p → (t.part p).advance.reset = true)) ∧
    (∀ h : Nat,
      ((12 ≤ h ∨ h ∈ s.repair.lostStacks) → exec (.stackFailed h) s = .next s) ∧
      (h < 12 → h ∉ s.repair.lostStacks → ∃ t, exec (.stackFailed h) s = .next t ∧ h ∈ t.repair.lostStacks ∧ t.sec = s.sec ∧
        ∀ p, s.hbmValid p = true → (∃ g ∈ s.groups p, g / 4 = h) → (t.part p).advance.reset = true)) ∧
    (∀ k : Fin 8,
      ((s.repair.retired (.core k.val) = true ∨ PartId.core k.val ∈ s.repair.tests ∨ s.repair.mapWait.isSome = true) →
        exec (.controlCoreFault k) s = .next s) ∧
      (s.repair.retired (.core k.val) = false → PartId.core k.val ∉ s.repair.tests → s.repair.mapWait = none →
        exec (.controlCoreFault k) s = .next (({ s with repair := { s.repair.moveCore k.val with
          tests := (s.repair.moveCore k.val).tests ++ [.core k.val] } } : State).count .sprTestsRun 0 1)))
end

