-- ==== Sys2Proof/Laws/State.lean ====
section
/-! SUPPORT. What each basic update of the state changes, field by field: an update leaves every field but its own. -/

namespace Sys2Proof.Machine

/-! ### setPart -/

@[simp] theorem State.setPart_pending (s : State) (p : Part) (x : Partition) : (s.setPart p x).pending = s.pending := rfl
@[simp] theorem State.setPart_boot (s : State) (p : Part) (x : Partition) : (s.setPart p x).boot = s.boot := rfl
@[simp] theorem State.setPart_regs (s : State) (p : Part) (x : Partition) : (s.setPart p x).regs = s.regs := rfl
@[simp] theorem State.setPart_mem (s : State) (p : Part) (x : Partition) : (s.setPart p x).mem = s.mem := rfl
@[simp] theorem State.setPart_host (s : State) (p : Part) (x : Partition) : (s.setPart p x).host = s.host := rfl
@[simp] theorem State.setPart_tiles (s : State) (p : Part) (x : Partition) : (s.setPart p x).tiles = s.tiles := rfl
@[simp] theorem State.setPart_repair (s : State) (p : Part) (x : Partition) : (s.setPart p x).repair = s.repair := rfl
@[simp] theorem State.setPart_fabric (s : State) (p : Part) (x : Partition) : (s.setPart p x).fabric = s.fabric := rfl
@[simp] theorem State.setPart_power (s : State) (p : Part) (x : Partition) : (s.setPart p x).power = s.power := rfl
@[simp] theorem State.setPart_mgmtA (s : State) (p : Part) (x : Partition) : (s.setPart p x).mgmtA = s.mgmtA := rfl
@[simp] theorem State.setPart_mgmtB (s : State) (p : Part) (x : Partition) : (s.setPart p x).mgmtB = s.mgmtB := rfl
@[simp] theorem State.setPart_sec (s : State) (p : Part) (x : Partition) : (s.setPart p x).sec = s.sec := rfl
@[simp] theorem State.setPart_now (s : State) (p : Part) (x : Partition) : (s.setPart p x).now = s.now := rfl
@[simp] theorem State.setPart_free (s : State) (p : Part) (x : Partition) : (s.setPart p x).free = s.free := rfl
@[simp] theorem State.setPart_found (s : State) (p : Part) (x : Partition) : (s.setPart p x).found = s.found := rfl
@[simp] theorem State.setPart_parts (s : State) (p : Part) (x : Partition) : (s.setPart p x).parts = s.parts.set p x := rfl

/-! ### modPart -/

@[simp] theorem State.modPart_pending (s : State) (p : Part) (f : Partition → Partition) : (s.modPart p f).pending = s.pending := rfl
@[simp] theorem State.modPart_boot (s : State) (p : Part) (f : Partition → Partition) : (s.modPart p f).boot = s.boot := rfl
@[simp] theorem State.modPart_regs (s : State) (p : Part) (f : Partition → Partition) : (s.modPart p f).regs = s.regs := rfl
@[simp] theorem State.modPart_mem (s : State) (p : Part) (f : Partition → Partition) : (s.modPart p f).mem = s.mem := rfl
@[simp] theorem State.modPart_host (s : State) (p : Part) (f : Partition → Partition) : (s.modPart p f).host = s.host := rfl
@[simp] theorem State.modPart_tiles (s : State) (p : Part) (f : Partition → Partition) : (s.modPart p f).tiles = s.tiles := rfl
@[simp] theorem State.modPart_repair (s : State) (p : Part) (f : Partition → Partition) : (s.modPart p f).repair = s.repair := rfl
@[simp] theorem State.modPart_fabric (s : State) (p : Part) (f : Partition → Partition) : (s.modPart p f).fabric = s.fabric := rfl
@[simp] theorem State.modPart_power (s : State) (p : Part) (f : Partition → Partition) : (s.modPart p f).power = s.power := rfl
@[simp] theorem State.modPart_mgmtA (s : State) (p : Part) (f : Partition → Partition) : (s.modPart p f).mgmtA = s.mgmtA := rfl
@[simp] theorem State.modPart_mgmtB (s : State) (p : Part) (f : Partition → Partition) : (s.modPart p f).mgmtB = s.mgmtB := rfl
@[simp] theorem State.modPart_sec (s : State) (p : Part) (f : Partition → Partition) : (s.modPart p f).sec = s.sec := rfl
@[simp] theorem State.modPart_now (s : State) (p : Part) (f : Partition → Partition) : (s.modPart p f).now = s.now := rfl
@[simp] theorem State.modPart_free (s : State) (p : Part) (f : Partition → Partition) : (s.modPart p f).free = s.free := rfl
@[simp] theorem State.modPart_found (s : State) (p : Part) (f : Partition → Partition) : (s.modPart p f).found = s.found := rfl
@[simp] theorem State.modPart_parts (s : State) (p : Part) (f : Partition → Partition) : (s.modPart p f).parts = s.parts.set p (f (s.part p)) := rfl

/-! ### setTile -/

@[simp] theorem State.setTile_pending (s : State) (t : Nat) (x : Tile) : (s.setTile t x).pending = s.pending := rfl
@[simp] theorem State.setTile_boot (s : State) (t : Nat) (x : Tile) : (s.setTile t x).boot = s.boot := rfl
@[simp] theorem State.setTile_regs (s : State) (t : Nat) (x : Tile) : (s.setTile t x).regs = s.regs := rfl
@[simp] theorem State.setTile_mem (s : State) (t : Nat) (x : Tile) : (s.setTile t x).mem = s.mem := rfl
@[simp] theorem State.setTile_host (s : State) (t : Nat) (x : Tile) : (s.setTile t x).host = s.host := rfl
@[simp] theorem State.setTile_parts (s : State) (t : Nat) (x : Tile) : (s.setTile t x).parts = s.parts := rfl
@[simp] theorem State.setTile_repair (s : State) (t : Nat) (x : Tile) : (s.setTile t x).repair = s.repair := rfl
@[simp] theorem State.setTile_fabric (s : State) (t : Nat) (x : Tile) : (s.setTile t x).fabric = s.fabric := rfl
@[simp] theorem State.setTile_power (s : State) (t : Nat) (x : Tile) : (s.setTile t x).power = s.power := rfl
@[simp] theorem State.setTile_mgmtA (s : State) (t : Nat) (x : Tile) : (s.setTile t x).mgmtA = s.mgmtA := rfl
@[simp] theorem State.setTile_mgmtB (s : State) (t : Nat) (x : Tile) : (s.setTile t x).mgmtB = s.mgmtB := rfl
@[simp] theorem State.setTile_sec (s : State) (t : Nat) (x : Tile) : (s.setTile t x).sec = s.sec := rfl
@[simp] theorem State.setTile_now (s : State) (t : Nat) (x : Tile) : (s.setTile t x).now = s.now := rfl
@[simp] theorem State.setTile_free (s : State) (t : Nat) (x : Tile) : (s.setTile t x).free = s.free := rfl
@[simp] theorem State.setTile_found (s : State) (t : Nat) (x : Tile) : (s.setTile t x).found = s.found := rfl
@[simp] theorem State.setTile_tiles (s : State) (t : Nat) (x : Tile) : (s.setTile t x).tiles = dset s.tiles t x := rfl

/-! ### modTile -/

@[simp] theorem State.modTile_pending (s : State) (t : Nat) (f : Tile → Tile) : (s.modTile t f).pending = s.pending := rfl
@[simp] theorem State.modTile_boot (s : State) (t : Nat) (f : Tile → Tile) : (s.modTile t f).boot = s.boot := rfl
@[simp] theorem State.modTile_regs (s : State) (t : Nat) (f : Tile → Tile) : (s.modTile t f).regs = s.regs := rfl
@[simp] theorem State.modTile_mem (s : State) (t : Nat) (f : Tile → Tile) : (s.modTile t f).mem = s.mem := rfl
@[simp] theorem State.modTile_host (s : State) (t : Nat) (f : Tile → Tile) : (s.modTile t f).host = s.host := rfl
@[simp] theorem State.modTile_parts (s : State) (t : Nat) (f : Tile → Tile) : (s.modTile t f).parts = s.parts := rfl
@[simp] theorem State.modTile_repair (s : State) (t : Nat) (f : Tile → Tile) : (s.modTile t f).repair = s.repair := rfl
@[simp] theorem State.modTile_fabric (s : State) (t : Nat) (f : Tile → Tile) : (s.modTile t f).fabric = s.fabric := rfl
@[simp] theorem State.modTile_power (s : State) (t : Nat) (f : Tile → Tile) : (s.modTile t f).power = s.power := rfl
@[simp] theorem State.modTile_mgmtA (s : State) (t : Nat) (f : Tile → Tile) : (s.modTile t f).mgmtA = s.mgmtA := rfl
@[simp] theorem State.modTile_mgmtB (s : State) (t : Nat) (f : Tile → Tile) : (s.modTile t f).mgmtB = s.mgmtB := rfl
@[simp] theorem State.modTile_sec (s : State) (t : Nat) (f : Tile → Tile) : (s.modTile t f).sec = s.sec := rfl
@[simp] theorem State.modTile_now (s : State) (t : Nat) (f : Tile → Tile) : (s.modTile t f).now = s.now := rfl
@[simp] theorem State.modTile_free (s : State) (t : Nat) (f : Tile → Tile) : (s.modTile t f).free = s.free := rfl
@[simp] theorem State.modTile_found (s : State) (t : Nat) (f : Tile → Tile) : (s.modTile t f).found = s.found := rfl
@[simp] theorem State.modTile_tiles (s : State) (t : Nat) (f : Tile → Tile) : (s.modTile t f).tiles = dset s.tiles t (f (s.tile t)) := rfl

/-! ### modRing -/

@[simp] theorem State.modRing_pending (s : State) (p : Part) (n : RingNo) (f : Ring → Ring) : (s.modRing p n f).pending = s.pending := rfl
@[simp] theorem State.modRing_boot (s : State) (p : Part) (n : RingNo) (f : Ring → Ring) : (s.modRing p n f).boot = s.boot := rfl
@[simp] theorem State.modRing_regs (s : State) (p : Part) (n : RingNo) (f : Ring → Ring) : (s.modRing p n f).regs = s.regs := rfl
@[simp] theorem State.modRing_mem (s : State) (p : Part) (n : RingNo) (f : Ring → Ring) : (s.modRing p n f).mem = s.mem := rfl
@[simp] theorem State.modRing_host (s : State) (p : Part) (n : RingNo) (f : Ring → Ring) : (s.modRing p n f).host = s.host := rfl
@[simp] theorem State.modRing_tiles (s : State) (p : Part) (n : RingNo) (f : Ring → Ring) : (s.modRing p n f).tiles = s.tiles := rfl
@[simp] theorem State.modRing_repair (s : State) (p : Part) (n : RingNo) (f : Ring → Ring) : (s.modRing p n f).repair = s.repair := rfl
@[simp] theorem State.modRing_fabric (s : State) (p : Part) (n : RingNo) (f : Ring → Ring) : (s.modRing p n f).fabric = s.fabric := rfl
@[simp] theorem State.modRing_power (s : State) (p : Part) (n : RingNo) (f : Ring → Ring) : (s.modRing p n f).power = s.power := rfl
@[simp] theorem State.modRing_mgmtA (s : State) (p : Part) (n : RingNo) (f : Ring → Ring) : (s.modRing p n f).mgmtA = s.mgmtA := rfl
@[simp] theorem State.modRing_mgmtB (s : State) (p : Part) (n : RingNo) (f : Ring → Ring) : (s.modRing p n f).mgmtB = s.mgmtB := rfl
@[simp] theorem State.modRing_sec (s : State) (p : Part) (n : RingNo) (f : Ring → Ring) : (s.modRing p n f).sec = s.sec := rfl
@[simp] theorem State.modRing_now (s : State) (p : Part) (n : RingNo) (f : Ring → Ring) : (s.modRing p n f).now = s.now := rfl
@[simp] theorem State.modRing_free (s : State) (p : Part) (n : RingNo) (f : Ring → Ring) : (s.modRing p n f).free = s.free := rfl
@[simp] theorem State.modRing_found (s : State) (p : Part) (n : RingNo) (f : Ring → Ring) : (s.modRing p n f).found = s.found := rfl

/-! ### modCmd -/

@[simp] theorem State.modCmd_pending (s : State) (p : Part) (o : Nat) (f : Cmd → Cmd) : (s.modCmd p o f).pending = s.pending := rfl
@[simp] theorem State.modCmd_boot (s : State) (p : Part) (o : Nat) (f : Cmd → Cmd) : (s.modCmd p o f).boot = s.boot := rfl
@[simp] theorem State.modCmd_regs (s : State) (p : Part) (o : Nat) (f : Cmd → Cmd) : (s.modCmd p o f).regs = s.regs := rfl
@[simp] theorem State.modCmd_mem (s : State) (p : Part) (o : Nat) (f : Cmd → Cmd) : (s.modCmd p o f).mem = s.mem := rfl
@[simp] theorem State.modCmd_host (s : State) (p : Part) (o : Nat) (f : Cmd → Cmd) : (s.modCmd p o f).host = s.host := rfl
@[simp] theorem State.modCmd_tiles (s : State) (p : Part) (o : Nat) (f : Cmd → Cmd) : (s.modCmd p o f).tiles = s.tiles := rfl
@[simp] theorem State.modCmd_repair (s : State) (p : Part) (o : Nat) (f : Cmd → Cmd) : (s.modCmd p o f).repair = s.repair := rfl
@[simp] theorem State.modCmd_fabric (s : State) (p : Part) (o : Nat) (f : Cmd → Cmd) : (s.modCmd p o f).fabric = s.fabric := rfl
@[simp] theorem State.modCmd_power (s : State) (p : Part) (o : Nat) (f : Cmd → Cmd) : (s.modCmd p o f).power = s.power := rfl
@[simp] theorem State.modCmd_mgmtA (s : State) (p : Part) (o : Nat) (f : Cmd → Cmd) : (s.modCmd p o f).mgmtA = s.mgmtA := rfl
@[simp] theorem State.modCmd_mgmtB (s : State) (p : Part) (o : Nat) (f : Cmd → Cmd) : (s.modCmd p o f).mgmtB = s.mgmtB := rfl
@[simp] theorem State.modCmd_sec (s : State) (p : Part) (o : Nat) (f : Cmd → Cmd) : (s.modCmd p o f).sec = s.sec := rfl
@[simp] theorem State.modCmd_now (s : State) (p : Part) (o : Nat) (f : Cmd → Cmd) : (s.modCmd p o f).now = s.now := rfl
@[simp] theorem State.modCmd_free (s : State) (p : Part) (o : Nat) (f : Cmd → Cmd) : (s.modCmd p o f).free = s.free := rfl
@[simp] theorem State.modCmd_found (s : State) (p : Part) (o : Nat) (f : Cmd → Cmd) : (s.modCmd p o f).found = s.found := rfl

/-! ### modPort -/

@[simp] theorem State.modPort_pending (s : State) (u : PortNo) (f : Port → Port) : (s.modPort u f).pending = s.pending := rfl
@[simp] theorem State.modPort_boot (s : State) (u : PortNo) (f : Port → Port) : (s.modPort u f).boot = s.boot := rfl
@[simp] theorem State.modPort_regs (s : State) (u : PortNo) (f : Port → Port) : (s.modPort u f).regs = s.regs := rfl
@[simp] theorem State.modPort_mem (s : State) (u : PortNo) (f : Port → Port) : (s.modPort u f).mem = s.mem := rfl
@[simp] theorem State.modPort_host (s : State) (u : PortNo) (f : Port → Port) : (s.modPort u f).host = s.host := rfl
@[simp] theorem State.modPort_parts (s : State) (u : PortNo) (f : Port → Port) : (s.modPort u f).parts = s.parts := rfl
@[simp] theorem State.modPort_tiles (s : State) (u : PortNo) (f : Port → Port) : (s.modPort u f).tiles = s.tiles := rfl
@[simp] theorem State.modPort_repair (s : State) (u : PortNo) (f : Port → Port) : (s.modPort u f).repair = s.repair := rfl
@[simp] theorem State.modPort_power (s : State) (u : PortNo) (f : Port → Port) : (s.modPort u f).power = s.power := rfl
@[simp] theorem State.modPort_mgmtA (s : State) (u : PortNo) (f : Port → Port) : (s.modPort u f).mgmtA = s.mgmtA := rfl
@[simp] theorem State.modPort_mgmtB (s : State) (u : PortNo) (f : Port → Port) : (s.modPort u f).mgmtB = s.mgmtB := rfl
@[simp] theorem State.modPort_sec (s : State) (u : PortNo) (f : Port → Port) : (s.modPort u f).sec = s.sec := rfl
@[simp] theorem State.modPort_now (s : State) (u : PortNo) (f : Port → Port) : (s.modPort u f).now = s.now := rfl
@[simp] theorem State.modPort_free (s : State) (u : PortNo) (f : Port → Port) : (s.modPort u f).free = s.free := rfl
@[simp] theorem State.modPort_found (s : State) (u : PortNo) (f : Port → Port) : (s.modPort u f).found = s.found := rfl

/-! ### modFabric -/

@[simp] theorem State.modFabric_pending (s : State) (f : Fabric → Fabric) : (s.modFabric f).pending = s.pending := rfl
@[simp] theorem State.modFabric_boot (s : State) (f : Fabric → Fabric) : (s.modFabric f).boot = s.boot := rfl
@[simp] theorem State.modFabric_regs (s : State) (f : Fabric → Fabric) : (s.modFabric f).regs = s.regs := rfl
@[simp] theorem State.modFabric_mem (s : State) (f : Fabric → Fabric) : (s.modFabric f).mem = s.mem := rfl
@[simp] theorem State.modFabric_host (s : State) (f : Fabric → Fabric) : (s.modFabric f).host = s.host := rfl
@[simp] theorem State.modFabric_parts (s : State) (f : Fabric → Fabric) : (s.modFabric f).parts = s.parts := rfl
@[simp] theorem State.modFabric_tiles (s : State) (f : Fabric → Fabric) : (s.modFabric f).tiles = s.tiles := rfl
@[simp] theorem State.modFabric_repair (s : State) (f : Fabric → Fabric) : (s.modFabric f).repair = s.repair := rfl
@[simp] theorem State.modFabric_power (s : State) (f : Fabric → Fabric) : (s.modFabric f).power = s.power := rfl
@[simp] theorem State.modFabric_mgmtA (s : State) (f : Fabric → Fabric) : (s.modFabric f).mgmtA = s.mgmtA := rfl
@[simp] theorem State.modFabric_mgmtB (s : State) (f : Fabric → Fabric) : (s.modFabric f).mgmtB = s.mgmtB := rfl
@[simp] theorem State.modFabric_sec (s : State) (f : Fabric → Fabric) : (s.modFabric f).sec = s.sec := rfl
@[simp] theorem State.modFabric_now (s : State) (f : Fabric → Fabric) : (s.modFabric f).now = s.now := rfl
@[simp] theorem State.modFabric_free (s : State) (f : Fabric → Fabric) : (s.modFabric f).free = s.free := rfl
@[simp] theorem State.modFabric_found (s : State) (f : Fabric → Fabric) : (s.modFabric f).found = s.found := rfl
@[simp] theorem State.modFabric_fabric (s : State) (f : Fabric → Fabric) : (s.modFabric f).fabric = f s.fabric := rfl

/-! ### modPower -/

@[simp] theorem State.modPower_pending (s : State) (f : Power → Power) : (s.modPower f).pending = s.pending := rfl
@[simp] theorem State.modPower_boot (s : State) (f : Power → Power) : (s.modPower f).boot = s.boot := rfl
@[simp] theorem State.modPower_regs (s : State) (f : Power → Power) : (s.modPower f).regs = s.regs := rfl
@[simp] theorem State.modPower_mem (s : State) (f : Power → Power) : (s.modPower f).mem = s.mem := rfl
@[simp] theorem State.modPower_host (s : State) (f : Power → Power) : (s.modPower f).host = s.host := rfl
@[simp] theorem State.modPower_parts (s : State) (f : Power → Power) : (s.modPower f).parts = s.parts := rfl
@[simp] theorem State.modPower_tiles (s : State) (f : Power → Power) : (s.modPower f).tiles = s.tiles := rfl
@[simp] theorem State.modPower_repair (s : State) (f : Power → Power) : (s.modPower f).repair = s.repair := rfl
@[simp] theorem State.modPower_fabric (s : State) (f : Power → Power) : (s.modPower f).fabric = s.fabric := rfl
@[simp] theorem State.modPower_mgmtA (s : State) (f : Power → Power) : (s.modPower f).mgmtA = s.mgmtA := rfl
@[simp] theorem State.modPower_mgmtB (s : State) (f : Power → Power) : (s.modPower f).mgmtB = s.mgmtB := rfl
@[simp] theorem State.modPower_sec (s : State) (f : Power → Power) : (s.modPower f).sec = s.sec := rfl
@[simp] theorem State.modPower_now (s : State) (f : Power → Power) : (s.modPower f).now = s.now := rfl
@[simp] theorem State.modPower_free (s : State) (f : Power → Power) : (s.modPower f).free = s.free := rfl
@[simp] theorem State.modPower_found (s : State) (f : Power → Power) : (s.modPower f).found = s.found := rfl
@[simp] theorem State.modPower_power (s : State) (f : Power → Power) : (s.modPower f).power = f s.power := rfl

/-! ### modRepair -/

@[simp] theorem State.modRepair_pending (s : State) (f : Repair → Repair) : (s.modRepair f).pending = s.pending := rfl
@[simp] theorem State.modRepair_boot (s : State) (f : Repair → Repair) : (s.modRepair f).boot = s.boot := rfl
@[simp] theorem State.modRepair_regs (s : State) (f : Repair → Repair) : (s.modRepair f).regs = s.regs := rfl
@[simp] theorem State.modRepair_mem (s : State) (f : Repair → Repair) : (s.modRepair f).mem = s.mem := rfl
@[simp] theorem State.modRepair_host (s : State) (f : Repair → Repair) : (s.modRepair f).host = s.host := rfl
@[simp] theorem State.modRepair_parts (s : State) (f : Repair → Repair) : (s.modRepair f).parts = s.parts := rfl
@[simp] theorem State.modRepair_tiles (s : State) (f : Repair → Repair) : (s.modRepair f).tiles = s.tiles := rfl
@[simp] theorem State.modRepair_fabric (s : State) (f : Repair → Repair) : (s.modRepair f).fabric = s.fabric := rfl
@[simp] theorem State.modRepair_power (s : State) (f : Repair → Repair) : (s.modRepair f).power = s.power := rfl
@[simp] theorem State.modRepair_mgmtA (s : State) (f : Repair → Repair) : (s.modRepair f).mgmtA = s.mgmtA := rfl
@[simp] theorem State.modRepair_mgmtB (s : State) (f : Repair → Repair) : (s.modRepair f).mgmtB = s.mgmtB := rfl
@[simp] theorem State.modRepair_sec (s : State) (f : Repair → Repair) : (s.modRepair f).sec = s.sec := rfl
@[simp] theorem State.modRepair_now (s : State) (f : Repair → Repair) : (s.modRepair f).now = s.now := rfl
@[simp] theorem State.modRepair_free (s : State) (f : Repair → Repair) : (s.modRepair f).free = s.free := rfl
@[simp] theorem State.modRepair_found (s : State) (f : Repair → Repair) : (s.modRepair f).found = s.found := rfl
@[simp] theorem State.modRepair_repair (s : State) (f : Repair → Repair) : (s.modRepair f).repair = f s.repair := rfl

/-! ### modSec -/

@[simp] theorem State.modSec_pending (s : State) (f : Security → Security) : (s.modSec f).pending = s.pending := rfl
@[simp] theorem State.modSec_boot (s : State) (f : Security → Security) : (s.modSec f).boot = s.boot := rfl
@[simp] theorem State.modSec_regs (s : State) (f : Security → Security) : (s.modSec f).regs = s.regs := rfl
@[simp] theorem State.modSec_mem (s : State) (f : Security → Security) : (s.modSec f).mem = s.mem := rfl
@[simp] theorem State.modSec_host (s : State) (f : Security → Security) : (s.modSec f).host = s.host := rfl
@[simp] theorem State.modSec_parts (s : State) (f : Security → Security) : (s.modSec f).parts = s.parts := rfl
@[simp] theorem State.modSec_tiles (s : State) (f : Security → Security) : (s.modSec f).tiles = s.tiles := rfl
@[simp] theorem State.modSec_repair (s : State) (f : Security → Security) : (s.modSec f).repair = s.repair := rfl
@[simp] theorem State.modSec_fabric (s : State) (f : Security → Security) : (s.modSec f).fabric = s.fabric := rfl
@[simp] theorem State.modSec_power (s : State) (f : Security → Security) : (s.modSec f).power = s.power := rfl
@[simp] theorem State.modSec_mgmtA (s : State) (f : Security → Security) : (s.modSec f).mgmtA = s.mgmtA := rfl
@[simp] theorem State.modSec_mgmtB (s : State) (f : Security → Security) : (s.modSec f).mgmtB = s.mgmtB := rfl
@[simp] theorem State.modSec_now (s : State) (f : Security → Security) : (s.modSec f).now = s.now := rfl
@[simp] theorem State.modSec_free (s : State) (f : Security → Security) : (s.modSec f).free = s.free := rfl
@[simp] theorem State.modSec_found (s : State) (f : Security → Security) : (s.modSec f).found = s.found := rfl
@[simp] theorem State.modSec_sec (s : State) (f : Security → Security) : (s.modSec f).sec = f s.sec := rfl

/-! ### setReg -/

@[simp] theorem State.setReg_pending (s : State) (n : RegName) (i v : Nat) : (s.setReg n i v).pending = s.pending := rfl
@[simp] theorem State.setReg_boot (s : State) (n : RegName) (i v : Nat) : (s.setReg n i v).boot = s.boot := rfl
@[simp] theorem State.setReg_mem (s : State) (n : RegName) (i v : Nat) : (s.setReg n i v).mem = s.mem := rfl
@[simp] theorem State.setReg_host (s : State) (n : RegName) (i v : Nat) : (s.setReg n i v).host = s.host := rfl
@[simp] theorem State.setReg_parts (s : State) (n : RegName) (i v : Nat) : (s.setReg n i v).parts = s.parts := rfl
@[simp] theorem State.setReg_tiles (s : State) (n : RegName) (i v : Nat) : (s.setReg n i v).tiles = s.tiles := rfl
@[simp] theorem State.setReg_repair (s : State) (n : RegName) (i v : Nat) : (s.setReg n i v).repair = s.repair := rfl
@[simp] theorem State.setReg_fabric (s : State) (n : RegName) (i v : Nat) : (s.setReg n i v).fabric = s.fabric := rfl
@[simp] theorem State.setReg_power (s : State) (n : RegName) (i v : Nat) : (s.setReg n i v).power = s.power := rfl
@[simp] theorem State.setReg_mgmtA (s : State) (n : RegName) (i v : Nat) : (s.setReg n i v).mgmtA = s.mgmtA := rfl
@[simp] theorem State.setReg_mgmtB (s : State) (n : RegName) (i v : Nat) : (s.setReg n i v).mgmtB = s.mgmtB := rfl
@[simp] theorem State.setReg_sec (s : State) (n : RegName) (i v : Nat) : (s.setReg n i v).sec = s.sec := rfl
@[simp] theorem State.setReg_now (s : State) (n : RegName) (i v : Nat) : (s.setReg n i v).now = s.now := rfl
@[simp] theorem State.setReg_free (s : State) (n : RegName) (i v : Nat) : (s.setReg n i v).free = s.free := rfl
@[simp] theorem State.setReg_found (s : State) (n : RegName) (i v : Nat) : (s.setReg n i v).found = s.found := rfl
@[simp] theorem State.setReg_regs (s : State) (n : RegName) (i v : Nat) : (s.setReg n i v).regs = dset s.regs (regKey n i) (BitVec.ofNat 64 v) := rfl

/-! ### setRegBits -/

@[simp] theorem State.setRegBits_pending (s : State) (n : RegName) (i lo w x : Nat) : (s.setRegBits n i lo w x).pending = s.pending := rfl
@[simp] theorem State.setRegBits_boot (s : State) (n : RegName) (i lo w x : Nat) : (s.setRegBits n i lo w x).boot = s.boot := rfl
@[simp] theorem State.setRegBits_mem (s : State) (n : RegName) (i lo w x : Nat) : (s.setRegBits n i lo w x).mem = s.mem := rfl
@[simp] theorem State.setRegBits_host (s : State) (n : RegName) (i lo w x : Nat) : (s.setRegBits n i lo w x).host = s.host := rfl
@[simp] theorem State.setRegBits_parts (s : State) (n : RegName) (i lo w x : Nat) : (s.setRegBits n i lo w x).parts = s.parts := rfl
@[simp] theorem State.setRegBits_tiles (s : State) (n : RegName) (i lo w x : Nat) : (s.setRegBits n i lo w x).tiles = s.tiles := rfl
@[simp] theorem State.setRegBits_repair (s : State) (n : RegName) (i lo w x : Nat) : (s.setRegBits n i lo w x).repair = s.repair := rfl
@[simp] theorem State.setRegBits_fabric (s : State) (n : RegName) (i lo w x : Nat) : (s.setRegBits n i lo w x).fabric = s.fabric := rfl
@[simp] theorem State.setRegBits_power (s : State) (n : RegName) (i lo w x : Nat) : (s.setRegBits n i lo w x).power = s.power := rfl
@[simp] theorem State.setRegBits_mgmtA (s : State) (n : RegName) (i lo w x : Nat) : (s.setRegBits n i lo w x).mgmtA = s.mgmtA := rfl
@[simp] theorem State.setRegBits_mgmtB (s : State) (n : RegName) (i lo w x : Nat) : (s.setRegBits n i lo w x).mgmtB = s.mgmtB := rfl
@[simp] theorem State.setRegBits_sec (s : State) (n : RegName) (i lo w x : Nat) : (s.setRegBits n i lo w x).sec = s.sec := rfl
@[simp] theorem State.setRegBits_now (s : State) (n : RegName) (i lo w x : Nat) : (s.setRegBits n i lo w x).now = s.now := rfl
@[simp] theorem State.setRegBits_free (s : State) (n : RegName) (i lo w x : Nat) : (s.setRegBits n i lo w x).free = s.free := rfl
@[simp] theorem State.setRegBits_found (s : State) (n : RegName) (i lo w x : Nat) : (s.setRegBits n i lo w x).found = s.found := rfl

/-! ### clearReg -/

@[simp] theorem State.clearReg_pending (s : State) (n : RegName) (i : Nat) : (s.clearReg n i).pending = s.pending := rfl
@[simp] theorem State.clearReg_boot (s : State) (n : RegName) (i : Nat) : (s.clearReg n i).boot = s.boot := rfl
@[simp] theorem State.clearReg_mem (s : State) (n : RegName) (i : Nat) : (s.clearReg n i).mem = s.mem := rfl
@[simp] theorem State.clearReg_host (s : State) (n : RegName) (i : Nat) : (s.clearReg n i).host = s.host := rfl
@[simp] theorem State.clearReg_parts (s : State) (n : RegName) (i : Nat) : (s.clearReg n i).parts = s.parts := rfl
@[simp] theorem State.clearReg_tiles (s : State) (n : RegName) (i : Nat) : (s.clearReg n i).tiles = s.tiles := rfl
@[simp] theorem State.clearReg_repair (s : State) (n : RegName) (i : Nat) : (s.clearReg n i).repair = s.repair := rfl
@[simp] theorem State.clearReg_fabric (s : State) (n : RegName) (i : Nat) : (s.clearReg n i).fabric = s.fabric := rfl
@[simp] theorem State.clearReg_power (s : State) (n : RegName) (i : Nat) : (s.clearReg n i).power = s.power := rfl
@[simp] theorem State.clearReg_mgmtA (s : State) (n : RegName) (i : Nat) : (s.clearReg n i).mgmtA = s.mgmtA := rfl
@[simp] theorem State.clearReg_mgmtB (s : State) (n : RegName) (i : Nat) : (s.clearReg n i).mgmtB = s.mgmtB := rfl
@[simp] theorem State.clearReg_sec (s : State) (n : RegName) (i : Nat) : (s.clearReg n i).sec = s.sec := rfl
@[simp] theorem State.clearReg_now (s : State) (n : RegName) (i : Nat) : (s.clearReg n i).now = s.now := rfl
@[simp] theorem State.clearReg_free (s : State) (n : RegName) (i : Nat) : (s.clearReg n i).free = s.free := rfl
@[simp] theorem State.clearReg_found (s : State) (n : RegName) (i : Nat) : (s.clearReg n i).found = s.found := rfl
@[simp] theorem State.clearReg_regs (s : State) (n : RegName) (i : Nat) : (s.clearReg n i).regs = derase s.regs (regKey n i) := rfl

/-! ### count -/

@[simp] theorem State.count_pending (s : State) (n : RegName) (i k : Nat) : (s.count n i k).pending = s.pending := rfl
@[simp] theorem State.count_boot (s : State) (n : RegName) (i k : Nat) : (s.count n i k).boot = s.boot := rfl
@[simp] theorem State.count_mem (s : State) (n : RegName) (i k : Nat) : (s.count n i k).mem = s.mem := rfl
@[simp] theorem State.count_host (s : State) (n : RegName) (i k : Nat) : (s.count n i k).host = s.host := rfl
@[simp] theorem State.count_parts (s : State) (n : RegName) (i k : Nat) : (s.count n i k).parts = s.parts := rfl
@[simp] theorem State.count_tiles (s : State) (n : RegName) (i k : Nat) : (s.count n i k).tiles = s.tiles := rfl
@[simp] theorem State.count_repair (s : State) (n : RegName) (i k : Nat) : (s.count n i k).repair = s.repair := rfl
@[simp] theorem State.count_fabric (s : State) (n : RegName) (i k : Nat) : (s.count n i k).fabric = s.fabric := rfl
@[simp] theorem State.count_power (s : State) (n : RegName) (i k : Nat) : (s.count n i k).power = s.power := rfl
@[simp] theorem State.count_mgmtA (s : State) (n : RegName) (i k : Nat) : (s.count n i k).mgmtA = s.mgmtA := rfl
@[simp] theorem State.count_mgmtB (s : State) (n : RegName) (i k : Nat) : (s.count n i k).mgmtB = s.mgmtB := rfl
@[simp] theorem State.count_sec (s : State) (n : RegName) (i k : Nat) : (s.count n i k).sec = s.sec := rfl
@[simp] theorem State.count_now (s : State) (n : RegName) (i k : Nat) : (s.count n i k).now = s.now := rfl
@[simp] theorem State.count_free (s : State) (n : RegName) (i k : Nat) : (s.count n i k).free = s.free := rfl
@[simp] theorem State.count_found (s : State) (n : RegName) (i k : Nat) : (s.count n i k).found = s.found := rfl

/-! ### hostWrite -/

@[simp] theorem State.hostWrite_pending (s : State) (a : Nat) (bs : List Byte) : (s.hostWrite a bs).pending = s.pending := rfl
@[simp] theorem State.hostWrite_boot (s : State) (a : Nat) (bs : List Byte) : (s.hostWrite a bs).boot = s.boot := rfl
@[simp] theorem State.hostWrite_regs (s : State) (a : Nat) (bs : List Byte) : (s.hostWrite a bs).regs = s.regs := rfl
@[simp] theorem State.hostWrite_mem (s : State) (a : Nat) (bs : List Byte) : (s.hostWrite a bs).mem = s.mem := rfl
@[simp] theorem State.hostWrite_parts (s : State) (a : Nat) (bs : List Byte) : (s.hostWrite a bs).parts = s.parts := rfl
@[simp] theorem State.hostWrite_tiles (s : State) (a : Nat) (bs : List Byte) : (s.hostWrite a bs).tiles = s.tiles := rfl
@[simp] theorem State.hostWrite_repair (s : State) (a : Nat) (bs : List Byte) : (s.hostWrite a bs).repair = s.repair := rfl
@[simp] theorem State.hostWrite_fabric (s : State) (a : Nat) (bs : List Byte) : (s.hostWrite a bs).fabric = s.fabric := rfl
@[simp] theorem State.hostWrite_power (s : State) (a : Nat) (bs : List Byte) : (s.hostWrite a bs).power = s.power := rfl
@[simp] theorem State.hostWrite_mgmtA (s : State) (a : Nat) (bs : List Byte) : (s.hostWrite a bs).mgmtA = s.mgmtA := rfl
@[simp] theorem State.hostWrite_mgmtB (s : State) (a : Nat) (bs : List Byte) : (s.hostWrite a bs).mgmtB = s.mgmtB := rfl
@[simp] theorem State.hostWrite_sec (s : State) (a : Nat) (bs : List Byte) : (s.hostWrite a bs).sec = s.sec := rfl
@[simp] theorem State.hostWrite_now (s : State) (a : Nat) (bs : List Byte) : (s.hostWrite a bs).now = s.now := rfl
@[simp] theorem State.hostWrite_free (s : State) (a : Nat) (bs : List Byte) : (s.hostWrite a bs).free = s.free := rfl
@[simp] theorem State.hostWrite_found (s : State) (a : Nat) (bs : List Byte) : (s.hostWrite a bs).found = s.found := rfl

/-! ### writePlace -/

@[simp] theorem State.writePlace_pending (s : State) (x : Nat) (b : Byte) : (s.writePlace x b).pending = s.pending := rfl
@[simp] theorem State.writePlace_boot (s : State) (x : Nat) (b : Byte) : (s.writePlace x b).boot = s.boot := rfl
@[simp] theorem State.writePlace_regs (s : State) (x : Nat) (b : Byte) : (s.writePlace x b).regs = s.regs := rfl
@[simp] theorem State.writePlace_host (s : State) (x : Nat) (b : Byte) : (s.writePlace x b).host = s.host := rfl
@[simp] theorem State.writePlace_parts (s : State) (x : Nat) (b : Byte) : (s.writePlace x b).parts = s.parts := rfl
@[simp] theorem State.writePlace_tiles (s : State) (x : Nat) (b : Byte) : (s.writePlace x b).tiles = s.tiles := rfl
@[simp] theorem State.writePlace_repair (s : State) (x : Nat) (b : Byte) : (s.writePlace x b).repair = s.repair := rfl
@[simp] theorem State.writePlace_fabric (s : State) (x : Nat) (b : Byte) : (s.writePlace x b).fabric = s.fabric := rfl
@[simp] theorem State.writePlace_power (s : State) (x : Nat) (b : Byte) : (s.writePlace x b).power = s.power := rfl
@[simp] theorem State.writePlace_mgmtA (s : State) (x : Nat) (b : Byte) : (s.writePlace x b).mgmtA = s.mgmtA := rfl
@[simp] theorem State.writePlace_mgmtB (s : State) (x : Nat) (b : Byte) : (s.writePlace x b).mgmtB = s.mgmtB := rfl
@[simp] theorem State.writePlace_sec (s : State) (x : Nat) (b : Byte) : (s.writePlace x b).sec = s.sec := rfl
@[simp] theorem State.writePlace_now (s : State) (x : Nat) (b : Byte) : (s.writePlace x b).now = s.now := rfl
@[simp] theorem State.writePlace_free (s : State) (x : Nat) (b : Byte) : (s.writePlace x b).free = s.free := rfl
@[simp] theorem State.writePlace_found (s : State) (x : Nat) (b : Byte) : (s.writePlace x b).found = s.found := rfl
@[simp] theorem State.writePlace_mem (s : State) (x : Nat) (b : Byte) : (s.writePlace x b).mem = s.mem.write x b := rfl

/-! ### openPlaces -/

@[simp] theorem State.openPlaces_pending (s : State) (lo len : Nat) : (s.openPlaces lo len).pending = s.pending := rfl
@[simp] theorem State.openPlaces_boot (s : State) (lo len : Nat) : (s.openPlaces lo len).boot = s.boot := rfl
@[simp] theorem State.openPlaces_regs (s : State) (lo len : Nat) : (s.openPlaces lo len).regs = s.regs := rfl
@[simp] theorem State.openPlaces_host (s : State) (lo len : Nat) : (s.openPlaces lo len).host = s.host := rfl
@[simp] theorem State.openPlaces_parts (s : State) (lo len : Nat) : (s.openPlaces lo len).parts = s.parts := rfl
@[simp] theorem State.openPlaces_tiles (s : State) (lo len : Nat) : (s.openPlaces lo len).tiles = s.tiles := rfl
@[simp] theorem State.openPlaces_repair (s : State) (lo len : Nat) : (s.openPlaces lo len).repair = s.repair := rfl
@[simp] theorem State.openPlaces_fabric (s : State) (lo len : Nat) : (s.openPlaces lo len).fabric = s.fabric := rfl
@[simp] theorem State.openPlaces_power (s : State) (lo len : Nat) : (s.openPlaces lo len).power = s.power := rfl
@[simp] theorem State.openPlaces_mgmtA (s : State) (lo len : Nat) : (s.openPlaces lo len).mgmtA = s.mgmtA := rfl
@[simp] theorem State.openPlaces_mgmtB (s : State) (lo len : Nat) : (s.openPlaces lo len).mgmtB = s.mgmtB := rfl
@[simp] theorem State.openPlaces_sec (s : State) (lo len : Nat) : (s.openPlaces lo len).sec = s.sec := rfl
@[simp] theorem State.openPlaces_now (s : State) (lo len : Nat) : (s.openPlaces lo len).now = s.now := rfl

/-! ### advanceTo -/

@[simp] theorem State.advanceTo_pending (s : State) (t : Nat) : (s.advanceTo t).pending = s.pending := rfl
@[simp] theorem State.advanceTo_boot (s : State) (t : Nat) : (s.advanceTo t).boot = s.boot := rfl
@[simp] theorem State.advanceTo_regs (s : State) (t : Nat) : (s.advanceTo t).regs = s.regs := rfl
@[simp] theorem State.advanceTo_mem (s : State) (t : Nat) : (s.advanceTo t).mem = s.mem := rfl
@[simp] theorem State.advanceTo_host (s : State) (t : Nat) : (s.advanceTo t).host = s.host := rfl
@[simp] theorem State.advanceTo_parts (s : State) (t : Nat) : (s.advanceTo t).parts = s.parts := rfl
@[simp] theorem State.advanceTo_tiles (s : State) (t : Nat) : (s.advanceTo t).tiles = s.tiles := rfl
@[simp] theorem State.advanceTo_repair (s : State) (t : Nat) : (s.advanceTo t).repair = s.repair := rfl
@[simp] theorem State.advanceTo_power (s : State) (t : Nat) : (s.advanceTo t).power = s.power := rfl
@[simp] theorem State.advanceTo_mgmtA (s : State) (t : Nat) : (s.advanceTo t).mgmtA = s.mgmtA := rfl
@[simp] theorem State.advanceTo_mgmtB (s : State) (t : Nat) : (s.advanceTo t).mgmtB = s.mgmtB := rfl
@[simp] theorem State.advanceTo_sec (s : State) (t : Nat) : (s.advanceTo t).sec = s.sec := rfl
@[simp] theorem State.advanceTo_free (s : State) (t : Nat) : (s.advanceTo t).free = s.free := rfl
@[simp] theorem State.advanceTo_found (s : State) (t : Nat) : (s.advanceTo t).found = s.found := rfl
@[simp] theorem State.advanceTo_now (s : State) (t : Nat) : (s.advanceTo t).now = max s.now t := rfl

/-! ### modSpace -/

@[simp] theorem State.modSpace_pending (s : State) (f : Func) (g : CfgSpace → CfgSpace) : (s.modSpace f g).pending = s.pending := rfl
@[simp] theorem State.modSpace_boot (s : State) (f : Func) (g : CfgSpace → CfgSpace) : (s.modSpace f g).boot = s.boot := rfl
@[simp] theorem State.modSpace_regs (s : State) (f : Func) (g : CfgSpace → CfgSpace) : (s.modSpace f g).regs = s.regs := rfl
@[simp] theorem State.modSpace_mem (s : State) (f : Func) (g : CfgSpace → CfgSpace) : (s.modSpace f g).mem = s.mem := rfl
@[simp] theorem State.modSpace_parts (s : State) (f : Func) (g : CfgSpace → CfgSpace) : (s.modSpace f g).parts = s.parts := rfl
@[simp] theorem State.modSpace_tiles (s : State) (f : Func) (g : CfgSpace → CfgSpace) : (s.modSpace f g).tiles = s.tiles := rfl
@[simp] theorem State.modSpace_repair (s : State) (f : Func) (g : CfgSpace → CfgSpace) : (s.modSpace f g).repair = s.repair := rfl
@[simp] theorem State.modSpace_fabric (s : State) (f : Func) (g : CfgSpace → CfgSpace) : (s.modSpace f g).fabric = s.fabric := rfl
@[simp] theorem State.modSpace_power (s : State) (f : Func) (g : CfgSpace → CfgSpace) : (s.modSpace f g).power = s.power := rfl
@[simp] theorem State.modSpace_mgmtA (s : State) (f : Func) (g : CfgSpace → CfgSpace) : (s.modSpace f g).mgmtA = s.mgmtA := rfl
@[simp] theorem State.modSpace_mgmtB (s : State) (f : Func) (g : CfgSpace → CfgSpace) : (s.modSpace f g).mgmtB = s.mgmtB := rfl
@[simp] theorem State.modSpace_sec (s : State) (f : Func) (g : CfgSpace → CfgSpace) : (s.modSpace f g).sec = s.sec := rfl
@[simp] theorem State.modSpace_now (s : State) (f : Func) (g : CfgSpace → CfgSpace) : (s.modSpace f g).now = s.now := rfl
@[simp] theorem State.modSpace_free (s : State) (f : Func) (g : CfgSpace → CfgSpace) : (s.modSpace f g).free = s.free := rfl
@[simp] theorem State.modSpace_found (s : State) (f : Func) (g : CfgSpace → CfgSpace) : (s.modSpace f g).found = s.found := rfl

/-! ### answerCfg -/

@[simp] theorem State.answerCfg_pending (s : State) (a : CfgAnswer) : (s.answerCfg a).pending = s.pending := rfl
@[simp] theorem State.answerCfg_boot (s : State) (a : CfgAnswer) : (s.answerCfg a).boot = s.boot := rfl
@[simp] theorem State.answerCfg_regs (s : State) (a : CfgAnswer) : (s.answerCfg a).regs = s.regs := rfl
@[simp] theorem State.answerCfg_mem (s : State) (a : CfgAnswer) : (s.answerCfg a).mem = s.mem := rfl
@[simp] theorem State.answerCfg_parts (s : State) (a : CfgAnswer) : (s.answerCfg a).parts = s.parts := rfl
@[simp] theorem State.answerCfg_tiles (s : State) (a : CfgAnswer) : (s.answerCfg a).tiles = s.tiles := rfl
@[simp] theorem State.answerCfg_repair (s : State) (a : CfgAnswer) : (s.answerCfg a).repair = s.repair := rfl
@[simp] theorem State.answerCfg_fabric (s : State) (a : CfgAnswer) : (s.answerCfg a).fabric = s.fabric := rfl
@[simp] theorem State.answerCfg_power (s : State) (a : CfgAnswer) : (s.answerCfg a).power = s.power := rfl
@[simp] theorem State.answerCfg_mgmtA (s : State) (a : CfgAnswer) : (s.answerCfg a).mgmtA = s.mgmtA := rfl
@[simp] theorem State.answerCfg_mgmtB (s : State) (a : CfgAnswer) : (s.answerCfg a).mgmtB = s.mgmtB := rfl
@[simp] theorem State.answerCfg_sec (s : State) (a : CfgAnswer) : (s.answerCfg a).sec = s.sec := rfl
@[simp] theorem State.answerCfg_now (s : State) (a : CfgAnswer) : (s.answerCfg a).now = s.now := rfl
@[simp] theorem State.answerCfg_free (s : State) (a : CfgAnswer) : (s.answerCfg a).free = s.free := rfl
@[simp] theorem State.answerCfg_found (s : State) (a : CfgAnswer) : (s.answerCfg a).found = s.found := rfl

/-! ### hold -/

@[simp] theorem State.hold_pending (s : State) (h : Option (Nat × W32)) : (s.hold h).pending = s.pending := rfl
@[simp] theorem State.hold_boot (s : State) (h : Option (Nat × W32)) : (s.hold h).boot = s.boot := rfl
@[simp] theorem State.hold_regs (s : State) (h : Option (Nat × W32)) : (s.hold h).regs = s.regs := rfl
@[simp] theorem State.hold_mem (s : State) (h : Option (Nat × W32)) : (s.hold h).mem = s.mem := rfl
@[simp] theorem State.hold_parts (s : State) (h : Option (Nat × W32)) : (s.hold h).parts = s.parts := rfl
@[simp] theorem State.hold_tiles (s : State) (h : Option (Nat × W32)) : (s.hold h).tiles = s.tiles := rfl
@[simp] theorem State.hold_repair (s : State) (h : Option (Nat × W32)) : (s.hold h).repair = s.repair := rfl
@[simp] theorem State.hold_fabric (s : State) (h : Option (Nat × W32)) : (s.hold h).fabric = s.fabric := rfl
@[simp] theorem State.hold_power (s : State) (h : Option (Nat × W32)) : (s.hold h).power = s.power := rfl
@[simp] theorem State.hold_mgmtA (s : State) (h : Option (Nat × W32)) : (s.hold h).mgmtA = s.mgmtA := rfl
@[simp] theorem State.hold_mgmtB (s : State) (h : Option (Nat × W32)) : (s.hold h).mgmtB = s.mgmtB := rfl
@[simp] theorem State.hold_sec (s : State) (h : Option (Nat × W32)) : (s.hold h).sec = s.sec := rfl
@[simp] theorem State.hold_now (s : State) (h : Option (Nat × W32)) : (s.hold h).now = s.now := rfl
@[simp] theorem State.hold_free (s : State) (h : Option (Nat × W32)) : (s.hold h).free = s.free := rfl
@[simp] theorem State.hold_found (s : State) (h : Option (Nat × W32)) : (s.hold h).found = s.found := rfl

end Sys2Proof.Machine
end

