-- ==== Sys2Proof/Laws/Store.lean ====
section
/-! SUPPORT. Dictionaries and memories: a read after a write, what a write leaves, and that every operation keeps the
canonical form. -/

namespace Sys2Proof.Machine

variable {α : Type}

/-! ### Dictionaries -/

@[simp] theorem dget?_nil (k : Nat) : dget? ([] : Dict α) k = none := rfl

/-- Setting a key and reading it back. -/
theorem dget?_dset_same (m : Dict α) (k : Nat) (v : α) : dget? (dset m k v) k = some v := by
  induction m with
  | nil => simp [dset, dget?]
  | cons h t ih =>
    obtain ⟨j, w⟩ := h
    unfold dset
    split
    · simp [dget?]
    · split
      · simp [dget?]
      · rename_i h1 h2
        simp [dget?, h1, h2, ih]

/-- Keys below every listed key are not listed. -/
theorem dget?_lt (m : Dict α) (k : Nat) (h : ∀ e ∈ m, k < e.1) : dget? m k = none := by
  cases m with
  | nil => rfl
  | cons a t =>
    obtain ⟨j, w⟩ := a
    have hj : k < j := h (j, w) (by simp)
    simp [dget?, hj, Nat.ne_of_gt hj]

/-- Setting a key leaves every other key. -/
theorem dget?_dset_other (m : Dict α) (k k' : Nat) (v : α) (hk : k' ≠ k) : dget? (dset m k v) k' = dget? m k' := by
  induction m with
  | nil =>
    simp [dset, dget?, Ne.symm hk]
  | cons h t ih =>
    obtain ⟨j, w⟩ := h
    unfold dset
    split
    · rename_i h1
      subst h1
      simp [dget?, Ne.symm hk]
    · split
      · rename_i h1 h2
        by_cases h3 : k < k'
        · simp [dget?, Ne.symm hk, Nat.not_lt_of_gt h3]
        · have h4 : k' < k := by omega
          have h5 : k' < j := by omega
          simp [dget?, Ne.symm hk, h4, h5, Nat.ne_of_gt h5]
      · rename_i h1 h2
        unfold dget?
        rw [ih]

/-- The keys of a dictionary after an entry is set. -/
theorem keys_dset (m : Dict α) (k : Nat) (v : α) {x : Nat} (hx : x ∈ (dset m k v).map Prod.fst) :
    x = k ∨ x ∈ m.map Prod.fst := by
  induction m with
  | nil => simpa [dset] using hx
  | cons h t ih =>
    obtain ⟨j, w⟩ := h
    unfold dset at hx
    split at hx
    · simp at hx ⊢
      rcases hx with hx | hx
      · exact Or.inl hx
      · exact Or.inr (Or.inr hx)
    · split at hx
      · simpa using hx
      · simp at hx ⊢
        rcases hx with hx | hx
        · exact Or.inr (Or.inl hx)
        · rcases ih (by simpa using hx) with h | h
          · exact Or.inl h
          · exact Or.inr (Or.inr (by simpa using h))

/-- Setting an entry keeps the keys strictly rising. -/
theorem Dict.wf_dset (m : Dict α) (k : Nat) (v : α) (h : Dict.wf m = true) : Dict.wf (dset m k v) = true := by
  simp only [Dict.wf, decide_eq_true_eq] at h ⊢
  induction m with
  | nil => simp [dset]
  | cons a t ih =>
    obtain ⟨j, w⟩ := a
    simp only [List.map_cons, List.pairwise_cons] at h
    unfold dset
    split
    · rename_i h1
      subst h1
      simpa using h
    · split
      · rename_i h1 h2
        simp only [List.map_cons, List.pairwise_cons, List.mem_cons]
        refine ⟨?_, h⟩
        rintro x (rfl | hx)
        · exact h2
        · exact Nat.lt_trans h2 (h.1 x hx)
      · rename_i h1 h2
        simp only [List.map_cons, List.pairwise_cons]
        refine ⟨?_, ih h.2⟩
        intro x hx
        rcases keys_dset t k v hx with rfl | hx
        · omega
        · exact h.1 x hx

/-- The entries that remain after one is removed. -/
theorem mem_derase (m : Dict α) (k : Nat) {e : Nat × α} (he : e ∈ derase m k) : e ∈ m := by
  induction m with
  | nil => simp [derase] at he
  | cons a t ih =>
    obtain ⟨j, w⟩ := a
    unfold derase at he
    split at he
    · exact List.mem_cons_of_mem _ he
    · split at he
      · exact he
      · rcases List.mem_cons.1 he with rfl | he
        · simp
        · exact List.mem_cons_of_mem _ (ih he)

/-- Removing an entry keeps the keys strictly rising. -/
theorem Dict.wf_derase (m : Dict α) (k : Nat) (h : Dict.wf m = true) : Dict.wf (derase m k) = true := by
  simp only [Dict.wf, decide_eq_true_eq] at h ⊢
  induction m with
  | nil => simp [derase]
  | cons a t ih =>
    obtain ⟨j, w⟩ := a
    simp only [List.map_cons, List.pairwise_cons] at h
    unfold derase
    split
    · exact h.2
    · split
      · simpa using h
      · simp only [List.map_cons, List.pairwise_cons]
        refine ⟨?_, ih h.2⟩
        intro x hx
        obtain ⟨e, he, rfl⟩ := List.mem_map.1 hx
        exact h.1 _ (List.mem_map_of_mem (mem_derase t k he))

/-- In a dictionary with rising keys a removed key is gone. -/
theorem dget?_derase_same (m : Dict α) (k : Nat) (h : Dict.wf m = true) : dget? (derase m k) k = none := by
  simp only [Dict.wf, decide_eq_true_eq] at h
  induction m with
  | nil => rfl
  | cons a t ih =>
    obtain ⟨j, w⟩ := a
    simp only [List.map_cons, List.pairwise_cons] at h
    unfold derase
    split
    · rename_i h1
      subst h1
      exact dget?_lt t j (fun e he => h.1 _ (List.mem_map_of_mem he))
    · split
      · rename_i h1 h2
        simp [dget?, h1, h2]
      · rename_i h1 h2
        simp [dget?, h1, h2, ih h.2]

/-- Removing a key leaves every other key. -/
theorem dget?_derase_other (m : Dict α) (k k' : Nat) (h : Dict.wf m = true) (hk : k' ≠ k) :
    dget? (derase m k) k' = dget? m k' := by
  simp only [Dict.wf, decide_eq_true_eq] at h
  induction m with
  | nil => rfl
  | cons a t ih =>
    obtain ⟨j, w⟩ := a
    simp only [List.map_cons, List.pairwise_cons] at h
    unfold derase
    split
    · rename_i h1
      subst h1
      by_cases h3 : k' < j
      · rw [dget?_lt t k' (fun e he => Nat.lt_trans h3 (h.1 _ (List.mem_map_of_mem he)))]
        simp [dget?, Ne.symm hk, h3]
      · simp [dget?, Ne.symm hk, h3]
    · split
      · rfl
      · unfold dget?
        rw [ih h.2]

/-- Keeping some of the entries keeps the keys strictly rising. -/
theorem Dict.wf_filter (m : Dict α) (f : Nat × α → Bool) (h : Dict.wf m = true) : Dict.wf (m.filter f) = true := by
  simp only [Dict.wf, decide_eq_true_eq] at h ⊢
  exact h.sublist (List.Sublist.map _ List.filter_sublist)

/-! ### Memory -/

/-- The canonical form, as a proposition. -/
theorem Mem.wf_iff (m : Mem) :
    m.wf = true ↔ Dict.wf m.cells = true ∧ ∀ c ∈ m.cells, c.2 = 0 → (m.openAt c.1).isSome = true := by
  simp only [Mem.wf, Bool.and_eq_true, List.all_eq_true, Bool.or_eq_true, decide_eq_true_eq, ne_eq]
  exact and_congr_right fun _ => forall₂_congr fun c _ => ⟨fun h h0 => h.resolve_left (fun hn => hn h0), fun h => by
    by_cases h0 : c.2 = 0
    · exact Or.inr (h h0)
    · exact Or.inl h0⟩

theorem mem_dset (m : Dict α) (k : Nat) (v : α) {e : Nat × α} (he : e ∈ dset m k v) : e = (k, v) ∨ e ∈ m := by
  induction m with
  | nil => simpa [dset] using he
  | cons a t ih =>
    obtain ⟨j, w⟩ := a
    unfold dset at he
    split at he
    · rcases List.mem_cons.1 he with rfl | he
      · exact Or.inl rfl
      · exact Or.inr (List.mem_cons_of_mem _ he)
    · split at he
      · rcases List.mem_cons.1 he with rfl | he
        · exact Or.inl rfl
        · exact Or.inr he
      · rcases List.mem_cons.1 he with rfl | he
        · exact Or.inr (by simp)
        · rcases ih he with h | h
          · exact Or.inl h
          · exact Or.inr (List.mem_cons_of_mem _ h)

/-- A byte written reads back. -/
theorem Mem.read_write_same (m : Mem) (a : Nat) (b : Byte) (h : m.wf = true) : (m.write a b).read a = b := by
  have hw := ((Mem.wf_iff m).1 h).1
  unfold Mem.write Mem.read
  split
  · rename_i h0
    obtain ⟨rfl, h0⟩ := h0
    have h1 : ({ m with cells := derase m.cells a } : Mem).openAt a = none := h0
    simp [dget?_derase_same _ _ hw, Mem.unlisted, h1]
  · simp [dget?_dset_same]

/-- A write leaves every other byte. -/
theorem Mem.read_write_other (m : Mem) (a a' : Nat) (b : Byte) (h : m.wf = true) (ha : a' ≠ a) :
    (m.write a b).read a' = m.read a' := by
  have hw := ((Mem.wf_iff m).1 h).1
  unfold Mem.write Mem.read
  split
  · simp [dget?_derase_other _ _ _ hw ha, Mem.unlisted, Mem.openAt]
  · simp [dget?_dset_other _ _ _ _ ha, Mem.unlisted, Mem.openAt]

/-- A write of a byte keeps the canonical form. -/
theorem Mem.wf_write (m : Mem) (a : Nat) (b : Byte) (h : m.wf = true) : (m.write a b).wf = true := by
  obtain ⟨h1, h2⟩ := (Mem.wf_iff m).1 h
  rw [Mem.wf_iff]
  unfold Mem.write
  split
  · exact ⟨Dict.wf_derase _ _ h1, fun c hc h0 => h2 c (mem_derase _ _ hc) h0⟩
  · rename_i hn
    refine ⟨Dict.wf_dset _ _ _ h1, fun c hc h0 => ?_⟩
    rcases mem_dset _ _ _ hc with rfl | hc
    · have : m.openAt a ≠ none := fun hh => hn ⟨h0, hh⟩
      simpa [Mem.openAt, Option.isSome_iff_ne_none] using this
    · exact h2 c hc h0

/-- A write of bytes keeps the canonical form. -/
theorem Mem.wf_writeBytes (m : Mem) (a : Nat) (bs : List Byte) (h : m.wf = true) : (m.writeBytes a bs).wf = true := by
  induction bs generalizing m a with
  | nil => exact h
  | cons b bs ih => exact ih _ _ (Mem.wf_write m a b h)

/-- A write of bytes leaves every byte outside them. -/
theorem Mem.read_writeBytes_other (m : Mem) (a : Nat) (bs : List Byte) (x : Nat) (h : m.wf = true)
    (hx : x < a ∨ a + bs.length ≤ x) : (m.writeBytes a bs).read x = m.read x := by
  induction bs generalizing m a with
  | nil => rfl
  | cons b bs ih =>
    simp only [List.length_cons] at hx
    unfold Mem.writeBytes
    rw [ih _ _ (Mem.wf_write m a b h) (by omega), Mem.read_write_other m a x b h (by omega)]

/-- Bytes written read back. -/
theorem Mem.readBytes_writeBytes (m : Mem) (a : Nat) (bs : List Byte) (h : m.wf = true) :
    (m.writeBytes a bs).readBytes a bs.length = bs := by
  induction bs generalizing m a with
  | nil => rfl
  | cons b bs ih =>
    unfold Mem.writeBytes Mem.readBytes
    simp only [List.length_cons]
    rw [ih _ _ (Mem.wf_write m a b h), Mem.read_writeBytes_other _ _ _ _ (Mem.wf_write m a b h) (by omega),
      Mem.read_write_same m a b h]

/-- Leaving a range undefined keeps the canonical form. -/
theorem Mem.wf_leaveOpen (m : Mem) (lo len gen : Nat) (h : m.wf = true) : (m.leaveOpen lo len gen).wf = true := by
  obtain ⟨h1, h2⟩ := (Mem.wf_iff m).1 h
  rw [Mem.wf_iff]
  refine ⟨Dict.wf_filter _ _ h1, fun c hc h0 => ?_⟩
  have hc' := List.mem_filter.1 hc
  have := h2 c hc'.1 h0
  simp only [Mem.openAt, Mem.leaveOpen, List.find?_cons] at this ⊢
  split
  · rfl
  · exact this

/-- Forgetting a range keeps the canonical form. -/
theorem Mem.wf_forget (m : Mem) (lo len gen : Nat) (h : m.wf = true) : (m.forget lo len gen).wf = true :=
  Mem.wf_leaveOpen m lo len gen h

/-- Leaving a range undefined leaves every byte outside it. -/
theorem Mem.read_leaveOpen_other (m : Mem) (lo len gen x : Nat) (h : m.wf = true) (hx : x < lo ∨ lo + len ≤ x) :
    (m.leaveOpen lo len gen).read x = m.read x := by
  have hn : OpenRange.holds ⟨lo, len, gen⟩ x = false := by
    simp only [OpenRange.holds, Bool.and_eq_false_iff, decide_eq_false_iff_not]
    omega
  have hg : ∀ l : List Host.Cell, Dict.wf l = true →
      dget? (l.filter (fun c => !(OpenRange.holds ⟨lo, len, gen⟩ c.1))) x = dget? l x := by
    intro l
    induction l with
    | nil => intro _; rfl
    | cons c t ih =>
      obtain ⟨j, w⟩ := c
      intro hw
      have hw' : Dict.wf t = true := by
        simp only [Dict.wf, decide_eq_true_eq, List.map_cons, List.pairwise_cons] at hw ⊢
        exact hw.2
      simp only [List.filter_cons]
      split
      · unfold dget?
        rw [ih hw']
      · rename_i hj
        by_cases hjx : j = x
        · subst hjx; simp [hn] at hj
        · rw [ih hw']
          conv_rhs => unfold dget?
          simp only [hjx, if_false]
          split
          · rename_i hlt
            simp only [Dict.wf, decide_eq_true_eq, List.map_cons, List.pairwise_cons] at hw
            exact dget?_lt t x (fun e he => Nat.lt_trans hlt (hw.1 _ (List.mem_map_of_mem he)))
          · rfl
  unfold Mem.read
  rw [show (m.leaveOpen lo len gen).unlisted x = m.unlisted x by
    simp [Mem.unlisted, Mem.openAt, Mem.leaveOpen, hn]]
  rw [show dget? (m.leaveOpen lo len gen).cells x = dget? m.cells x from hg m.cells ((Mem.wf_iff m).1 h).1]

end Sys2Proof.Machine
end

