-- ==== Sys2Proof/Laws/Ops.lean ====
section
/-! SUPPORT. What the shared operations do: commands in service, parts and rings by name, host memory, events, ring entries and
completions. -/

namespace Sys2Proof.Machine

/-! ### Commands in service -/

/-- In service an operation takes its effect. -/
theorem inService_next {s : State} {f : State → State} (h : s.serving) : inService s f = .next (f s) := by
  simp [inService, served, h.1, h.2]

/-- Without READY, and with the lands as they are, it takes none. -/
theorem inService_idle {s : State} {f : State → State} (h : s.boot.phase ≠ .ready) (hl : s.boot.landsTaken = false) :
    inService s f = .next s := by
  simp [inService, served, h, hl]

/-- With the lands taken it stops. -/
theorem inService_lands {s : State} {f : State → State} (hl : s.boot.landsTaken = true) : inService s f = .fault .landsTaken := by
  simp [inService, served, hl]

theorem served_next {s t : State} (hl : s.boot.landsTaken = false) : served s t = .next t := by simp [served, hl]

theorem served_lands {s t : State} (hl : s.boot.landsTaken = true) : served s t = .fault .landsTaken := by simp [served, hl]

/-! ### Partitions and rings by name -/

theorem get_eq {α : Type} {n : Nat} (v : Vector α n) (i : Fin n) : v.get i = v[i.val] := rfl

@[simp] theorem part_setPart_same (s : State) (p : Part) (x : Partition) : (s.setPart p x).part p = x := by
  simp [State.setPart, State.part, get_eq]

theorem part_setPart_other (s : State) (p q : Part) (x : Partition) (h : q ≠ p) : (s.setPart p x).part q = s.part q := by
  have : p.val ≠ q.val := fun hh => h (Fin.ext hh.symm)
  simp [State.setPart, State.part, get_eq, this]

@[simp] theorem setPart_setPart (s : State) (p : Part) (x y : Partition) : (s.setPart p x).setPart p y = s.setPart p y := by
  simp [State.setPart]

@[simp] theorem setPart_part (s : State) (p : Part) : s.setPart p (s.part p) = s := by
  simp [State.setPart, State.part, get_eq]

@[simp] theorem part_modPart_same (s : State) (p : Part) (f : Partition → Partition) : (s.modPart p f).part p = f (s.part p) := by
  simp [State.modPart]

theorem part_modPart_other (s : State) (p q : Part) (f : Partition → Partition) (h : q ≠ p) : (s.modPart p f).part q = s.part q := by
  simp [State.modPart, part_setPart_other, h]

@[simp] theorem modPart_modPart (s : State) (p : Part) (f g : Partition → Partition) :
    (s.modPart p f).modPart p g = s.modPart p (fun x => g (f x)) := by
  simp [State.modPart]

theorem rings_get_set_same (v : Vector Ring 13) (n : RingNo) (r : Ring) : (v.set n r).get n = r := by
  simp [get_eq]

theorem rings_get_set_other (v : Vector Ring 13) (n m : RingNo) (r : Ring) (h : m ≠ n) : (v.set n r).get m = v.get m := by
  have : n.val ≠ m.val := fun hh => h (Fin.ext hh.symm)
  simp [get_eq, this]

@[simp] theorem ring_modRing_same (s : State) (p : Part) (n : RingNo) (f : Ring → Ring) :
    (s.modRing p n f).ring p n = f (s.ring p n) := by
  simp [State.modRing, State.ring, rings_get_set_same]

theorem ring_modRing_other (s : State) (p : Part) (n m : RingNo) (f : Ring → Ring) (h : m ≠ n) :
    (s.modRing p n f).ring p m = s.ring p m := by
  simp [State.modRing, State.ring, rings_get_set_other, h]

theorem cplRing_ne_cmdRing (r q : CmdRing) : cplRing r ≠ cmdRing q := by
  intro h
  have := congrArg Fin.val h
  simp only [cplRing, cmdRing] at this
  omega

/-! ### What differs only in a partition and at the host -/

theorem PartOnly.refl (p : Part) (s : State) : PartOnly p s s := rfl

theorem PartOnly.trans {p : Part} {s t u : State} (h : PartOnly p s t) (g : PartOnly p t u) : PartOnly p s u := Eq.trans g h

theorem PartOnly.setPart (p : Part) (s : State) (x : Partition) : PartOnly p s (s.setPart p x) := by
  simp [PartOnly, State.sansPart, State.setPart]

theorem PartOnly.modPart (p : Part) (s : State) (f : Partition → Partition) : PartOnly p s (s.modPart p f) :=
  PartOnly.setPart p s _

theorem PartOnly.modRing (p : Part) (s : State) (n : RingNo) (f : Ring → Ring) : PartOnly p s (s.modRing p n f) :=
  PartOnly.modPart p s _

theorem PartOnly.hostWrite (p : Part) (s : State) (a : Nat) (bs : List Byte) : PartOnly p s (s.hostWrite a bs) := rfl

theorem PartOnly.statusWrite (p q : Part) (s : State) (off v : Nat) : PartOnly p s (s.statusWrite q off v) := rfl

theorem PartOnly.signal (p : Part) (s : State) (f : Func) (v : Nat) : PartOnly p s (s.signal f v) := by
  unfold State.signal
  dsimp only
  split
  · rfl
  · split <;> rfl

theorem PartOnly.signalPart (p q : Part) (s : State) (v : Nat) : PartOnly p s (s.signalPart q v) := PartOnly.signal p s _ _

theorem PartOnly.moderate (p : Part) (s : State) (n : RingNo) : PartOnly p s (s.moderate p n) := by
  unfold State.moderate
  dsimp only
  split
  · exact (PartOnly.modRing p s n _).trans (PartOnly.signalPart p p _ _)
  · rfl

theorem PartOnly.addPending (p : Part) (s : State) (n : RingNo) (k : Nat) : PartOnly p s (s.addPending p n k) := by
  unfold State.addPending
  split
  · rfl
  · exact (PartOnly.modRing p s n _).trans (PartOnly.moderate p _ n)

theorem PartOnly.writeEntry (p : Part) (s : State) (n : RingNo) (bs : List Byte) : PartOnly p s (s.writeEntry p n bs) :=
  (PartOnly.hostWrite p s _ _).trans (PartOnly.modRing p _ n _)

theorem PartOnly.publish (p : Part) (s : State) (n : RingNo) (k : Nat) : PartOnly p s (s.publish p n k) :=
  (PartOnly.statusWrite p p s _ _).trans (PartOnly.addPending p _ n k)

theorem PartOnly.post (p : Part) (s : State) (n : RingNo) (bs : List Byte) : PartOnly p s (s.post p n bs) :=
  (PartOnly.writeEntry p s n bs).trans (PartOnly.publish p _ n 1)

theorem PartOnly.postCompletion (p : Part) (s : State) (r : CmdRing) (irq : Bool) (seq : W64) (st : W16) (info result : Nat) :
    PartOnly p s (s.postCompletion p r irq seq st info result) := by
  unfold State.postCompletion
  dsimp only
  split
  · exact (PartOnly.writeEntry p s _ _).trans (PartOnly.publish p _ _ _)
  · rfl

theorem PartOnly.refreshAccepted (p : Part) (s : State) (r : CmdRing) : PartOnly p s (s.refreshAccepted p r) := by
  unfold State.refreshAccepted
  dsimp only
  split
  · exact (PartOnly.modRing p s _ _).trans (PartOnly.statusWrite p p _ _ _)
  · rfl

theorem PartOnly.finish (p : Part) (s : State) (c : Cmd) (st : W16) (info result : Nat) : PartOnly p s (s.finish p c st info result) :=
  ((PartOnly.modPart p s _).trans (PartOnly.postCompletion p _ _ _ _ _ _ _)).trans
    ((PartOnly.refreshAccepted p _ _).trans (PartOnly.modPart p _ _))

theorem PartOnly.modCmd (p : Part) (s : State) (o : Nat) (f : Cmd → Cmd) : PartOnly p s (s.modCmd p o f) := PartOnly.modPart p s _

/-- Every field but the partitions and the host's memory, messages and MSI-X entries is as it was. -/
theorem PartOnly.eq {p : Part} {s t : State} (h : PartOnly p s t) :
    t = { s with parts := t.parts, host := { s.host with mem := t.host.mem, msgs := t.host.msgs, msix := t.host.msix } } := by
  have h : t.sansPart p = s.sansPart p := h
  have hp : t.pending = s.pending := (congrArg State.pending h :)
  have hb : t.boot = s.boot := (congrArg State.boot h :)
  have hr : t.regs = s.regs := (congrArg State.regs h :)
  have hm : t.mem = s.mem := (congrArg State.mem h :)
  have ht : t.tiles = s.tiles := (congrArg State.tiles h :)
  have hrep : t.repair = s.repair := (congrArg State.repair h :)
  have hf : t.fabric = s.fabric := (congrArg State.fabric h :)
  have hpw : t.power = s.power := (congrArg State.power h :)
  have ha : t.mgmtA = s.mgmtA := (congrArg State.mgmtA h :)
  have hmb : t.mgmtB = s.mgmtB := (congrArg State.mgmtB h :)
  have hs : t.sec = s.sec := (congrArg State.sec h :)
  have hn : t.now = s.now := (congrArg State.now h :)
  have hfr : t.free = s.free := (congrArg State.free h :)
  have hfo : t.found = s.found := (congrArg State.found h :)
  have hh : t.host = { s.host with mem := t.host.mem, msgs := t.host.msgs, msix := t.host.msix } := by
    have h0 : ({ t.host with mem := {}, msgs := [], msix := [] } : HostSide) = { s.host with mem := {}, msgs := [], msix := [] } :=
      (congrArg State.host h :)
    calc t.host = { ({ t.host with mem := {}, msgs := [], msix := [] } : HostSide) with
          mem := t.host.mem, msgs := t.host.msgs, msix := t.host.msix } := rfl
      _ = _ := by rw [h0]
  calc t = { t with parts := t.parts } := rfl
    _ = _ := by rw [← hp, ← hb, ← hr, ← hm, ← ht, ← hrep, ← hf, ← hpw, ← ha, ← hmb, ← hs, ← hn, ← hfr, ← hfo, ← hh]

/-- The other partitions are as they were. -/
theorem PartOnly.other {p q : Part} {s t : State} (h : PartOnly p s t) (hq : q ≠ p) : t.part q = s.part q := by
  have h1 := congrArg (fun x : State => x.part q) (show t.sansPart p = s.sansPart p from h)
  have h2 : ∀ u : State, (u.sansPart p).part q = u.part q := fun u => part_setPart_other u p q {} hq
  simpa [h2] using h1

theorem PartOnly.regs {p : Part} {s t : State} (h : PartOnly p s t) : t.regs = s.regs := (congrArg State.regs (show t.sansPart p = s.sansPart p from h) :)

theorem PartOnly.boot {p : Part} {s t : State} (h : PartOnly p s t) : t.boot = s.boot := (congrArg State.boot (show t.sansPart p = s.sansPart p from h) :)

/-! ### What an operation on one ring leaves of its partition -/

/-- Of partition `p` at most ring `n` differs. -/
def RingOnly (p : Part) (n : RingNo) (s t : State) : Prop :=
  t.part p = { s.part p with rings := (t.part p).rings } ∧ ∀ m, m ≠ n → t.ring p m = s.ring p m

theorem RingOnly.refl (p : Part) (n : RingNo) (s : State) : RingOnly p n s s := ⟨rfl, fun _ _ => rfl⟩

theorem RingOnly.trans {p : Part} {n : RingNo} {s t u : State} (h : RingOnly p n s t) (g : RingOnly p n t u) : RingOnly p n s u :=
  ⟨by rw [g.1, h.1], fun m hm => (g.2 m hm).trans (h.2 m hm)⟩

theorem RingOnly.modRing (p : Part) (n : RingNo) (s : State) (f : Ring → Ring) : RingOnly p n s (s.modRing p n f) :=
  ⟨by simp [State.modRing], fun m hm => ring_modRing_other s p n m f hm⟩

theorem RingOnly.hostWrite (p : Part) (n : RingNo) (s : State) (a : Nat) (bs : List Byte) : RingOnly p n s (s.hostWrite a bs) :=
  ⟨rfl, fun _ _ => rfl⟩

theorem RingOnly.statusWrite (p q : Part) (n : RingNo) (s : State) (off v : Nat) : RingOnly p n s (s.statusWrite q off v) :=
  ⟨rfl, fun _ _ => rfl⟩

theorem signal_part (s : State) (f : Func) (v : Nat) (p : Part) : (s.signal f v).part p = s.part p := by
  unfold State.signal
  dsimp only
  split
  · rfl
  · split <;> rfl

theorem RingOnly.signalPart (p q : Part) (n : RingNo) (s : State) (v : Nat) : RingOnly p n s (s.signalPart q v) := by
  have h : (s.signalPart q v).part p = s.part p := signal_part s _ _ p
  exact ⟨by rw [h], fun m _ => by simp only [State.ring, h]⟩

theorem RingOnly.moderate (p : Part) (n : RingNo) (s : State) : RingOnly p n s (s.moderate p n) := by
  unfold State.moderate
  dsimp only
  split
  · exact (RingOnly.modRing p n s _).trans (RingOnly.signalPart p p n _ _)
  · exact RingOnly.refl p n s

theorem RingOnly.addPending (p : Part) (n : RingNo) (s : State) (k : Nat) : RingOnly p n s (s.addPending p n k) := by
  unfold State.addPending
  split
  · exact RingOnly.refl p n s
  · exact (RingOnly.modRing p n s _).trans (RingOnly.moderate p n _)

theorem RingOnly.publish (p : Part) (n : RingNo) (s : State) (k : Nat) : RingOnly p n s (s.publish p n k) :=
  (RingOnly.statusWrite p p n s _ _).trans (RingOnly.addPending p n _ k)

theorem RingOnly.writeEntry (p : Part) (n : RingNo) (s : State) (bs : List Byte) : RingOnly p n s (s.writeEntry p n bs) :=
  (RingOnly.hostWrite p n s _ _).trans (RingOnly.modRing p n _ _)

theorem RingOnly.post (p : Part) (n : RingNo) (s : State) (bs : List Byte) : RingOnly p n s (s.post p n bs) :=
  (RingOnly.writeEntry p n s bs).trans (RingOnly.publish p n _ 1)

theorem RingOnly.postCompletion (p : Part) (s : State) (r : CmdRing) (irq : Bool) (seq : W64) (st : W16) (info result : Nat) :
    RingOnly p (cplRing r) s (s.postCompletion p r irq seq st info result) := by
  unfold State.postCompletion
  dsimp only
  split
  · exact (RingOnly.writeEntry p _ s _).trans (RingOnly.publish p _ _ _)
  · exact RingOnly.refl p _ s

theorem RingOnly.refreshAccepted (p : Part) (s : State) (r : CmdRing) : RingOnly p (cmdRing r) s (s.refreshAccepted p r) := by
  unfold State.refreshAccepted
  dsimp only
  split
  · exact (RingOnly.modRing p _ s _).trans (RingOnly.statusWrite p p _ _ _ _)
  · exact RingOnly.refl p _ s

/-! ### Producer indices -/

theorem signalPart_ring (s : State) (p q : Part) (v : Nat) (m : RingNo) : (s.signalPart p v).ring q m = s.ring q m := by
  simp only [State.ring, State.signalPart, signal_part]

theorem moderate_pi (s : State) (p : Part) (n m : RingNo) : ((s.moderate p n).ring p m).pi = (s.ring p m).pi := by
  unfold State.moderate
  dsimp only
  split
  · rw [signalPart_ring]
    by_cases h : m = n
    · subst h; simp
    · rw [ring_modRing_other _ _ _ _ _ h]
  · rfl

theorem addPending_pi (s : State) (p : Part) (n m : RingNo) (k : Nat) : ((s.addPending p n k).ring p m).pi = (s.ring p m).pi := by
  unfold State.addPending
  split
  · rfl
  · rw [moderate_pi]
    by_cases h : m = n
    · subst h; simp
    · rw [ring_modRing_other _ _ _ _ _ h]

theorem publish_pi (s : State) (p : Part) (n m : RingNo) (k : Nat) : ((s.publish p n k).ring p m).pi = (s.ring p m).pi :=
  addPending_pi _ p n m k

theorem post_pi (s : State) (p : Part) (n : RingNo) (bs : List Byte) : ((s.post p n bs).ring p n).pi = (s.ring p n).pi + 1 := by
  unfold State.post
  rw [publish_pi]
  unfold State.writeEntry
  rw [ring_modRing_same]
  rfl

theorem postCompletion_pi (s : State) (p : Part) (r : CmdRing) (irq : Bool) (seq : W64) (st : W16) (info result : Nat) :
    ((s.postCompletion p r irq seq st info result).ring p (cplRing r)).pi =
      (s.ring p (cplRing r)).pi + (if (s.ring p (cplRing r)).live then 1 else 0) := by
  unfold State.postCompletion
  dsimp only
  split
  · rw [publish_pi]
    unfold State.writeEntry
    rw [ring_modRing_same]
    rfl
  · rfl

/-! ### Host memory -/

theorem signal_hostMem (s : State) (f : Func) (v : Nat) : (s.signal f v).host.mem = s.host.mem := by
  unfold State.signal
  dsimp only
  split
  · rfl
  · split <;> rfl

@[simp] theorem moderate_hostMem (s : State) (p : Part) (n : RingNo) : (s.moderate p n).host.mem = s.host.mem := by
  unfold State.moderate
  dsimp only
  split
  · exact signal_hostMem _ _ _
  · rfl

@[simp] theorem addPending_hostMem (s : State) (p : Part) (n : RingNo) (k : Nat) : (s.addPending p n k).host.mem = s.host.mem := by
  unfold State.addPending
  split
  · rfl
  · rw [moderate_hostMem]; rfl

theorem leBytes_length (n v : Nat) : (leBytes n v).length = n := by
  induction n generalizing v with
  | zero => rfl
  | succ n ih => simp [leBytes, ih]

/-- A number read back from its little-endian bytes. -/
theorem leNat_leBytes (n : Nat) : ∀ v, leNat (leBytes n v) = v % 256 ^ n := by
  induction n with
  | zero => intro v; simp [leBytes, leNat, Nat.mod_one]
  | succ n ih =>
    intro v
    simp only [leBytes, leNat, ih, BitVec.toNat_ofNat]
    have e : 256 ^ (n + 1) = 256 * 256 ^ n := by rw [Nat.pow_succ, Nat.mul_comm]
    rw [e, Nat.mod_mul]

/-- A field of a structure reads as the number that was laid out there. -/
theorem fieldAt_leBytes (a b : List Byte) (n v : Nat) : fieldAt (a ++ (leBytes n v ++ b)) a.length n = v % 256 ^ n := by
  unfold fieldAt
  rw [List.drop_left, List.take_append_of_le_length (by simp [leBytes_length]), List.take_of_length_le (by simp [leBytes_length]), leNat_leBytes]

theorem statusWrite_wf (s : State) (p : Part) (off v : Nat) (h : s.host.mem.wf = true) : (s.statusWrite p off v).host.mem.wf = true :=
  Mem.wf_writeBytes _ _ _ (Mem.wf_writeBytes _ _ _ h)

/-- A write of the status page leaves every byte outside it. -/
theorem statusWrite_read (s : State) (p : Part) (off v a : Nat) (h : s.host.mem.wf = true) (ho : off + 8 ≤ 0x90) (ha : s.offStatus p a) :
    (s.statusWrite p off v).host.mem.read a = s.host.mem.read a := by
  unfold State.offStatus at ha
  have e : (s.statusWrite p off v).host.mem =
      ((s.host.mem.writeBytes (s.reg .ringStatusAddr p.val + off) (leBytes 8 v)).writeBytes (s.reg .ringStatusAddr p.val + 0x088)
        (leBytes 8 s.time)) := rfl
  rw [e, Mem.read_writeBytes_other _ _ _ _ (Mem.wf_writeBytes _ _ _ h) (by rw [leBytes_length]; omega),
    Mem.read_writeBytes_other _ _ _ _ h (by rw [leBytes_length]; omega)]

theorem readBytes_congr (m k : Mem) (a n : Nat) (h : ∀ x, a ≤ x → x < a + n → m.read x = k.read x) : m.readBytes a n = k.readBytes a n := by
  induction n generalizing a with
  | zero => rfl
  | succ n ih =>
    unfold Mem.readBytes
    rw [h a (by omega) (by omega), ih (a + 1) (fun x h1 h2 => h x (by omega) (by omega))]

theorem completionBytes_length (seq : W64) (st : W16) (ring phase info time result : Nat) :
    (completionBytes seq st ring phase info time result).length = 32 := by
  simp [completionBytes, leBytes_length]

theorem statusOff_le (n : RingNo) : statusOff n + 8 ≤ 0x90 := by
  unfold statusOff
  split
  · omega
  · split <;> omega

/-- Host memory after a completion. -/
theorem postCompletion_hostMem (s : State) (p : Part) (r : CmdRing) (irq : Bool) (seq : W64) (st : W16) (info result : Nat)
    (h : s.host.mem.wf = true) :
    (s.postCompletion p r irq seq st info result).host.mem.wf = true ∧
    (∀ a, s.offStatus p a → (a < s.cplSlot p r ∨ s.cplSlot p r + 32 ≤ a) →
      (s.postCompletion p r irq seq st info result).host.mem.read a = s.host.mem.read a) ∧
    ((s.ring p (cplRing r)).live = true → s.cplApart p r →
      (s.postCompletion p r irq seq st info result).host.mem.readBytes (s.cplSlot p r) 32 =
        completionBytes seq st r.val (phaseAt (s.ring p (cplRing r)).pi (s.ringEntries p (cplRing r))) info s.time result) := by
  by_cases hl : (s.ring p (cplRing r)).live = true
  · let bs := completionBytes seq st r.val (phaseAt (s.ring p (cplRing r)).pi (s.ringEntries p (cplRing r))) info s.time result
    let u := s.writeEntry p (cplRing r) bs
    have hu : u.host.mem = s.host.mem.writeBytes (s.cplSlot p r) bs := rfl
    have hub : bs.length = 32 := completionBytes_length ..
    have huw : u.host.mem.wf = true := by rw [hu]; exact Mem.wf_writeBytes _ _ _ h
    have hso : ∀ a, s.offStatus p a → u.offStatus p a := fun a ha => ha
    have e : (s.postCompletion p r irq seq st info result).host.mem =
        (u.statusWrite p (statusOff (cplRing r)) (u.ring p (cplRing r)).pi).host.mem := by
      unfold State.postCompletion
      dsimp only
      rw [if_pos hl]
      unfold State.publish
      rw [addPending_hostMem]
    rw [e]
    refine ⟨statusWrite_wf _ _ _ _ huw, fun a ha hb => ?_, fun _ hd => ?_⟩
    · rw [statusWrite_read _ _ _ _ _ huw (statusOff_le _) (hso a ha), hu, Mem.read_writeBytes_other _ _ _ _ h (by rw [hub]; exact hb)]
    · rw [readBytes_congr _ u.host.mem _ _ (fun x h1 h2 => statusWrite_read _ _ _ _ _ huw (statusOff_le _) (hso x ?_)), hu]
      · have := Mem.readBytes_writeBytes s.host.mem (s.cplSlot p r) bs h
        rw [hub] at this
        exact this
      · unfold State.cplApart at hd
        unfold State.offStatus
        omega
  · have e : s.postCompletion p r irq seq st info result = s := by
      unfold State.postCompletion
      dsimp only
      rw [if_neg hl]
    rw [e]
    exact ⟨h, fun _ _ _ => rfl, fun hh => absurd hh hl⟩

theorem refreshAccepted_hostMem (s : State) (p : Part) (r : CmdRing) (h : s.host.mem.wf = true) :
    (s.refreshAccepted p r).host.mem.wf = true ∧
    ∀ a, s.offStatus p a → (s.refreshAccepted p r).host.mem.read a = s.host.mem.read a := by
  unfold State.refreshAccepted
  dsimp only
  split
  · refine ⟨statusWrite_wf _ _ _ _ h, fun a ha => ?_⟩
    have hr := r.isLt
    exact statusWrite_read (s.modRing p (cmdRing r) _) p (0x020 + 8 * r.val) _ a h (by omega) ha
  · exact ⟨h, fun _ _ => rfl⟩

/-! ### Commands of a partition -/

/-- A change of commands that keeps their take orders keeps who is there. -/
theorem find_map_order (l : List Cmd) (f : Cmd → Cmd) (hf : ∀ c, (f c).order = c.order) (o : Nat) :
    ((l.map f).find? (fun c => decide (c.order = o))).isSome = (l.find? (fun c => decide (c.order = o))).isSome := by
  induction l with
  | nil => rfl
  | cons c l ih =>
    simp only [List.map_cons, List.find?_cons, hf]
    split
    · rfl
    · exact ih

theorem startFence_order (l : List Cmd) (c : Cmd) : (startFence l c).order = c.order := by
  unfold startFence
  split <;> rfl

theorem find_filter_order (l : List Cmd) (d o : Nat) :
    (l.filter (fun c => decide (c.order ≠ d))).find? (fun c => decide (c.order = o)) =
      if o = d then none else l.find? (fun c => decide (c.order = o)) := by
  induction l with
  | nil => simp
  | cons c l ih =>
    by_cases h : c.order = d
    · subst h
      simp only [List.filter_cons, List.find?_cons, ne_eq, not_true_eq_false, decide_false, Bool.false_eq_true, if_false, ih]
      by_cases ho : o = c.order
      · simp [ho]
      · simp [ho, Ne.symm ho]
    · simp only [List.filter_cons, ne_eq, h, not_false_eq_true, decide_true, if_true, List.find?_cons, ih]
      by_cases ho : c.order = o
      · subst ho; simp [h]
      · simp [ho]

/-- The partition after the command with an order has left it. -/
def Partition.without (x : Partition) (o : Nat) : Partition :=
  { x with
    cmds := x.cmds.filter (fun y => decide (y.order ≠ o)),
    cmdTokens := derase x.cmdTokens o, cmdRanges := derase x.cmdRanges o, cmdPages := derase x.cmdPages o,
    cmdFreeze := derase x.cmdFreeze o, cmdRestore := derase x.cmdRestore o }

theorem finish_eq (s : State) (p : Part) (c : Cmd) (st : W16) (info result : Nat) :
    s.finish p c st info result =
      (((s.modPart p (fun x => x.without c.order)).postCompletion p c.ring c.irq c.seq st info result).refreshAccepted p
        c.ring).modPart p Partition.startFences := rfl

theorem ring_modPart (s : State) (p : Part) (f : Partition → Partition) (hf : (f (s.part p)).rings = (s.part p).rings) (m : RingNo) :
    (s.modPart p f).ring p m = s.ring p m := by
  simp [State.ring, hf]

/-- What is the same in two states but for the commands of a partition. -/
def CmdsOnly (p : Part) (s t : State) : Prop :=
  t = s.modPart p (fun x => { x with cmds := (t.part p).cmds }) ∧ ∀ o, (t.cmd? p o).isSome = (s.cmd? p o).isSome

/-- A command completes in a state that differs from `u` only in the stages of commands: it has completed since `u`. -/
theorem finish_completes {u s : State} {p : Part} (hs : CmdsOnly p u s) (c : Cmd) (st : W16) (info result : Nat) :
    Completed u (s.finish p c st info result) p c st info result := by
  obtain ⟨hs, hc⟩ := hs
  have hp : PartOnly p u s := by rw [hs]; exact PartOnly.modPart p u _
  have hpart : s.part p = { u.part p with cmds := (s.part p).cmds } := by
    conv_lhs => rw [hs]
    simp
  have hring : ∀ m, s.ring p m = u.ring p m := fun m => by simp only [State.ring]; rw [hpart]
  have hregs : s.regs = u.regs := hp.regs
  have hreg : ∀ n i, s.reg n i = u.reg n i := fun n i => by simp only [State.reg, hregs]
  have hmem : s.host = u.host := by rw [hs]; rfl
  have htime : s.time = u.time := by rw [hs]; rfl
  let s1 := s.modPart p (fun x => x.without c.order)
  let s2 := s1.postCompletion p c.ring c.irq c.seq st info result
  let s3 := s2.refreshAccepted p c.ring
  have e : s.finish p c st info result = s3.modPart p Partition.startFences := rfl
  have r1 : ∀ m, s1.ring p m = u.ring p m := fun m => (ring_modPart s p _ rfl m).trans (hring m)
  have h2 := RingOnly.postCompletion p s1 c.ring c.irq c.seq st info result
  have h3 := RingOnly.refreshAccepted p s2 c.ring
  have rf : ∀ (w : State) m, (w.modPart p Partition.startFences).ring p m = w.ring p m := fun w m => ring_modPart w p _ rfl m
  have hslot : s1.cplSlot p c.ring = u.cplSlot p c.ring := by
    simp only [State.cplSlot, State.slotAddr, State.ringEntries, State.regBits, r1]
    simp only [show ∀ n i, s1.reg n i = u.reg n i from hreg]
  have hent : s1.ringEntries p (cplRing c.ring) = u.ringEntries p (cplRing c.ring) := by
    simp only [State.ringEntries, State.regBits]
    simp only [show ∀ n i, s1.reg n i = u.reg n i from hreg]
  have hoff : ∀ a, u.offStatus p a → s1.offStatus p a := fun a => by
    simp only [State.offStatus]
    simp only [show ∀ n i, s1.reg n i = u.reg n i from hreg]
    exact id
  have hap : u.cplApart p c.ring → s1.cplApart p c.ring := by
    simp only [State.cplApart, hslot]
    simp only [show ∀ n i, s1.reg n i = u.reg n i from hreg]
    exact id
  have hoff2 : ∀ a, u.offStatus p a → s2.offStatus p a := fun a => by
    have hr : s2.regs = u.regs := (PartOnly.postCompletion p s1 c.ring c.irq c.seq st info result).regs.trans hregs
    simp only [State.offStatus, State.reg, hr]
    exact id
  rw [e]
  refine ⟨?_, ?_, ?_, ?_, ?_, ?_, ?_⟩
  · exact (hp.trans (PartOnly.modPart p s _)).trans
      (((PartOnly.postCompletion p s1 _ _ _ _ _ _).trans (PartOnly.refreshAccepted p s2 _)).trans
        (PartOnly.modPart p s3 _))
  · simp only [part_modPart_same]
    rw [h3.1, h2.1]
    simp only [s1, part_modPart_same, Partition.without, Partition.startFences]
    rw [hpart]
  · have : s3.cmd? p c.order = none := by
      simp only [State.cmd?]
      rw [h3.1, h2.1]
      simp only [s1, part_modPart_same, Partition.without, find_filter_order, if_true]
    have hn : ∀ (w : State) o, ((w.modPart p Partition.startFences).cmd? p o).isSome = (w.cmd? p o).isSome := fun w o => by
      simp only [State.cmd?, part_modPart_same, Partition.startFences]
      exact find_map_order _ _ (startFence_order _) o
    have h := hn s3 c.order
    rw [this] at h
    simpa using h
  · intro o ho
    have hn : ∀ (w : State) o, ((w.modPart p Partition.startFences).cmd? p o).isSome = (w.cmd? p o).isSome := fun w o => by
      simp only [State.cmd?, part_modPart_same, Partition.startFences]
      exact find_map_order _ _ (startFence_order _) o
    rw [hn, ← hc o]
    simp only [State.cmd?]
    rw [h3.1, h2.1]
    simp only [s1, part_modPart_same, Partition.without, find_filter_order, ho, if_false]
  · intro m h4 h5
    rw [rf, h3.2 m h5, h2.2 m h4, r1]
  · rw [rf, h3.2 _ (cplRing_ne_cmdRing _ _), postCompletion_pi, r1]
  · intro hw
    have hw1 : s1.host.mem.wf = true := by
      show s.host.mem.wf = true
      rw [hmem]; exact hw
    obtain ⟨g1, g2, g3⟩ := postCompletion_hostMem s1 p c.ring c.irq c.seq st info result hw1
    obtain ⟨_, k2⟩ := refreshAccepted_hostMem s2 p c.ring g1
    have hm1 : s1.host.mem = u.host.mem := by
      show s.host.mem = u.host.mem
      rw [hmem]
    refine ⟨fun a ha hb => ?_, fun hl hd => ?_⟩
    · show s3.host.mem.read a = _
      rw [k2 a (hoff2 a ha), g2 a (hoff a ha) (by rw [hslot]; exact hb), hm1]
    · show s3.host.mem.readBytes _ 32 = _
      have g := g3 (by rw [r1]; exact hl) (hap hd)
      rw [hslot, r1, hent, show s1.time = u.time from htime] at g
      rw [← g]
      refine readBytes_congr _ _ _ _ (fun x h1 h2 => k2 x (hoff2 x ?_))
      unfold State.cplApart at hd
      unfold State.offStatus
      omega

/-- FENCEs that start leave a completion as it is. -/
theorem startFences_completed {u t : State} {p : Part} {c : Cmd} {st : W16} {info result : Nat} (h : Completed u t p c st info result) :
    Completed u (t.modPart p Partition.startFences) p c st info result := by
  have hn : ∀ o, ((t.modPart p Partition.startFences).cmd? p o).isSome = (t.cmd? p o).isSome := fun o => by
    simp only [State.cmd?, part_modPart_same, Partition.startFences]
    exact find_map_order _ _ (startFence_order _) o
  have hr : ∀ m, (t.modPart p Partition.startFences).ring p m = t.ring p m := fun m => ring_modPart t p _ rfl m
  obtain ⟨h1, h2, h3, h4, h5, h6, h7⟩ := h
  refine ⟨h1.trans (PartOnly.modPart p t _), ?_, ?_, fun o ho => (hn o).trans (h4 o ho), fun m a b => (hr m).trans (h5 m a b), ?_, h7⟩
  · simp only [part_modPart_same]
    conv_lhs => rw [Partition.startFences, h2]
    rfl
  · have := hn c.order
    rw [h3] at this
    simpa using this
  · rw [hr]; exact h6

theorem finish_completed {u s : State} {p : Part} (hs : CmdsOnly p u s) (c : Cmd) (st : W16) (info result : Nat) :
    Completed u ((s.finish p c st info result).modPart p Partition.startFences) p c st info result :=
  startFences_completed (finish_completes hs c st info result)

/-- The command with a take order completes. -/
theorem finishOrder_completes {u s : State} {p : Part} (hs : CmdsOnly p u s) {c : Cmd} (hc : s.cmd? p c.order = some c) (st : W16)
    (info result : Nat) : Completed u (s.finishOrder p c.order st info result) p c st info result := by
  unfold State.finishOrder
  rw [hc]
  exact finish_completes hs c st info result

/-! ### A command of the table starts -/

theorem runCmd_next {s : State} {p : Part} {r : CmdRing} {op : Nat} {c : Cmd} (h : (s.part p).nextCmd r op = some c)
    (f : State → Cmd → State) :
    runCmd s p r op f = (f (s.started p c) { c with stage := .started }).modPart p Partition.startFences := by
  unfold runCmd
  rw [h]
  rfl

theorem modCmd_cmdsOnly (s : State) (p : Part) (o : Nat) (f : Cmd → Cmd) (hf : ∀ c, (f c).order = c.order) : CmdsOnly p s (s.modCmd p o f) := by
  refine ⟨?_, fun k => ?_⟩
  · unfold State.modCmd
    simp only [State.modPart, part_setPart_same]
  · simp only [State.cmd?, State.modCmd, part_modPart_same]
    exact find_map_order _ _ (fun c => by split <;> simp [hf]) k

theorem started_cmdsOnly (s : State) (p : Part) (c : Cmd) : CmdsOnly p s (s.started p c) :=
  modCmd_cmdsOnly s p c.order _ (fun _ => rfl)

/-! ### Registers -/

/-- A register that is set reads its new value, within 64 bits. -/
theorem reg_setReg_same (s : State) (n : RegName) (i v : Nat) : (s.setReg n i v).reg n i = v % 2 ^ 64 := by
  simp [State.reg, State.setReg, dget, dget?_dset_same]

/-- Keys of registers with different names or indices differ. -/
theorem regKey_inj {n m : RegName} {i j : Nat} (hi : i < 65536) (hj : j < 65536) (h : regKey n i = regKey m j) : n.ctorIdx = m.ctorIdx ∧ i = j := by
  unfold regKey at h
  omega

theorem ctorIdx_inj : ∀ n m : RegName, n.ctorIdx = m.ctorIdx → n = m := by
  intro n m h
  simpa [RegName.ofNat_ctorIdx] using congrArg RegName.ofNat h

/-- Setting a register leaves every other. -/
theorem reg_setReg_other (s : State) (n m : RegName) (i j v : Nat) (hi : i < 65536) (hj : j < 65536) (h : ¬(m = n ∧ j = i)) :
    (s.setReg n i v).reg m j = s.reg m j := by
  have hk : regKey m j ≠ regKey n i := fun hh => h ⟨ctorIdx_inj _ _ (regKey_inj hj hi hh).1, (regKey_inj hj hi hh).2⟩
  simp [State.reg, State.setReg, dget, dget?_dset_other _ _ _ _ hk]

/-- A count leaves every other register. -/
theorem reg_count_other (s : State) (n m : RegName) (i j k : Nat) (hi : i < 65536) (hj : j < 65536) (h : ¬(m = n ∧ j = i)) :
    (s.count n i k).reg m j = s.reg m j := reg_setReg_other s n m i j _ hi hj h

/-! ### Events -/

theorem sansEvents_of_partOnly {p : Part} {s t : State} (h : PartOnly p s t) (hp : t.part p = { s.part p with rings := (t.part p).rings }) :
    t.sansEvents = s.sansEvents := by
  have hv : t.parts.map (fun x => ({ x with rings := Vector.replicate 13 {} } : Partition)) =
      s.parts.map (fun x => { x with rings := Vector.replicate 13 {} }) := by
    ext i hi
    simp only [Vector.getElem_map]
    by_cases hq : (⟨i, hi⟩ : Part) = p
    · have h1 : t.parts[i] = t.part p := by rw [← hq]; rfl
      have h2 : s.parts[i] = s.part p := by rw [← hq]; rfl
      rw [h1, h2, hp]
    · have h1 : t.part ⟨i, hi⟩ = s.part ⟨i, hi⟩ := h.other hq
      have h2 : t.parts[i] = s.parts[i] := h1
      rw [h2]
  have e := h.eq
  unfold State.sansEvents
  rw [hv]
  conv_lhs => rw [e]

theorem EventsOnly.refl (s : State) : EventsOnly s s := ⟨rfl, fun _ _ _ _ _ => rfl⟩

theorem EventsOnly.trans {s t u : State} (h : EventsOnly s t) (g : EventsOnly t u) : EventsOnly s u :=
  ⟨g.1.trans h.1, fun n i hi h1 h2 => (g.2 n i hi h1 h2).trans (h.2 n i hi h1 h2)⟩

theorem EventsOnly.post (s : State) (p : Part) (n : RingNo) (bs : List Byte) : EventsOnly s (s.post p n bs) := by
  have h := PartOnly.post p s n bs
  refine ⟨sansEvents_of_partOnly h (RingOnly.post p n s bs).1, fun m i _ _ _ => ?_⟩
  simp only [State.reg, h.regs]

theorem EventsOnly.count (s : State) (n : RegName) (i k : Nat) (hi : i < 65536) (h : n = .ringEvtDropped ∨ n = .evtGlobalDropped) :
    EventsOnly s (s.count n i k) :=
  ⟨rfl, fun m j hj h1 h2 => reg_count_other s n m i j k hi hj (fun hh => by rcases h with h | h <;> simp_all)⟩

theorem EventsOnly.raiseEvent (s : State) (p : Part) (code : W16) (subject arg : Nat) : EventsOnly s (s.raiseEvent p code subject arg) := by
  unfold State.raiseEvent
  split
  · exact EventsOnly.post s p _ _
  · exact EventsOnly.count s _ _ _ (by omega) (Or.inl rfl)

theorem EventsOnly.packageEventTo (s : State) (p : Part) (bs : List Byte) : EventsOnly s (s.packageEventTo p bs) := by
  unfold State.packageEventTo
  split
  · exact EventsOnly.post s p _ _
  · exact EventsOnly.count s _ _ _ (by omega) (Or.inr rfl)

theorem EventsOnly.raisePackage (s : State) (code : W16) (subject arg : Nat) : EventsOnly s (s.raisePackage code subject arg) := by
  have hf : ∀ (ps : List Part) (bs : List Byte) (u : State), EventsOnly u (ps.foldl (fun s p => s.packageEventTo p bs) u) := by
    intro ps bs
    induction ps with
    | nil => exact fun u => EventsOnly.refl u
    | cons p ps ih => exact fun u => (EventsOnly.packageEventTo u p bs).trans (ih _)
  unfold State.raisePackage
  dsimp only
  split
  · split
    · exact EventsOnly.count s _ _ _ (by omega) (Or.inr rfl)
    · exact hf _ _ _
  · exact EventsOnly.packageEventTo s _ _

end Sys2Proof.Machine
end

