-- ==== Sys2Proof/Tests/Slice0.lean ====
section
/-! SUPPORT. The model's own tests: ill-formed commands that the check refuses, numbers that the manual's examples and tables give, and
witnesses of the statements' hypotheses. -/

namespace Sys2Proof

open Machine

set_option Elab.async false

/-! ### Ill-formed commands -/

/-- A packet without payload, for the tests. -/
def aPacket : Packet :=
  { typ := 1, tc := 0, dl := false, resend := false, reservedZero := true, dst := 0, src := 1, part := 0, hops := 0, xid := 0, addr := 0,
    arg := 0, payload := [], ecrc := 0 }

/-- A flit of zeros, for the tests. -/
def aFlit : Flit := { fseq := 0, ack := 0, vc := 0, ftype := .data, credits := 0, payload := List.replicate 242 0, fcrc := 0 }

/-- Doorbell indices that are all zero. -/
def aDoorbell : Doorbell := { cmdPi := [0, 0, 0, 0], cplCi := [0, 0, 0, 0], tokCi := [0, 0], evtCi := 0, jnlCi := 0, witCi := 0 }

/-- A census block without tokens. -/
def aCensus : Census := { step := 1, layer := 0, half := false, node := 0, mapVersion := 0, lists := [] }

theorem test_wf_packet : Instr.wf (.write 0 aPacket) = true ∧ Instr.wf (.write 0 { aPacket with hops := 256 }) = false ∧
    Instr.wf (.ack 0 { aPacket with hops := 256 }) = false := by decide

set_option maxRecDepth 8000 in
theorem test_wf_flit : Instr.wf (.flitReceive 0 aFlit) = true ∧ Instr.wf (.flitReceive 0 { aFlit with payload := [] }) = false ∧
    Instr.wf (.flitReceive 0 { aFlit with credits := 4096 }) = false ∧ Instr.wf (.flitReceive 0 { aFlit with words := [[(544, 1)]] }) = false ∧
    Instr.wf (.flitReceive 0 { aFlit with words := [[(0, 1024)]] }) = false := by decide

theorem test_wf_parts : [PartId.tile 24 0, .tile 0 24, .row 24 0 0 0, .row 0 24 0 0, .row 0 0 16 0, .row 0 0 0 1024, .page 12 0 0, .page 0 32 0,
    .page 0 0 31744, .chan 12 0, .chan 0 32, .granule (2 ^ 28), .lane 8 0, .lane 0 9, .core 8, .sm3 52, .conv 9].any partIdWf = false ∧
    [PartId.tile 23 23, .row 23 23 15 1023, .page 11 31 31743, .chan 11 31, .granule (2 ^ 28 - 1), .lane 7 8, .core 7, .sm3 51, .conv 8].all
      partIdWf = true := by decide

theorem test_wf_failures : Instr.wf (.selfTestVerdict (.core 8) .pass .page []) = false ∧ Instr.wf (.pageCopyDone 12 0 0 []) = false ∧
    Instr.wf (.channelFailed 0 32) = false ∧ Instr.wf (.stackFailed 12) = false := by decide

theorem test_wf_doorbell : Instr.wf (.doorbellReadReturn 0 (some aDoorbell)) = true ∧
    Instr.wf (.doorbellReadReturn 0 (some { aDoorbell with cmdPi := [0] })) = false ∧
    Instr.wf (.doorbellReadReturn 0 (some { aDoorbell with cplCi := [] })) = false ∧
    Instr.wf (.doorbellReadReturn 0 (some { aDoorbell with tokCi := [0] })) = false ∧
    Instr.wf (.doorbellReadReturn 0 (some { aDoorbell with evtCi := 2 ^ 64 })) = false := by decide

theorem test_wf_census : Instr.wf (.censusBlock 0 { aCensus with lists := [[⟨4095, 0⟩]] } []) = true ∧
    Instr.wf (.censusBlock 0 { aCensus with lists := [[⟨4096, 0⟩]] } []) = false := by decide

/-- A gate of 4,097 experts is refused. -/
theorem test_wf_gate (g : GateOut) (h : g.length = 4097) : Instr.wf (.censusBlock 0 aCensus [g]) = false := by
  simp [Instr.wf, censusWf, gateWf, aCensus, h]

/-- A broadcast of two chunks from node 1 to node 0. -/
def aPlan : CollPlan :=
  { id := 3, part := 0, op := .broadcast, bf16 := false, tc := 2, members := [0, 1], parent := some 1, children := [], chunks := 2, own := [] }

/-- Place 1 of 1 in the tree of a broadcast of weights by node 1. -/
def aCast : WeightsCast := { order := 0, chunk := 0, me := 1, root := 1, receivers := [(0, true)] }

theorem test_wf_training : Instr.wf (.portTrained 0 ⟨[List.range 9], none⟩) = true ∧ Instr.wf (.portTrained 0 ⟨[[9]], none⟩) = false ∧
    Instr.wf (.portTrained 0 ⟨[[], [], [], []], none⟩) = false := by decide

set_option maxRecDepth 8000 in
theorem test_wf_plans : Instr.wf (.collectiveStart { aPlan with weights := some aCast } none) = true ∧
    Instr.wf (.collectiveStart { aPlan with weights := some { aCast with me := 2 } } none) = false ∧
    Instr.wf (.collectiveStart { aPlan with weights := some { aCast with receivers := List.replicate 507 (0, true) } } none) = false ∧
    Instr.wf (.chunkVerify 0 0 0 .failed none [52] []) = false := by decide

theorem test_wf_estimate : Instr.wf (.estimateEpoch ⟨List.replicate 9 0, 0, 0, []⟩) = true ∧ Instr.wf (.estimateEpoch ⟨[], 0, 0, []⟩) = false ∧
    Instr.wf (.estimateEpoch ⟨List.replicate 9 0, 0, 0, List.replicate 9 0⟩) = false ∧ Instr.wf (.configurationReady 577) = false ∧
    Instr.wf (.bistPhaseTimeout 577) = false := by decide

set_option maxRecDepth 8000 in
theorem test_wf_host : Instr.wf (.descriptorReturn 0 0 (.bytes [])) = false ∧ Instr.wf (.descriptorReturn 0 0 .failed) = true ∧
    Instr.wf (.bar2Write (2 ^ 36) [0]) = false ∧ Instr.wf (.bar2Write 0 (List.replicate 513 0)) = false ∧ Instr.wf (.bar2Read 0 4097 none) = false ∧
    Instr.wf (.bar2Read (2 ^ 36) 1 none) = false ∧ Instr.wf (.rcCounterRead (.vf 0) 0x10000 4) = false ∧
    Instr.wf (.registerWrite .pf 0xFFFFFE 4 0 ⟨.failed, default⟩) = false ∧ Instr.wf (.msixUnmask (.vf 0) 16) = false ∧ Instr.wf (.msixUnmask .pf 255) = true ∧
    Instr.wf (.supplyLowEnter 65536) = false := by decide

/-- A BIST without findings, for the tests. -/
def noFindings : Bist := default

theorem test_wf_bist : [{ noFindings with badSites := [(24, 0)] }, { noFindings with badChannels := [(0, 32)] },
    { noFindings with badStacks := [12] }, { noFindings with badCores := [8] }, { noFindings with badSm3 := [52] },
    { noFindings with badLanes := [(0, 9)] }, { noFindings with firn := [(5, 0)] }, { noFindings with firn := [(1, 12801)] },
    { noFindings with firn := List.replicate 17 (1, 0) }].any bistWf = false ∧ Instr.wf (.ready noFindings) = true := by decide

/-! ### Numbers of the manual -/

/-- Chapter 16, "a CMD ring re-enabled before its shut-down ends": RING_CTRL reads 0x1E, 0x17, 0x0B and 0x15. -/
theorem test_ring_ctrl_example :
    (let f : Fn := { st := .on, enable := true }
     f.onDisable.ctrlWord false = 0x1E ∧ f.onDisable.onEnable.ctrlWord false = 0x17 ∧ f.onDisable.onEnable.onDrained.ctrlWord false = 0x0B ∧
     f.onDisable.onEnable.onDrained.onReady.ctrlWord false = 0x15) := by decide

/-- Chapter 05, "locating a byte and retiring its page": DPA 0x1F_0123_4567 lies at offset 0x9_1567 of H1 C9. -/
theorem test_locate_example :
    (({} : State).setReg .memHbmMap 2 (2 ^ 63 + 8 * 2 ^ 48 + 0x8421)).place 0x1F01234567 = some ((32 * 1 + 9) * chanBytes + 0x91567) := by decide

/-- Chapter 07, "capacity running out within one choice list": experts and passes in the order of assignment. -/
theorem test_admission_example :
    (let list (xs : List Nat) : List Choice := xs.map (fun e => ⟨e, 0⟩)
     let a := ([[7, 3, 1, 9], [7, 2, 3, 5], [7, 3, 2, 5], [3, 7, 2, 1], [2, 3, 7, 5]].map list).zipIdx.foldl (fun a x =>
       admitToken { policy := 1, depth := 2 } 2 2 (fun _ => 0) a x.2 x.1) {}
     a.assigns.map (fun x => (x.xindex, x.expert, x.pass)) =
       [(0, 7, 0), (0, 3, 0), (1, 7, 0), (1, 2, 0), (2, 2, 0), (2, 3, 0), (3, 1, 0), (3, 7, 1), (4, 5, 0), (4, 3, 1)]) := by decide

/-- Chapter 03, "one bank under both modes", cycle 3 under WIDE_FIRST: two writes of row 40 join, and the read of row 200 waits. -/
theorem test_bank_example :
    (let d (s t : Nat) : BankReq := ⟨.dma, 40, some s, some [], t, none⟩
     let v : BankReq := ⟨.vector, 200, some 0, none, 1, none⟩
     joinRow 40 true [d 2 0, d 3 1, v] = [d 2 0, d 3 1]) := by decide

/-- Chapter 07, "a barker that stops agreeing": k goes 4, 5, 5, 2, 1 and 0. -/
theorem test_barker_example :
    (let r : Request := { (default : Request) with spec := some { barkerEn := true, kInit := 4, kMax := 8, suspendSteps := 32 }, draft := 4, suspended := 0 }
     let k (x : Request) (d a : Nat) := (x.afterDraft d a (a + 1)).1.draft
     k r 4 4 = 5 ∧ k { r with draft := 5 } 5 2 = 5 ∧ k { r with draft := 5 } 5 0 = 2 ∧ k { r with draft := 2 } 2 0 = 1 ∧
     ({ r with draft := 1 }.afterDraft 1 0 1).1.suspended = 32 ∧ ({ r with draft := 1 }.afterDraft 1 0 1).2 = true) := by decide

/-- Chapter 10, "a deadline inside a drafted step": FLAGS 0x000B, 0x000B and 0x0003, and INFO 0x0001_1304. -/
theorem test_deadline_example :
    tokCommitted ||| deliveredFlags 3 2 0 false true false = 0x000B ∧ tokCommitted ||| deliveredFlags 3 2 2 false true false = 0x0003 ∧
    tokCommitted ||| deliveredFlags 3 2 2 true true false = 0x0013 ∧ turnInfo 70404 false false = 0x11304 := by decide

/-- Chapter 09, "the first NOP": its descriptor has SEQ 1, opcode 0, IRQ set, CLIENT 0 and class LC, and no fault. -/
theorem test_nop_example :
    (let d : List Byte := [1, 0, 0, 0, 0, 0, 0, 0, 0, 0, 1, 0, 0, 0, 0, 0] ++ List.replicate 48 0
     let c := (newCmd 0 0 0 false).read d
     headerFault d = none ∧ c.seq = 1 ∧ c.opcode.toNat = opNop ∧ c.irq = true ∧ c.client = 0 ∧ c.be = false) := by decide


/-! ### Witnesses of the statements' hypotheses

Each theorem gives, for the statement it is named after, concrete states and operands that meet the hypotheses of its clauses
together. -/

/-- A package in service, with nothing set up. -/
def up : State := { boot := { phase := .ready } }

/-- The package is in service. -/
def ok (s : State) : Bool := decide (s.boot.phase = .ready) && !s.boot.landsTaken && decide (s.found = [])

theorem ok_serving (s : State) (h : ok s = true) : s.serving := by
  simp [ok] at h
  exact ⟨h.1.1, h.1.2, h.2⟩

/-- `up` with one ring of partition 0 changed. -/
def upRing (n : RingNo) (f : Ring → Ring) : State := up.modRing 0 n f

/-- `up` with partition 0 changed. -/
def upPart (f : Partition → Partition) : State := up.modPart 0 f

/-- `up` with port 0 changed. -/
def upPort (f : Port → Port) : State := up.modPort 0 f

/-- A ring that is ON. -/
def ringOn (x : Ring) : Ring := { x with fn := { st := .on } }

theorem witness_StepRunsFrontCommand : ({ up with pending := [.warmReset] } : State).pending = .warmReset :: [] := rfl

theorem witness_StepKeepsMemoryCanonical : State.reset.canonical ∧ ∃ t, step State.reset = .next t :=
  ⟨by unfold State.canonical; decide, _, rfl⟩

theorem witness_StepKeepsFusesAndIdentity : ∃ t, step { up with pending := [.rampWindowStart] } = .next t := ⟨_, rfl⟩

theorem witness_NothingActsBeforeReadyOrWithLandsTaken :
    ({ up with boot := { phase := .ready, landsTaken := true } } : State).boot.landsTaken = true ∧ wholePackage .rampWindowStart = false ∧
    needsReady .rampWindowStart = true ∧ State.reset.boot.phase ≠ .ready ∧ State.reset.boot.landsTaken = false := by decide

theorem witness_PowerUpRunsBootRom :
    State.reset.boot.landsTaken = false ∧ State.reset.boot.phase = .off ∧ State.reset.boot.thermtripN = false ∧
    (let s : State := { boot := { thermtripN := true } }
     s.boot.phase = .off ∧ s.boot.landsTaken = false ∧ (default : BootIn).vinFell = false) ∧
    (let s : State := { boot := { phase := .held } }
     s.boot.phase = .held ∧ s.boot.landsTaken = false) ∧ up.boot.phase ≠ .off ∧ up.boot.phase ≠ .held ∧ up.boot.landsTaken = false := by decide

theorem witness_BootEndsInReadyOrFails :
    (let s : State := { boot := { phase := .booting, bootPhase := 2 } }
     s.boot.landsTaken = false ∧ s.boot.phase = .booting ∧ s.boot.bootPhase = 2 ∧ s.repair.sites = [] ∧ noFindings.badRows = [] ∧ s.canonical) ∧
    ({ boot := { phase := .booting, bootPhase := 1 } } : State).boot.bootPhase ≠ 2 ∧
    fatalCause noFindings 544 = none ∧ fatalCause noFindings 543 = some 3 ∧ fatalCause { noFindings with badStacks := List.range 12 } 576 = some 5 ∧
    fatalCause { noFindings with badStacks := List.range 11 } 576 = none ∧
    fatalCause { noFindings with badCores := List.range 6 } 576 = some 4 := by unfold State.canonical; decide

theorem witness_PackageStopsOnOvervoltageAndUndervoltage : up.boot.phase ≠ .off := by decide

theorem witness_WarmResetLosesEverythingVolatile :
    (let s := up.setReg .glbResetCfg 0 1
     s.boot.phase ≠ .off ∧ s.mem.wf = true ∧ bitOf (s.reg .glbResetCfg) 0 = true ∧ 0 < hbmEnd) := by decide

/-- The state of the boot ROM after no slot verified, with presence open and the factory image at hand. -/
def recovering : State := { boot := { phase := .bootFailed, cause := 1 }, sec := { present := true } }

theorem witness_TestAccessAndRecovery :
    up.boot.landsTaken = false ∧ up.boot.phase ≠ .off ∧ up.hasFunc .pf = true ∧ up.boot.phase = .ready ∧
    (let s : State := { boot := { phase := .booting } }
     s.boot.landsTaken = false ∧ s.boot.phase ≠ .off ∧ s.boot.phase ≠ .held ∧ s.hasFunc .pf = true ∧ s.boot.cfgReady = false ∧
     s.boot.phase ≠ .ready) ∧
    (let s := recovering
     let i := imageOf (factoryHeader ++ [0])
     s.boot.landsTaken = false ∧ s.boot.phase = .bootFailed ∧ s.boot.cause = 1 ∧ s.sec.present = true ∧ s.sec.recBusy = false ∧
     0 < i.imageBytes ∧ i.imageBytes ≤ 0x1FFF000 ∧ (factoryHeader ++ [0]).length = 192 + i.imageBytes ∧ s.sec.rollback ≤ i.svn ∧
     s.sec.imageOk i = true) := by decide +kernel

/-- `up` with an EVT ring of partition 0 that is ON, has 64 entries and lies apart from the status page. -/
def withEvt : State := ((upRing 12 ringOn).setReg .ringStatusAddr 0 0x10000).modRing 0 evtRing ringOn

theorem witness_EventIsPostedOrCounted :
    withEvt.evtTakes 0 = true ∧ up.evtTakes 0 = false ∧ withEvt.host.mem.wf = true ∧
    withEvt.slotAddr 0 evtRing (withEvt.ring 0 evtRing).pi + 16 ≤ withEvt.reg .ringStatusAddr 0 := by decide

theorem witness_SupplyLowBeginsAndEnds :
    ok up = true ∧ up.power.supplyLow = false ∧ up.power.pwrWarn = false ∧ 46999 < 47000 ∧ 48000 ≤ 48000 ∧
    (let s : State := { up with power := { supplyLow := true, pwrWarn := true } }
     ok s = true ∧ s.power.supplyLow = true ∧ s.power.pwrWarn = true) := by decide

theorem witness_ThermalSampleThrottlesBands : up.serving := ok_serving _ (by decide)

theorem witness_ConverterFaultUsesSpareLimitsOrStops :
    up.boot.landsTaken = false ∧ up.boot.phase ≠ .off ∧ up.power.goodConv.getLsbD 8 = true ∧
    (let s : State := { up with power := { goodConv := 0x7F } }
     let g := s.power.goodConv &&& ~~~(BitVec.ofNat 9 (2 ^ 6))
     s.power.goodConv.getLsbD 8 = false ∧ s.power.goodConv.getLsbD 6 = true ∧ ((List.range 9).filter (fun k => g.getLsbD k)).length ≤ 6) ∧
    7 ≤ ((List.range 9).filter (fun k => (up.power.goodConv &&& ~~~(BitVec.ofNat 9 (2 ^ 8))).getLsbD k)).length := by decide

/-- `up` after one epoch of an interval, with D at 100 W. -/
def measured : State := { up with power := { dSum := 100000000, epochs := 1 } }

/-- The numerator of g as a calibration of `measured` forms it, before the bounds. -/
def gainNum (m : Nat) : Int :=
  3 * measured.power.gain.num * measured.power.dSum + ((m * measured.power.epochs : Int) - measured.power.sSum) * 1000000 * measured.power.gain.den

theorem witness_EstimateCalibrationAndRampWindow :
    ok up = true ∧ ok measured = true ∧ (List.replicate 9 1).length = 9 ∧ up.power.epochs = 0 ∧
    (let g := measured.power.gain
     let d := measured.power.dSum
     let n := measured.power.epochs
     let den : Nat := 4 * g.den * d
     0 < n ∧ 100000000 * g.den * n ≤ d * g.num ∧ (d - 1) * g.num < 100000000 * g.den * n ∧
     1000 * gainNum 19 < 800 * (den : Int) ∧ 800 * (den : Int) ≤ 1000 * gainNum 20 ∧ 1000 * gainNum 200 ≤ 1250 * (den : Int) ∧
     1250 * (den : Int) < 1000 * gainNum 201) ∧
    (let p : Power := { lo := some ⟨1, 1⟩, winCount := 1, winSum := ⟨1, 1⟩ }
     0 < p.winCount ∧ (⟨1, 1⟩ : Ratio).leR ⟨p.winSum.num, p.winSum.den * p.winCount⟩ = true ∧
     (⟨1, 1⟩ : Ratio).leR ⟨0, 1 * p.winCount⟩ = false ∧ up.power.lo = none) ∧
    effectiveRate up.power.leaseA up.power.leaseB Lease.up up.fallbackUp = 0 ∧
    effectiveRate up.power.leaseA up.power.leaseB Lease.down up.fallbackDown = 0 ∧
    (let s := up.setReg .pwrFallback 0 (1200 + 2 ^ 12)
     ok s = true ∧ s.power.winCount = 0 ∧ 0 < effectiveRate s.power.leaseA s.power.leaseB Lease.up s.fallbackUp) := by decide

/-- `up` with a dynamic address at management port A. -/
def managed : State := { up with mgmtA := { dynAddr := some 8 } }

theorem witness_LeasesFallbackAndManagementPorts :
    ok managed = true ∧ (managed.mgmt .a).dynAddr.isSome = true ∧ (up.mgmt .a).dynAddr = none ∧
    ((managed.power.lease .a).setEffecter 1 800).isSome = true ∧ ((managed.power.lease .a).setEffecter 1 2400).isSome = true ∧
    (managed.power.lease .a).setEffecter 1 799 = none ∧ (managed.power.lease .a).setEffecter 1 2401 = none ∧
    (({ up with power := { leaseA := { held := true } } } : State).power.lease .a).held = true ∧
    bitsOf 799 0 12 < 800 ∧ 2400 < bitsOf 2401 0 12 ∧ 800 ≤ bitsOf 800 0 12 ∧ bitsOf 2400 0 12 ≤ 2400 ∧
    managed.sensor 0x0022 = none ∧
    managed.boot.landsTaken = false ∧ managed.boot.phase ≠ .off ∧ (1 : Byte) ≠ 0 ∧ (1 : Byte) ≠ 0xFF := by decide

/-- `up` with presence in mode `m` and the pin at level `l`. -/
def presence (m : BitVec 2) (l : Bool) : State := { up with sec := { presMode := m, presLevel := l } }

theorem witness_PresenceOpensAndCloses :
    (presence 0 false).boot.landsTaken = false ∧ (presence 0 false).boot.phase ≠ .off ∧
    (presence 0 false).sec.presMode = 0 ∧ (presence 0 false).sec.presLevel = false ∧
    (let s : State := { up with sec := { presLevel := true, pressed := true, present := true } }
     s.sec.presMode = 0 ∧ s.sec.presLevel = true ∧ s.sec.pressed = true ∧ s.sec.present = true) ∧
    (presence 1 false).sec.presMode = 1 ∧ (presence 1 false).sec.presLevel = false ∧
    (let s : State := { up with sec := { presMode := 1, presLevel := true, present := true } }
     s.sec.presMode = 1 ∧ s.sec.presLevel = true ∧ s.sec.present = true) ∧
    (presence 2 true).sec.presMode = 2 ∧ (presence 2 true).sec.presLevel = true ∧ (presence 2 true).sec.sealBroken = false := by decide

theorem witness_EnableAndDisableFollowTheTable :
    ok up = true ∧ (up.ring 0 0).fn.st = .off ∧ (upRing 0 ringOn |>.ring 0 0).fn.st ≠ .off ∧ (up.part 0).advance.reset = false ∧
    (up.part 0).fn.st = .off ∧ up.enableRefused 0 = true ∧
    (let s := upPart (fun x => { x with fn := { st := .on } })
     ok s = true ∧ (s.part 0).advance.reset = false ∧ (s.part 0).fn.st ≠ .off) ∧
    ((upPart (fun x => { x with advance := { reset := true } })).part 0).advance.reset = true := by decide

theorem witness_ReadyAndDrainedFollowTheTable :
    (let s := upRing 12 (fun x => { x with fn := { st := .enabling } })
     (s.ring 0 12).fn.st = .enabling ∧ s.ringReady 0 12 = false ∧ ok s = true) ∧
    (let s := (((upPart (fun x => { x with fn := { st := .on } })).modRing 0 12 (fun x => { x with fn := { st := .enabling } })).setReg
       .ringDoorbellAddr 0 0x1000).setReg .ringStatusAddr 0 0x2000
     (s.ring 0 12).fn.st = .enabling ∧ s.ringReady 0 12 = true ∧ (s.part 0).fn.st = .on ∧ ok s = true) ∧
    ((upPart (fun x => { x with fn := { st := .enabling } })).part 0).fn.st = .enabling ∧
    (let s := (upPort (fun x => { x with fn := { st := .enabling }, lanes := List.range 8, nbValid := true, neighbour := 5 })).setReg .uagNode 0
       (2 ^ 31 + 3)
     (s.port 0).fn.st = .enabling ∧ (s.port 0).trainedOk = true ∧ s.nodeValid = true ∧ ok s = true) ∧
    (let s := upRing 10 (fun x => { x with fn := { st := .quiescing, latch := true } })
     (s.ring 0 10).fn.st = .quiescing ∧ s.ringDrained 0 10 = true ∧ (s.ring 0 10).fn.latch = true) ∧
    (let s := upRing 0 (fun x => { x with fn := { st := .quiescing }, taken := 1 })
     (s.ring 0 0).fn.st = .quiescing ∧ s.ringDrained 0 0 = false ∧ (s.ring 0 0).fn.latch = false) ∧
    (let s := upPart (fun x => { x with fn := { st := .quiescing } })
     (s.part 0).fn.st = .quiescing ∧ s.partDrained 0 = true) ∧
    (let s := upPort (fun x => { x with fn := { st := .quiescing } })
     (s.port 0).fn.st = .quiescing ∧ (s.port 0).drained = true) := by decide

theorem witness_BarAccesses :
    ok up = true ∧ badAccess 0x10020 4 = false ∧ badAccess 0x10020 8 = false ∧ badAccess 0x10022 4 = true ∧ badAccess 0x10020 2 = true ∧
    (match up.unitAt .pf 0xFFFFFC true with | .hole => true | _ => false) = true ∧
    up.mapped (up.reg .glbBar2Base + 0 % 2 ^ 36) 1 = false ∧
    (let s := up.setReg .glbBar2Base 0 windowBase
     ok s = true ∧ (s.place (s.reg .glbBar2Base + 0 % 2 ^ 36)).isSome = true ∧ s.withdrawnDpa (s.reg .glbBar2Base + 0 % 2 ^ 36) = false ∧
     s.mapped (s.reg .glbBar2Base + 0 % 2 ^ 36) 1 = true ∧ s.badByte (s.reg .glbBar2Base + 0 % 2 ^ 36) 1 none = none ∧
     s.repair.copies = [] ∧ s.heldAt (s.reg .glbBar2Base + 0 % 2 ^ 36) 1 = false) ∧
    (let s := up.setReg .memHbmMap 0 (2 ^ 63 + 1)
     s.mapped (s.reg .glbBar2Base + 4095 % 2 ^ 36) 1 = true ∧
     s.badByte (s.reg .glbBar2Base + 4095 % 2 ^ 36) 1 (some (s.reg .glbBar2Base + 4095)) = some (s.reg .glbBar2Base + 4095) ∧
     ({ s with repair := { copies := [⟨0, 0, 0, 0, 5, true, none, []⟩] } } : State).heldAt (s.reg .glbBar2Base + 0 % 2 ^ 36) 1 = true) := by decide +kernel

/-- A counter of access RC of 4 bytes, and a register of 8 bytes that is none, at their BAR0 offsets (GLB_BAD_ACCESS and GLB_BAR2_BASE). -/
theorem witness_BarAccesses_units :
    (match up.unitAt .pf (0x10018) false with | .reg r _ b => r.isRc && decide (r.bytes = 4) && decide (b = 0) | _ => false) = true ∧
    (match up.unitAt .pf (0x10010) false with | .reg r _ b => !r.isRc && decide (r.bytes = 8) && decide (b = 0) | _ => false) = true ∧
    badAccess (0x10018) 4 = false ∧ badAccess (0x10010) 8 = false := by decide

/-- SPR_MAP_CTRL at its BAR0 offset, with GO set. -/
theorem witness_BarAccesses_go : up.unitAt .pf 0xA0018 true = .reg (regRow .sprMapCtrl) 0 0 ∧ badAccess 0xA0018 4 = false ∧
    (1 : W64).getLsbD 0 = true := ⟨rfl, rfl, rfl⟩

theorem witness_MapWritesTakeHoldOnlyWhileOff :
    ok up = true ∧ (up.part 0).fn.st = .off ∧ ((upPart (fun x => { x with fn := { st := .on } })).part 0).fn.st ≠ .off ∧
    1 ≤ bitsOf (2 ^ 16) 16 15 ∧ bitsOf (2 ^ 30) 16 15 ≤ 16384 := by decide

/-- `up` with port 0 ON after training on its first eight lanes, node 3 here and node 5 there. -/
def linked : State :=
  (upPort (fun x => { x with fn := { st := .on }, lanes := List.range 8, trained := List.range 9, nbValid := true, neighbour := 5 })).setReg
    .uagNode 0 (2 ^ 31 + 3)

theorem witness_PortTrainingSparingAndLoss :
    ok linked = true ∧ (linked.port 0).fn.st ≠ .enabling ∧
    (let s := (upPort (fun x => { x with fn := { st := .enabling } })).setReg .uagNode 0 (2 ^ 31)
     let x : Training := ⟨[[], List.range 7, List.range 9], some 5⟩
     ok s = true ∧ (s.port 0).fn.st = .enabling ∧ s.nodeValid = true ∧ s.regBits .uagPortCtrl 0 1 2 ≤ 2 ∧ x.byRate.getD 2 [] = List.range 9 ∧
     (∀ q < 2, (x.byRate.getD q []).length < 8) ∧ (∀ l < 9, s.repair.retired (.lane 0 l) = false) ∧ (s.port 0).lanes = [] ∧
     (∀ l ∈ [[0, 1, 2], [3]], (l : List Nat).length < 4)) ∧ (up.port 0).fn.st = .off ∧
    ((upPort (fun x => { x with fn := { st := .quiescing } })).port 0).fn.st = .quiescing ∧
    (linked.port 0).fn.st = .on ∧ (linked.port 0).lanes.contains 8 = false ∧ (linked.port 0).lanes.contains 7 = true ∧
    ((linked.substituteLane 0 7).port 0).lanes.contains 7 = false := by decide

set_option maxRecDepth 8000 in
theorem witness_FlitsAreAcceptedRefusedAndAcknowledged :
    ok linked = true ∧ (up.port 0).live = false ∧ (linked.port 0).live = true ∧ (linked.port 0).errLog = [] ∧ aFlit.words = [] ∧
    (linked.port 0).fecOk aFlit = true ∧ aFlit.fcrcOk = true ∧ { aFlit with fcrc := 1 }.fcrcOk = false ∧ aFlit.ftype = .data ∧
    aFlit.fseq = (linked.port 0).rxSeq + 1 ∧ { aFlit with fseq := 1 }.fseq ≠ (linked.port 0).rxSeq + 1 ∧
    (∀ x ∈ (linked.port 0).retry, x.2 < 15) ∧
    -- a codeword with 16 symbols in error is not corrected, one with 15 is
    (let f := { aFlit with words := [(List.range 16).map (fun i => (i, 1))] }
     (linked.port 0).fecOk f = false ∧ (∀ w ∈ (linked.port 0).wordsOf f, correctable w = true → errorsOf w = [])) ∧
    (linked.port 0).fecOk { aFlit with words := [(List.range 15).map (fun i => (i, 1))] } = true ∧ (linked.port 0).unacked = 0 ∧
    (let s := linked.modPort 0 (fun p => { p with unacked := 1 })
     ok s = true ∧ (s.port 0).live = true ∧ 0 < (s.port 0).unacked) := by decide +kernel

/-- `n` payload bytes with the given fields: descriptor offset, size and value of each. -/
def fieldsAt (n : Nat) (fs : List (Nat × Nat × Nat)) : List Byte :=
  (List.range n).map (fun i => fs.foldl (fun b f =>
    if f.1 ≤ 0x10 + i && 0x10 + i < f.1 + f.2.1 then BitVec.ofNat 8 (f.2.2 / 256 ^ (0x10 + i - f.1)) else b) 0)

/-- A command of ring 0 that is next to start. -/
def cmdOf (op : Nat) (fs : List (Nat × Nat × Nat)) : Cmd :=
  { newCmd 0 0 0 false with opcode := BitVec.ofNat 16 op, payload := fieldsAt 48 fs, stage := .held }

/-- The same with an extended payload of `n` bytes. -/
def longCmd (op n : Nat) (fs : List (Nat × Nat × Nat)) : Cmd :=
  { cmdOf op [] with indirect := true, xbytes := n, payload := fieldsAt n fs }

/-- Partition 0 holds command `c`. -/
def holding (s : State) (c : Cmd) : State := s.modPart 0 (fun x => { x with cmds := [c] })

theorem held_is_next (op : Nat) (fs : List (Nat × Nat × Nat)) (h : op < 65536) :
    ((holding up (cmdOf op fs)).part 0).nextCmd 0 op = some (cmdOf op fs) := by
  have e : ((holding up (cmdOf op fs)).part 0).cmds = [cmdOf op fs] := rfl
  have m : op % 65536 = op := Nat.mod_eq_of_lt h
  unfold Partition.nextCmd
  rw [e]
  simp [cmdOf, newCmd, mayStart, m]

/-- A publisher key: the generator of the curve. -/
def keyCmd : Cmd :=
  { cmdOf opInstallKey [] with indirect := true, xbytes := 128,
                               payload := List.replicate 16 0 ++ sliceAt factoryHeader 16 64 ++ List.replicate 48 0 }

theorem witness_DescriptorsAndPayloadsAreJudged_payload :
    (let c : Cmd := { longCmd opBroadcast 64 [(0x1C, 4, 1), (0x34, 2, 1), (0x40, 8, 5)] with stage := .payload }
     let e : Cmd := { c with payload := padTo c.payload c.xbytes }
     ((holding up c).part 0).awaits 0 .payload = some c ∧ payloadFault e = none ∧ pfOnly.contains e.opcode.toNat = false ∧
     e.opcode.toNat ≠ opFence) := by decide +kernel

theorem witness_KeysDebugAndQuoteCommands :
    (let c := keyCmd
     let s := holding up c
     ok s = true ∧ (s.part 0).nextCmd 0 opInstallKey = some c ∧ c.indirect = true ∧ c.xbytes = 128 ∧ c.field 0x11 1 ≤ 15 ∧ c.field 0x12 1 ≤ 32 ∧
     c.field 0x10 1 = 0 ∧ (sm2Point (c.bytes 0x20 64)).isSome = true ∧ allZero ((c.bytes 0x60 32).drop (c.field 0x12 1)) = true ∧
     dget? s.sec.keys (c.field 0x11 1) = none ∧ (∀ e ∈ s.sec.keys, e.2.keyId ≠ BitVec.ofNat 64 (c.field 0x18 8))) ∧
    (let c := { keyCmd with payload := 1 :: List.replicate 127 0 }
     let s : State := { holding up c with sec := { keys := [(0, ⟨0, [], []⟩)] } }
     (s.part 0).nextCmd 0 opInstallKey = some c ∧ c.field 0x10 1 = 1 ∧ c.field 0x18 8 = 0 ∧ allZero (c.bytes 0x20 64) = true ∧
     (dget? s.sec.keys (c.field 0x11 1)).isSome = true) ∧
    (let c := cmdOf opDebug [(0x10, 1, 3)]
     let s : State := { holding up c with sec := { present := true } }
     (s.part 0).nextCmd 0 opDebug = some c ∧ 1 ≤ c.field 0x10 1 ∧ c.field 0x10 1 ≤ 3 ∧ s.sec.present = true ∧ up.sec.present = false) ∧
    (let c := cmdOf opAttest [(0x3C, 2, 0x0102), (0x38, 4, 65536)]
     let s := holding up c
     (s.part 0).nextCmd 0 opAttest = some c ∧ c.field 0x30 8 % 64 = 0 ∧ bitOf (c.field 0x3D 1) 0 = true ∧ s.vfOf 0 = none ∧
     (s.quoteBody 0 (c.bytes 0x10 32) 2 true).length + 64 ≤ c.field 0x38 4 ∧ ((s.setReg .partCfg 0 0x20).vfOf 0).isSome = true ∧
     (cmdOf opAttest []).field 0x38 4 < (s.quoteBody 0 (c.bytes 0x10 32) 2 true).length + 64) := by decide +kernel

theorem witness_FlashAndFuseWrites :
    (let bs := factoryHeader ++ [0]
     let c := cmdOf opFlash [(0x10, 1, 1), (0x20, 4, 193)]
     let s : State := { holding up c with sec := { present := true } }
     ok s = true ∧ (s.part 0).nextCmd 0 opFlash = some c ∧ c.field 0x10 1 ≤ 1 ∧ c.field 0x18 8 % 4096 = 0 ∧ 0 < (imageOf bs).imageBytes ∧
     (imageOf bs).imageBytes ≤ 0x1FFF000 ∧ c.field 0x20 4 = 192 + (imageOf bs).imageBytes ∧ s.sec.present = true ∧
     s.power.supplyLow = false ∧ s.sec.writing = false ∧ c.field 0x10 1 ≠ (if s.boot.slotB then 1 else 0) ∧
     s.sec.rollback ≤ (imageOf bs).svn ∧ s.sec.imageOk (imageOf bs) = true ∧ s.sec.imageOk (imageOf (factoryHeader ++ [1])) = false) ∧
    (let c := cmdOf opFlash []
     let s : State := { holding up c with sec := { flash := some { part := some 0, cmd := 0, slotB := true, image := {}, pages := 2 } } }
     ok s = true ∧ s.sec.writing = true ∧ s.cmd? 0 0 = some c ∧ (s.sec.flash.map (fun j => decide (j.done + 1 < j.pages) && !j.halt)) = some true) ∧
    (let c := cmdOf opFuse [(0x10, 1, 1), (0x11, 1, 1), (0x14, 4, 5)]
     let s : State := { holding up c with sec := { present := true, runningSvn := 5 } }
     ok s = true ∧ (s.part 0).nextCmd 0 opFuse = some c ∧ c.field 0x10 1 = 1 ∧ 0 < c.field 0x14 4 ∧ c.field 0x14 4 ≤ 65535 ∧
     allZero (c.bytes 0x18 32) = true ∧ s.sec.present = true ∧ s.power.supplyLow = false ∧ s.sec.writing = false ∧
     s.sec.rollback < c.field 0x14 4 ∧ c.field 0x14 4 ≤ s.sec.runningSvn ∧ bitOf (c.field 0x11 1) 0 = true ∧ s.sec.fuseNext + 3 ≤ 1024) ∧
    (let j : FuseJob := { part := 0, cmd := 0, at_ := 0, words := [1, 2], rollback := false }
     let s : State := { holding up (cmdOf opFuse []) with sec := { fuse := some j } }
     ok s = true ∧ j.done + 1 < j.words.length ∧ j.halt = false ∧ ({ j with done := 1 } : FuseJob).done + 1 = j.words.length ∧
     (s.cmd? 0 j.cmd).isSome = true) ∧
    -- the last page, a halt at a page, and the last word of a record
    (let c := cmdOf opFlash []
     let j : FlashJob := { part := some 0, cmd := 0, slotB := true, image := {}, pages := 2 }
     { j with done := 2 }.done = { j with done := 2 }.pages ∧ j.part = some 0 ∧ j.cmd = c.order ∧ { j with halt := true }.halt = true ∧
     j.done < j.pages) ∧
    (let j : FuseJob := { part := 0, cmd := 0, at_ := 0, words := [1, 2], rollback := false, done := 1 }
     j.done + 1 = j.words.length ∧ j.part = 0 ∧ j.rollback = false) ∧
    (let s : State := { up with power := { supplyLow := true }, sec := { present := true } }
     ok s = true ∧ s.sec.present = true ∧ s.power.supplyLow = true) ∧
    ({ up with sec := { fuse := some { part := 0, cmd := 0, at_ := 0, words := [], rollback := false } } } : State).sec.writing = true := by decide +kernel

theorem witness_PartitionResetsAndEpochs :
    ok up = true ∧ (up.part 0).advance.reset = false ∧ up.partOf 15 = none ∧
    (let s := up.setReg .partCfg 0 (2 ^ 5 + 15 * 2)
     s.partOf 15 = some 0) ∧
    (let s := upPart (fun x => { x with advance := { running := true } })
     ok s = true ∧ (s.part 0).advance.running = true ∧ s.epochPackets 0 = false ∧ (s.part 0).advance.reset = false) ∧
    (let s := upPart (fun x => { x with advance := { running := true, reset := true } })
     ok s = true ∧ (s.part 0).advance.running = true ∧ s.epochPackets 0 = false ∧ (s.part 0).advance.reset = true ∧
     (s.part 0).cmds = []) := by decide

theorem witness_DoorbellReadsFollowTheHost :
    (let s := upRing 0 ringOn
     ok s = true ∧ (s.part 0).anyLive = true ∧ (s.ring 0 0).error = false ∧ (s.ring 0 (cmdRing 0)).fn.st = .on ∧
     (s.ring 0 (cmdRing 0)).pi ≤ aDoorbell.cmdPi.getD 0 0 ∧ aDoorbell.cmdPi.getD 0 0 - (s.ring 0 (cmdRing 0)).ci ≤ s.ringEntries 0 (cmdRing 0) ∧
     s.ringEntries 0 (cmdRing 0) < { aDoorbell with cmdPi := [65, 0, 0, 0] }.cmdPi.getD 0 0 - (s.ring 0 (cmdRing 0)).ci) ∧
    (let s := { (upPart (fun x => { x with doorbellIssued := 1 })) with host := { up.host with reads := [.doorbell 0] } }
     ok s = true ∧ 0 < (s.part 0).doorbellIssued ∧ HostRead.doorbell 0 ∈ s.host.reads.take 512) ∧
    (let s := { (upPart (fun x => { x with doorbellIssued := 1 })) with
       host := { up.host with reads := List.replicate 512 (HostRead.flushing 0 false 0) ++ [HostRead.doorbell 0] } }
     HostRead.doorbell 0 ∉ s.host.reads.take 512) ∧
    (let s := upPart (fun x => { x with doorbellPending := true })
     (s.part 0).doorbellIssued = 0 ∧ (s.part 0).doorbellPending = true ∧ s.host.reads = []) ∧
    (up.part 0).anyLive = false ∧ (up.part 0).doorbellIssued = 0 ∧ (up.part 0).doorbellPending = false ∧
    (let s := (upRing evtRing ringOn).modPart 0 (fun x => { x with doorbellIssued := 1 })
     0 < (s.part 0).doorbellIssued ∧ (s.ring 0 evtRing).fn.st = .on ∧ (s.ring 0 evtRing).error = false ∧
     (s.ring 0 evtRing).ci ≤ aDoorbell.evtCi ∧ aDoorbell.evtCi ≤ (s.ring 0 evtRing).pi) ∧
    (let s := upRing evtRing (fun x => { ringOn x with ci := 1, pi := 1 })
     aDoorbell.evtCi < (s.ring 0 evtRing).ci ∧ (s.ring 0 evtRing).pi < { aDoorbell with evtCi := 2 }.evtCi) := by decide +kernel

/-- Descriptor of the first NOP of chapter 09. -/
def nopBytes : List Byte := [1, 0, 0, 0, 0, 0, 0, 0, 0, 0, 1, 0, 0, 0, 0, 0] ++ List.replicate 48 0

theorem witness_DescriptorsAndPayloadsAreJudged :
    (up.part 0).awaits 0 .fetching = none ∧ (up.part 0).awaits 0 .payload = none ∧
    (let c := newCmd 0 0 0 false
     let s : State := { holding up c with host := { up.host with reads := [.descriptor 0 c.order] } }
     ok s = true ∧ (s.part 0).awaits 0 .fetching = some c ∧ HostRead.descriptor 0 c.order ∈ s.host.reads.take 512 ∧
     HostRead.descriptor 0 c.order ∉ up.host.reads.take 512 ∧ nopBytes.length = 64 ∧ headerFault nopBytes = none ∧
     (c.read nopBytes).indirect = false ∧ payloadFault (c.read nopBytes) = none ∧ pfOnly.contains (c.read nopBytes).opcode.toNat = false ∧
     (c.read nopBytes).opcode.toNat ≠ opFence ∧ (s.part 0).advance.reset = false ∧
     headerFault (List.replicate 64 0xFF) = some 8 ∧
     (let d : List Byte := nopBytes.take 10 ++ [2, 0] ++ List.replicate 12 0 ++ [64, 0, 0, 0] ++ List.replicate 36 0
      d.length = 64 ∧ headerFault d = none ∧ (c.read d).indirect = true)) ∧
    (let c : Cmd := { cmdOf opNop [] with stage := .payload }
     let s : State := { holding up c with host := { up.host with reads := [.indirect 0 c.order] } }
     (s.part 0).awaits 0 .payload = some c ∧ HostRead.indirect 0 c.order ∈ s.host.reads.take 512 ∧
     HostRead.indirect 0 c.order ∉ up.host.reads.take 512) ∧
    (let d : List Byte := [1, 0, 0, 0, 0, 0, 0, 0, 0, 0, 1, 0, 0, 0, 0, 0] ++ List.replicate 47 0 ++ [1]
     let c := (newCmd 0 0 0 false).read d
     headerFault d = none ∧ c.indirect = false ∧ payloadFault c = some 0x10) ∧
    ((upPart (fun x => { x with advance := { reset := true } })).part 0).advance.reset = true := by decide +kernel

/-- A well-formed WRITE_REPAIR_MAP descriptor: a command that only the PF may give. -/
theorem witness_DescriptorsAndPayloadsAreJudged_pf :
    (let d : List Byte := [1, 0, 0, 0, 0, 0, 0, 0] ++ leBytes 2 opWriteMap ++ [1, 0, 0, 0, 0, 0] ++ List.replicate 48 0
     let c := (newCmd 0 0 0 false).read d
     headerFault d = none ∧ c.indirect = false ∧ payloadFault c = none ∧ pfOnly.contains c.opcode.toNat = true ∧
     ((up.setReg .partCfg 0 0x20).vfOf 0).isSome = true) := by decide +kernel

/-- `up` whose partition 0 holds command `c`, with TOK ring 0 ON and HBM of one group mapped. -/
def serving (c : Cmd) : State := ((holding up c).modRing 0 (tokRingNo 0) ringOn).setReg .memHbmMap 0 (2 ^ 63 + 1)

/-- A request of one token, epoch 0, for the tests. -/
def aReq (st : ReqSt) : Request := { (default : Request) with st := st, tokens := [0], committed := 1 }

/-- `s` with request 1 of partition 0. -/
def withReq (s : State) (q : Request) : State := s.modPart 0 (fun x => { x with requests := [(1, q)] })

theorem witness_FenceAndCopyComplete :
    (let c : Cmd := { cmdOf opFence [] with stage := .started, waited := some [7] }
     let s := holding up c
     ok s = true ∧ (s.part 0).cmds.find? (fun c => decide (c.ring = 0) && decide (c.opcode.toNat = opFence) && c.waited.isSome) = some c ∧
     c.waited = some [7] ∧ s.cmd? 0 7 = none ∧
     (let s := s.modPart 0 (fun x => { x with cmds := [c, { cmdOf opNop [] with order := 7 }] })
      (s.part 0).cmds.find? (fun c => decide (c.ring = 0) && decide (c.opcode.toNat = opFence) && c.waited.isSome) = some c ∧
      (s.cmd? 0 7).isSome = true)) ∧
    (let c := cmdOf opCopy [(0x18, 8, 4096), (0x20, 8, 1), (0x28, 1, 1)]
     let s := serving c
     ok s = true ∧ (s.part 0).nextCmd 0 opCopy = some c ∧ s.copyFault 0 c = none ∧ bitOf (c.field 0x28 1) 0 = true ∧
     bitOf (c.field 0x28 1) 1 = false ∧ s.badByte 0 1 none = none ∧ s.badByte 0 1 (some 0) = some 0 ∧ s.heldAt 0 1 = false ∧
     ({ s with repair := { copies := [⟨0, 0, 0, 0, 5, true, none, []⟩] } } : State).heldAt 0 1 = true) ∧
    (let c := cmdOf opCopy [(0x20, 8, 1)]
     (serving c).copyFault 0 c = some 0x28) ∧
    (let c := cmdOf opCopy [(0x18, 8, 4096), (0x20, 8, 1), (0x28, 1, 2)]
     let s := (serving c).setReg .memHostRegion 0 1
     (s.part 0).nextCmd 0 opCopy = some c ∧ s.copyFault 0 c = some 0x18 ∧ bitOf (c.field 0x28 1) 0 = false ∧
     (let c := cmdOf opCopy [(0x18, 8, s.hostRegion 0), (0x20, 8, 1), (0x28, 1, 2)]
      s.copyFault 0 c = none ∧ ([0] : List Byte).length = c.field 0x20 8)) := by decide +kernel

theorem witness_ModerationTimerAndUnmask :
    ok up = true ∧ (up.ring 0 4).pending = 0 ∧ up.regBits .ringCfg (ringIx 0 4) 16 10 = 0 ∧
    (let s := (upRing 4 (fun x => { x with pending := 1 })).setReg .ringCfg (ringIx 0 4) (2 ^ 8 + 2 ^ 16)
     let s : State := { s with host := { s.host with space := Vector.replicate 17 { msixEnable := true } } }
     ok s = true ∧ 4 ≤ 4 ∧ 0 < (s.ring 0 4).pending ∧ s.regBits .ringCfg (ringIx 0 4) 8 8 ≠ 0 ∧ s.regBits .ringCfg (ringIx 0 4) 16 10 ≠ 0 ∧
     s.msixOn 0 = true) ∧
    255 < vectorsOf .pf ∧ 15 < vectorsOf (.vf 15) ∧ (dget up.host.msix (msixKey .pf 255) {}).pending = false ∧
    (let s : State := { up with host := { space := Vector.replicate 17 { msixEnable := true }, msix := [(msixKey (.vf 15) 15, { pending := true })] } }
     ok s = true ∧ (s.host.space.get (funcIx (.vf 15))).msixEnable = true ∧ (s.host.space.get (funcIx (.vf 15))).funcMask = false ∧
     (dget s.host.msix (msixKey (.vf 15) 15) {}).pending = true) := by decide +kernel

theorem witness_AdmitAndAppendAreJournalled :
    (let c := cmdOf opAdmit [(0x10, 4, 1), (0x14, 4, 1), (0x28, 4, 1)]
     let s := (serving c).modPart 0 (fun x => x.setSlot 0 { st := .active })
     let bs : List Byte := [0, 0, 0, 0]
     ok s = true ∧ (s.part 0).nextCmd 0 opAdmit = some c ∧ (s.part 0).fn.st ≠ .quiescing ∧ admitFault c = none ∧
     admitFault (cmdOf opAdmit []) = some 0x14 ∧ bs.length = 4 * c.field 0x14 4 ∧ s.tokensOk 0 0 (tokenWords bs) = true ∧
     s.idTaken 0 c 1 = false ∧ (withReq s (aReq .idle)).idTaken 0 c 1 = true ∧ s.tokOn 0 (bitOf (c.field 0x32 2) 0) = true ∧
     s.modelOk 0 0 = true ∧ s.modelActive 0 0 = true ∧ c.unwitnessed = false ∧ s.requestsFull 0 = false ∧ s.roomForRequest 0 0 = true ∧
     (s.setReg .memHostRegion 0 0xFFFF).roomForRequest 0 0 = false ∧ up.modelActive 0 0 = false ∧ s.swapClass 0 = false) ∧
    (let c := cmdOf opAppend [(0x10, 4, 1), (0x18, 4, 1), (0x1C, 4, 1)]
     let s := withReq (serving c) (aReq .idle)
     let bs : List Byte := [0, 0, 0, 0]
     (s.part 0).nextCmd 0 opAppend = some c ∧ (s.part 0).fn.st ≠ .quiescing ∧ appendFault c = none ∧ 0 < c.field 0x18 4 ∧
     bs.length = 4 * c.field 0x18 4 ∧ s.req? 0 1 = some (aReq .idle) ∧ s.tokensOk 0 (aReq .idle).model (tokenWords bs) = true ∧
     (aReq .decode).st ≠ .idle ∧ (aReq .idle).st = .idle ∧ (aReq .idle).closing = none ∧ (aReq .idle).turn = none ∧ c.unwitnessed = false ∧
     (aReq .idle).epoch.toNat = c.field 0x14 2 ∧ (aReq .idle).epoch.toNat ≠ (cmdOf opAppend [(0x14, 2, 1)]).field 0x14 2 ∧
     (aReq .idle).committed + 1 + 1 ≤ 1048576 ∧ 1048576 < (aReq .idle).committed + 1 + 1048576) := by decide +kernel

/-- 65,536 live requests fill a partition. -/
theorem witness_requestsFull : (up.modPart 0 (fun x => { x with requests := List.replicate 65536 (0, aReq .idle) })).requestsFull 0 = true := by
  have e : ((up.modPart 0 (fun x => { x with requests := List.replicate 65536 (0, aReq .idle) })).part 0).requests =
      List.replicate 65536 (0, aReq .idle) := rfl
  unfold State.requestsFull
  rw [e, List.length_replicate]
  exact decide_eq_true (Nat.le_refl _)

theorem witness_CancelAndDeadlineAreJournalled :
    (let c := cmdOf opCancel [(0x10, 4, 1)]
     let s := withReq (holding up c) (aReq .decode)
     ok s = true ∧ (s.part 0).nextCmd 0 opCancel = some c ∧ (holding up c).req? 0 1 = none ∧ s.req? 0 (c.field 0x10 4) = some (aReq .decode) ∧
     (aReq .decode).closing = none ∧ c.unwitnessed = false ∧ (aReq .decode).epoch.toNat = c.field 0x14 2) ∧
    (let c := cmdOf opSetDeadline [(0x10, 4, 1), (0x14, 2, 1)]
     let s := withReq (holding up c) (aReq .decode)
     (s.part 0).nextCmd 0 opSetDeadline = some c ∧ s.req? 0 (c.field 0x10 4) = some (aReq .decode) ∧ (aReq .decode).st ≠ .idle ∧
     (aReq .decode).epoch.toNat ≠ c.field 0x14 2 ∧ (aReq .decode).epoch.toNat = (cmdOf opSetDeadline [(0x10, 4, 1)]).field 0x14 2 ∧
     (aReq .idle).st = .idle) := by decide +kernel

theorem witness_RestoreAndMigrateResumeRequests :
    (let c := cmdOf opRestore [(0x10, 4, 1), (0x18, 4, 1)]
     let s := serving c
     let bs : List Byte := [0, 0, 0, 0]
     ok s = true ∧ (s.part 0).nextCmd 0 opRestore = some c ∧ restoreFault c = none ∧ bs.length = 4 * c.field 0x18 4 ∧
     s.tokensOk 0 (c.field 0x36 2) (tokenWords bs) = true ∧ s.idTaken 0 c 1 = false ∧ (withReq s (aReq .idle)).idTaken 0 c 1 = true ∧
     s.tokOn 0 (bitOf (c.field 0x16 2) 0) = true ∧ s.modelOk 0 (c.field 0x36 2) = true ∧ c.unwitnessed = false ∧ c.field 0x14 2 ≠ 0xFFFF ∧
     (cmdOf opRestore [(0x14, 2, 0xFFFF)]).field 0x14 2 = 0xFFFF ∧ s.requestsFull 0 = false ∧ bitOf (c.field 0x40 2) 15 = false ∧
     s.roomForRequest 0 (c.field 0x36 2) = true ∧ (s.setReg .memHostRegion 0 0xFFFF).roomForRequest 0 (c.field 0x36 2) = false ∧
     bitOf (0x8005 : Nat) 15 = true ∧ (Fin.ofNat 512 (0x8005 % 512) : Node) ≠ s.self ∧ s.fabric.fenced.contains (Fin.ofNat 512 (0x8005 % 512)) = false) ∧
    (let c := cmdOf opMigrate [(0x16, 2, 5), (0x18, 4, 1)]
     let s := serving c
     (s.part 0).nextCmd 0 opMigrate = some c ∧ (5 : Node) ≠ s.self ∧ (0 : Node) = s.self ∧ c.field 0x1C 1 ≤ 1 ∧
     1 < (cmdOf opMigrate [(0x1C, 1, 2)]).field 0x1C 1 ∧ c.unwitnessed = false ∧ s.roomForRequest 0 0 = true ∧
     (s.setReg .memHostRegion 0 0xFFFF).roomForRequest 0 0 = false ∧
     s.idTaken 0 c (c.field 0x18 4) = false ∧ s.tokOn 0 (bitOf (c.field 0x1D 1) 0) = true ∧ s.requestsFull 0 = false ∧
     s.fabric.fenced.contains 5 = false ∧ ({ s with fabric := { fenced := [5] } } : State).fabric.fenced.contains 5 = true ∧
     up.cmd? 0 0 = none ∧
     (let s := s.modPart 0 (fun x => { x with migrations := [(0, 3)] })
      s.cmd? 0 c.order = some c ∧ (c.order, 3) ∈ (s.part 0).migrations)) := by decide +kernel

/-- A signed manifest head of one chunk and one shard: the chunk is one zero byte, the publisher's private key is 1. Computed by hand
from R678 to R684. -/
def aHead : List Byte :=
  [0x4c, 0x4e, 0x4d, 0x46, 0x01, 0x00, 0x00, 0x01, 0x01, 0x00, 0x00, 0x00, 0x00, 0x00, 0x00, 0x00, 0x01, 0x00, 0x00, 0x00, 0x01, 0x00,
     0x00, 0x00, 0x09, 0x00, 0x00, 0x00, 0x00, 0x00, 0x00, 0x00, 0x52, 0x98, 0x27, 0x44, 0xd9, 0x7b, 0x97, 0x1b, 0x17, 0x02, 0x03, 0xc0,
     0xe1, 0xbc, 0xfd, 0xf5, 0x97, 0x5e, 0xc8, 0x33, 0x41, 0x88, 0x30, 0x51, 0x95, 0x2a, 0x34, 0xb7, 0xc3, 0x0e, 0x4f, 0x7f] ++
    [0xce, 0x95, 0x9d, 0xd8, 0x84, 0x39, 0x1c, 0xa8, 0x9a, 0x6d, 0xc1, 0x00, 0xe7, 0x4b, 0x3e, 0xca, 0x4b, 0x38, 0xf8, 0xd7, 0x71, 0x46,
     0xaf, 0x7e, 0x87, 0x92, 0x8c, 0x49, 0xb4, 0x78, 0x09, 0x5a, 0x40, 0x01] ++
    List.replicate 30 0 ++
    [0xbd, 0xef, 0x58, 0x84, 0x98, 0x24, 0x33, 0x06, 0x00, 0xe5, 0x1d, 0x40, 0xf3, 0x4b, 0x17, 0xed, 0x9e, 0xa4, 0xce, 0x29, 0xee, 0x09,
     0x24, 0x8a, 0xdc, 0x75, 0xe4, 0x7e, 0x13, 0xc4, 0x70, 0xba, 0x21, 0x08, 0x53, 0xbd, 0x33, 0xed, 0xe6, 0x7c, 0xff, 0x8d, 0x71, 0x5f,
     0x86, 0x5a, 0x74, 0x08, 0xe9, 0xaf, 0x88, 0xa0, 0x99, 0xde, 0x70, 0x50, 0x3b, 0xa3, 0x07, 0xc5, 0x93, 0x08, 0x68, 0x38] ++
    List.replicate 64 0 ++
    [0x01, 0x00, 0x00, 0x00, 0x00, 0x00, 0x00, 0x00, 0x20, 0x01] ++
    List.replicate 16 0 ++
    [0x20] ++
    List.replicate 9 0 ++
    [0x01] ++
    List.replicate 35 0 ++
    [0x2d, 0xae, 0xf6, 0x0e, 0x7a, 0x0b, 0x8f, 0x5e, 0x02, 0x4c, 0x81, 0xcd, 0x2a, 0xb3, 0x10, 0x9f, 0x2b, 0x4f, 0x15, 0x5c, 0xf8, 0x3a,
     0xde, 0xb2, 0xae, 0x55, 0x32, 0xf7, 0x4a, 0x15, 0x7f, 0xdf] ++
    List.replicate 2016 0

/-- `s` with the publisher key that signs it, at index 0. -/
def withKey (s : State) : State := { s with sec := { keys := [(0, ⟨9, sliceAt factoryHeader 16 64, []⟩)] } }

/-- Tag of the head. -/
def aTag : Nat := fieldAt aHead 0x20 8

/-- A head kept for a slot, for the tests. -/
def keptHead : Head := { (default : Head) with root := List.replicate 32 0, chunks := 1, modelBytes := 1, resident := [0], localBytes := 1 }

/-- `s` with slot `n` of partition 0 in state `st`, with that head. -/
def withSlot (s : State) (n : Nat) (st : SlotSt) : State :=
  s.modPart 0 (fun x => x.setSlot n { st := st, head := some keptHead, info := some default })

/-- The ice core of a request with one token and no layers, written out from R347 and R348 with an empty stored DEFLATE block for the
drift, for the model of slot 0 of `s`. -/
def iceOf (s : State) : List Byte :=
  let i := s.iceModelNow 0
  let record := restoreBytes default ++ [7, 0, 0, 0]
  let body := leBytes 8 0x120 ++ leBytes 4 52 ++ leBytes 4 0 ++ leBytes 8 0x154 ++ leBytes 4 5 ++ leBytes 4 1 ++ record ++ [1, 0, 0, 0xFF, 0xFF]
  leBytes 4 0x31454349 ++ leBytes 2 1 ++ [1, BitVec.ofNat 8 i.info.kvFmt] ++ leBytes 4 0 ++ leBytes 2 0 ++ leBytes 2 0 ++ leBytes 4 1 ++
    leBytes 4 i.shard ++ leBytes 8 (0x100 + body.length) ++ padTo i.root 32 ++ sm3 body ++ leBytes 4 0 ++
    [BitVec.ofNat 8 i.info.blockLen, BitVec.ofNat 8 i.info.frame] ++ List.replicate 154 0 ++ body

theorem witness_FreezeAndThawUseIceCores :
    (let c := cmdOf opFreeze [(0x10, 4, 1), (0x14, 1, 1)]
     let s := withReq (holding up c) (aReq .decode)
     ok s = true ∧ (s.part 0).nextCmd 0 opFreeze = some c ∧ s.req? 0 1 = some (aReq .decode) ∧ freezeFault c .failed 0 = none ∧ c.field 0x15 1 = 0 ∧
     (holding up c).req? 0 (c.field 0x10 4) = none ∧ (freezeFault (cmdOf opFreeze []) .failed 0).isSome = true ∧
     ({ aReq .decode with freezing := some ⟨7, [], 0, false, 0, 0, false⟩ } : Request).freezing.isSome = true ∧ (aReq .decode).freezing = none ∧
     (aReq .decode).closing = none ∧ c.unwitnessed = false) ∧
    (let c := cmdOf opThaw [(0x10, 4, 1), (0x20, 8, 4096)]
     let s := withSlot (serving c) 0 .active
     let core := iceOf s
     (s.part 0).nextCmd 0 opThaw = some c ∧ c.field 0x15 1 = 0 ∧ c.field 0x14 1 ≤ 1 ∧ core = core.take (fieldAt core 0x18 8) ∧
     iceHeaderOk core (c.field 0x20 8) = true ∧ iceHeaderOk core 255 = false ∧ iceMatches (s.iceModelNow 0) core = true ∧
     iceMatches { s.iceModelNow 0 with shard := 1 } core = false ∧ s.idTaken 0 c (c.field 0x10 4) = false ∧ c.unwitnessed = false ∧
     iceDigestOk core = true ∧ iceDigestOk (core.take 256 ++ 1 :: core.drop 257) = false ∧ s.requestsFull 0 = false ∧
     (readIce (s.mainInfo 0) core).map (fun x => (x.history, x.layers)) = some ([7], []) ∧ readIce { s.mainInfo 0 with attnLayers := 1 } core = none ∧
     s.hbmRoom 0 (thawBytes (s.mainInfo 0) []) = true ∧ (s.setReg .memHostRegion 0 0xFFFF).hbmRoom 0 (thawBytes (s.mainInfo 0) []) = false) := by
  decide +kernel

theorem witness_FreezeAndThawUseIceCores_firn :
    (let c := cmdOf opThaw [(0x14, 1, 2), (0x15, 1, 1), (0x18, 8, firnBase), (0x20, 8, 4096)]
     let s := (withSlot (holding up c) 0 .active).setReg .memFirnMap 0 (2 ^ 31 + 2 ^ 16)
     let core := iceOf s
     let s : State := { s with repair := { s.repair with firnChannels := 1, firnDensity := 1 }, mem := (⟨[], []⟩ : Mem).writeBytes firnBase core }
     let a := c.field 0x18 8
     let n := c.field 0x20 8
     let h := s.readDpa a (min n 256)
     let total := fieldAt h 0x18 8
     (s.part 0).nextCmd 0 opThaw = some c ∧ c.field 0x14 1 = 2 ∧ c.field 0x15 1 = 1 ∧ s.inFirnExtent 0 a n = true ∧ iceHeaderOk h n = true ∧
     iceMatches (s.iceModelNow 0) h = true ∧ s.idTaken 0 c (c.field 0x10 4) = false ∧ s.badByte a (min n 256) none = none ∧
     s.badByte a total none = none ∧ s.badByte a (min n 256) (some a) = some a ∧ iceDigestOk (s.readDpa a total) = true) := by decide +kernel

/-- A freeze into a host buffer of 0 bytes, which is too small for every ice core. -/
theorem witness_FreezeAndThawUseIceCores_room :
    (let c := cmdOf opFreeze [(0x10, 4, 1)]
     let f : Freezing := { cmd := c.order, bits := [], keepPages := 0, firn := false, addr := 0, room := 0 }
     let q := { aReq .decode with freezing := some f }
     let s := withReq (withSlot (holding up c) 0 .active) q
     s.req? 0 1 = some q ∧ s.kvUnreadable 0 q = none ∧ f.firn = false ∧ f.cmd = c.order ∧ s.cmd? 0 c.order = some c ∧ f.room = 0) ∧
    ∀ (s : State) (q : Request) (f : Freezing), 0 < (s.iceCoreOf 0 1 q f).length := by
  refine ⟨by decide +kernel, fun s q f => ?_⟩
  unfold State.iceCoreOf iceCore
  simp only [List.length_append, List.length_replicate]
  omega

/-- A record on its way to durability. -/
def aRec (e : OnDurable) : PendRec := { jrec := default, local_ := true, effect := e }

/-- `up` without a witness, with one durable record. -/
def durable (e : OnDurable) : State :=
  (upPart (fun x => { x with cmds := [{ cmdOf opAdmit [] with stage := .journalled }], jnl := { recs := [aRec e] } })).setReg .jnlCfg 0 1

theorem witness_DurableRecordsTakeEffect :
    ok up = true ∧ firstDurable (up.solo 0) (up.part 0).jnl.recs [] [] = none ∧
    (let s := durable .nothing
     ok s = true ∧ firstDurable (s.solo 0) (s.part 0).jnl.recs [] [] = some (aRec .nothing, [])) ∧
    (let s := durable (.accept 0)
     ok s = true ∧ firstDurable (s.solo 0) (s.part 0).jnl.recs [] [] = some (aRec (.accept 0), []) ∧
     s.cmd? 0 0 = some { cmdOf opAdmit [] with stage := .journalled } ∧ (cmdOf opAdmit []).opcode.toNat = opAdmit) ∧
    (let q : Request := { aReq .decode with closing := some ⟨0, 0, 0, 0, 0⟩ }
     let s := withReq (durable (.close 1)) q
     firstDurable (s.solo 0) (s.part 0).jnl.recs [] [] = some (aRec (.close 1), []) ∧ s.req? 0 1 = some q ∧ q.closing.isSome = true ∧
     (s.part 0).leaving = []) ∧
    up.oldestFlush 0 = none ∧
    ({ up with host := { reads := [.flushing 0 false 0] } } : State).oldestFlush 0 = some false ∧
    (∀ r ∈ ((durable .nothing).part 0).jnl.recs, r.refusedAt = none) ∧
    (∃ r ∈ ((upPart (fun x => { x with jnl := { recs := [{ aRec .nothing with refusedAt := some 5 }] } })).part 0).jnl.recs, r.refusedAt.isSome = true) ∧
    (up.part 0).jnl.oldestSent = none ∧
    (let j : Journal := { recs := [{ aRec .nothing with sent := some 1, sentAt := 9 }] }
     j.oldestSent = some 9 ∧ j.lagSaid = false ∧ { j with lagSaid := true }.lagSaid = true) := by decide +kernel

theorem witness_WitnessWritesStartAndEndMirroring :
    ok up = true ∧ (0 : Nat) % 512 = up.self.val ∧ 511 % 512 ≠ up.self.val ∧ (up.setReg .jnlCfg 0 1).solo 0 = true ∧ up.solo 0 = false ∧
    up.fabric.fenced.contains (Fin.ofNat 512 511) = false ∧
    ({ up with fabric := { fenced := [511] } } : State).fabric.fenced.contains (Fin.ofNat 512 511) = true := by decide +kernel

set_option maxRecDepth 8000 in
theorem witness_LoadCommandsOpenSlotsAndStart :
    (let c := cmdOf opLoad [(0x1C, 4, 1)]
     let s := withSlot (holding up c) 0 .opened
     ok s = true ∧ (s.part 0).nextCmd 0 opLoad = some c ∧ loadFault c = none ∧ bitOf (c.field 0x11 1) 0 = false ∧ ((s.part 0).slot 0).st ≠ .empty ∧
     ((holding up c).part 0).slot 0 = {} ∧ ((s.part 0).slot 0).head = some keptHead ∧ fieldAt keptHead.root 0 8 = c.field 0x38 8 ∧
     fieldAt keptHead.root 0 8 ≠ (cmdOf opLoad [(0x38, 8, 1)]).field 0x38 8 ∧ c.field 0x18 4 + c.field 0x1C 4 ≤ keptHead.chunks ∧
     keptHead.chunks < 0 + 2 ∧ c.field 0x10 1 < 16 ∧ (wantedChunks keptHead c).filter (fun k => !((s.part 0).slot 0).verified.contains k) ≠ [] ∧
     (wantedChunks keptHead c).filter (fun k => !(([0] : List Nat).contains k)) = [] ∧ (s.part 0).swap = none ∧ s.cmd? 0 c.order = some c ∧
     loadFault (cmdOf opLoad []) = some 0x1C) ∧
    (let c := cmdOf opPull [(0x12, 2, 5), (0x1C, 4, 1)]
     let s := holding up c
     (s.part 0).nextCmd 0 opPull = some c ∧ loadFault c = none ∧ s.fabric.fenced.contains (Fin.ofNat 512 (c.field 0x12 2 % 512)) = false) ∧
    (let c := longCmd opBroadcast 64 [(0x1C, 4, 1), (0x34, 2, 1), (0x40, 8, 5)]
     let s := holding up c
     (s.part 0).nextCmd 0 opBroadcast = some c ∧ loadFault c = none ∧ (∀ x ∈ s.receiversOf 0 c, s.fabric.fenced.contains x.1 = false)) ∧
    (let c := cmdOf opLoad [(0x11, 1, 1), (0x1C, 4, 1), (0x28, 8, 4096), (0x30, 4, 2376), (0x38, 8, aTag)]
     let s := withKey (holding up c)
     (s.part 0).nextCmd 0 opLoad = some c ∧ loadFault c = none ∧ bitOf (c.field 0x11 1) 0 = true ∧ ((s.part 0).slot 0).st = .empty ∧
     aHead.length = c.field 0x30 4 ∧ 0 < aHead.length ∧ s.checkHead 0 0 aTag [0] = .error (stMalformed, 0xFFFF) ∧
     (match s.checkHead 0 0 aTag aHead with
      | .ok hd => decide (c.field 0x18 4 + c.field 0x1C 4 ≤ hd.chunks) && (s.openSlot 0 0 0 hd default).isNone
      | .error _ => false) = true) := by decide +kernel

/-- A model within the manual's bounds: a page of 64 keys and 64 values a position in BF16 fills a frame. -/
def aModel : ModelInfo := { (default : ModelInfo) with kvFmt := 3, frame := 1, kValues := 64, vValues := 64 }

/-- A place for it in HBM. -/
def aPlace (base : Nat) : Placement := { (default : Placement) with base := base, info := aModel }

set_option maxRecDepth 8000 in
theorem witness_LoadCommandsOpenSlotsAndStart_room :
    (let c := cmdOf opLoad [(0x11, 1, 1), (0x1C, 4, 1), (0x28, 8, 4096), (0x30, 4, 2376), (0x38, 8, aTag)]
     let s := withKey (serving c)
     (s.part 0).nextCmd 0 opLoad = some c ∧
     (match s.checkHead 0 0 aTag aHead with
      | .ok hd => (match s.openSlot 0 0 0 hd (aPlace 0) with
        | some u => decide ((wantedChunks hd c).filter (fun k => !((u.part 0).slot 0).verified.contains k) ≠ [])
        | none => false)
      | .error _ => false) = true) ∧
    (0 : Nat) < 16 ∧ up.swapClass 0 = false ∧ (up.setReg .partCfg 0 1).swapClass 0 = true ∧
    (∀ f ∈ up.fabric.colls.map Coll.plan ++ up.fabric.waiting, f.weights = none) := by decide +kernel

set_option maxRecDepth 8000 in
theorem witness_StageSwitchSwapAndEvict :
    (let c := cmdOf opStage [(0x14, 4, 2376), (0x20, 8, aTag)]
     let s := withKey (withSlot (serving c) 0 .active)
     ok s = true ∧ (s.part 0).nextCmd 0 opStage = some c ∧ c.field 0x10 1 ≤ 1 ∧ c.field 0x18 8 % 4096 = 0 ∧ aHead.length = c.field 0x14 4 ∧
     aHead ≠ [] ∧ s.swapClass 0 = false ∧ ((s.part 0).slot 0).st = .active ∧ ((s.part 0).slot 1).st = .empty ∧
     s.checkHead 1 0 (aTag + 1) aHead = .error (stState, 0) ∧
     (match s.checkHead 1 0 aTag aHead with
      | .ok hd => (s.openSlot 0 1 0 hd (aPlace 2097152)).isSome && (s.openSlot 0 1 0 hd default).isNone
      | .error _ => false) = true) ∧
    (let c := cmdOf opTrapeze []
     let s := withSlot (withSlot (holding up c) 0 .active) 1 .complete
     (s.part 0).nextCmd 0 opTrapeze = some c ∧ c.field 0x10 1 ≤ 1 ∧ s.switchOk 0 0 (c.field 0x18 8) = true ∧ s.switchOk 0 0 1 = false ∧
     (s.part 0).exp.members = [] ∧
     (let s := s.modPart 0 (fun x => { x with exp := { members := [0, 5] } })
      s.switchOk 0 0 (c.field 0x18 8) = true ∧ (s.part 0).exp.members ≠ [] ∧ (∀ n ∈ (s.part 0).exp.members, s.fabric.fenced.contains n = false) ∧
      (let u : State := { s with fabric := { fenced := [5] } }
       ∃ n ∈ (u.part 0).exp.members, u.fabric.fenced.contains n = true))) ∧
    (let c := cmdOf opEvict []
     let s := withSlot (holding up c) 0 .active
     (s.part 0).nextCmd 0 opEvict = some c ∧ isSlot (c.field 0x10 1) = true ∧ (s.part 0).slotBusy 0 = false ∧ ((s.part 0).slot 0).st ≠ .draining ∧
     (s.part 0).requests = [] ∧ ((withReq s (aReq .idle)).part 0).requests ≠ [] ∧ ¬ (16 < c.field 0x10 1)) ∧
    (let c := cmdOf opEvict [(0x10, 1, 17)]
     let s := (withSlot (holding up c) 17 .complete).setReg .partCfg 0 1
     isSlot (c.field 0x10 1) = true ∧ 16 < c.field 0x10 1 ∧ s.swapClass 0 = true ∧ (s.part 0).activeVariant ≠ 17 - 16 ∧
     ∃ e ∈ ((withReq s { aReq .idle with model := 1 }).part 0).requests, e.2.model = 17 - 16) := by decide +kernel

set_option maxRecDepth 8000 in
theorem witness_StageSwitchSwapAndEvict_swap :
    (let c := cmdOf opSwap [(0x10, 1, 1)]
     let s := (withSlot (withSlot (serving c) 0 .active) 17 .complete).setReg .partCfg 0 1
     let hd := keptHead
     let x := s.part 0
     let rounded (n : Nat) : Nat := (n + 2097151) / 2097152 * 2097152
     x.nextCmd 0 opSwap = some c ∧ s.swapClass 0 = true ∧ (x.slot 17).st ≠ .empty ∧ (x.slot 17).st = .complete ∧ x.swap = none ∧
     c.field 0x12 2 = 0 ∧ c.field 0x14 1 = 0 ∧ c.field 0x18 8 = 0 ∧ c.field 0x11 1 = 0 ∧
     x.activeVariant ≠ 1 ∧ (x.slot 17).head = some hd ∧ (serving c).swapClass 0 = false ∧
     ({ x with activeVariant := 1 } : Partition).activeVariant = 1 ∧
     x.slotBytes.1 - rounded (((x.slot 0).head.map Head.localBytes).getD 0) + rounded hd.localBytes +
       (s.kvBytes 0).1 + s.hbmLost 0 ≤ s.hostRegion 0 - s.hbmBase 0 ∧
     s.hbmPlace 0 0 2097152 hd.localBytes = true ∧ modelBounds aModel = true ∧ modelBounds default = false) ∧
    (let c := cmdOf opSwap [(0x10, 1, 1), (0x11, 1, 1), (0x12, 2, 3), (0x14, 1, 2)]
     c.field 0x11 1 = 1 ∧ c.field 0x18 8 = 0) ∧
    (let c := cmdOf opSwap [(0x10, 1, 1), (0x11, 1, 2), (0x18, 8, 4096)]
     c.field 0x11 1 = 2 ∧ c.field 0x12 2 = 0 ∧ c.field 0x18 8 % 4096 = 0) := by decide +kernel

/-- Load of chunk 0 from host memory into slot 0, for the command with take order 0. -/
def aLoad : Load := { cmd := 0, slot := 0, path := .host 0, todo := [0] }

/-- A head whose one chunk is the zero byte, with its digest. -/
def leafHead : Head := { keptHead with leaves := [(0, sm3 [0])] }

theorem witness_ChunksAreVerifiedAndCopiesReleased :
    (let s := (holding up (cmdOf opLoad [])).modPart 0 (fun x => { x.setSlot 0 { st := .opened, head := some leafHead } with loads := [aLoad] })
     ok s = true ∧ (s.part 0).loads.find? (fun l => decide (l.slot = 0) && l.todo.contains 0) = some aLoad ∧ aLoad.self = true ∧
     ((s.part 0).slot 0).verified.contains 0 = false ∧ ((s.part 0).slot 0).head = some leafHead ∧
     ((s.part 0).slot 0).place 0 = some (0, 0, false) ∧ ((s.part 0).slot 0).matches_ 0 [0] = true ∧ ((s.part 0).slot 0).matches_ 0 [1] = false ∧
     aLoad.retried.contains 0 = false ∧ ({ aLoad with retried := [0] } : Load).retried.contains 0 = true ∧ (s.part 0).swap = none ∧
     aLoad.cmd = (cmdOf opLoad []).order ∧ (s.cmd? 0 0).isSome = true) ∧
    (∃ a, aLoad.path = .host a) ∧ (up.part 0).loads = [] ∧
    (∀ f ∈ up.fabric.colls.map Coll.plan ++ up.fabric.waiting, f.weights = none) ∧ ((up.part 0).slot 0).head = none ∧
    up.repair.sm3Lanes.contains 47 = true ∧ up.repair.retired (.sm3 47) = false ∧ PartId.sm3 47 ∉ up.repair.tests ∧ up.repair.mapWait = none ∧
    (∀ e ∈ (up.part 0).slots, e.2.st ≠ .draining) ∧
    (let s := withSlot up 1 .draining
     (s.part 0).slots.find? (fun e => decide (e.2.st = .draining) && s.drained 0 e.1) = some (1, { st := .draining, head := some keptHead, info := some default }) ∧
     (s.part 0).swap = none ∧ (s.part 0).keepOld = false ∧ ({ s.part 0 with keepOld := true } : Partition).keepOld = true) ∧
    (let l : Load := { aLoad with path := .broadcast 4096, receivers := [(5, 0, 0, 0, 0)] }
     let s := upPart (fun x => { x with loads := [l] })
     (s.part 0).loads.find? (fun l => decide (l.cmd = 0) && (match l.path with | .broadcast _ => true | _ => false)) = some l ∧
     l.receivers.find? (fun r => decide (r.1 = 5)) = some (5, 0, 0, 0, 0) ∧ l.retried.contains (0 * 512 + (5 : Node).val + 2 ^ 41) = false) := by
  refine ⟨by decide +kernel, ⟨0, rfl⟩, by decide +kernel⟩

/-- `s` whose partition 0 serves a model with two attention layers, three expert layers and no exit head or barker. -/
def withModel (s : State) : State :=
  s.modPart 0 (fun x => x.setSlot 0 { st := .active, head := some keptHead,
                                      info := some { (default : ModelInfo) with
                                        attnLayers := 2, expertShapes := List.replicate 3 ⟨4, 1, 1, [0, 0, 0, 0]⟩ } })

theorem witness_PoliciesAreJudgedThenAwaitTheBoundary_recipe :
    (let c := cmdOf opSetRecipe [(0x12, 2, 1), (0x14, 1, 2), (0x16, 1, 0xFF), (0x17, 1, 1), (0x18, 1, 8)]
     let s := withModel (holding up c)
     ok s = true ∧ (s.part 0).nextCmd 0 opSetRecipe = some c ∧ recipeFault c = none ∧ recipeFault (cmdOf opSetRecipe []) = some 0x12 ∧
     (∀ g ∈ tagsNamed c, (s.recipeAfter 0 c g).wMin ≤ (s.recipeAfter 0 c g).wMax) ∧
     (let d := cmdOf opSetRecipe [(0x12, 2, 1), (0x14, 1, 2), (0x16, 1, 0xFF), (0x17, 1, 8), (0x18, 1, 1)]
      recipeFault d = none ∧ ∃ g ∈ tagsNamed d, (s.recipeAfter 0 d g).wMax < (s.recipeAfter 0 d g).wMin)) := by decide +kernel

theorem witness_PoliciesAreJudgedThenAwaitTheBoundary_spec :
    (let c := cmdOf opSetSpec [(0x10, 4, 1), (0x14, 1, 1)]
     let s := withReq (withModel (holding up c)) (aReq .decode)
     (s.part 0).nextCmd 0 opSetSpec = some c ∧ specFault c (s.mainInfo 0).exitHeads = none ∧ (s.req? 0 (c.field 0x10 4)).isSome = true ∧
     bitOf (c.field 0x14 1) 2 = false ∧ bitOf (c.field 0x14 1) 0 = true ∧ (holding up c).req? 0 (c.field 0x10 4) = none ∧
     specFault (cmdOf opSetSpec [(0x14, 1, 8), (0x1A, 2, 1)]) (s.mainInfo 0).exitHeads = some 0x1A ∧ (s.mainInfo 0).hasBarker = false ∧
     (let d := cmdOf opSetSpec [(0x10, 4, 1), (0x14, 1, 5), (0x16, 1, 1), (0x17, 1, 1)]
      specFault d 0 = none ∧ bitOf (d.field 0x14 1) 2 = true ∧ ({ aModel with hasBarker := true } : ModelInfo).hasBarker = true)) := by decide +kernel

theorem witness_PoliciesAreJudgedThenAwaitTheBoundary_attn :
    (let c := cmdOf opSetAttn [(0x12, 2, 1), (0x14, 4, 1), (0x19, 1, 1)]
     let s := withReq (withModel (holding up c)) (aReq .decode)
     (s.part 0).nextCmd 0 opSetAttn = some c ∧ patternFault c (s.mainInfo 0).attnLayers .failed = none ∧ bitOf (c.field 0x19 1) 0 = true ∧
     (∃ e ∈ (s.part 0).requests, e.1 = c.field 0x14 4) ∧ (aReq .decode).wouldMiss (patternOf c []) (layersNamed c) = false ∧
     (∀ e ∈ (up.part 0).requests, e.1 ≠ c.field 0x14 4) ∧ patternFault (cmdOf opSetAttn []) (s.mainInfo 0).attnLayers .failed = some 0x12 ∧
     patternFault (cmdOf opSetAttn [(0x12, 2, 1)]) (s.mainInfo 0).attnLayers .failed = none ∧
     bitOf ((cmdOf opSetAttn [(0x12, 2, 1)]).field 0x19 1) 0 = false ∧ (up.part 0).requests = [] ∧
     -- a released page that the new pattern would read
     (let q := { aReq .decode with committed := 256, layers := [{ pages := [⟨0, false, false, false⟩] }] }
      q.wouldMiss (patternOf c []) (layersNamed c) = true)) := by decide +kernel

theorem witness_PoliciesAreJudgedThenAwaitTheBoundary_expert :
    (let c := cmdOf opSetExpert [(0x12, 2, 3)]
     let s := withModel (holding up c)
     (s.part 0).nextCmd 0 opSetExpert = some c ∧ expertPolicyFault c = none ∧ expertPolicyFault (cmdOf opSetExpert []) = some 0x12 ∧
     (up.mainInfo 0).expertLayers = 0 ∧ 0 < (s.mainInfo 0).expertLayers ∧ c.field 0x10 2 + c.field 0x12 2 ≤ (s.mainInfo 0).expertLayers ∧
     (s.mainInfo 0).expertLayers ≤ (cmdOf opSetExpert [(0x10, 2, 3)]).field 0x10 2 ∧ (s.mainInfo 0).expertLayers < 0 + 4 ∧
     s.otherMembers 0 = [] ∧
     (let s := s.modPart 0 (fun x => { x with exp := { members := [0, 5] } })
      s.otherMembers 0 ≠ [] ∧ ∀ n ∈ (s.part 0).exp.members, n ∉ s.fabric.fenced) ∧
     (let s : State := { s.modPart 0 (fun x => { x with exp := { members := [0, 5] } }) with fabric := { fenced := [5] } }
      ∃ n ∈ (s.part 0).exp.members, n ∈ s.fabric.fenced)) := by decide +kernel

/-- A queued task of partition 0 in epoch 0. -/
def aTask : Task := { desc := parseTask [], graph := none, clients := [], widths := [], actWidth := 0 }

theorem witness_CountsAccountingAndTaskGraphs :
    (let c := cmdOf opQueryExperts [(0x12, 2, 3), (0x16, 2, 4096), (0x28, 8, 196608)]
     let s := withModel (holding up c)
     ok s = true ∧ (s.part 0).nextCmd 0 opQueryExperts = some c ∧ 1 ≤ c.field 0x12 2 ∧ c.field 0x10 2 + c.field 0x12 2 ≤ (s.mainInfo 0).expertLayers ∧
     c.field 0x14 2 + c.field 0x16 2 ≤ 4096 ∧ c.field 0x18 1 ≤ 7 ∧ c.field 0x20 8 % 16 = 0 ∧ 16 * 3 * 4096 ≤ c.field 0x28 8 ∧
     196607 < 16 * 3 * 4096 ∧ (s.part 0).exp.history[c.field 0x18 1]? = none ∧
     ((up.mainInfo 0).expertLayers ≤ c.field 0x10 2) ∧
     ((s.modPart 0 (fun x => { x with exp := { history := [(0, [])] } })).part 0).exp.history[c.field 0x18 1]? = some (0, [])) ∧
    (let c := cmdOf opQueryAcct [(0x10, 2, 4095), (0x12, 2, 1), (0x14, 1, 1), (0x20, 8, 64)]
     let s := holding up c
     (s.part 0).nextCmd 0 opQueryAcct = some c ∧ 1 ≤ c.field 0x12 2 ∧ c.field 0x10 2 + c.field 0x12 2 ≤ 4096 ∧ c.field 0x18 8 % 64 = 0 ∧
     64 * c.field 0x12 2 ≤ c.field 0x20 8 ∧ bitOf (c.field 0x14 1) 0 = true ∧ 4095 < (cmdOf opQueryAcct [(0x10, 2, 4096)]).field 0x10 2 ∧
     (cmdOf opQueryAcct []).field 0x12 2 = 0 ∧ (cmdOf opQueryAcct []).field 0x20 8 < 64 * 1) ∧
    (let c := cmdOf opGraph [(0x18, 4, 1), (0x1C, 2, 3072), (0x1E, 2, 1024)]
     let s := (serving c).setReg .memHostRegion 0 0xFFFF
     ok s = true ∧ (s.part 0).nextCmd 0 opGraph = some c ∧ (s.part 0).graphs.length < 64 ∧ (s.part 0).fn.st ≠ .quiescing ∧
     (serving c).graphField 0 c = some 0x10 ∧
     (let c := cmdOf opGraph [(0x10, 8, s.hostRegion 0), (0x18, 4, 1), (0x1C, 2, 3072), (0x1E, 2, 1024)]
      let d := parseTask (s.readDpa (s.hostRegion 0) 128)
      s.graphField 0 c = none ∧ s.badByte (s.hostRegion 0) 128 none = none ∧ s.badByte (s.hostRegion 0) 128 (some (s.hostRegion 0)) ≠ none ∧
      d.partition.toNat = 0 ∧ (d.waits ++ d.signals = []) ∧ d.epoch = (s.part 0).epoch) ∧
     (s.part 0).lcQ = [] ∧ (s.part 0).beQ = [] ∧ (s.part 0).graphs = [] ∧ s.tiles = [] ∧
     (let g : Graph := { cmd := 9, total := 1, unqueued := [], stopOnFail := false, deadline := 0, semFirst := 3072, semCount := 1, names := [3072] }
      let s := s.modPart 0 (fun x => { x with graphs := [g] })
      (s.part 0).graphs.length < 64 ∧ ∃ g ∈ (s.part 0).graphs, ∃ i ∈ g.names, 3072 ≤ i ∧ i < 3072 + 1024)) := by decide +kernel

/-- `s` with partition 0 ON. -/
def partOn (s : State) : State := s.modPart 0 (fun x => { x with fn := { st := .on } })

theorem witness_StepBoundaryFormsAStep :
    (up.part 0).fn.st = .off ∧
    (let s := partOn up
     ok s = true ∧ (s.part 0).fn.st ≠ .off ∧ (s.part 0).advance.running = false ∧ s.stepEnded 0 = true ∧ (s.part 0).switch = none ∧
     (s.part 0).swap = none ∧ s.watchEn 0 = false ∧ (s.part 0).atBoundary = [] ∧ (s.part 0).step.chunks = [] ∧ (s.part 0).exp.members = [] ∧
     (s.part 0).leaving = [] ∧ ((s.part 0).slot 0).st ≠ .complete ∧ ((s.part 0).slot 2).st ≠ .complete ∧ ((s.part 0).slot 0).st ≠ .active ∧
     (s.part 0).requests = []) ∧
    (let r := aReq .decode
     let s := (withReq (partOn (withModel up)) r).setReg .partBatch 0 1
     ok s = true ∧ ((s.part 0).slot 0).st = .active ∧ (s.part 0).stepsBlocked = false ∧ (s.part 0).requests = [(1, r)] ∧ r.settled = true ∧
     r.layers = [] ∧ r.thawing = none ∧ r.warming = false ∧ r.chunkFails < 3 ∧ r.backfill = none ∧
     r.cancel = [] ∧ r.closing = none ∧ r.freezing = none ∧ r.expired = false ∧ r.deadline = 0 ∧ 1 ∉ (s.part 0).jnl.reseedLeft ∧
     s.modelActive 0 r.model = true ∧ r.st = .decode ∧ r.held = [] ∧ r.undurable = 0 ∧ r.finalSeen = false ∧
     1 + s.draftLength 0 r ≤ s.regBits .partBatch 0 0 16 ∧ s.stepEnded 0 = true) ∧
    (let r := { aReq .prefill with toPrefill := 1 }
     let s := (withReq (partOn (withModel up)) r).setReg .kvCfg 0 0x10000
     let out : StepOut := { tasks := [{ desc := List.replicate 128 0, requests := [1], kind := .chunk }], kv := [], ice := [] }
     r.st = .prefill ∧ 0 < r.toPrefill ∧ 1 ≤ s.regBits .kvCfg 0 16 4 ∧ r.deadline = 0 ∧ r.settled = true ∧
     (∃ f ∈ out.tasks, f.kind = .chunk ∧ 1 ∈ f.requests) ∧ s.fwTasks 0 = [] ∧ (∀ f ∈ out.tasks, f.kind ≠ .barker)) := by decide +kernel

/-- `s` in a step of partition 0 whose batch is request 1, with `r` as that request. -/
def inStep (s : State) (r : Request) : State := (withReq s r).modPart 0 (fun x => { x with step := { running := true, batch := [(1, 0)] } })

theorem witness_CommitCheckWritesWhatTheStepProduced :
    (up.part 0).step.running = false ∧
    (let r := { aReq .decode with maxNew := 2 }
     let s := inStep up r
     ok s = true ∧ (s.part 0).step.running = true ∧ (s.part 0).step.checked = false ∧ (s.part 0).step.failed = false ∧ s.stepTasksLeft 0 = false ∧
     (s.part 0).step.batch = [(1, 0)] ∧ s.req? 0 1 = some r ∧ (r.spec.getD {}).barkerEn = false ∧ r.deadline = 0 ∧ r.committed < 1048575 ∧
     s.earlyTokens 0 = false ∧ 1 < r.maxNew ∧ (7 : W32).toNat ≠ ((s.infoOf 0 r.model).getD default).endToken ∧
     (0 : W32).toNat = ((s.infoOf 0 r.model).getD default).endToken ∧ r.cancel = [] ∧ r.keep = false ∧ { r with keep := true }.keep = true ∧
     coversBatch (s.part 0).step.batch [] = false ∧ s.grouped 0 = false ∧ r.mayExit 0 = false) ∧
    up.swapClass 0 = false ∧
    (let r := { aReq .waiting with turn := some 0, deadline := 1 }
     let s := (withReq up r).setReg .partCfg 0 1
     let s : State := { s with fabric := { locked := true, time := 1 } }
     ok s = true ∧ s.swapClass 0 = true ∧ (s.part 0).activeVariant = 0 ∧ (s.part 0).requests = [(1, r)] ∧ r.turn.isSome = true ∧ r.closing = none ∧
     r.st = .waiting ∧ s.deadlinePassed r = true ∧ s.deadlinePassed { r with deadline := 2 } = false ∧ r.expired = false ∧
     icePlace [] 1 = none) := by decide +kernel

/-- EXP2 of 0 is at most 2 ulp from 1. -/
theorem exp2_zero : approxLane 0x14 false 0 ∈ [0x3F7FFFFE, 0x3F7FFFFF, 0x3F800000, 0x3F800001, 0x3F800002] := by
  have key : ∀ d : Fin 5, (approxAt d 0x14 0).all (fun v =>
      [(0x3F7FFFFE : W32), 0x3F7FFFFF, 0x3F800000, 0x3F800001, 0x3F800002].contains v) = true ∧ (approxAt d 0x14 0).isSome = true := by decide +kernel
  obtain ⟨v, h⟩ := Option.isSome_iff_exists.1 (key (Config.vectorUlps 0x14 0)).2
  have k := (key (Config.vectorUlps 0x14 0)).1
  have e : approxLane 0x14 false 0 = v := by
    unfold approxLane approx32
    simp only [Bool.false_eq_true, if_false, h]
  rw [e]
  rw [h] at k
  exact List.contains_iff_mem.1 k

/-- The greatest of one entry. -/
theorem topIndices_one (v : W32) (n : Nat) : topIndices [v] (n + 1) = [0] := by
  unfold topIndices
  simp [sortBy, insertBy]

/-- The probability of the one entry of a vocabulary. -/
theorem topTwo_one (v : W32) :
    (topTwo [v]).1 = div32 (approxLane 0x14 false (mul32 (add32 v (v ^^^ 0x80000000)) 0x3FB8AA3B))
      ((treeReduce (fun a b => add32 a b) 40 [approxLane 0x14 false (mul32 (add32 v (v ^^^ 0x80000000)) 0x3FB8AA3B)]).headD 0) := by
  unfold topTwo
  rw [topIndices_one]
  rfl

theorem treeReduce_one (f : W32 → W32 → W32) (e : W32) : ∀ n, treeReduce f n [e] = [e]
  | 0 => rfl
  | n + 1 => by simp [treeReduce, treeLevel, treeReduce_one f e n]

/-- A code near 1 over itself. -/
theorem div_self_near (e : W32) (h : e ∈ [(0x3F7FFFFE : W32), 0x3F7FFFFF, 0x3F800000, 0x3F800001, 0x3F800002]) : div32 e e = 0x3F800000 := by
  simp only [List.mem_cons, List.not_mem_nil, or_false] at h
  rcases h with rfl | rfl | rfl | rfl | rfl
  · decide +kernel
  · decide +kernel
  · decide +kernel
  · decide +kernel
  · decide +kernel

theorem exitGap_zero : mul32 (add32 0x3F800000 (0x3F800000 ^^^ 0x80000000)) 0x3FB8AA3B = 0 := by decide +kernel

/-- The one entry of a vocabulary has probability 1, whichever code the unit gives EXP2. -/
theorem topTwo_sure : (topTwo [0x3F800000]).1 = 0x3F800000 := by
  rw [topTwo_one, treeReduce_one, exitGap_zero]
  exact div_self_near _ exp2_zero

/-- It passes every exit test of a probability. -/
theorem exits_one (y : SpecPolicy) (h : y.tau = 1) : y.exits [0x3F800000] = true := by
  have : (fp32.decode (0x3F800000 : W32).toNat).lt (.fin false 1 (-16)) = false := by decide +kernel
  unfold SpecPolicy.exits
  simp only [h, topTwo_sure, this]
  rfl

/-- A token that exits at head 0 over a vocabulary of one entry. -/
theorem witness_CommitCheckWritesWhatTheStepProduced_exit :
    (let r := { aReq .decode with maxNew := 2, spec := some { exitEn := true, exitCount := 1, tau := 1 } }
     r.mayExit 0 = true ∧ (r.spec.getD {}).exitAt 1 [(0, [0x3F800000])] = some (0, [0x3F800000]) ∧
     (r.spec.getD {}).exitAt 1 [] = none ∧ (r.sample [0x3F800000] r.committed).toNat ≠ 5) := by
  refine ⟨by decide +kernel, ?_, rfl, ?_⟩
  · simp only [SpecPolicy.exitAt]
    simp
    exact exits_one _ rfl
  · unfold Request.sample sampleToken
    rw [topIndices_one]
    decide +kernel

/-- A firn extent that takes an ice core of any length below 1 KiB. -/
theorem witness_CommitCheckWritesWhatTheStepProduced_ice :
    (let r := { aReq .waiting with turn := some 0, deadline := 1, freezeOnExpire := true }
     let s := ((withReq up r).setReg .partCfg 0 1).setReg .memFirnMap 0 (2 ^ 31 + 2 ^ 16)
     let s : State := { s with repair := { s.repair with firnChannels := 1, firnDensity := 1 }, fabric := { locked := true, time := 1 } }
     icePlace [(1, firnBase)] 1 = some firnBase ∧ r.freezeOnExpire = true ∧ r.rebuild = false ∧ s.deadlinePassed r = true ∧
     ({ s with found := [] } : State).kvUnreadable 0 r = none ∧ ∀ n < 1024, s.iceFits 0 firnBase n = true) := by decide +kernel

theorem witness_RecoveryReissuesAndReplays :
    (up.part 0).kv.advanceHeld = false ∧
    (let s := upPart (fun x => { x with kv := { advanceHeld := true } })
     ok s = true ∧ (s.part 0).kv.advanceHeld = true ∧ (s.part 0).kv.counts.getD (((s.part 0).kv.epoch + 1) % 4) 0 = 0) ∧
    (let k : Kv := { advanceHeld := true, counts := [0, 1, 0, 0] }
     k.counts.getD ((k.epoch + 1) % 4) 0 ≠ 0) ∧
    (up.part 0).recovering = [] ∧
    (let s := upPart (fun x => { x with recovering := [(aTask, stUnrecoverable, some 0x300000)] })
     ok s = true ∧ (s.part 0).recovering = [(aTask, stUnrecoverable, some 0x300000)] ∧ s.classOf 0 0x300000 = .working ∧ aTask.chunk = false ∧
     ((inStep up (aReq .decode)).part 0).step.running = true) ∧
    aTask.reissues < 2 ∧ ((up.part 0).step.failed = false) ∧ (up.part 0).step.checked = false ∧
    (let s := (withReq up { aReq .decode with layers := [{ dirs := [0x300000, 0x400000], drift := 0x500000 }] }).modPart 0 (fun x =>
       x.setSlot 0 { st := .active, head := some leafHead, base := 2 ^ 30, info := some aModel })
     s.classOf 0 0x300000 = .table 0x300000 0x400000 256 ∧ s.classOf 0 0x500000 = .drift 1 0 ∧ (s.req? 0 1).isSome = true ∧
     s.classOf 0 (2 ^ 30) = .weights 0 0 ∧ ((s.part 0).slot 0).st ≠ .empty ∧ ((s.part 0).slot 0).head = some leafHead ∧
     ((s.part 0).slot 0).place 0 = some (2 ^ 30, 0, false) ∧ ((s.part 0).slot 0).matches_ 0 [0] = true ∧ ((s.part 0).slot 0).matches_ 0 [1] = false) ∧
    (let s := up.setReg .numTableBase 0 (2 ^ 30)
     s.classOf 0 (s.ewmaAt 0 0) = .ewma) ∧
    (let q := { aReq .prefill with layers := [{ pages := [⟨0x300000, true, false, false⟩] }] }
     (withReq (upPart (fun x => x.setSlot 0 { st := .active, info := some { (default : ModelInfo) with frame := 1 } })) q).classOf 0 0x300000 =
       .page 1 0 0) ∧
    (let s := (inStep up (aReq .decode)).modPart 0 (fun x => { x with step := { x.step with failed := true } })
     ok s = true ∧ (s.part 0).step.running = true ∧ (s.part 0).step.failed = true ∧ (s.part 0).step.checked = false ∧ s.stepTasksRun 0 = false ∧
     (s.part 0).stepsBlocked = false ∧ (s.part 0).exp.nextMaps = [] ∧
     s.groupBroken 0 = false ∧ (s.part 0).advance.running = false ∧ (s.part 0).step.replays < 2 ∧
     2 ≤ ({ (s.part 0).step with replays := 2 } : Step).replays ∧ (s.part 0).step.batch = [(1, 0)] ∧ s.req? 0 1 = some (aReq .decode) ∧
     (aReq .decode).closing = none) := by decide +kernel

/-- A group of this node alone, in a running step of the test model. -/
def inGroup : State := (withModel up).modPart 0 (fun x => { x with step := { running := true }, exp := { members := [0] } })

theorem witness_AdmissionFillsCopiesWithinCapacity : 1 ≤ inGroup.capacityOf 0 0 := by decide

theorem witness_CensusAndAdmissionOfAHalfBatch :
    (up.part 0).step.running = false ∧
    (let s := inGroup
     let c := aCensus
     ok s = true ∧ (s.part 0).step.running = true ∧ c.node ∈ (s.part 0).exp.members ∧ c.step = ((s.part 0).exp.step + 1).setWidth 32 ∧
     c.layer < (s.mainInfo 0).expertLayers ∧ (s.part 0).exp.halves = [] ∧ s.half? 0 c.layer c.half = none ∧
     c.mapVersion = (s.part 0).exp.mapVersion ∧ { c with mapVersion := 1 }.mapVersion ≠ (s.part 0).exp.mapVersion ∧
     s.ownCensus 0 0 false [] = aCensus ∧ c.node = s.self) ∧
    -- the block of another member, and one gate output of which experts 2 and 0 are the greatest
    (let s := inGroup.modPart 0 (fun x => { x with exp := { members := [0, 5] } })
     let c := { aCensus with node := 5, mapVersion := 1 }
     c.node ∈ (s.part 0).exp.members ∧ c.node ≠ s.self ∧ c.mapVersion ≠ (s.part 0).exp.mapVersion ∧ (∃ n ∈ (s.part 0).exp.members, n < (5 : Node)) ∧
     ¬ (∃ n ∈ (s.part 0).exp.members, n < s.self) ∧
     topIndices ([(0x3F800000, 0), (0, 1), (0x40000000, 2)].map (Prod.fst : W32 × W16 → W32)) 2 = [2, 0]) ∧
    up.half? 0 0 false = none ∧
    (let y : HalfBatch := { layer := 0, half := false, blocks := [aCensus] }
     let s := inGroup.modPart 0 (fun x => { x with exp := { x.exp with halves := [y] } })
     ok s = true ∧ s.half? 0 0 false = some y ∧ y.admitted = false ∧ y.aborted = false ∧
     (∀ n ∈ (s.part 0).exp.members, ∃ b ∈ y.blocks, b.node = n) ∧ { y with admitted := true }.admitted = true ∧
     (∀ x ∈ (s.runAdmission 0 0 y.blocks).assigns, s.fabric.fenced.contains (s.copyAt 0 0 x.expert x.copy) = false) ∧
     (let s := s.setReg .memHbmMap 0 (2 ^ 63 + 1)
      (s.place 0).isSome = true ∧ 0 < windowBase ∧ (s.part 0).step.running = true ∧ (s.part 0).step.checked = false)) ∧
    -- one token that chooses expert 1, whose home is a fenced node
    (let m : ModelInfo := { (default : ModelInfo) with expertShapes := [⟨2, 1, 1, [0, 5]⟩] }
     let s : State := { inGroup.modPart 0 (fun x => x.setSlot 0 { st := .active, info := some m }) with fabric := { fenced := [5] } }
     ∃ x ∈ (s.runAdmission 0 0 [{ aCensus with lists := [[⟨1, 0⟩]] }]).assigns,
       s.fabric.fenced.contains (s.copyAt 0 0 x.expert x.copy) = true) := by decide +kernel

/-- A packet of type `typ` for node 0 with the given payload and XID, with its ECRC. -/
def pkt (typ : Byte) (bs : List Byte) (xid : W32 := 0) : Packet :=
  let k := { aPacket with typ := typ, payload := bs, xid := xid }
  { k with ecrc := k.makeEcrc }

/-- Every packet that `pkt` makes is heard by a package whose node is 0 and that has fenced none. -/
theorem pkt_heard (typ : Byte) (bs : List Byte) (xid : W32) : up.hears (pkt typ bs xid) := by
  refine ⟨by simp [up], rfl, by simp [pkt, aPacket], ?_, rfl⟩
  show (0 : Node) = up.self
  decide

/-- The first of them from node 1 in class 0 is in turn. -/
theorem pkt_inTurn (typ : Byte) (bs : List Byte) : up.inTurn (pkt typ bs) := ⟨rfl, rfl⟩

theorem witness_ColdExpertsReplicasAndPartialSums :
    ok inGroup = true ∧ (inGroup.part 0).exp.fetchWait = [] ∧
    (inGroup.part 0).exp.cache.length + (inGroup.part 0).exp.fetching.length + 0 ≤ (inGroup.part 0).exp.cacheSlots ∧
    expertKey 0 1 ∉ (inGroup.part 0).exp.fetching ∧
    expertKey 0 1 ∈ ((inGroup.modPart 0 (fun x => { x with exp := { x.exp with fetching := [expertKey 0 1] } })).part 0).exp.fetching ∧
    (inGroup.mainInfo 0).lookahead = 0 ∧
    -- a cold expert whose one chunk the host finds again, with a look-ahead gate
    (let m : ModelInfo := { (default : ModelInfo) with expertShapes := [⟨2, 1, 1, [0, 0]⟩], lookahead := 1, coldExperts := [(expertKey 0 1, [0])] }
     let s := inGroup.modPart 0 (fun x => { x.setSlot 0 { st := .active, head := some leafHead, info := some m, cacheAt := [2 ^ 21] } with
       exp := { members := [0], fetching := [expertKey 0 1], cacheSlots := 1 } })
     (s.mainInfo 0).lookahead ≠ 0 ∧ s.expertChunks 0 (expertKey 0 1) = [0] ∧ (∀ c ∈ s.expertChunks 0 (expertKey 0 1), s.chunkUnreadable 0 0 c = none) ∧
     s.expertChunk 0 0 [[0]] = some [0] ∧ s.expertChunk 0 0 [[1]] = none ∧ s.cacheSlotAt 0 (expertKey 0 1) = none ∧
     (s.modPart 0 (fun x => { x with exp := { x.exp with slotOf := [(expertKey 0 1, 0)] } })).cacheSlotAt 0 (expertKey 0 1) = some (2 ^ 21)) ∧
    (let s := inGroup.modPart 0 (fun x => { x with exp := { members := [0, 5], replLoading := [(expertKey 0 1, 5)] } })
     dget? (s.part 0).exp.replLoading (expertKey 0 1) = some 5 ∧ dget? (s.part 0).exp.replLoading (expertKey 0 2) ≠ some 5 ∧ (5 : Node) ∈ (s.part 0).exp.members ∧ 5 ∉ (s.part 0).exp.lastReplicas (expertKey 0 1) ∧
     (5 : Node) ≠ homeOf (s.mainInfo 0) 0 1 ∧ ((s.part 0).exp.lastReplicas (expertKey 0 1)).length < 3 ∧ (4 : Node) ∉ (s.part 0).exp.members) ∧
    (let k := pkt tyExchange (List.replicate 32 0)
     k.typ = tyExchange ∧ exchangeOk k.payload = true ∧ bitOf (fieldAt k.payload 6 1) 1 = false ∧
     up.fabric.fenced.contains (Fin.ofNat 512 (fieldAt k.payload 0xC 2)) = false ∧
     (let s := inGroup.setReg .memHbmMap 0 (2 ^ 63 + 1)
      (s.place 0).isSome = true ∧ (s.part k.part).step.running = true ∧ (s.part k.part).step.checked = false)) ∧
    (let k := pkt tyExchange ([1, 0, 0, 0, 0, 0, 2] ++ List.replicate 25 0)
     exchangeOk k.payload = true ∧ bitOf (fieldAt k.payload 6 1) 1 = true ∧ k.part = 0 ∧ (inGroup.part 0).exp.fetchWait = [] ∧
     BitVec.ofNat 32 (fieldAt k.payload 0 4) = ((inGroup.part 0).exp.step + 1).setWidth 32) ∧
    BitVec.ofNat 32 (fieldAt (List.replicate 32 0) 0 4) ≠ ((inGroup.part 0).exp.step + 1).setWidth 32 ∧
    exchangeOk (List.replicate 6 0 ++ [4] ++ List.replicate 25 0) = false := by decide +kernel

theorem witness_ArrivingPacketsAreScreened :
    ok up = true ∧ arrival (.write 0 (pkt tyWrite [])) = some (0, pkt tyWrite [], tyWrite) ∧ (pkt tyWrite []).typ = tyWrite ∧
    (pkt tyRead []).typ ≠ tyWrite ∧ knownType (pkt tyRead []).typ = true ∧ (pkt tyWrite []).src ∉ up.fabric.fenced ∧
    (pkt tyWrite []).src ∈ ({ up with fabric := { fenced := [1] } } : State).fabric.fenced ∧
    { pkt tyWrite [] with reservedZero := false }.reservedZero = false ∧ 64 ≤ { pkt tyWrite [] with hops := 64 }.hops ∧ (pkt tyWrite []).hops < 64 ∧
    (pkt tyWrite []).dst = up.self ∧ { pkt tyWrite [] with dst := 3 }.dst ≠ up.self ∧
    (let k := { pkt tyWrite [] with ecrc := (pkt tyWrite []).ecrc + 1 }
     k.ecrc ≠ k.makeEcrc) ∧
    arrival (.read 0 (pkt tyRead []) none none) = some (0, pkt tyRead [], tyRead) ∧ up.heldAt (dpaOf (pkt tyRead []).addr) 0 = false ∧
    knownType (pkt 0xFF []).typ = false := by decide +kernel

/-- Number of a receipt: now 0, hold 1, again 2, drop 3. -/
def receiptNo : Receipt → Nat
  | .now => 0
  | .hold => 1
  | .again => 2
  | .drop => 3

theorem witness_TransfersAreServedOnceAndInOrder :
    (let k := pkt tyWrite [7]
     let s := up.setReg .memHbmMap 0 (2 ^ 63 + 1)
     ok s = true ∧ k.typ = tyWrite ∧ receiptNo ((dget s.fabric.xidRecs (recKey k.src k.tc) {}).judge k) = 0 ∧
     (dget s.fabric.xidRecs (recKey k.src k.tc) {}).heldBack = [] ∧ s.remoteOk k.part k.addr k.payload.length = true ∧
     up.remoteOk k.part k.addr k.payload.length = false) ∧
    receiptNo ((dget up.fabric.xidRecs (recKey 1 0) {}).judge (pkt tyWrite [] 1)) = 1 ∧
    receiptNo (({ seen := [0] } : XidRec).judge (pkt tyWrite [])) = 2 ∧ up.stillServed (pkt tyWrite []) = false ∧
    receiptNo (({ heldBack := [(.write, pkt tyWrite [] 1)] } : XidRec).judge (pkt tyWrite [] 1)) = 3 ∧
    (let k := { pkt tyRead [] with arg := 4096 }
     let s := up.setReg .memHbmMap 0 (2 ^ 63 + 1)
     k.typ = tyRead ∧ k.arg.toNat = 4096 ∧ s.remoteOk k.part k.addr 4096 = true ∧ s.badByte (dpaOf k.addr) 1 none = none ∧
     s.badByte (dpaOf k.addr) 4096 (some 4095) = some 4095 ∧ up.remoteOk k.part k.addr 4096 = false ∧ s.heldAt (dpaOf k.addr) 4096 = false ∧
     ({ s with repair := { copies := [⟨0, 0, 0, 0, 5, true, none, []⟩] } } : State).heldAt (dpaOf k.addr) 4096 = true) ∧
    -- a pull of chunk 0 of the model whose head is `leafHead`
    (let a : PullAsk := ⟨fieldAt leafHead.root 0 8, 0, 0⟩
     let x : Slot := { st := .active, head := some leafHead, verified := [0], info := some default }
     let s := (upPart (fun y => y.setSlot 0 x)).setReg .memHbmMap 0 (2 ^ 63 + 1)
     let holds (x : Slot) : Bool := match x.head with
       | some h => decide (fieldAt h.root 0 8 = a.rootTag) && x.verified.contains a.chunk
       | none => false
     (s.part 0).slots.find? (fun e => holds e.2) = some (0, x) ∧ s.chunkUnreadable 0 0 0 = none ∧ s.chunkOf 0 0 0 = some [0] ∧
     (∀ e ∈ (up.part 0).slots, holds e.2 = false)) ∧
    (pkt tyWrite [] 1).tc = 0 ∧ (pkt tyWrite [] 1).xid ∉ ({} : XidRec).seen := by decide +kernel

/-- A transfer of type `typ` to node 1 that waits for its answer. -/
def heldTo (typ : Byte) : Held := { pkt := { aPacket with typ := typ, dst := 1, src := 0 }, sentAt := 0 }

/-- `up` with that transfer outstanding. -/
def waitingFor (typ : Byte) : State := { up with fabric := { held := [heldTo typ] } }

theorem witness_AnswersSettleTransfers :
    (let k := pkt tyAck []
     ok (waitingFor tyWrite) = true ∧ k.typ = tyAck ∧ up.unacked (xidKey k.src k.tc k.arg) = false ∧
     (waitingFor tyWrite).unacked (xidKey k.src k.tc k.arg) = true ∧
     (∀ h ∈ (waitingFor tyWrite).fabric.held, h.key = xidKey k.src k.tc k.arg → h.pkt.typ = tyWrite)) ∧
    (let k := pkt tyReadData [7]
     (waitingFor tyRead).unacked (xidKey k.src k.tc k.arg) = true ∧
     (∀ h ∈ (waitingFor tyRead).fabric.held, h.key = xidKey k.src k.tc k.arg → h.pkt.typ = tyRead)) ∧
    (let k := { pkt tyNack [] with arg := 0x105 }
     (waitingFor tyRead).unacked (xidKey k.src k.tc k.xid) = true ∧ failStatus (k.arg.setWidth 16) = true ∧
     failStatus ((pkt tyNack []).arg.setWidth 16) = false ∧
     (∀ h ∈ (waitingFor tyRead).fabric.held, h.key = xidKey k.src k.tc k.xid → h.pkt.typ = tyWrite ∨ h.pkt.typ = tyRead)) ∧
    (∀ p : Part, xidKey ((waitingFor tyWrite).witnessOf p).1 0 (BitVec.ofNat 32 (xidKey 1 0 0 % 2 ^ 32)) ≠ xidKey 1 0 0 ∧
      ((waitingFor tyWrite).part p).claimsOut = [] ∧ ((waitingFor tyWrite).part p).migrations = [] ∧
      ((waitingFor tyWrite).part p).switch = none ∧ ((waitingFor tyWrite).part p).exp.asking = []) ∧
    (let s := waitingFor tyWrite
     s.fabric.held = [heldTo tyWrite] ∧ (heldTo tyWrite).key = xidKey 1 0 0 ∧ (heldTo tyWrite).waiting = false ∧ s.reachable 1 = false ∧
     { heldTo tyWrite with waiting := true }.waiting = true ∧
     (let s := ((waitingFor tyWrite).setReg .uagRoute 1 8).modPort 0 (fun p => { p with fn := { st := .on } })
      s.reachable 1 = true ∧ s.fabric.held = [heldTo tyWrite])) := by decide +kernel

theorem witness_FirmwareMessagesAreServed :
    ok up = true ∧ (pkt tyMsg []).typ = tyMsg ∧ (pkt tyMsg []).part = 0 ∧
    (let s := withSlot up 1 .complete
     ((s.part 0).slot 1).st = .complete ∧ ((s.part 0).slot 1).head = some keptHead ∧ (s.part 0).switch = none ∧
     ((up.part 0).slot 1).st ≠ .complete ∧
     ({ s.part 0 with switch := some { cmd := none, target := 0, keepOld := false, atStep := some 3 } } : Partition).switch.map Switch.cmd = some none) ∧
    up.req? 0 1 = none ∧
    (let s := withReq (withSlot up 0 .active) (aReq .decode)
     s.req? 0 1 = some (aReq .decode) ∧ (aReq .decode).st ≠ .waiting ∧ (aReq .waiting).st = .waiting ∧ (aReq .decode).freezing = none ∧
     (aReq .decode).cancel = [] ∧ (aReq .decode).closing = none ∧ (((s.part 0).slot 0).head.map Head.root).getD [] = List.replicate 32 0 ∧
     (s.part 0).leaving = [] ∧ (aReq .decode).epoch = 0) ∧
    (up.part 0).jnl.claims = [] ∧ epochNotNewer 0 0 = true ∧ up.witAccept 0 = false ∧ (up.ring 0 witRing).fn.st ≠ .on ∧
    (let s := (upRing witRing ringOn).setReg .jnlCfg 0 4
     s.witAccept 0 = true ∧ (s.ring 0 witRing).fn.st = .on ∧ mirrorRecords (pkt tyMsg []).payload = [] ∧
     ({ claims := [⟨0, 0, 0, 0⟩] } : Journal).refuses (List.replicate 32 0) = true ∧
     mirrorRecords (List.replicate 32 0) = [List.replicate 32 0]) := by decide +kernel

/-- 65,536 claims fill a witness. -/
theorem witness_FirmwareMessagesAreServed_full : 65536 ≤ (List.replicate 65536 (⟨0, 0, 0, 0⟩ : Claim)).length := by
  rw [List.length_replicate]

theorem witness_CollectivesAndRoutes :
    ok up = true ∧ up.coll? 3 = none ∧ up.fabric.waiting = [] ∧ up.fabric.colls = [] ∧ 0 < collSlots aPlan.tc ∧ aPlan.weights = none ∧
    ((up.setReg .memHbmMap 0 (2 ^ 63 + 1)).extentOf 0).isSome = true ∧
    aPlan.op = .broadcast ∧ aPlan.parent.isSome = true ∧ 1 ≤ aPlan.chunks ∧ up.fabric.early = [] ∧ (∀ n ∈ aPlan.members, n ∉ up.fabric.fenced) ∧
    (∃ n ∈ aPlan.members, n ≠ up.self ∧ n ∈ ({ up with fabric := { fenced := [1] } } : State).fabric.fenced) := by decide +kernel

theorem witness_CollectivesAndRoutes_slots :
    (let s : State := { up with fabric := { colls := (List.range (collSlots 2)).map (fun i => { plan := { aPlan with id := BitVec.ofNat 16 (i + 4) } }) } }
     s.coll? 3 = none ∧ (∀ x ∈ s.fabric.colls, x.complete s.self = false) ∧
     collSlots aPlan.tc ≤ (s.fabric.colls.filter (fun x => decide (x.plan.tc = aPlan.tc))).length) ∧
    -- a chunk of a broadcast of this package to node 5, with the eight slots of TC3 taken
    (let w : WeightsCast := { order := 0, chunk := 0, me := 0, root := 0, receivers := [] }
     let c := { aPlan with weights := some w }
     let l : Load := { aLoad with path := .broadcast 4096, receivers := [(5, 0, 0, 0, 0)] }
     let s : State := { withSlot (upPart (fun x => { x with loads := [l] })) 0 .opened with
       fabric := { colls := (List.range 8).map (fun i => { plan := { aPlan with id := BitVec.ofNat 16 (i + 4), tc := 3 } }) } }
     c.weights = some w ∧ w.me = 0 ∧
     (s.part c.part).loads.find? (fun l => decide (l.cmd = w.order) && (match l.path with | .broadcast _ => true | _ => false)) = some l ∧
     (dget (s.part c.part).slots l.slot {}).head = some keptHead ∧ w.chunk ∈ l.todo ∧ w.chunk ∉ s.inFlight c.part w.order ∧
     (s.inFlight c.part w.order).length < 4 ∧ s.coll? c.id = none ∧ s.fabric.waiting = [] ∧
     (∀ x ∈ s.fabric.colls, x.complete s.self = false) ∧ 8 ≤ (s.fabric.colls.filter (fun x => decide (x.plan.tc = 3))).length ∧
     w.chunk ∉ ({ l with todo := [] } : Load).todo) := by decide +kernel

theorem witness_CollectivesAndRoutes_packets :
    (let s : State := { up with fabric := { colls := [{ plan := aPlan }] } }
     let k := { pkt tyColl [] with arg := 3 + 65536 }
     ok s = true ∧ k.typ = tyColl ∧ s.coll? (k.arg.setWidth 16) = some { plan := aPlan } ∧ s.fabric.waiting = [] ∧
     k.arg.toNat / 65536 < aPlan.chunks ∧ 2 ≤ aPlan.chunks ∧ (s.coll? 3).isSome = true ∧
     (∀ y ∈ s.fabric.colls, y.plan.id ≠ 3 → y.complete s.self = false) ∧ (∀ y ∈ s.fabric.colls, y.plan.id = 3 → y = { plan := aPlan })) ∧
    ({ up with fabric := { finished := [(3, 0, [])] } } : State).fabric.finished = [(3, 0, [])] ∧ up.fabric.finished = [] ∧
    (pkt tyRoute []).typ = tyRoute := by decide +kernel

/-- `up` with UAG_TIME_CFG at `v` and port 0 ON. -/
def timed (v : Nat) : State := (upPort (fun x => { x with fn := { st := .on } })).setReg .uagTimeCfg 0 v

theorem witness_FabricTimeIsFollowed :
    ok (timed 0) = true ∧ (timed 1).hostMaster = true ∧ (timed 1).timeMaster = true ∧ (timed 0).hostMaster = false ∧ (timed 0).timeMaster = false ∧
    (timed 0).fabric.actingMaster = false ∧ (timed 0).syncPort = none ∧ (timed 0x20).syncPort = some 0 ∧ (timed 0x20).parentPort = some 0 ∧
    ((timed 0x20).port 0).fn.st = .on ∧ ((up.setReg .uagTimeCfg 0 0x200).port 0).fn.st ≠ .on ∧ (up.setReg .uagTimeCfg 0 0x200).syncPort = some 0 ∧
    (timed 0x20).fabric.locked = false ∧ ({ timed 0x20 with fabric := { locked := true } } : State).fabric.locked = true ∧
    (let s := (timed 0x22)
     let s : State := { s with fabric := { s.fabric with actingMaster := true } }
     s.fabric.actingMaster = true ∧ s.hostMaster = false ∧ s.parentPort = some 0 ∧ s.parentPort ≠ some 1 ∧ s.backupPort ≠ some 1 ∧
     ¬ (5 : Node) < s.self ∧ (5 : Node) < 6) ∧
    (timed 2).isBackup = true ∧ (timed 0).isBackup = false ∧ (timed 1).regBits .uagTimeCfg 0 10 8 = 0 ∧
    (timed 1).fabric.locked = false := by decide +kernel

theorem witness_LostNodesAreFenced :
    ok up = true ∧ dget? up.fabric.losing 5 = none ∧ dget? ({ up with fabric := { losing := [(5, 9)] } } : State).fabric.losing 5 = some 9 ∧
    bitOf 5 31 = false ∧ bitOf (2 ^ 31 + 511) 31 = true ∧ (Fin.ofNat 512 ((2 ^ 31 + 511) % 512) : Node) ∉ up.fabric.fenced ∧
    (Fin.ofNat 512 ((2 ^ 31 + 511) % 512) : Node) ∈ ({ up with fabric := { fenced := [511] } } : State).fabric.fenced := by decide +kernel

/-- A descriptor of a task of partition 0 with a program of one bundle at DPA 0. -/
def aDesc : TaskDesc := { parseTask (List.replicate 128 0) with programLen := 32 }

/-- Its run on a tile. -/
def aRun : Run := { task := { aTask with desc := aDesc }, part := 0, cars := [], ins := [], outs := [], bundles := [0], pc := 0, placedAt := 0 }

/-- `up` with tile 0 in mode `m` and with run `r`. -/
def onTile (m : TileMode) (r : Run) : State := up.modTile 0 (fun x => { x with mode := m, run := some r })

/-- A partition that is ON, has HBM and tile 0, and has one task queued. -/
def ready1 : State :=
  ((partOn (upPart (fun x => { x with lcQ := [{ aTask with desc := aDesc }] }))).setReg .memHbmMap 0 (2 ^ 63 + 1)).setReg .partTiles 0 1

theorem witness_TasksAreOfferedToFreeTiles :
    ok ready1 = true ∧ (up.part 0).fn.st = .off ∧ (up.part 0).lcQ = [] ∧ (up.part 0).beQ = [] ∧ (up.part 0).graphs = [] ∧
    (let s := ready1
     let tk : Task := { aTask with desc := aDesc }
     (s.part 0).fn.st ≠ .off ∧ (s.part 0).advance.running = false ∧ (s.part 0).lcQ = [tk] ∧ (s.part 0).beQ = [] ∧ (s.part 0).graphs = [] ∧
     (s.part 0).fwWait = [] ∧ (s.part 0).isReady tk = true ∧ (s.part 0).kv.advanceHeld = false ∧ s.usableTile 0 tk = some 0 ∧
     (match s.checkTask 0 0 tk with | .good c i o => decide (c = [] ∧ i = [] ∧ o = []) | _ => false) = true ∧
     s.readEwma 0 tk.desc.layerTag = .inr {} ∧ (s.tile 0).codeCache = []) := by decide +kernel

/-- A DRAIN of unit 0 of stream 0. -/
def aDrain : DrainOp := { stream := 0, unit := 0, carousel := 0, ptr := 0 }

/-- A freeze that waits for a LOAD since time 0. -/
def aFreeze : Freeze := { causes := [.loadWait], startNs := 0, countedNs := 0 }

theorem witness_TasksAreOfferedToFreeTiles_runs :
    (up.tile 0).run = none ∧
    (let r := { aRun with atEnd := true }
     let s := onTile .running r
     ok s = true ∧ (s.tile 0).run = some r ∧ r.ended = none ∧ r.atEnd = true ∧ r.quiet = true ∧ (s.tile 0).testAfterRun = [] ∧
     (s.tile 0).resetting = false ∧ aRun.atEnd = false ∧ r.boundCounted = false) ∧
    (let d := { aDesc with replayWiden := true, widenStep := 1, limitThin := 0, widths := [4, 0, 0, 0, 0, 0] }
     let r := { aRun with atEnd := true, thin := 255, overflow := true, task := { aTask with desc := d, widths := [4] },
                          ins := [{ (default : Stream) with kind := 1, width := 4 }] }
     r.task.desc.replayWiden = true ∧ r.task.widened = false ∧ r.overLimit = true ∧ r.canWiden = true) ∧
    (let r := { aRun with ended := some .watchdog }
     r.ended = some .watchdog ∧ r.writes = [] ∧ r.task.relocated = false ∧ r.ended.isSome = true ∧ (up.part r.part).step.failed = false ∧
     (up.tile 0).testAfterRun = [] ∧ (up.tile 0).resetting = false) ∧ ({ aRun with boundCounted := true } : Run).boundCounted = true ∧ aRun.freeze = none ∧
    ({ aRun with ended := some .arithmetic, writes := [aDrain] } : Run).writes ≠ [] ∧
    (let r := { aRun with freeze := some aFreeze }
     let s := onTile .frozen r
     r.freeze = some aFreeze ∧ (s.tile 0).mode = .frozen ∧ r.ended = none ∧ aFreeze.cleared = none ∧
     ({ aFreeze with cleared := some ([.loadWait], 1) } : Freeze).cleared.isSome = true) ∧
    (let s := up.modTile 0 (fun x => { x with resetting := true })
     (up.tile 0).resetting = false ∧ (s.tile 0).resetting = true ∧ (s.tile 0).run = none ∧ s.repair.tests = []) := by decide +kernel

/-- An array operation of one row, one column and no block left. -/
def anArray (blocks : Nat) : ArrayRun :=
  { op := { (default : ArrayOp) with kind := .run, rows := 1, cols := 1, blocks := blocks }, headW := 0, headA := 0 }

theorem witness_BundlesIssueOrFreeze :
    (let s := onTile .loading aRun
     ok s = true ∧ (s.tile 0).run = some aRun ∧ (s.tile 0).mode = .loading ∧ aRun.ended = none ∧
     s.withdrawnIn aRun.task.desc.program aRun.task.desc.programLen = none ∧ (s.tile 0).mode ≠ .running) ∧
    (let s := onTile .running aRun
     (s.tile 0).mode = .running ∧ aRun.atEnd = false ∧ aRun.arrayWait = false ∧ aRun.freeze = none ∧
     ((aRun.bundles[aRun.pc]?).bind decodeBundle).isSome = true ∧
     (({ aRun with bundles := [] } : Run).bundles[aRun.pc]?).bind decodeBundle = none ∧
     (match decodeBundle 0 with
      | some b => aRun.bundleOk b && b.array.isNone && !aRun.notYet b && (aRun.freezeCauses b).isEmpty && b.vec.isNone && b.fill.isNone && b.skip.isNone &&
          b.drain.isNone && b.advHead.isNone && b.advTail.isNone
      | none => false) = true) ∧
    (let r := { aRun with array := some (anArray 0) }
     let s := onTile .running r
     ok s = true ∧ (anArray 0).op.blocks ≤ (anArray 0).block ∧ r.arrayBusy = 0 ∧ r.arrayWait = false ∧ aRun.array = none ∧
     (s.tile 0).mode = .running ∧ (anArray 0).op.kind = .run ∧ (anArray 1).block < (anArray 1).op.blocks ∧
     ({ r with arrayBusy := 1 } : Run).arrayBusy ≠ 0) := by decide +kernel

/-- A bundle that fills one slot from stream 0 in a run whose queue holds 64 commands freezes the tile; a LOAD_ACC of a busy array
waits for it; a bundle that follows the cycles of a block run waits for the block run. -/
theorem witness_BundlesIssueOrFreeze_waits :
    (let fs : List FillOp := (List.range 64).map (fun i => { stream := 0, unit := 0, carousel := 0, ptr := i, cmd := i })
     let c : Carousel := { cfg := { (default : CarouselCfg) with slots := 1, slotRows := 1 } }
     let x : Stream := { (default : Stream) with innerCount := 99, outerCount := 1 }
     let r : Run := { aRun with cars := [c], bundles := [(1#256) <<< 124], ins := [x], fills := fs }
     (match (r.bundles[r.pc]?).bind decodeBundle with
      | some b => r.bundleOk b && !r.notYet b && decide (r.freezeCauses b = [.queueFull]) && b.array.isNone &&
          ({ r with fills := [] } : Run).freezeCauses b == []
      | none => false) = true) ∧
    (let c : Carousel := { cfg := { (default : CarouselCfg) with slots := 1, slotRows := 1 } }
     let r : Run := { aRun with cars := [c], bundles := [(0x4000008100000000#256) <<< 192], ins := [{ (default : Stream) with format := 7 }] }
     let r : Run := { r with array := some (anArray 0) }
     (match (r.bundles[r.pc]?).bind decodeBundle with
      | some b => r.bundleOk b && b.array.isSome && r.array.isSome && !({ r with cars := [] } : Run).bundleOk b
      | none => false) = true) ∧
    (let r : Run := { aRun with array := some (anArray 1) }
     (match decodeBundle 0 with | some b => r.notYet b | none => false) = true ∧ r.blockEnds (anArray 1) = true ∧
     ({ r with vec := [default] } : Run).blockEnds (anArray 1) = false ∧ ((onTile .running r).blockRun 0 r (anArray 1) none).2 = (false, false)) := by
  decide +kernel

/-- Freezes: one whose causes hold, one whose last cause has cleared within TILE_HOLD_LIMIT, and one that outlasted it. -/
theorem witness_BundlesIssueOrFreeze_freezes :
    (let r := { aRun with freeze := some aFreeze }
     let s := onTile .frozen r
     ok s = true ∧ (s.tile 0).mode = .frozen ∧ r.ended = none ∧ r.freeze = some aFreeze ∧ aFreeze.cleared = none ∧
     (match (r.bundles[r.pc]?).bind decodeBundle with | some b => r.freezeCauses b == [] | none => false) = true ∧
     s.now - aFreeze.startNs ≤ s.reg .tileHoldLimit) ∧
    (let g := { aFreeze with cleared := some ([.loadWait], 5) }
     g.cleared = some ([.loadWait], 5) ∧ 5 - g.startNs ≤ up.reg .tileHoldLimit ∧
     (up.setReg .tileHoldLimit 0 4).reg .tileHoldLimit < 5 - g.startNs) := by decide +kernel

theorem witness_TileDataMovesAsStated :
    (let s := onTile .running aRun
     ok s = true ∧ aRun.fills[0]? = none ∧ aRun.drains[0]? = none ∧ aRun.writes[0]? = none ∧ s.mayFail aRun 0 .remoteUncorrectable = false) ∧
    (let r := { aRun with writes := [aDrain] }
     r.writes[0]? = some aDrain ∧ aDrain.queued = [] ∧ aDrain.xids = [] ∧ r.task.desc.epoch = (up.part 0).epoch ∧ r.task.desc.epoch ≠ 1 ∧
     r.freeze = none ∧ (∀ f ∈ r.fills, f.queued = []) ∧ ∀ d ∈ r.writes, d.queued = []) ∧
    (let d : DrainOp := { aDrain with xids := [9] }
     ∃ x ∈ d.xids, up.outcome? x = none) ∧ ({ aDrain with queued := [(0, [1])] } : DrainOp).queued ≠ [] ∧
    (let f : FillOp := { stream := 0, unit := 0, carousel := 0, ptr := 0 }
     let x : Stream := { (default : Stream) with kind := 0, unitBytes := 256, innerCount := 1, outerCount := 1 }
     let r := { aRun with fills := [f], ins := [x], cars := [{ cfg := { (default : CarouselCfg) with slots := 1, slotRows := 1 } }] }
     let s := (onTile .running r).setReg .memHbmMap 0 (2 ^ 63 + 1)
     ok s = true ∧ r.fills[0]? = some f ∧ f.queued = [] ∧ r.blockKept f = true ∧
     (match s.fillPieces r f with | some ps => s.readable ps && !s.piecesHeld ps | none => false) = true ∧ f.xids = [] ∧
     s.mayFail r 0 (.uncorrectable 0) = true ∧ r.freeze = none ∧ (∀ f ∈ r.fills, f.queued = []) ∧
     (let u : State := { s with repair := { copies := [⟨0, 0, 0, 0, 5, true, none, []⟩] } }
      (match u.fillPieces r f with | some ps => u.piecesHeld ps | none => false) = true) ∧
     (let g : FillOp := { f with queued := [(0, 256)] }
      g.queued ≠ [])) ∧
    (let r := { aRun with drains := [aDrain], outs := [default] }
     r.drains[0]? = some aDrain ∧ r.outs[aDrain.stream]? = some default ∧ r.storing = false ∧ ({ r with vec := [default] } : Run).storing = true) := by
  decide +kernel

theorem witness_TileDataMovesAsStated_banks :
    (let b : Bank := dget (up.tile 0).banks 15 {}
     let q : BankReq := ⟨.planeFeed, 1023, none, none, 0, none⟩
     (up.tile 0).run = none ∧ arrives (decide ((up.tile 0).mode = .frozen)) q = true ∧ q.skip = none ∧ q.seg = none ∧ b.wide = [] ∧ b.narrow = [] ∧
     b.outside = [] ∧ q.write = none ∧ b.returns = [] ∧ arrives false { q with row := 1024 } = false) ∧
    (let m : BankReq := ⟨.dma, 5, some 0, none, 0, none⟩
     let s := up.modTile 0 (fun x => { x with banks := [(15, { cycle := 32, narrow := [m] })] })
     (dget (s.tile 0).banks 15 {}).narrow = [m] ∧ m.seg.isSome = true ∧ m.since + 32 ≤ (dget (s.tile 0).banks 15 {}).cycle) ∧
    (let x : ReadReturn := ⟨.dma, 5, some 0, 3, []⟩
     let s := up.modTile 0 (fun x => { x with banks := [(15, { cycle := 4, returns := [⟨.dma, 5, some 0, 3, []⟩] })] })
     ok s = true ∧ (dget (s.tile 0).banks 15 {}).returns = [x] ∧ x.due < (dget (s.tile 0).banks 15 {}).cycle ∧ (s.tile 0).run = none ∧
     (let b : Bank := { cycle := 3, returns := [x] }
      b.cycle ≤ x.due ∧ b.wide = [] ∧ b.narrow = [] ∧ b.outside = [])) := by decide +kernel

theorem witness_RepairMapsAndSelfTests :
    (let c := cmdOf opReadMap [(0x18, 8, 65536)]
     let s := holding up c
     ok s = true ∧ (s.part 0).nextCmd 0 opReadMap = some c ∧ c.field 0x10 8 % 64 = 0 ∧ s.repairMap.length ≤ c.field 0x18 8 ∧
     (cmdOf opReadMap []).field 0x18 8 < s.repairMap.length ∧ (cmdOf opReadMap [(0x10, 8, 1)]).field 0x10 8 % 64 ≠ 0) ∧
    (let c := cmdOf opWriteMap [(0x18, 8, up.repairMap.length)]
     let s := holding up c
     (s.part 0).nextCmd 0 opWriteMap = some c ∧ c.field 0x10 8 % 64 = 0 ∧ s.judgeMap (some 0) [] (some (c.field 0x18 8)) = stMalformed ∧
     s.repair.mapWait = none ∧ s.repair.tests = [] ∧ s.repair.mapBusy = false ∧ up.judgeMap none [] none = stMalformed ∧
     ({ up with repair := { tests := [.granule 7], mapWait := some (none, []) } } : State).repair.mapWait.isSome = true) ∧
    (let c := cmdOf opSelfTest [(0x10, 1, 4)]
     let s : State := { holding up c with repair := { firnChannels := 1, firnDensity := 1 } }
     (s.part 0).nextCmd 0 opSelfTest = some c ∧ c.field 0x10 1 < 8 ∧ c.field 0x11 1 ≤ 1 ∧ s.partAt 4 0 = some (.granule 0) ∧
     up.partAt 4 0 = none ∧ s.repair.retired (.granule 0) = false ∧ PartId.granule 0 ∉ s.repair.tests ∧ s.repair.mapWait = none ∧ s.tiles = [] ∧
     8 ≤ (cmdOf opSelfTest [(0x10, 1, 8)]).field 0x10 1 ∧ 1 < (cmdOf opSelfTest [(0x11, 1, 2)]).field 0x11 1) ∧
    ({ up with repair := { mapBusy := true } } : State).repair.mapBusy = true := by decide +kernel

/-- The repair map that a package gives is its own, whatever its serial number is. -/
theorem repairMap_mine : up.mapMine up.repairMap = true := by
  have e : up.repairMap = (leBytes 4 0x4D524B4C ++ leBytes 2 1 ++ leBytes 2 0 ++ leBytes 4 0 ++ leBytes 4 0x4C0 ++
      leBytes 4 0x4C4B0105 ++ leBytes 4 up.idStepping) ++ (leBytes 8 Config.serial.toNat ++ (leBytes 8 up.time ++ leBytes 24 0 ++
      (List.range 576).flatMap (fun i => leBytes 2 (up.repair.site i).word))) := by
    unfold State.repairMap
    rw [show up.repair.mapEntries = [] from by decide +kernel]
    simp only [List.length_nil, List.flatMap_nil, List.append_nil, List.append_assoc, Nat.mul_zero, Nat.add_zero]
  have h : fieldAt up.repairMap 0x18 8 = Config.serial.toNat := by
    rw [e]
    have := fieldAt_leBytes (leBytes 4 0x4D524B4C ++ leBytes 2 1 ++ leBytes 2 0 ++ leBytes 4 0 ++ leBytes 4 0x4C0 ++
      leBytes 4 0x4C4B0105 ++ leBytes 4 up.idStepping) (leBytes 8 up.time ++ leBytes 24 0 ++
      (List.range 576).flatMap (fun i => leBytes 2 (up.repair.site i).word)) 8 Config.serial.toNat
    rw [Nat.mod_eq_of_lt (by have := Config.serial.isLt; omega)] at this
    simp only [List.length_append, leBytes_length, Nat.reduceAdd] at this
    exact this
  have a : fieldAt up.repairMap 0x10 4 = 0x4C4B0105 := by decide +kernel
  have b : fieldAt up.repairMap 0x14 4 = up.idStepping := by decide +kernel
  simp [State.mapMine, h, a, b]

/-- Its form is right. -/
theorem repairMap_form : up.mapFormOk up.repairMap (some up.repairMap.length) = true ∧ up.mapFormOk up.repairMap none = true := by decide +kernel
/-- A repair map of this package is taken while its partitions are OFF, and refused in state once one is ON. -/
theorem witness_RepairMapsAndSelfTests_own :
    (let c := cmdOf opWriteMap [(0x18, 8, 1216)]
     let s := holding up c
     (s.part 0).nextCmd 0 opWriteMap = some c ∧ c.field 0x10 8 % 64 = 0 ∧ s.judgeMap (some 0) up.repairMap (some 1216) = stOk ∧
     (s.modPart 1 (fun x => { x with fn := { st := .on } })).judgeMap (some 0) up.repairMap (some 1216) = stState) ∧
    up.judgeMap none up.repairMap none = stOk ∧ (partOn up).judgeMap none up.repairMap none = stState := by
  have e : up.repairMap.length = 1216 := by decide +kernel
  have f := repairMap_form
  rw [e] at f
  have g (u : State) (h1 : u.mapMine up.repairMap = up.mapMine up.repairMap) (o : Option Nat)
      (h2 : u.mapFormOk up.repairMap o = true) (i : Option Part) : u.judgeMap i up.repairMap o =
      if allParts.any (fun q => decide (i ≠ some q) && (decide ((u.part q).fn.st ≠ .off) || u.hbmValid q)) then stState
      else if (match i with | some p => [p] | none => allParts).any (fun q => !u.partIdle q || u.mapHitsGroups q (u.mapParts up.repairMap)) then stState
      else stOk := by
    unfold State.judgeMap
    rw [h1, h2, repairMap_mine]
    rfl
  refine ⟨⟨by decide +kernel, by decide +kernel, ?_, ?_⟩, ?_, ?_⟩
  · rw [g (holding up (cmdOf opWriteMap [(0x18, 8, 1216)])) rfl (some 1216) f.1]; decide +kernel
  · rw [g ((holding up (cmdOf opWriteMap [(0x18, 8, 1216)])).modPart 1 _) rfl (some 1216) f.1]; decide +kernel
  · rw [g up rfl none f.2]; decide +kernel
  · rw [g (partOn up) rfl none f.2]; decide +kernel

theorem witness_VerdictsAndFailuresRetireParts :
    ok up = true ∧ PartId.granule 7 ∉ up.repair.tests ∧
    (let s : State := { up with repair := { tests := [.granule 7] } }
     let q := PartId.granule 7
     q ∈ s.repair.tests ∧ s.repair.mapWait = none ∧ s.repair.asked = [] ∧ s.repair.retired q = false ∧ s.repair.transients q = 0) ∧
    min 7 (0 + 1) ≤ (up.setReg .sprThresh 0 0xFFFF).threshold (.granule 7) ∧ (up.setReg .sprThresh 0 0).threshold (.granule 7) < min 7 (0 + 1) ∧
    (let c := cmdOf opSelfTest []
     let s : State := { holding up c with repair := { tests := [.granule 7], asked := [(0, 0, .granule 7, false)] } }
     s.cmd? 0 c.order = some c ∧ (s.part 0).cmds = [c] ∧ s.repair.asked = [(0, c.order, .granule 7, false)]) ∧
    (∀ x ∈ up.repair.copies, ¬ (x.stack = 11 ∧ x.chan = 31 ∧ x.page = 0)) ∧
    (let x : PageCopy := ⟨11, 31, 0, 30, 5, false, some 1023, []⟩
     let s : State := { up with repair := { copies := [x] } }
     s.repair.copies = [x] ∧ x.stack = 11 ∧ x.chan = 31 ∧ x.page = 0 ∧ x.counted = some 1023) ∧
    (let x : PageCopy := ⟨0, 0, 0, 30, 5, false, none, [3]⟩
     let s : State := { (up.setReg .memHbmMap 0 (2 ^ 63 + 1)) with repair := { copies := [x] } }
     s.repair.copies = [x] ∧ x.counted ≠ some 0 ∧ (s.dpaOfPlace ((32 * 0 + 0) * chanBytes + 65536 * 0 + 64 * 0)).isSome = true) ∧
    up.repair.chanFailed 11 31 = false ∧ up.repair.retired (.chan 11 31) = false ∧ 11 ∉ up.repair.lostStacks ∧
    up.repair.retired (.core 7) = false ∧ PartId.core 7 ∉ up.repair.tests ∧ up.repair.mapWait = none ∧
    ({ up with repair := { lostStacks := [11] } } : State).repair.lostStacks = [11] ∧
    (let s := up.setReg .memHbmMap 0 (2 ^ 63 + 1)
     s.hbmValid 0 = true ∧ ∃ g ∈ s.groups 0, g / 4 = 0) := by decide +kernel
end Sys2Proof
end

section
/-! SUPPORT. The state after reset, and how functions become ready and drain (R19, R934, R935). -/

namespace Sys2Proof.Machine

/-! ### The state after reset -/

/-- Settles O2: the state after reset is the record of default values, so each part of it is found by evaluation. -/
theorem resetLeavesResetValues : Obligations.ResetLeavesResetValues := by
  unfold Obligations.ResetLeavesResetValues
  have part_reset (p : Part) : State.reset.part p = {} := by simp [State.reset, State.part, get_eq]
  have ring_reset (p : Part) (n : RingNo) : State.reset.ring p n = {} := by simp [State.ring, part_reset, get_eq]
  have port_reset (u : PortNo) : State.reset.port u = {} := by simp [State.reset, State.port, get_eq]
  refine ⟨rfl, rfl, fun _ _ => rfl, fun p => ⟨part_reset p, rfl⟩, fun p n => ?_, fun u => ?_, fun _ => rfl, rfl, rfl, rfl, rfl,
    fun _ => rfl, ?_⟩
  · rw [ring_reset]
  · rw [port_reset]
  · exact ⟨rfl, rfl, rfl⟩

/-! ### The rows of R935 -/

theorem Fn.onReady_of_enabling {f : Fn} (h : f.st = .enabling) :
    f.onReady = { f with st := if f.latch then .quiescing else .on, latch := false } := by
  obtain ⟨st, latch, enable, unhandled⟩ := f
  subst h
  cases latch <;> rfl

theorem Fn.onReady_of_on {f : Fn} (h : f.st = .on) : f.onReady = f.noRow := by
  simp [Fn.onReady, h]

theorem Fn.onDrained_of_quiescing {f : Fn} (h : f.st = .quiescing) :
    f.onDrained = { f with st := if f.latch then .enabling else .off, latch := false } := by
  obtain ⟨st, latch, enable, unhandled⟩ := f
  subst h
  cases latch <;> rfl

/-! ### Rings -/

/-- A change of a ring is a replacement by the ring it gives. -/
theorem modRing_eq_replace (s : State) (p : Part) (n : RingNo) (f : Ring → Ring) :
    s.modRing p n f = s.modRing p n (fun _ => (s.modRing p n f).ring p n) := by
  rw [ring_modRing_same]
  rfl

theorem PartOnly.zeroStatus (p : Part) (s : State) (n : RingNo) : PartOnly p s (s.zeroStatus p n) := by
  unfold State.zeroStatus
  split
  · exact (PartOnly.statusWrite p p s _ _).trans (PartOnly.statusWrite p p _ _ _)
  · exact PartOnly.statusWrite p p s _ _

theorem ring_statusWrite (s : State) (p q : Part) (off v : Nat) (m : RingNo) : (s.statusWrite p off v).ring q m = s.ring q m := rfl

@[simp] theorem ring_zeroStatus (s : State) (p q : Part) (n m : RingNo) : (s.zeroStatus p n).ring q m = s.ring q m := by
  unfold State.zeroStatus
  split <;> simp only [ring_statusWrite]

/-- What a ring becomes once it has drained (R539, R551). -/
def Ring.afterDrain (r : Ring) : Ring :=
  let x := { r with fn := r.fn.onDrained, error := false }
  if r.fn.onDrained.st = .enabling then x.leaveOff else x

theorem Ring.afterDrain_eq {r : Ring} (h : r.fn.st = .quiescing) :
    r.afterDrain.error = false ∧ r.afterDrain.fn.latch = false ∧
    (r.fn.latch = false → r.afterDrain.fn.st = .off) ∧
    (r.fn.latch = true → r.afterDrain.fn.st = .enabling ∧ r.afterDrain.pi = 0 ∧ r.afterDrain.ci = 0) := by
  unfold Ring.afterDrain
  rw [Fn.onDrained_of_quiescing h]
  cases r.fn.latch <;> simp [Ring.leaveOff]

/-! ### FUNCTION_READY -/

theorem exec_functionReady (f : FnName) (s : State) : exec (.functionReady f) s = execFunctionReady f s := rfl

theorem exec_functionDrained (f : FnName) (s : State) : exec (.functionDrained f) s = execFunctionDrained f s := rfl

section
variable {s : State} (hs : s.serving)
include hs

theorem exec_functionReady_ring {p : Part} {n : RingNo} (h : (s.ring p n).fn.st = .enabling) :
    exec (.functionReady (.ring p n)) s =
      .next (if s.ringReady p n then (s.zeroStatus p n).modRing p n (fun r => { r with fn := r.fn.onReady }) else s) := by
  rw [exec_functionReady, execFunctionReady, inService_next hs]
  exact congrArg _ (if_pos h)

/-- A ring that is ready leaves ENABLING: its fields of the status page are zeroed and no other ring changes (R537, R538). -/
theorem functionReady_ring {p : Part} {n : RingNo} (h : (s.ring p n).fn.st = .enabling) (hr : s.ringReady p n = true) :
    ∃ t, exec (.functionReady (.ring p n)) s = .next t ∧ PartOnly p s t ∧ (∀ m, m ≠ n → t.ring p m = s.ring p m) ∧
      (t.ring p n).fn.st = (if (s.ring p n).fn.latch then .quiescing else .on) ∧ (t.ring p n).fn.latch = false := by
  refine ⟨_, by rw [exec_functionReady_ring hs h, if_pos hr], (PartOnly.zeroStatus p s n).trans (PartOnly.modRing p _ n _),
    fun m hm => ?_, ?_, ?_⟩
  · rw [ring_modRing_other _ _ _ _ _ hm, ring_zeroStatus]
  · simp [Fn.onReady_of_enabling h]
  · simp [Fn.onReady_of_enabling h]

theorem exec_functionReady_part (p : Part) :
    exec (.functionReady (.part p)) s = .next (s.modPart p (fun x =>
      { x with fn := x.fn.onReady, sems := if x.fn.st = .enabling then [] else x.sems })) := by
  rw [exec_functionReady, execFunctionReady, inService_next hs]

theorem exec_functionReady_port {u : PortNo} (h : (s.port u).fn.st = .enabling) (ht : (s.port u).trainedOk = true)
    (hn : s.nodeValid = true) :
    exec (.functionReady (.port u)) s = .next (((s.setPortFn u (s.port u).fn.onReady).degraded u).pump u) := by
  rw [exec_functionReady, execFunctionReady, inService_next hs]
  exact congrArg _ ((if_pos h).trans (if_pos (Bool.and_eq_true_iff.2 ⟨ht, hn⟩)))

/-! ### FUNCTION_DRAINED -/

theorem exec_functionDrained_ring {p : Part} {n : RingNo} (h : (s.ring p n).fn.st = .quiescing) :
    exec (.functionDrained (.ring p n)) s = .next (if s.ringDrained p n then s.modRing p n Ring.afterDrain else s) := by
  rw [exec_functionDrained, execFunctionDrained, inService_next hs]
  exact congrArg _ (if_pos h)

/-- A ring that has drained leaves QUIESCING without ERROR, with zero indices where it is enabled again (R539, R551). -/
theorem functionDrained_ring {p : Part} {n : RingNo} (h : (s.ring p n).fn.st = .quiescing) (hd : s.ringDrained p n = true) :
    ∃ t, exec (.functionDrained (.ring p n)) s = .next t ∧
      t = s.modRing p n (fun _ => t.ring p n) ∧ (t.ring p n).error = false ∧ (t.ring p n).fn.latch = false ∧
      ((s.ring p n).fn.latch = false → (t.ring p n).fn.st = .off) ∧
      ((s.ring p n).fn.latch = true → (t.ring p n).fn.st = .enabling ∧ (t.ring p n).pi = 0 ∧ (t.ring p n).ci = 0) := by
  refine ⟨s.modRing p n Ring.afterDrain, by rw [exec_functionDrained_ring hs h, if_pos hd], modRing_eq_replace s p n _, ?_⟩
  rw [ring_modRing_same]
  exact Ring.afterDrain_eq h

theorem exec_functionDrained_part {p : Part} (h : s.partDrained p = true) :
    exec (.functionDrained (.part p)) s = .next (s.modPart p (fun x => { x with fn := x.fn.onDrained })) := by
  rw [exec_functionDrained, execFunctionDrained, inService_next hs]
  exact congrArg _ (if_neg (by simp [h]))

theorem exec_functionDrained_port {u : PortNo} (h : (s.port u).fn.st = .quiescing) (hd : (s.port u).drained = true) :
    exec (.functionDrained (.port u)) s = .next ((s.setPortFn u (s.port u).fn.onDrained).modPort u Port.fresh) := by
  rw [exec_functionDrained, execFunctionDrained, inService_next hs]
  exact congrArg _ ((if_pos h).trans (if_pos hd))

end

/-- A change of a partition depends on it alone. -/
theorem modPart_congr {s : State} {p : Part} {f g : Partition → Partition} (h : f (s.part p) = g (s.part p)) :
    s.modPart p f = s.modPart p g := by
  simp only [State.modPart, h]

/-- Settles O19: each clause is one row of R935, taken by a partition, a ring or a port. -/
theorem readyAndDrainedFollowTheTable : Obligations.ReadyAndDrainedFollowTheTable := by
  intro s hs
  refine ⟨fun p n h hr => functionReady_ring hs h hr, fun p n h hr => ?_, fun p h => ?_, fun p h => ?_,
    fun u h ht hn => exec_functionReady_port hs h ht hn, fun p n h hd => functionDrained_ring hs h hd, fun p n h hd => ?_,
    fun p h hd => ?_, fun u h hd => exec_functionDrained_port hs h hd⟩
  · rw [exec_functionReady_ring hs h, hr]
    rfl
  · rw [exec_functionReady_part hs]
    exact congrArg _ (modPart_congr (by simp only [Fn.onReady_of_enabling h, h, if_true]))
  · rw [exec_functionReady_part hs]
    exact congrArg _ (modPart_congr (by simp [Fn.onReady_of_on h, Fn.noRow, h]))
  · rw [exec_functionDrained_ring hs h, hd]
    rfl
  · rw [exec_functionDrained_part hs hd]
    exact congrArg _ (modPart_congr (by rw [Fn.onDrained_of_quiescing h]))

end Sys2Proof.Machine
end

section
/-! SUPPORT. Uagor ports: training, lane sparing and the loss of a link (R430 to R438, R476, R492). -/

namespace Sys2Proof.Machine

/-! ### Ports by name -/

@[simp] theorem port_modPort_same (s : State) (u : PortNo) (f : Port → Port) : (s.modPort u f).port u = f (s.port u) := by
  simp [State.modPort, State.port, get_eq]

theorem port_modPort_other (s : State) (u v : PortNo) (f : Port → Port) (h : v ≠ u) : (s.modPort u f).port v = s.port v := by
  have : u.val ≠ v.val := fun hh => h (Fin.ext hh.symm)
  simp [State.modPort, State.port, get_eq, this]

/-- A change of a port depends on it alone. -/
theorem modPort_congr {s : State} {u : PortNo} {f g : Port → Port} (h : f (s.port u) = g (s.port u)) :
    s.modPort u f = s.modPort u g := by
  have h : f (s.fabric.ports.get u) = g (s.fabric.ports.get u) := h
  simp only [State.modPort, h]

theorem modPort_id (s : State) (u : PortNo) : s.modPort u (fun p => p) = s := by
  simp [State.modPort, get_eq]

/-- A change of a port is a replacement by the port it gives. -/
theorem modPort_eq_replace (s : State) (u : PortNo) (f : Port → Port) :
    s.modPort u f = s.modPort u (fun _ => (s.modPort u f).port u) :=
  modPort_congr (by rw [port_modPort_same])

/-! ### What the traffic of the fabric leaves unchanged -/

theorem Port.ownFirst_fn {p q : Port} {w : Turns} {tc : Nat} {own : List Packet} {k : Packet}
    (h : p.ownFirst w tc own = some (k, q)) : q.fn = p.fn := by
  unfold Port.ownFirst at h
  dsimp only at h
  split at h <;> obtain ⟨_, _, h⟩ := Option.map_eq_some_iff.1 h <;> cases h <;> rfl

theorem Port.first_fn {p q : Port} {w : Turns} {vc : Nat} {k : Packet} (h : p.first w vc = some (k, q)) : q.fn = p.fn := by
  unfold Port.first at h
  dsimp only at h
  replace h := (Option.filter_eq_some_iff.1 h).1
  split at h
  · next o _ ho =>
    split at h <;> cases h
    · rfl
    · exact Port.ownFirst_fn ho
  · cases h; rfl
  · next o _ ho =>
    cases h
    show o.2.fn = p.fn
    exact Port.ownFirst_fn ho
  · cases h

theorem Port.nextOf_fn {p q : Port} {w : Turns} {tc : Nat} {k : Packet} (h : p.nextOf w tc = some (k, q)) : q.fn = p.fn := by
  unfold Port.nextOf at h
  dsimp only at h
  split at h
  · next hk => cases h; exact Port.first_fn hk
  · exact Port.first_fn h

theorem Port.serve_fn {p q : Port} {w : Turns} {c : Nat} (h : p.serve w = some (c, q)) : q.fn = p.fn := by
  unfold Port.serve at h
  dsimp only at h
  split at h
  · cases h; rfl
  · split at h
    · cases h; rfl
    · split at h
      · cases h; rfl
      · obtain ⟨_, _, h⟩ := Option.map_eq_some_iff.1 h
        cases h; rfl

/-- Sending leaves the function of a port as it is. -/
theorem Port.pump_fn (w : Turns) (n : Nat) (p : Port) : (p.pump w n).fn = p.fn := by
  induction n generalizing p with
  | zero => rfl
  | succ n ih =>
    unfold Port.pump
    split
    · rfl
    · next hq =>
      split
      · rfl
      · next hx =>
        split
        · rfl
        · rw [ih]
          exact (Port.nextOf_fn hx).trans (Port.serve_fn hq)

/-- Two states differ at most in the fabric. -/
def FabricOnly (s t : State) : Prop := t = { s with fabric := t.fabric }

theorem FabricOnly.trans {s t u : State} (h : FabricOnly s t) (g : FabricOnly t u) : FabricOnly s u := by
  unfold FabricOnly at *
  rw [g, h]

theorem FabricOnly.modPort (s : State) (u : PortNo) (f : Port → Port) : FabricOnly s (s.modPort u f) := rfl

/-- Two states differ at most in the fabric, and no port's function differs. -/
structure TrafficOnly (s t : State) : Prop where
  fabric : FabricOnly s t
  fn : ∀ v, (t.port v).fn = (s.port v).fn

theorem TrafficOnly.refl (s : State) : TrafficOnly s s := ⟨rfl, fun _ => rfl⟩

theorem TrafficOnly.trans {s t u : State} (h : TrafficOnly s t) (g : TrafficOnly t u) : TrafficOnly s u :=
  ⟨h.fabric.trans g.fabric, fun v => (g.fn v).trans (h.fn v)⟩

theorem TrafficOnly.foldl {α : Type} {f : State → α → State} (hf : ∀ s a, TrafficOnly s (f s a)) (l : List α) (s : State) :
    TrafficOnly s (l.foldl f s) := by
  induction l generalizing s with
  | nil => exact TrafficOnly.refl s
  | cons a l ih => exact (hf s a).trans (ih _)

theorem TrafficOnly.modPort (s : State) (u : PortNo) {f : Port → Port} (hf : ∀ p, (f p).fn = p.fn) : TrafficOnly s (s.modPort u f) := by
  refine ⟨rfl, fun v => ?_⟩
  by_cases h : v = u
  · subst h
    rw [port_modPort_same, hf]
  · rw [port_modPort_other s u v f h]

theorem TrafficOnly.modFabric (s : State) {f : Fabric → Fabric} (hf : ∀ x, (f x).ports = x.ports) : TrafficOnly s (s.modFabric f) :=
  ⟨rfl, fun v => by simp only [State.port, State.modFabric, hf]⟩

theorem TrafficOnly.pump (s : State) (u : PortNo) : TrafficOnly s (s.pump u) := by
  unfold State.pump
  split
  · exact TrafficOnly.modPort s u (fun p => Port.pump_fn _ _ p)
  · exact TrafficOnly.refl s

theorem TrafficOnly.enqueue (s : State) (u : PortNo) (k : Packet) : TrafficOnly s (s.enqueue u k) := by
  have h := TrafficOnly.modPort s u (f := fun p => { p with out := p.out ++ [{ k with hops := k.hops + 1 }] }) (fun _ => rfl)
  exact h.trans (TrafficOnly.pump _ u)

theorem TrafficOnly.route (s : State) (k : Packet) (from_ : Option PortNo) : TrafficOnly s (s.route k from_) := by
  unfold State.route
  split
  · exact TrafficOnly.enqueue s _ _
  · exact TrafficOnly.refl s

theorem TrafficOnly.resendWaiting (s : State) (dst : Node) : TrafficOnly s (s.resendWaiting dst) := by
  have h := TrafficOnly.modFabric s (f := fun f =>
    { f with held := f.held.map (fun h => if h.pkt.dst = dst then { h with waiting := false } else h) }) (fun _ => rfl)
  exact h.trans (TrafficOnly.foldl (f := fun (s : State) (h : Held) => s.route h.pkt none)
    (fun s h => TrafficOnly.route s h.pkt none) _ _)

theorem TrafficOnly.announceRoutes (s : State) (ds : List (Node × Bool)) : TrafficOnly s (s.announceRoutes ds) := by
  unfold State.announceRoutes
  split
  · exact TrafficOnly.refl s
  · exact TrafficOnly.foldl (fun s u => TrafficOnly.foldl (fun s _ => TrafficOnly.enqueue s u _) _ s) _ s

theorem TrafficOnly.followRoutes (s old : State) : TrafficOnly s (s.followRoutes old) := by
  refine (TrafficOnly.foldl (fun s n => ?_) _ s).trans (TrafficOnly.announceRoutes _ _)
  split
  · have h := TrafficOnly.modFabric s (f := fun f => { f with losing := derase f.losing n.val }) (fun _ => rfl)
    exact h.trans (TrafficOnly.resendWaiting _ n)
  · exact TrafficOnly.modFabric s (fun _ => rfl)

/-! ### The function of a port changes -/

/-- A port that neither was nor becomes ON changes its function, and no route follows. -/
theorem setPortFn_of_notOn {s : State} {u : PortNo} {f : Fn} (hu : (s.port u).fn.st ≠ .on) (hf : f.st ≠ .on) :
    s.setPortFn u f = s.modPort u (fun p => { p with fn := f }) := by
  simp [State.setPortFn, hu, hf]

/-- A change of a port's function changes the fabric alone, and gives the port that function. -/
theorem setPortFn_fabric (s : State) (u : PortNo) (f : Fn) :
    FabricOnly s (s.setPortFn u f) ∧ ((s.setPortFn u f).port u).fn = f := by
  unfold State.setPortFn
  dsimp only
  split
  · exact ⟨rfl, by rw [port_modPort_same]⟩
  · have h := TrafficOnly.followRoutes (s.modPort u (fun p =>
      { p with fn := f, withdrawn := if f.st = .on && p.fn.st ≠ .on then [] else p.withdrawn })) s
    exact ⟨h.fabric, by rw [h.fn, port_modPort_same]⟩

/-! ### A port that is not ON sends nothing that is routed -/

theorem portUsable_on {s : State} {u : PortNo} {dst : Node} (h : s.portUsable u dst = true) : (s.port u).fn.st = .on := by
  unfold State.portUsable at h
  exact of_decide_eq_true (Bool.and_eq_true_iff.1 h).1

theorem usable_on {s : State} {dst : Node} {b : Bool} {u : PortNo} (h : s.usable dst b = some u) : (s.port u).fn.st = .on :=
  portUsable_on (Option.filter_eq_some_iff.1 h).2

theorem choose_on {s : State} {k : Packet} {from_ : Option PortNo} {u : PortNo} {b : Bool} (h : s.choose k from_ = some (u, b)) :
    (s.port u).fn.st = .on := by
  unfold State.choose at h
  split at h
  · next ha hb =>
    split at h
    · cases h; exact usable_on ha
    · dsimp only at h
      split at h <;> cases h
      · exact usable_on hb
      · exact usable_on ha
  · next ha _ => cases h; exact usable_on ha
  · next hb => cases h; exact usable_on hb
  · cases h

theorem port_pump_other (s : State) (u v : PortNo) (h : v ≠ u) : (s.pump u).port v = s.port v := by
  unfold State.pump
  split
  · exact port_modPort_other s u v _ h
  · rfl

/-- Routing a packet leaves a port that is not ON as it is. -/
theorem port_route_of_notOn {s : State} {u : PortNo} (h : (s.port u).fn.st ≠ .on) (k : Packet) (from_ : Option PortNo) :
    (s.route k from_).port u = s.port u := by
  unfold State.route
  split
  · next v b hv =>
    have hne : u ≠ v := fun e => h (e ▸ choose_on hv)
    exact (port_pump_other _ v u hne).trans (port_modPort_other s v u _ hne)
  · rfl

/-- So does routing one packet after another. -/
theorem port_foldl_route_of_notOn {u : PortNo} (g : Packet → Packet) (ks : List Packet) {s : State} (h : (s.port u).fn.st ≠ .on) :
    (ks.foldl (fun s k => s.route (g k) none) s).port u = s.port u := by
  induction ks generalizing s with
  | nil => rfl
  | cons k ks ih =>
    have hk := port_route_of_notOn h (g k) none
    exact (ih (by rw [hk]; exact h)).trans hk

/-! ### A port goes down -/

theorem Fn.onFailure_of_on {f : Fn} (h : f.st = .on) : f.onFailure = { f with st := .enabling, latch := false } := by
  simp [Fn.onFailure, h]

/-- A port that is not ON takes the row of R935 for a failure, and nothing more happens. -/
theorem portDown_of_notOn {s : State} {u : PortNo} (h : (s.port u).fn.st ≠ .on) :
    s.portDown u = s.modPort u (fun p => { p with fn := p.fn.onFailure }) := by
  have hf : (s.port u).fn.onFailure.st ≠ .on := by
    unfold Fn.onFailure
    split <;> simp_all [Fn.noRow]
  unfold State.portDown
  rw [if_pos h, setPortFn_of_notOn h hf]
  exact modPort_congr rfl

/-- The state once an ON port has gone down and its packets have been routed again, before the event of it. -/
def State.linkLost (s : State) (u : PortNo) : State :=
  (s.port u).out.foldl (fun s k => s.route { k with hops := k.hops - 1 } none)
    ((s.setPortFn u (s.port u).fn.onFailure).modPort u Port.fresh)

theorem portDown_of_on {s : State} {u : PortNo} (h : (s.port u).fn.st = .on) :
    s.portDown u = (s.linkLost u).raisePackage evLinkDown u.val := by
  unfold State.portDown
  rw [if_neg (by simp [h])]
  rfl

theorem linkLost_fabric (s : State) (u : PortNo) : FabricOnly s (s.linkLost u) :=
  ((setPortFn_fabric s u _).1.trans (FabricOnly.modPort _ u Port.fresh)).trans
    (TrafficOnly.foldl (f := fun (s : State) (k : Packet) => s.route { k with hops := k.hops - 1 } none)
      (fun s _ => TrafficOnly.route s _ none) _ _).fabric

/-- The port that went down holds what a fresh one holds; what is routed again leaves by other ports. -/
theorem linkLost_port {s : State} {u : PortNo} (h : (s.port u).fn.st = .on) :
    (s.linkLost u).port u = ((s.setPortFn u (s.port u).fn.onFailure).port u).fresh ∧
    ((s.linkLost u).port u).fn.st = .enabling := by
  have hfn : (((s.setPortFn u (s.port u).fn.onFailure).modPort u Port.fresh).port u).fn.st = .enabling := by
    rw [port_modPort_same]
    show ((s.setPortFn u (s.port u).fn.onFailure).port u).fn.st = .enabling
    rw [(setPortFn_fabric s u _).2, Fn.onFailure_of_on h]
  have hp : (s.linkLost u).port u = ((s.setPortFn u (s.port u).fn.onFailure).modPort u Port.fresh).port u :=
    port_foldl_route_of_notOn (fun k => { k with hops := k.hops - 1 }) (s.port u).out (by rw [hfn]; simp)
  exact ⟨hp.trans (port_modPort_same _ u _), hp ▸ hfn⟩

theorem EventsOnly.fabric {s t : State} (h : EventsOnly s t) : t.fabric = s.fabric := (congrArg State.fabric h.1 :)

/-! ### Training -/

theorem length_eraseDups_le {α : Type} [BEq α] (l : List α) : l.eraseDups.length ≤ l.length := by
  induction hn : l.length using Nat.strong_induction_on generalizing l with
  | _ n ih =>
    cases l with
    | nil => simp
    | cons a l =>
      rw [List.eraseDups_cons, List.length_cons]
      have hf := List.length_filter_le (fun b => !b == a) l
      rw [List.length_cons] at hn
      have := ih _ (by omega) (l.filter (fun b => !b == a)) rfl
      omega

/-- The lanes that train at a rate and may be used. -/
def lanesAt (t : Training) (usable : Nat → Bool) (q : Nat) : List Nat := ((t.byRate.getD q []).filter usable).eraseDups

theorem lanesAt_length_le (t : Training) (usable : Nat → Bool) (q : Nat) :
    (lanesAt t usable q).length ≤ (t.byRate.getD q []).length :=
  (length_eraseDups_le _).trans (List.length_filter_le _ _)

/-- The first rate from `top` on at which `n` lanes may be used. -/
def firstRate (t : Training) (top : Nat) (usable : Nat → Bool) (n : Nat) : Option Nat :=
  (List.range 3).find? (fun q => decide (top ≤ q) && decide (n ≤ (lanesAt t usable q).length))

theorem chooseRate_eq (t : Training) (top : Nat) (usable : Nat → Bool) :
    chooseRate t top usable =
      ((firstRate t top usable 8).or (firstRate t top usable 4)).map (fun q => (q, lanesAt t usable q)) := by
  have hfind (n : Nat) :
      ((((List.range 3).filter (fun r => decide (top ≤ r))).map (fun r => (r, lanesAt t usable r))).find?
        (fun x => decide (n ≤ x.2.length))) = (firstRate t top usable n).map (fun q => (q, lanesAt t usable q)) := by
    rw [List.find?_map, List.find?_filter]
    simp [firstRate]
  unfold chooseRate
  rw [Option.map_or, ← hfind, ← hfind]
  rfl

/-- Where fewer than four lanes train at every rate, none is chosen. -/
theorem chooseRate_none {t : Training} (h : ∀ l ∈ t.byRate, l.length < 4) (top : Nat) (usable : Nat → Bool) :
    chooseRate t top usable = none := by
  have hlen (q : Nat) : (lanesAt t usable q).length < 4 := by
    refine lt_of_le_of_lt (lanesAt_length_le t usable q) ?_
    by_cases hq : q < t.byRate.length
    · rw [List.getD_eq_getElem _ _ hq]
      exact h _ (List.getElem_mem hq)
    · rw [List.getD_eq_default _ _ (by omega)]
      simp
  have hnone (n : Nat) (hn : 4 ≤ n) : firstRate t top usable n = none := by
    refine List.find?_eq_none.2 fun q _ => ?_
    have := hlen q
    simp only [Bool.and_eq_true, decide_eq_true_eq]
    omega
  rw [chooseRate_eq, hnone 8 (by omega), hnone 4 (by omega)]
  rfl

/-- The first rate from `top` on at which eight lanes may be used is chosen. -/
theorem chooseRate_of_eight {t : Training} {top rate : Nat} {usable : Nat → Bool} (hr : rate ≤ 2) (ht : top ≤ rate)
    (h8 : 8 ≤ (lanesAt t usable rate).length) (hless : ∀ q, top ≤ q → q < rate → (t.byRate.getD q []).length < 8) :
    chooseRate t top usable = some (rate, lanesAt t usable rate) := by
  have hfirst : firstRate t top usable 8 = some rate := by
    refine List.find?_range_eq_some.2 ⟨by simp [ht, h8], List.mem_range.2 (by omega), fun q hq => ?_⟩
    by_cases hq' : top ≤ q
    · have := lt_of_le_of_lt (lanesAt_length_le t usable q) (hless q hq' hq)
      simp [hq', this]
    · simp [hq']
  rw [chooseRate_eq, hfirst]
  rfl

/-- The physical lanes that port `u` may train. -/
def State.laneUsable (s : State) (u : PortNo) (l : Nat) : Bool := decide (l < 9) && !s.repair.retired (.lane u.val l)

theorem lanesAt_nine {s : State} {u : PortNo} {t : Training} {rate : Nat} (h : t.byRate.getD rate [] = List.range 9)
    (hl : ∀ l < 9, s.repair.retired (.lane u.val l) = false) : lanesAt t (s.laneUsable u) rate = List.range 9 := by
  have hf : (List.range 9).filter (s.laneUsable u) = List.range 9 :=
    List.filter_eq_self.2 fun l hm => by
      have hlt := List.mem_range.1 hm
      simp [State.laneUsable, hlt, hl l hlt]
  rw [lanesAt, h, hf]
  decide

/-! ### The rows of a port -/

theorem exec_portTrained (u : PortNo) (x : Training) (s : State) : exec (.portTrained u x) s = execPortTrained u x s := rfl
theorem exec_portRetrainTimer (u : PortNo) (s : State) : exec (.portRetrainTimer u) s = execPortRetrainTimer u s := rfl
theorem exec_laneSpared (u : PortNo) (l : Fin 9) (s : State) : exec (.laneSpared u l) s = execLaneSpared u l s := rfl
theorem exec_linkDown (u : PortNo) (s : State) : exec (.linkDown u) s = execLinkDown u s := rfl

/-- The port after all nine lanes have trained at a rate: it runs on the first eight. -/
def Port.trainedOnEight (p : Port) (rate : Nat) (n self : Node) : Port :=
  { p.fresh with
    rate := rate, width4 := false, lanes := List.range 8, trained := List.range 9, spareUsed := false, sparedLane := 0,
    neighbour := n, nbValid := decide (n ≠ self), dupId := decide (n = self), rxBytes := [] }

section
variable {s : State} {u : PortNo} (hs : s.serving)
include hs

/-- A port that is not ENABLING does not train. -/
theorem portTrained_of_not_enabling (x : Training) (h : (s.port u).fn.st ≠ .enabling) : exec (.portTrained u x) s = .next s := by
  rw [exec_portTrained, execPortTrained, inService_next hs]
  dsimp only
  split
  · rfl
  · rw [if_pos (by simp [h])]

/-- A port on which no rate trains stays as it is. -/
theorem portTrained_of_no_rate (x : Training) (h : ∀ l ∈ x.byRate, l.length < 4) : exec (.portTrained u x) s = .next s := by
  rw [exec_portTrained, execPortTrained, inService_next hs, chooseRate_none h]

/-- A port whose nine lanes train at a rate runs on the first eight. -/
theorem portTrained_nine {x : Training} {n : Node} {rate : Nat} (hu : (s.port u).fn.st = .enabling) (hn : s.nodeValid = true)
    (hr : rate ≤ 2) (ht : s.regBits .uagPortCtrl u.val 1 2 ≤ rate) (h9 : x.byRate.getD rate [] = List.range 9)
    (hless : ∀ q, s.regBits .uagPortCtrl u.val 1 2 ≤ q → q < rate → (x.byRate.getD q []).length < 8)
    (hl : ∀ l < 9, s.repair.retired (.lane u.val l) = false) (hid : x.identity = some n) :
    exec (.portTrained u x) s = .next (s.modPort u (fun p => p.trainedOnEight rate n s.self)) := by
  have hlanes := lanesAt_nine h9 hl
  have hc := chooseRate_of_eight (usable := s.laneUsable u) hr ht (by rw [hlanes]; decide) hless
  rw [hlanes] at hc
  have hlog : logicalLanes (List.range 9) = List.range 8 := by decide
  rw [exec_portTrained, execPortTrained, inService_next hs]
  unfold State.laneUsable at hc
  dsimp only
  rw [hc]
  simp [hu, hn, hlog, hid, Port.trainedOnEight]

/-- The timer of a port on which no rate trained begins another attempt (R430). -/
theorem portRetrainTimer_untrained (hu : (s.port u).fn.st = .enabling) (hl : (s.port u).lanes = []) :
    exec (.portRetrainTimer u) s = .next (s.modPort u (fun p => { p with nbValid := false, dupId := false, trained := [] })) := by
  rw [exec_portRetrainTimer, execPortRetrainTimer, inService_next hs]
  simp [hu, hl]

/-- A lane that the port does not use fails without effect. -/
theorem laneSpared_of_unused {lane : Fin 9} (h : (s.port u).lanes.contains lane.val = false) :
    exec (.laneSpared u lane) s = .next s := by
  rw [exec_laneSpared, execLaneSpared, inService_next hs]
  unfold State.laneFails
  rw [if_pos (by rw [h]; simp)]

/-- A lane that the spare has replaced is tested (R436, R437). -/
theorem laneSpared_of_substituted {lane : Fin 9} (hu : (s.port u).fn.st = .on) (hc : (s.port u).lanes.contains lane.val = true)
    (hsub : ((s.substituteLane u lane.val).port u).lanes.contains lane.val = false) :
    exec (.laneSpared u lane) s = .next ((s.substituteLane u lane.val).startTest (.lane u.val lane.val)) := by
  rw [exec_laneSpared, execLaneSpared, inService_next hs]
  unfold State.laneFails
  rw [if_neg (by rw [hu, hc]; simp)]
  dsimp only
  rw [if_neg (by rw [hsub]; simp)]

theorem exec_linkDown_next : exec (.linkDown u) s = .next (s.portDown u) := by
  rw [exec_linkDown, execLinkDown, inService_next hs]

/-- An ON port whose neighbour goes silent discards what it held and trains again; beside the fabric only events follow (R492). -/
theorem linkDown_of_on (hu : (s.port u).fn.st = .on) :
    ∃ t, exec (.linkDown u) s = .next t ∧ EventsOnly { s with fabric := t.fabric } t ∧
      (t.port u).fn.st = .enabling ∧ (t.port u).retry = [] ∧ (t.port u).out = [] ∧ (t.port u).lanes = [] := by
  have he := EventsOnly.raisePackage (s.linkLost u) evLinkDown u.val 0
  have hp : ((s.linkLost u).raisePackage evLinkDown u.val).port u = (s.linkLost u).port u := by simp only [State.port, he.fabric]
  obtain ⟨hfresh, hst⟩ := linkLost_port hu
  refine ⟨_, by rw [exec_linkDown_next hs, portDown_of_on hu], ?_, ?_⟩
  · rw [he.fabric, ← linkLost_fabric s u]
    exact he
  · rw [hp]
    exact ⟨hst, by rw [hfresh]; exact ⟨rfl, rfl, rfl⟩⟩

/-- A port that is not ON takes the row of R935 for a failure. -/
theorem linkDown_of_notOn (hu : (s.port u).fn.st ≠ .on) :
    exec (.linkDown u) s = .next (s.modPort u (fun p => { p with fn := p.fn.onFailure })) := by
  rw [exec_linkDown_next hs, portDown_of_notOn hu]

end

theorem Fn.onFailure_of_enabling {f : Fn} (h : f.st = .enabling) : f.onFailure = f := by
  simp [Fn.onFailure, h]

theorem Fn.onFailure_of_down {f : Fn} (h : f.st = .off ∨ f.st = .quiescing) : f.onFailure = f.noRow := by
  rcases h with h | h <;> simp [Fn.onFailure, h]

/-- Settles O22: training, sparing and loss of a port, row by row. -/
theorem portTrainingSparingAndLoss : Obligations.PortTrainingSparingAndLoss := by
  intro u s hs
  refine ⟨fun x h => portTrained_of_not_enabling hs x h, fun x h => portTrained_of_no_rate hs x h, ?_,
    fun hu hl => portRetrainTimer_untrained hs hu hl, fun lane h => laneSpared_of_unused hs h,
    fun lane hu hc hsub => laneSpared_of_substituted hs hu hc hsub, fun hu => linkDown_of_on hs hu, fun hu => ?_, fun hu => ?_⟩
  · intro x n rate hu hn hr ht h9 hless hl hid
    refine ⟨_, portTrained_nine hs hu hn hr ht h9 hless hl hid, modPort_eq_replace s u _, ?_⟩
    rw [port_modPort_same]
    exact ⟨rfl, rfl, rfl, rfl, rfl, rfl, rfl, rfl, rfl, rfl, rfl⟩
  · rw [linkDown_of_notOn hs (by simp [hu])]
    exact congrArg _ ((modPort_congr (by rw [Fn.onFailure_of_enabling hu])).trans (modPort_id s u))
  · rw [linkDown_of_notOn hs (by rcases hu with h | h <;> simp [h])]
    exact congrArg _ (modPort_congr (by rw [Fn.onFailure_of_down hu]; rfl))

end Sys2Proof.Machine
end

section
/-! SUPPORT. Accesses through BAR0 and BAR2: where a read or write lands, what it leaves, and the aperture into the DPA
space (R13, R237, R253, R514 to R520). -/

namespace Sys2Proof.Machine

/-! ### Accesses of BAR0 in service -/

theorem exec_bar0BadAccess (f : Func) (w : Bool) (s : State) : exec (.bar0BadAccess f w) s = execBar0BadAccess f w s := rfl
theorem exec_rcCounterRead (f : Func) (off size : Nat) (s : State) :
    exec (.rcCounterRead f off size) s = execRcCounterRead f off size s := rfl
theorem exec_registerWrite (f : Func) (off size : Nat) (v : W64) (go : GoIn) (s : State) :
    exec (.registerWrite f off size v go) s = execRegisterWrite f off size v go s := rfl
theorem exec_bar2Write (off : Nat) (bytes : List Byte) (s : State) : exec (.bar2Write off bytes) s = execBar2Write off bytes s := rfl
theorem exec_bar2Read (off len : Nat) (ue : Option Nat) (s : State) : exec (.bar2Read off len ue) s = execBar2Read off len ue s := rfl

theorem phase_of_serving {s : State} (hs : s.serving) : s.boot.phase = .ready := hs.1

theorem landsTaken_of_serving {s : State} (hs : s.serving) : s.boot.landsTaken = false := hs.2.1

theorem bar0On_of_serving {s : State} (hs : s.serving) : s.bar0On = true := by
  simp [State.bar0On, phase_of_serving hs]

/-- In service the test that leaves a silent BAR0 unchanged fails. -/
theorem not_bar0Off {s : State} (hs : s.serving) : ¬ (!s.bar0On) = true := by
  simp [bar0On_of_serving hs]

section
variable {s : State} (hs : s.serving)
include hs

theorem bar0BadAccess_next (f : Func) (w : Bool) : exec (.bar0BadAccess f w) s = .next (s.refuseAccess w) := by
  rw [exec_bar0BadAccess, execBar0BadAccess, served_next (landsTaken_of_serving hs), if_pos (bar0On_of_serving hs)]

theorem rcCounterRead_refused {off size : Nat} (f : Func) (h : badAccess off size = true) :
    exec (.rcCounterRead f off size) s = .next (s.refuseAccess false) := by
  rw [exec_rcCounterRead, execRcCounterRead, served_next (landsTaken_of_serving hs), if_neg (not_bar0Off hs), if_pos h]

theorem registerWrite_refused {off size : Nat} (f : Func) (v : W64) (go : GoIn) (h : badAccess off size = true) :
    exec (.registerWrite f off size v go) s = .next (s.refuseAccess true) := by
  rw [exec_registerWrite, execRegisterWrite, served_next (landsTaken_of_serving hs), if_neg (not_bar0Off hs), if_pos h]

/-- A read of legal size and alignment answers with what `readBar0` finds. -/
theorem rcCounterRead_served {off size : Nat} (f : Func) (h : badAccess off size = false) :
    exec (.rcCounterRead f off size) s = .next { (s.readBar0 f off size).2 with
      host := { (s.readBar0 f off size).2.host with bar0Data := BitVec.ofNat 64 (s.readBar0 f off size).1 } } := by
  rw [exec_rcCounterRead, execRcCounterRead, served_next (landsTaken_of_serving hs), if_neg (not_bar0Off hs), if_neg (by simp [h])]

/-- A write of legal size and alignment does what `writeBar0` says. -/
theorem registerWrite_served {off size : Nat} (f : Func) (v : W64) (go : GoIn) (h : badAccess off size = false) :
    exec (.registerWrite f off size v go) s = .next (s.writeBar0 f off size v.toNat go) := by
  rw [exec_registerWrite, execRegisterWrite, served_next (landsTaken_of_serving hs), if_neg (not_bar0Off hs), if_neg (by simp [h])]

end

/-! ### Reads -/

theorem clearCounter_of_not_dbg {n : RegName} (h1 : n ≠ .tileDbgSamerow) (h2 : n ≠ .tileDbgHold) (s : State) (i : Nat) :
    s.clearCounter n i = s.clearReg n i := by
  unfold State.clearCounter
  split
  · exact absurd rfl h1
  · exact absurd rfl h2
  · rfl

/-- A 4-byte read of a counter of 4 bytes shows it and clears it (R13). -/
theorem readBar0_counter {s : State} {f : Func} {off i : Nat} {r : RegRow} (hu : s.unitAt f off false = .reg r i 0)
    (hrc : r.isRc = true) (h4 : r.bytes = 4) (h1 : r.name ≠ .tileDbgSamerow) (h2 : r.name ≠ .tileDbgHold) :
    s.readBar0 f off 4 = (s.view r.name i % 2 ^ 32, s.clearReg r.name i) := by
  simp only [State.readBar0, hu, if_true, State.readUnit, hrc, h4, clearCounter_of_not_dbg h1 h2]

/-- An 8-byte read of a register of 8 bytes that no read clears shows it and changes nothing (R17). -/
theorem readBar0_whole {s : State} {f : Func} {off i : Nat} {r : RegRow} (hu : s.unitAt f off false = .reg r i 0)
    (hrc : r.isRc = false) (h8 : r.bytes = 8) : s.readBar0 f off 8 = (s.view r.name i, s) := by
  simp [State.readBar0, hu, hrc, h8]

/-! ### Writes -/

theorem writeBar0_four (s : State) (f : Func) (off value : Nat) (go : GoIn) :
    s.writeBar0 f off 4 value go = s.writeUnit (s.unitAt f off true) 4 (value % 2 ^ 32) go := by
  simp [State.writeBar0]

/-- Bit 0 of a 32-bit value, as the model reads it. -/
theorem bitOf_raw_zero (v : W64) : bitOf (setBits 0 (8 * 0) (8 * 4) (v.toNat % 2 ^ 32)) 0 = v.getLsbD 0 := by
  have h : v.getLsbD 0 = decide (v.toNat % 2 = 1) := by
    rw [BitVec.getLsbD, Nat.testBit_zero]
  rw [h]
  simp only [bitOf, setBits]
  congr 1
  rw [eq_iff_iff]
  omega

/-- A write that sets GO of SPR_MAP_CTRL loads the map (R867). -/
theorem writeGo_mapLoad {s : State} {raw : Nat} {go : GoIn} (h : bitOf raw 0 = true) :
    s.writeGo .sprMapCtrl raw go = s.sprMapLoad go.data := by
  simp [State.writeGo, h]

theorem writeGo_glbResetCfg (s : State) (raw : Nat) (go : GoIn) : s.writeGo .glbResetCfg raw go = s := by
  simp [State.writeGo]

/-! ### GLB_RESET_CFG -/

theorem unitAt_glbResetCfg {s : State} (hs : s.serving) : s.unitAt .pf 0x010020 true = .reg (regRow .glbResetCfg) 0 0 := by
  have h : s.unitAt .pf 0x010020 true = pfUnit 0x010020 := by
    simp [State.unitAt, phase_of_serving hs]
  exact h.trans rfl

/-- What a write of GLB_RESET_CFG makes of its old value: its two bits are the value's (R7, R922). -/
def resetCfgAfter (old value : Nat) : Nat :=
  (regRow .glbResetCfg).merge old (setBits old (8 * 0) (8 * 4) value)

theorem merge_glbResetCfg (old new : Nat) :
    (regRow .glbResetCfg).merge old new = setBits (setBits old 0 1 (bitsOf new 0 1)) 1 1 (bitsOf new 1 1) := rfl

theorem resetCfgAfter_bits (old value : Nat) : bitsOf (resetCfgAfter old (value % 2 ^ 32)) 0 2 = value % 4 := by
  rw [resetCfgAfter, merge_glbResetCfg]
  simp only [bitsOf, setBits]
  omega

theorem writeRegister_glbResetCfg (s : State) (value : Nat) :
    s.writeRegister (regRow .glbResetCfg) 0 0 4 value =
      if resetCfgAfter (s.reg .glbResetCfg) value = s.reg .glbResetCfg then s
      else s.setReg .glbResetCfg 0 (resetCfgAfter (s.reg .glbResetCfg) value) := rfl

/-- A write of GLB_RESET_CFG sets its two bits and no other register (R922). -/
theorem registerWrite_glbResetCfg {s : State} (hs : s.serving) (v : W64) (go : GoIn) :
    ∃ t, exec (.registerWrite .pf 0x010020 4 v go) s = .next t ∧ t = { s with regs := t.regs } ∧
      bitsOf (t.reg .glbResetCfg) 0 2 = v.toNat % 4 ∧ ∀ n i, i < 65536 → n ≠ .glbResetCfg → t.reg n i = s.reg n i := by
  have hbits := resetCfgAfter_bits (s.reg .glbResetCfg) v.toNat
  refine ⟨s.writeRegister (regRow .glbResetCfg) 0 0 4 (v.toNat % 2 ^ 32), ?_, ?_⟩
  · rw [registerWrite_served hs .pf v go rfl, writeBar0_four, unitAt_glbResetCfg hs]
    exact congrArg _ (writeGo_glbResetCfg _ _ go)
  · rw [writeRegister_glbResetCfg]
    split
    · next hsame => exact ⟨rfl, hsame ▸ hbits, fun _ _ _ _ => rfl⟩
    · refine ⟨rfl, ?_, fun n i hi hn => reg_setReg_other s _ n 0 i _ (by omega) hi (fun h => hn h.1)⟩
      rw [reg_setReg_same, ← hbits]
      simp only [bitsOf]
      omega

/-! ### The DPA space under a write -/

/-- Two states differ at most in the page copies under way. -/
def CopiesOnly (s t : State) : Prop := ∃ cs, t = { s with repair := { s.repair with copies := cs } }

theorem CopiesOnly.refl (s : State) : CopiesOnly s s := ⟨s.repair.copies, rfl⟩

theorem CopiesOnly.noteWrite {s u : State} (h : CopiesOnly s u) (x : Nat) :
    CopiesOnly s { u with repair := u.repair.noteWrite x } := by
  obtain ⟨cs, rfl⟩ := h
  exact ⟨_, rfl⟩

/-- Noting held writes changes the page copies alone. -/
theorem CopiesOnly.noteWrites (s : State) (a n : Nat) : CopiesOnly s (s.noteWrites a n) := by
  unfold State.noteWrites
  split
  · exact CopiesOnly.refl s
  · refine List.foldlRecOn (motive := CopiesOnly s) _ _ (CopiesOnly.refl s) fun u hu i _ => ?_
    split
    · split
      · exact hu.noteWrite _
      · exact hu
    · exact hu

theorem noteWrites_of_no_copies {s : State} (h : s.repair.copies = []) (a n : Nat) : s.noteWrites a n = s := by
  simp [State.noteWrites, h]

theorem CopiesOnly.place {s t : State} (h : CopiesOnly s t) (a : Nat) : t.place a = s.place a := by
  obtain ⟨cs, rfl⟩ := h
  rfl

theorem CopiesOnly.withdrawnDpa {s t : State} (h : CopiesOnly s t) (a : Nat) : t.withdrawnDpa a = s.withdrawnDpa a := by
  obtain ⟨cs, rfl⟩ := h
  rfl

theorem CopiesOnly.eq {s t : State} (h : CopiesOnly s t) : t = { s with repair := t.repair } := by
  obtain ⟨cs, rfl⟩ := h
  rfl

theorem withdrawnDpa_writePlace (s : State) (x : Nat) (b : Byte) (a : Nat) :
    (s.writePlace x b).withdrawnDpa a = s.withdrawnDpa a := rfl

theorem granulesOf_one (a : Nat) : granulesOf a 1 = [a] := by
  have h : (a % 4096 + 1 + 4095) / 4096 = 1 := by omega
  simp only [granulesOf, h]
  simp
  omega

/-- A byte written where a DPA is mapped and not withdrawn goes to its place (R237, R518). -/
theorem writeDpa_one {s : State} {a x : Nat} (b : Byte) (hx : s.place a = some x) (hw : s.withdrawnDpa a = false) :
    s.writeDpa a [b] = (s.noteWrites a 1).writePlace x b := by
  have hn := CopiesOnly.noteWrites s a 1
  simp only [State.writeDpa, List.length_singleton, granulesOf_one, List.zipIdx_singleton, List.foldl_cons, List.foldl_nil,
    Nat.add_zero, hn.place, hx, hn.withdrawnDpa, hw, withdrawnDpa_writePlace, Bool.and_false, Bool.false_eq_true, if_false]

section
variable {s : State} (hs : s.serving)
include hs

/-- A write of a byte through BAR2 writes it at its place, and notes it where its page is being copied (R253). -/
theorem bar2Write_byte {off x : Nat} (b : Byte) (hx : s.place (s.bar2Dpa off) = some x)
    (hw : s.withdrawnDpa (s.bar2Dpa off) = false) :
    ∃ t, exec (.bar2Write off [b]) s = .next t ∧ t = { s with mem := s.mem.write x b, repair := t.repair } ∧
      (s.repair.copies = [] → t.repair = s.repair) := by
  have hm : s.mapped (s.bar2Dpa off) [b].length = true := by
    simp [State.mapped, hx]
  refine ⟨(s.noteWrites (s.bar2Dpa off) 1).writePlace x b, ?_, ?_, fun h0 => ?_⟩
  · rw [exec_bar2Write, execBar2Write, inService_next hs, if_pos hm, writeDpa_one b hx hw]
  · rw [(CopiesOnly.noteWrites s (s.bar2Dpa off) 1).eq]
    rfl
  · rw [noteWrites_of_no_copies h0]
    rfl

theorem bar2Write_unmapped {off : Nat} {bytes : List Byte} (h : s.mapped (s.bar2Dpa off) bytes.length = false) :
    exec (.bar2Write off bytes) s = .next s := by
  rw [exec_bar2Write, execBar2Write, inService_next hs, if_neg (by simp [h])]

end

/-! ### Uncorrectable reads leave memory -/

theorem recordUe_mem (s : State) (a : Nat) : (s.recordUe a).mem = s.mem := by
  unfold State.recordUe
  dsimp only
  split <;> split <;> rfl

/-- Whatever branch is taken, starting a test touches the repair state, a tile or a count, never memory. -/
theorem startTest_mem (s : State) (part : PartId) (counted : Option Nat) : (s.startTest part counted).mem = s.mem := by
  unfold State.startTest
  dsimp only
  repeat' split
  all_goals rfl

theorem uncorrectable_mem (s : State) (a : Nat) : (s.uncorrectable a).mem = s.mem := by
  rw [← recordUe_mem s a]
  unfold State.uncorrectable State.testOfDpa
  split
  · split
    · rfl
    · split <;> exact startTest_mem _ _ _
  · rfl

section
variable {s : State} (hs : s.serving)
include hs

theorem bar2Read_held {off len : Nat} (ue : Option Nat) (h : s.heldAt (s.bar2Dpa off) len = true) :
    exec (.bar2Read off len ue) s = .next s := by
  rw [exec_bar2Read, execBar2Read, served_next (landsTaken_of_serving hs), if_pos (phase_of_serving hs), if_pos h]

theorem bar2Read_unmapped {off len : Nat} (ue : Option Nat) (h : s.heldAt (s.bar2Dpa off) len = false)
    (hm : s.mapped (s.bar2Dpa off) len = false) :
    exec (.bar2Read off len ue) s = .next { s with host := { s.host with bar2 := .abort } } := by
  rw [exec_bar2Read, execBar2Read, served_next (landsTaken_of_serving hs), if_pos (phase_of_serving hs),
    if_neg (by simp [h]), if_pos (by simp [hm])]

theorem bar2Read_data {off len : Nat} {ue : Option Nat} (h : s.heldAt (s.bar2Dpa off) len = false)
    (hm : s.mapped (s.bar2Dpa off) len = true) (hb : s.badByte (s.bar2Dpa off) len ue = none) :
    exec (.bar2Read off len ue) s =
      .next { s with host := { s.host with bar2 := .data (s.readDpa (s.bar2Dpa off) len) } } := by
  rw [exec_bar2Read, execBar2Read, served_next (landsTaken_of_serving hs), if_pos (phase_of_serving hs),
    if_neg (by simp [h]), if_neg (by simp [hm]), hb]

theorem bar2Read_bad {off len x : Nat} {ue : Option Nat} (h : s.heldAt (s.bar2Dpa off) len = false)
    (hm : s.mapped (s.bar2Dpa off) len = true) (hb : s.badByte (s.bar2Dpa off) len ue = some x) :
    ∃ t, exec (.bar2Read off len ue) s = .next t ∧ t.host.bar2 = .abort ∧ t.mem = s.mem := by
  refine ⟨{ s.uncorrectable x with host := { (s.uncorrectable x).host with bar2 := .abort } }, ?_, rfl, uncorrectable_mem s x⟩
  rw [exec_bar2Read, execBar2Read, served_next (landsTaken_of_serving hs), if_pos (phase_of_serving hs),
    if_neg (by simp [h]), if_neg (by simp [hm]), hb]

end

/-- Settles O20: accesses of BAR0 by the unit they reach, and of BAR2 by what the DPA space holds there. -/
theorem barAccesses : Obligations.BarAccesses := by
  intro s hs
  refine ⟨fun f w => ?_, fun f off size h => ⟨rcCounterRead_refused hs f h, fun v go => registerWrite_refused hs f v go h⟩,
    fun f off r i h hu hrc h4 h1 h2 => ?_, fun f off r i h hu hrc h8 => ?_, fun f off v go h hu => ?_,
    fun f off i v go h hu hgo => ?_, fun v go => registerWrite_glbResetCfg hs v go, fun off bytes h => bar2Write_unmapped hs h,
    fun off b x hx hw => bar2Write_byte hs b hx hw, fun off len ue => ⟨fun h => bar2Read_held hs ue h, fun h =>
      ⟨fun hm => bar2Read_unmapped hs ue h hm, fun hm => ⟨fun hb => bar2Read_data hs h hm hb, fun x hb => bar2Read_bad hs h hm hb⟩⟩⟩⟩
  · rw [bar0BadAccess_next hs]
    cases w <;> rfl
  · rw [rcCounterRead_served hs f h, readBar0_counter hu hrc h4 h1 h2]
    rfl
  · rw [rcCounterRead_served hs f h, readBar0_whole hu hrc h8]
  · rw [registerWrite_served hs f v go h, writeBar0_four, hu]
    rfl
  · rw [registerWrite_served hs f v go h, writeBar0_four, hu]
    exact congrArg _ (writeGo_mapLoad ((bitOf_raw_zero v).trans hgo))

end Sys2Proof.Machine
end

section
/-! SUPPORT. How power-up ends: what BIST retires, and READY (R35, R36, R917 to R926). -/

namespace Sys2Proof.Machine

theorem EventsOnly.boot {s t : State} (h : EventsOnly s t) : t.boot = s.boot := (congrArg State.boot h.1 :)

/-! ### A part retired without an event leaves every register -/

/-- A fold of steps that leave the registers leaves them. -/
theorem foldl_regs {α : Type} {f : State → α → State} {l : List α} (hf : ∀ a ∈ l, ∀ u, (f u a).regs = u.regs) (s : State) :
    (l.foldl f s).regs = s.regs :=
  List.foldlRecOn (motive := fun u => u.regs = s.regs) l f rfl fun u hu a ha => (hf a ha u).trans hu

@[simp] theorem openPad_regs (s : State) (n : Nat) : (s.openPad n).regs = s.regs := rfl

@[simp] theorem retireSite_regs (s : State) (i : Nat) : (s.retireSite i).regs = s.regs := by
  unfold State.retireSite
  dsimp only
  split
  · rfl
  · split <;> rfl

@[simp] theorem loseContents_regs (s : State) (h c : Nat) : (s.loseContents h c).regs = s.regs := by
  unfold State.loseContents
  dsimp only
  rw [foldl_regs fun _ _ u => State.openPlaces_regs u _ _]
  split
  · rfl
  · exact foldl_regs (fun _ _ u => State.openPlaces_regs u _ _) s

@[simp] theorem raiseIf_false (s : State) (code : W16) (subject arg : Nat) : s.raiseIf false code subject arg = s := rfl

/-- At power-up a part is retired without an event, and no register changes; a converter alone lowers the power limit. -/
theorem retirePart_regs (s : State) {part : PartId} (h : ∀ i, part ≠ .conv i) : (s.retirePart part false).regs = s.regs := by
  unfold State.retirePart
  split
  · rfl
  · cases part with
    | tile x y => simp
    | row x y b w =>
      dsimp only
      split <;> simp
    | page h c p => rfl
    | chan h c => simp
    | granule i => rfl
    | lane u l =>
      dsimp only
      split <;> rfl
    | core c =>
      dsimp only
      split <;> simp
    | sm3 l =>
      dsimp only
      split
      · split <;> simp
      · rfl
    | conv i => exact absurd rfl (h i)

theorem absorbSites_regs (s : State) (b : Bist) : (s.absorbSites b).regs = s.regs := by
  refine foldl_regs (fun part hp u => retirePart_regs u fun i hi => ?_) _
  simp [hi] at hp

theorem absorbBist_regs (s : State) (b : Bist) : (s.absorbBist b).regs = s.regs := by
  refine foldl_regs (fun part hp u => retirePart_regs u fun i hi => ?_) _
  simp [hi] at hp

/-! ### The good sites -/

@[simp] theorem site_setSite_same (r : Repair) (i : Nat) (x : Site) : (r.setSite i x).site i = x := by
  simp [Repair.site, Repair.setSite, dget, dget?_dset_same]

theorem site_setSite_other (r : Repair) {i j : Nat} (x : Site) (h : j ≠ i) : (r.setSite i x).site j = r.site j := by
  simp [Repair.site, Repair.setSite, dget, dget?_dset_other _ _ _ _ h]

/-- After the marking a site is retired where it was so before or BIST named it. -/
theorem markSites_retired (bad : List (Nat × Nat)) (r : Repair) (i : Nat) :
    ((r.markSites bad).site i).st = .retired ↔ (r.site i).st = .retired ∨ ∃ x ∈ bad, 24 * x.2 + x.1 = i := by
  induction bad generalizing r with
  | nil => simp [Repair.markSites]
  | cons x bad ih =>
    refine (ih _).trans ?_
    by_cases hx : 24 * x.2 + x.1 = i
    · subst hx
      simp
    · simp [site_setSite_other r _ (Ne.symm hx), hx]

theorem site_of_no_sites {r : Repair} (h : r.sites = []) (i : Nat) : r.site i = {} := by
  simp [Repair.site, h, dget]

/-- Where BIST finds no bad row, it retires the sites that it names and no other. -/
theorem absorbSites_of_no_rows (s : State) {b : Bist} (h : b.badRows = []) :
    (s.absorbSites b).repair = s.repair.markSites b.badSites := by
  simp [State.absorbSites, h]

theorem goodSites_of_no_rows {s : State} {b : Bist} (hr : b.badRows = []) (hs : s.repair.sites = []) :
    (s.absorbSites b).repair.goodSites =
      ((List.range 576).filter (fun i => !b.badSites.any (fun x => decide (24 * x.2 + x.1 = i)))).length := by
  have hsite (i : Nat) : ((s.repair.markSites b.badSites).site i).st = .retired ↔ ∃ x ∈ b.badSites, 24 * x.2 + x.1 = i := by
    simp [markSites_retired, site_of_no_sites hs]
  rw [absorbSites_of_no_rows s hr]
  refine congrArg List.length (List.filter_congr fun i _ => ?_)
  rw [Bool.eq_iff_iff]
  simp [hsite]

/-! ### READY and what comes before it -/

theorem exec_configurationReady (n : Nat) (s : State) : exec (.configurationReady n) s = execConfigurationReady n s := rfl
theorem exec_bistPhaseTimeout (n : Nat) (s : State) : exec (.bistPhaseTimeout n) s = execBistPhaseTimeout n s := rfl
theorem exec_ready (b : Bist) (s : State) : exec (.ready b) s = execReady b s := rfl

/-- A register whose value is removed reads its Reset column (R19). -/
theorem reg_of_derased {s : State} {n : RegName} {i : Nat} {regs : Dict W64} (h : s.regs = derase regs (regKey n i))
    (hw : Dict.wf regs = true) : s.reg n i = regReset n i % 2 ^ 64 := by
  simp [State.reg, h, dget, dget?_derase_same _ _ hw]

/-- But for the event of a broken seal (R891), the package that becomes READY shows so, and GLB_RESET_CFG is back at its
reset value (R922, R923, R926). -/
theorem becomeReady_spec (s : State) (b : Bist) :
    ∃ u, EventsOnly u (s.becomeReady b) ∧ u.regs = derase s.regs (regKey .glbResetCfg 0) ∧ u.boot.phase = .ready ∧
      u.boot.bootPhase = 4 ∧ u.boot.cause = 0 ∧ u.boot.goodSites = (s.absorbSites b).repair.goodSites ∧
      u.boot.hbmRetained = (s.boot.warm && s.boot.retain && b.keptAll) := by
  unfold State.becomeReady
  extract_lets retained good kept sited tested powered boot u
  have hseal : EventsOnly u (if u.boot.sealAtBoot then u.raisePackage evSealBroken 0 else u) := by
    split
    · exact EventsOnly.raisePackage u _ _ _
    · exact EventsOnly.refl u
  have hkept : kept.regs = s.regs := by
    dsimp only [kept]
    split <;> rfl
  have hregs : powered.regs = s.regs := by
    rw [State.modPower_regs, absorbBist_regs, State.modRepair_regs, absorbSites_regs, hkept]
  clear_value (hgood : good = (s.absorbSites b).repair.goodSites)
  exact ⟨u, hseal, congrArg (derase · _) hregs, rfl, rfl, rfl, hgood, rfl⟩

/-- While BIST runs the good sites are counted (R35). -/
theorem sitesPassed_of_bist {s : State} (hb : s.boot.phase = .booting) (h2 : s.boot.bootPhase = 2) (n : Nat) :
    s.sitesPassed n = { s with boot := { s.boot with goodSites := max s.boot.goodSites (min n 576) } } :=
  if_pos (by simp [hb, h2])

theorem sitesPassed_of_no_bist {s : State} (h2 : s.boot.bootPhase ≠ 2) (n : Nat) : s.sitesPassed n = s :=
  if_neg (by simp [h2])

section
variable {s : State} (hl : s.boot.landsTaken = false) (hb : s.boot.phase = .booting)
include hl hb

theorem configurationReady_next (n : Nat) :
    exec (.configurationReady n) s =
      .next { s.sitesPassed n with boot := { (s.sitesPassed n).boot with cfgReady := true } } := by
  rw [exec_configurationReady, execConfigurationReady, served_next hl, if_pos (by simp [hb])]

theorem bistPhaseTimeout_next (h2 : s.boot.bootPhase = 2) (n : Nat) :
    exec (.bistPhaseTimeout n) s = .next ((s.sitesPassed n).bootFail 6) := by
  rw [exec_bistPhaseTimeout, execBistPhaseTimeout, served_next hl, if_pos (by simp [hb, h2])]

theorem ready_fatal (h2 : s.boot.bootPhase = 2) {b : Bist} {k : Nat}
    (hk : fatalCause b (s.absorbSites b).repair.goodSites = some k) :
    exec (.ready b) s =
      .next (({ s with boot := { s.boot with goodSites := (s.absorbSites b).repair.goodSites } } : State).bootFail k) := by
  rw [exec_ready, execReady, served_next hl, if_pos (by simp [hb, h2])]
  simp only [hk]

theorem ready_good (h2 : s.boot.bootPhase = 2) {b : Bist}
    (hk : fatalCause b (s.absorbSites b).repair.goodSites = none) : exec (.ready b) s = .next (s.becomeReady b) := by
  rw [exec_ready, execReady, served_next hl, if_pos (by simp [hb, h2])]
  simp only [hk]

end

/-- Settles O7: power-up ends by a timeout, by a fatal cause, or in READY. -/
theorem bootEndsInReadyOrFails : Obligations.BootEndsInReadyOrFails := by
  intro b s hl hb
  refine ⟨fun n h2 => ?_, goodSites_of_no_rows, fun h2 => ⟨fun n => ⟨?_, ?_⟩, fun k hk => ?_, fun hk hc => ?_⟩⟩
  · rw [configurationReady_next hl hb, sitesPassed_of_no_bist h2]
  · rw [configurationReady_next hl hb, sitesPassed_of_bist hb h2]
  · rw [bistPhaseTimeout_next hl hb h2, sitesPassed_of_bist hb h2]
    rfl
  · refine ⟨_, ready_fatal hl hb h2 hk, ?_⟩
    generalize (s.absorbSites b).repair.goodSites = good
    exact ⟨rfl, rfl, rfl, rfl, rfl⟩
  · obtain ⟨-, -, hregs⟩ := hc
    obtain ⟨u, hev, hr, hphase, hboot, hcause, hgood, hret⟩ := becomeReady_spec s b
    refine ⟨_, ready_good hl hb h2 hk, ?_⟩
    rw [hev.boot, hev.2 .glbResetCfg 0 (by decide) (by decide) (by decide), reg_of_derased hr hregs]
    exact ⟨hphase, hboot, hcause, hgood, by decide, hret⟩

end Sys2Proof.Machine
end

section
/-! SUPPORT. Tiles by name, what events, packets and tests leave of a tile, and how a freeze and a run end (R136 to R141, R172,
R205, R845). -/

namespace Sys2Proof.Machine

/-! ### Tiles by name -/

theorem dget_dset_same {α : Type} (m : Dict α) (k : Nat) (v d : α) : dget (dset m k v) k d = v := by
  rw [dget, dget?_dset_same, Option.getD_some]

theorem dget_dset_other {α : Type} (m : Dict α) {k j : Nat} (v d : α) (h : j ≠ k) : dget (dset m k v) j d = dget m j d := by
  rw [dget, dget?_dset_other m k j v h, dget]

/-- Of two values set at one key the later stays. -/
theorem dset_dset {α : Type} (m : Dict α) (k : Nat) (v w : α) : dset (dset m k v) k w = dset m k w := by
  induction m with
  | nil => simp [dset]
  | cons a m ih =>
    obtain ⟨j, x⟩ := a
    by_cases h : j = k
    · simp [dset, h]
    · by_cases g : k < j
      · simp [dset, h, g]
      · simp [dset, h, g, ih]

@[simp] theorem tile_setTile_same (s : State) (k : Nat) (x : Tile) : (s.setTile k x).tile k = x := dget_dset_same _ _ _ _

theorem tile_setTile_other (s : State) {k j : Nat} (x : Tile) (h : j ≠ k) : (s.setTile k x).tile j = s.tile j :=
  dget_dset_other _ _ _ h

@[simp] theorem tile_modTile_same (s : State) (k : Nat) (f : Tile → Tile) : (s.modTile k f).tile k = f (s.tile k) :=
  tile_setTile_same _ _ _

theorem tile_modTile_other (s : State) {k j : Nat} (f : Tile → Tile) (h : j ≠ k) : (s.modTile k f).tile j = s.tile j :=
  tile_setTile_other s _ h

@[simp] theorem setTile_setTile (s : State) (k : Nat) (x y : Tile) : (s.setTile k x).setTile k y = s.setTile k y := by
  simp only [State.setTile, dset_dset]

theorem modTile_setTile (s : State) (k : Nat) (x : Tile) (f : Tile → Tile) : (s.setTile k x).modTile k f = s.setTile k (f x) := by
  simp only [State.modTile, tile_setTile_same, setTile_setTile]

@[simp] theorem modTile_modTile (s : State) (k : Nat) (f g : Tile → Tile) :
    (s.modTile k f).modTile k g = s.modTile k (fun x => g (f x)) := modTile_setTile s k _ g

@[simp] theorem setTile_modTile (s : State) (k : Nat) (f : Tile → Tile) (x : Tile) : (s.modTile k f).setTile k x = s.setTile k x :=
  setTile_setTile s k _ x

theorem modTile_congr {s : State} {k : Nat} {f g : Tile → Tile} (h : f (s.tile k) = g (s.tile k)) : s.modTile k f = s.modTile k g := by
  simp only [State.modTile, h]

theorem tile_of_tiles {s t : State} (h : t.tiles = s.tiles) (k : Nat) : t.tile k = s.tile k := by
  simp only [State.tile, h]

/-! ### What events and packets leave -/

theorem EventsOnly.mem {s t : State} (h : EventsOnly s t) : t.mem = s.mem := (congrArg State.mem h.1 :)
theorem EventsOnly.tiles {s t : State} (h : EventsOnly s t) : t.tiles = s.tiles := (congrArg State.tiles h.1 :)
theorem EventsOnly.repair {s t : State} (h : EventsOnly s t) : t.repair = s.repair := (congrArg State.repair h.1 :)
theorem EventsOnly.sec {s t : State} (h : EventsOnly s t) : t.sec = s.sec := (congrArg State.sec h.1 :)
theorem EventsOnly.now {s t : State} (h : EventsOnly s t) : t.now = s.now := (congrArg State.now h.1 :)

theorem EventsOnly.modTile {s t : State} (h : EventsOnly s t) (k : Nat) (f : Tile → Tile) :
    EventsOnly (s.modTile k f) (t.modTile k f) := by
  refine ⟨?_, h.2⟩
  have e : ∀ u : State, (u.modTile k f).sansEvents = { u.sansEvents with tiles := dset u.tiles k (f (u.tile k)) } := fun _ => rfl
  rw [e, e, h.1, h.tiles, tile_of_tiles h.tiles]

theorem FabricOnly.refl (s : State) : FabricOnly s s := rfl

theorem FabricOnly.modFabric (s : State) (f : Fabric → Fabric) : FabricOnly s (s.modFabric f) := rfl

/-! ### What tests leave -/

/-- Memory, security and clock are as they were, and so is every tile but for the tests that wait for its run, and for its mode
where it has none. -/
structure RunsKept (s t : State) : Prop where
  mem : t.mem = s.mem
  sec : t.sec = s.sec
  now : t.now = s.now
  tile : ∀ k, t.tile k = { s.tile k with mode := (t.tile k).mode, testAfterRun := (t.tile k).testAfterRun }
  mode : ∀ k, (s.tile k).run.isSome = true → (t.tile k).mode = (s.tile k).mode

theorem RunsKept.of_tiles {s t : State} (hm : t.mem = s.mem) (hs : t.sec = s.sec) (hn : t.now = s.now) (ht : t.tiles = s.tiles) :
    RunsKept s t :=
  ⟨hm, hs, hn, fun k => by rw [tile_of_tiles ht], fun k _ => by rw [tile_of_tiles ht]⟩

theorem RunsKept.refl (s : State) : RunsKept s s := RunsKept.of_tiles rfl rfl rfl rfl

theorem EventsOnly.runsKept {s t : State} (h : EventsOnly s t) : RunsKept s t := RunsKept.of_tiles h.mem h.sec h.now h.tiles

theorem RunsKept.run {s t : State} (h : RunsKept s t) (k : Nat) : (t.tile k).run = (s.tile k).run := by rw [h.tile k]
theorem RunsKept.banks {s t : State} (h : RunsKept s t) (k : Nat) : (t.tile k).banks = (s.tile k).banks := by rw [h.tile k]
theorem RunsKept.delivered {s t : State} (h : RunsKept s t) (k : Nat) : (t.tile k).delivered = (s.tile k).delivered := by rw [h.tile k]

theorem RunsKept.trans {s t u : State} (h : RunsKept s t) (g : RunsKept t u) : RunsKept s u where
  mem := g.mem.trans h.mem
  sec := g.sec.trans h.sec
  now := g.now.trans h.now
  tile k := by rw [g.tile k, h.tile k]
  mode k hk := (g.mode k (by rw [h.run, hk])).trans (h.mode k hk)

/-- A tile that has a run keeps its mode while its waiting tests change. -/
theorem RunsKept.modTile_tests (s : State) (n : Nat) (f : Tile → Tile)
    (hf : f (s.tile n) = { s.tile n with mode := (f (s.tile n)).mode, testAfterRun := (f (s.tile n)).testAfterRun })
    (hm : (s.tile n).run.isSome = true → (f (s.tile n)).mode = (s.tile n).mode) : RunsKept s (s.modTile n f) where
  mem := rfl
  sec := rfl
  now := rfl
  tile k := by
    by_cases h : k = n
    · subst h
      rw [tile_modTile_same]
      exact hf
    · rw [tile_modTile_other s f h]
  mode k hk := by
    by_cases h : k = n
    · subst h
      rw [tile_modTile_same]
      exact hm hk
    · rw [tile_modTile_other s f h]

theorem RunsKept.addTest (s : State) (part : PartId) : RunsKept s (s.addTest part) := RunsKept.of_tiles rfl rfl rfl rfl

/-- The test of a site, or of a row of it: the logical tile there is fenced, or the test waits for its run (R845). -/
theorem RunsKept.testSite (s : State) (part : PartId) (tile : Option Nat) :
    RunsKept s (match tile with
      | some n =>
        if (s.tile n).run.isSome then
          s.modTile n (fun t => if t.testAfterRun.contains part then t else { t with testAfterRun := t.testAfterRun ++ [part] })
        else (s.modTile n (fun t => { t with mode := .fenced })).addTest part
      | none => s.addTest part) := by
  cases tile with
  | none => exact RunsKept.addTest s part
  | some n =>
    dsimp only
    split
    · refine RunsKept.modTile_tests s n _ ?_ ?_ <;> split <;> simp
    · next h => exact (RunsKept.modTile_tests s n _ rfl fun hr => absurd hr h).trans (RunsKept.addTest _ part)

/-- Whatever part is tested, the runs of the tiles go on. -/
theorem RunsKept.startTest (s : State) (part : PartId) (counted : Option Nat) : RunsKept s (s.startTest part counted) := by
  unfold State.startTest
  dsimp only
  split
  · exact RunsKept.refl s
  · cases part with
    | tile x y =>
      dsimp only
      split
      · exact RunsKept.refl s
      · exact RunsKept.testSite s _ _
    | row x y b w =>
      dsimp only
      split
      · exact RunsKept.refl s
      · exact RunsKept.testSite s _ _
    | page h c p =>
      dsimp only
      split
      · exact RunsKept.refl s
      · split <;> exact RunsKept.of_tiles rfl rfl rfl rfl
    | conv i => exact RunsKept.refl s
    | chan | granule | lane | core | sm3 => dsimp only; split <;> exact RunsKept.of_tiles rfl rfl rfl rfl

theorem RunsKept.testTile (s : State) (k : Nat) : RunsKept s (s.testTile k) := by
  unfold State.testTile
  split
  · exact RunsKept.startTest s _ none
  · exact RunsKept.refl s

/-- Tiles, security and clock are as they were. -/
structure TilesKept (s t : State) : Prop where
  tiles : t.tiles = s.tiles
  sec : t.sec = s.sec
  now : t.now = s.now

theorem TilesKept.refl (s : State) : TilesKept s s := ⟨rfl, rfl, rfl⟩

theorem TilesKept.trans {s t u : State} (h : TilesKept s t) (g : TilesKept t u) : TilesKept s u :=
  ⟨g.tiles.trans h.tiles, g.sec.trans h.sec, g.now.trans h.now⟩

theorem TilesKept.tile {s t : State} (h : TilesKept s t) (k : Nat) : t.tile k = s.tile k := tile_of_tiles h.tiles k

theorem EventsOnly.tilesKept {s t : State} (h : EventsOnly s t) : TilesKept s t := ⟨h.tiles, h.sec, h.now⟩

/-- The test of a page or of a granule is no tile's. -/
theorem TilesKept.startTest (s : State) {part : PartId} (counted : Option Nat)
    (h : (∃ i, part = .granule i) ∨ ∃ h c p, part = .page h c p) : TilesKept s (s.startTest part counted) := by
  unfold State.startTest
  dsimp only
  split
  · exact TilesKept.refl s
  · rcases h with ⟨i, rfl⟩ | ⟨h, c, p, rfl⟩
    · dsimp only
      split <;> exact ⟨rfl, rfl, rfl⟩
    · dsimp only
      split
      · exact TilesKept.refl s
      · split <;> exact ⟨rfl, rfl, rfl⟩

theorem TilesKept.recordUe (s : State) (a : Nat) : TilesKept s (s.recordUe a) := by
  unfold State.recordUe
  dsimp only
  split <;> split <;> exact ⟨rfl, rfl, rfl⟩

/-- An uncorrectable read of HBM or firn starts the test of a page or a granule (R276). -/
theorem TilesKept.uncorrectable (s : State) (a : Nat) : TilesKept s (s.uncorrectable a) := by
  refine (TilesKept.recordUe s a).trans ?_
  unfold State.uncorrectable State.testOfDpa
  split
  · split
    · exact TilesKept.refl _
    · split
      · exact TilesKept.startTest _ _ (Or.inr ⟨_, _, _, rfl⟩)
      · exact TilesKept.startTest _ _ (Or.inl ⟨_, rfl⟩)
  · exact TilesKept.refl _

/-! ### How a freeze and a run end -/

/-- Run `r'` is run `r` with no freeze in force, and its cycles counted on. -/
def FreezeClosed (r r' : Run) : Prop :=
  r' = { r with freeze := none, cycles := r'.cycles, holdCycles := r'.holdCycles, waitCycles := r'.waitCycles }

theorem FreezeClosed.of_none {r : Run} (h : r.freeze = none) : FreezeClosed r r := by
  cases r
  cases h
  rfl

/-- Local time up to which a freeze counts that closes: when its last cause cleared, where the held bundle issues (R136). -/
def Freeze.until (f : Freeze) (resume : Bool) (now : Nat) : Nat :=
  match f.cleared, resume with
  | some c, true => c.2
  | _, _ => now

@[simp] theorem Freeze.until_end (f : Freeze) (now : Nat) : f.until false now = now := by
  unfold Freeze.until
  split <;> simp_all

theorem Freeze.until_cleared {f : Freeze} {c : List FreezeCause × Nat} (h : f.cleared = some c) (now : Nat) : f.until true now = c.2 := by
  simp [Freeze.until, h]

theorem closeFreeze_of_none {s : State} {k : Nat} {r : Run} (hr : (s.tile k).run = some r) (hf : r.freeze = none) (resume : Bool) :
    s.closeFreeze k resume = s := by
  simp [State.closeFreeze, Tile.countFreeze, hr, hf]

/-- MODE of a tile once its freeze is closed. -/
def TileMode.thawed (m : TileMode) : TileMode := if m = .frozen then .running else m

/-- Counting a freeze changes how long it has held, never when it began, what holds it or when that cleared (R139). -/
theorem countFreeze_of_some {x : Tile} {r : Run} {f : Freeze} (hr : x.run = some r) (hf : r.freeze = some f) (now : Nat) :
    ∃ hold g late wait, x.countFreeze now = { x with dbgHold := hold, run := some { r with
        holdCycles := late, waitCycles := wait, freeze := some g } } ∧
      g.startNs = f.startNs ∧ g.causes = f.causes ∧ g.cleared = f.cleared := by
  simp only [Tile.countFreeze, hr, hf, Option.bind_some]
  exact ⟨_, _, _, _, rfl, rfl, rfl, rfl⟩

theorem EventsOnly.raiseEventIf (s : State) (b : Prop) [Decidable b] (p : Part) (code : W16) (subject arg : Nat) :
    EventsOnly s (if b then s.raiseEvent p code subject arg else s) := by
  split
  · exact EventsOnly.raiseEvent s p code subject arg
  · exact EventsOnly.refl s

/-- A freeze closes, with 2 more cycles where the held bundle issues (R136, R139, R140). -/
theorem closeFreeze_of_some {s : State} {k : Nat} {r : Run} {f : Freeze} (hr : (s.tile k).run = some r) (hf : r.freeze = some f)
    (resume : Bool) :
    ∃ hold r', EventsOnly (s.setTile k { s.tile k with mode := (s.tile k).mode.thawed, dbgHold := hold, run := some r' })
        (s.closeFreeze k resume) ∧
      FreezeClosed r r' ∧
      r'.cycles = r.cycles + (s.tile k).cyclesOf (f.until resume s.now - f.startNs) + (if resume then 2 else 0) := by
  obtain ⟨hold, g, late, wait, hx, hs, -, hc⟩ := countFreeze_of_some hr hf s.now
  have hu : f.until resume s.now = g.until resume s.now := by simp only [Freeze.until, hc]
  rw [hu, ← hs]
  unfold State.closeFreeze
  simp only [hx, Option.bind_some]
  refine ⟨_, _, EventsOnly.raiseEventIf _ _ _ _ _ _, ?_, ?_⟩ <;> rfl

theorem stopRun_of_none {s : State} {k : Nat} {r : Run} (hr : (s.tile k).run = some r) (hf : r.freeze = none) (e : RunEnd) :
    s.stopRun k e = s.modTile k (fun x => { x with run := some (r.stop e s.now) }) := by
  unfold State.stopRun
  rw [closeFreeze_of_none hr hf]
  exact modTile_congr (by simp [hr])

theorem stopRun_of_some {s : State} {k : Nat} {r : Run} {f : Freeze} (hr : (s.tile k).run = some r) (hf : r.freeze = some f)
    (e : RunEnd) :
    ∃ hold r', EventsOnly (s.setTile k { s.tile k with mode := (s.tile k).mode.thawed, dbgHold := hold,
                                                       run := some (r'.stop e s.now) }) (s.stopRun k e) ∧
      FreezeClosed r r' ∧ r'.cycles = r.cycles + (s.tile k).cyclesOf (s.now - f.startNs) := by
  obtain ⟨hold, r', hev, hr', hc⟩ := closeFreeze_of_some hr hf false
  refine ⟨hold, r', ?_, hr', by simpa using hc⟩
  have h := hev.modTile k (fun x => { x with run := x.run.map (fun r => r.stop e s.now) })
  rw [modTile_setTile] at h
  unfold State.stopRun
  dsimp only
  rw [hev.now]
  exact h

/-- A run is stopped: its freeze closes, and its tile keeps all but MODE and the hold count. -/
theorem stopRun_spec {s : State} {k : Nat} {r : Run} (hr : (s.tile k).run = some r) (e : RunEnd) :
    ∃ mode hold r', EventsOnly (s.setTile k { s.tile k with mode := mode, dbgHold := hold, run := some (r'.stop e s.now) })
        (s.stopRun k e) ∧ FreezeClosed r r' := by
  cases hf : r.freeze with
  | none =>
    refine ⟨(s.tile k).mode, (s.tile k).dbgHold, r, ?_, FreezeClosed.of_none hf⟩
    rw [stopRun_of_none hr hf]
    exact EventsOnly.refl _
  | some f =>
    obtain ⟨hold, r', hev, hr', -⟩ := stopRun_of_some hr hf e
    exact ⟨_, hold, r', hev, hr'⟩

/-- What an ended run holds: why it ended, no freeze, no fill and no drain; the writes under way and its task as before (R141, R205). -/
structure StoppedAs (r r' : Run) (e : RunEnd) : Prop where
  ended : r'.ended = some e
  freeze : r'.freeze = none
  fills : r'.fills = []
  drains : r'.drains = []
  array : r'.array = none
  writes : r'.writes = r.writes
  task : r'.task = r.task
  check : r'.arrayCheck = r.arrayCheck

theorem FreezeClosed.stop {r r' : Run} (h : FreezeClosed r r') (he : r.ended = none) (e : RunEnd) (now : Nat) :
    StoppedAs r (r'.stop e now) e := by
  rw [h]
  refine ⟨?_, rfl, rfl, rfl, rfl, rfl, rfl, rfl⟩
  show some (r.ended.getD e) = some e
  rw [he, Option.getD_none]

/-- A run is stopped, as every ending that the commands of its tile give shows it. -/
theorem stopRun_stopped {s : State} {k : Nat} {r : Run} (hr : (s.tile k).run = some r) (he : r.ended = none) (e : RunEnd) :
    ∃ mode hold r', RunsKept (s.setTile k { s.tile k with mode := mode, dbgHold := hold, run := some r' }) (s.stopRun k e) ∧
      StoppedAs r r' e := by
  obtain ⟨mode, hold, r', hev, hc⟩ := stopRun_spec hr e
  exact ⟨mode, hold, _, hev.runsKept, hc.stop he e s.now⟩

end Sys2Proof.Machine
end

section
/-! SUPPORT. Tile DMA: what sending its requests changes (R135 to R137, R143). -/

namespace Sys2Proof.Machine

/-! ### Changing an entry of a list -/

theorem getElem?_modAt {α : Type} (xs : List α) (i j : Nat) (f : α → α) :
    (modAt xs i f)[j]? = if j = i then xs[j]?.map f else xs[j]? := by
  simp only [modAt, List.getElem?_map, List.getElem?_zipIdx, Option.map_map, Nat.zero_add]
  split
  · simp [*, Function.comp_def]
  · simp [*, Function.comp_def]

@[simp] theorem length_modAt {α : Type} (xs : List α) (i : Nat) (f : α → α) : (modAt xs i f).length = xs.length := by simp [modAt]

/-- An entry replaced by one that `g` maps alike changes nothing that `g` shows. -/
theorem map_modAt {α β : Type} {xs : List α} {i : Nat} {a b : α} {g : α → β} (ha : xs[i]? = some a) (hg : g b = g a) :
    (modAt xs i (fun _ => b)).map g = xs.map g := by
  refine List.ext_getElem? fun j => ?_
  rw [List.getElem?_map, getElem?_modAt, List.getElem?_map]
  split
  · next h => rw [h, ha]; simp [hg]
  · rfl

theorem modAt_self {α : Type} {xs : List α} {i : Nat} {a : α} (ha : xs[i]? = some a) : modAt xs i (fun _ => a) = xs := by
  simpa using map_modAt (g := id) ha rfl

/-! ### Sending the requests of tile DMA -/

theorem FabricOnly.sendAcked (s : State) (typ : Byte) (tc : Fin 4) (dst : Node) (p : Part) (addr : W64) (arg : W32)
    (payload : List Byte) (run : Option (Part × W32)) : FabricOnly s (s.sendAcked typ tc dst p addr arg payload run).2 := by
  unfold State.sendAcked
  dsimp only
  split
  · rfl
  · exact FabricOnly.trans (FabricOnly.modFabric s _) (TrafficOnly.route _ _ none).fabric

/-- The requests of a fill leave by the fabric. -/
theorem FabricOnly.pumpFill (s : State) (r : Run) (room : Nat) (f : FillOp) : FabricOnly s (s.pumpFill r room f).1 := by
  refine List.foldlRecOn (motive := fun (y : State × FillOp) => FabricOnly s y.1) _ _ (FabricOnly.refl s) fun y hy q _ => ?_
  split
  · exact hy
  · exact hy.trans (FabricOnly.sendAcked _ _ _ _ _ _ _ _ _)

/-- The requests of a drain leave by the fabric, and it keeps its data. -/
theorem pumpWrite_spec (s : State) (r : Run) (room : Nat) (d : DrainOp) :
    FabricOnly s (s.pumpWrite r room d).1 ∧ (s.pumpWrite r room d).2.data = d.data := by
  refine List.foldlRecOn (motive := fun (y : State × DrainOp) => FabricOnly s y.1 ∧ y.2.data = d.data) _ _ ⟨FabricOnly.refl s, rfl⟩ fun y hy q _ => ?_
  split
  · exact hy
  · exact ⟨hy.1.trans (FabricOnly.sendAcked _ _ _ _ _ _ _ _ _), hy.2⟩

theorem pumpFill_idle (s : State) (r : Run) (room : Nat) {f : FillOp} (h : f.queued = []) : s.pumpFill r room f = (s, f) := by
  cases f
  cases h
  simp [State.pumpFill]

theorem pumpWrite_idle (s : State) (r : Run) (room : Nat) {d : DrainOp} (h : d.queued = []) : s.pumpWrite r room d = (s, d) := by
  cases d
  cases h
  simp [State.pumpWrite]

/-- Of a run at most the requests of its fills and writes differ: it has as many fills, and its writes carry the same data. -/
structure Pumped (r r' : Run) : Prop where
  run : r' = { r with fills := r'.fills, writes := r'.writes }
  fills : r'.fills.length = r.fills.length
  writes : r'.writes.map DrainOp.data = r.writes.map DrainOp.data

theorem Pumped.refl (r : Run) : Pumped r r := ⟨rfl, rfl, rfl⟩

theorem Pumped.trans {r r' r'' : Run} (h : Pumped r r') (g : Pumped r' r'') : Pumped r r'' :=
  ⟨by rw [g.run, h.run], g.fills.trans h.fills, g.writes.trans h.writes⟩

theorem Pumped.modFill (r : Run) (i : Nat) (f : FillOp) : Pumped r { r with fills := modAt r.fills i (fun _ => f) } :=
  ⟨rfl, by simp, rfl⟩

theorem Pumped.modWrite {r : Run} {i : Nat} {d e : DrainOp} (hd : r.writes[i]? = some d) (he : e.data = d.data) :
    Pumped r { r with writes := modAt r.writes i (fun _ => e) } := ⟨rfl, rfl, map_modAt hd he⟩

/-- Tile DMA changes the fabric, and of its run the requests of fills and writes. -/
theorem pumpDma_spec (s : State) (r : Run) : FabricOnly s (s.pumpDma r).1 ∧ Pumped r (s.pumpDma r).2 := by
  unfold State.pumpDma
  dsimp only
  refine List.foldlRecOn (motive := fun (y : State × Run × Nat) => FabricOnly s y.1 ∧ Pumped r y.2.1) _ _ ?_ fun y hy i _ => ?_
  · refine List.foldlRecOn (motive := fun (y : State × Run × Nat) => FabricOnly s y.1 ∧ Pumped r y.2.1) _ _
      ⟨FabricOnly.refl s, Pumped.refl r⟩ fun y hy i _ => ?_
    split
    · exact ⟨hy.1.trans (FabricOnly.pumpFill _ _ _ _), hy.2.trans (Pumped.modFill _ _ _)⟩
    · exact hy
  · split
    · next d hd =>
      obtain ⟨hf, hdata⟩ := pumpWrite_spec y.1 r y.2.2 d
      exact ⟨hy.1.trans hf, hy.2.trans (Pumped.modWrite hd hdata)⟩
    · exact hy

/-- Nothing of a run's tile DMA is queued. -/
def Run.sent (r : Run) : Prop := (∀ f ∈ r.fills, f.queued = []) ∧ (∀ d ∈ r.writes, d.queued = [])

/-- With nothing queued tile DMA does nothing. -/
theorem pumpDma_idle (s : State) {r : Run} (h : r.sent) : s.pumpDma r = (s, r) := by
  obtain ⟨hfills, hwrites⟩ := h
  unfold State.pumpDma
  dsimp only
  refine Prod.ext_iff.2 (List.foldlRecOn (motive := fun (y : State × Run × Nat) => y.1 = s ∧ y.2.1 = r) _ _ ?_ fun y hy i _ => ?_)
  · refine List.foldlRecOn (motive := fun (y : State × Run × Nat) => y.1 = s ∧ y.2.1 = r) _ _ ⟨rfl, rfl⟩ fun y hy i _ => ?_
    obtain ⟨rfl, rfl⟩ := hy
    split
    · next f hf =>
      rw [pumpFill_idle _ _ _ (hfills f (List.mem_of_getElem? hf))]
      exact ⟨rfl, by rw [modAt_self hf]⟩
    · exact ⟨rfl, rfl⟩
  · obtain ⟨rfl, rfl⟩ := hy
    split
    · next d hd =>
      rw [pumpWrite_idle _ _ _ (hwrites d (List.mem_of_getElem? hd))]
      exact ⟨rfl, by rw [modAt_self hd]⟩
    · exact ⟨rfl, rfl⟩

/-! ### What has come to pass may clear a freeze -/

/-- Of a run at most its freeze differs. -/
def FreezeMoved (r r' : Run) : Prop :=
  r' = { r with freeze := r'.freeze, holdCycles := r'.holdCycles, waitCycles := r'.waitCycles }

/-- A freeze in force that has not cleared counts on, and holds for what still holds it (R136). -/
theorem recheckFreeze_of_uncleared {s : State} {k : Nat} {r : Run} {f : Freeze} {b : Bundle} (hr : (s.tile k).run = some r)
    (hf : r.freeze = some f) (hb : (r.bundles[r.pc]?).bind decodeBundle = some b) (hc : f.cleared = none) :
    ∃ hold r' g, s.recheckFreeze k = s.setTile k { s.tile k with dbgHold := hold, run := some r' } ∧ FreezeMoved r r' ∧
      r'.freeze = some g ∧ g.startNs = f.startNs ∧ g.causes = r.freezeCauses b ∧
      g.cleared = if (r.freezeCauses b).isEmpty then some (f.causes, s.now) else none := by
  obtain ⟨hold, g, late, wait, hx, hs, hcauses, hcleared⟩ := countFreeze_of_some hr hf s.now
  rw [hc] at hcleared
  unfold State.recheckFreeze
  simp only [hx, Option.bind_some, hb, hcleared, Option.isSome_none, Bool.false_eq_true, if_false]
  rw [← hcauses]
  exact ⟨hold, _, _, rfl, rfl, rfl, hs, rfl, rfl⟩

theorem recheckFreeze_of_none {s : State} {k : Nat} {r : Run} (hr : (s.tile k).run = some r) (hf : r.freeze = none) :
    s.recheckFreeze k = s := by
  simp [State.recheckFreeze, Tile.countFreeze, hr, hf]

theorem recheckFreeze_of_idle {s : State} {k : Nat} (hr : (s.tile k).run = none) : s.recheckFreeze k = s := by
  simp [State.recheckFreeze, Tile.countFreeze, hr]

theorem recheckFreeze_of_cleared {s : State} {k : Nat} {r : Run} {f : Freeze} (hr : (s.tile k).run = some r)
    (hf : r.freeze = some f) (hc : f.cleared.isSome = true) : s.recheckFreeze k = s := by
  obtain ⟨hold, g, late, wait, hx, -, -, hcleared⟩ := countFreeze_of_some hr hf s.now
  unfold State.recheckFreeze
  cases hb : (r.bundles[r.pc]?).bind decodeBundle with
  | none => simp only [hx, Option.bind_some, hb]
  | some b => simp only [hx, Option.bind_some, hb, hcleared, hc, if_true]

theorem recheckFreeze_of_undecoded {s : State} {k : Nat} {r : Run} {f : Freeze} (hr : (s.tile k).run = some r)
    (hf : r.freeze = some f) (hb : (r.bundles[r.pc]?).bind decodeBundle = none) : s.recheckFreeze k = s := by
  obtain ⟨hold, g, late, wait, hx, -, -, -⟩ := countFreeze_of_some hr hf s.now
  unfold State.recheckFreeze
  simp only [hx, Option.bind_some, hb]

/-- An entry set to what it holds changes nothing. -/
theorem dset_of_dget? {α : Type} {m : Dict α} {k : Nat} {v : α} (h : dget? m k = some v) : dset m k v = m := by
  induction m with
  | nil => simp at h
  | cons a m ih =>
    obtain ⟨j, x⟩ := a
    by_cases hj : j = k
    · simp_all [dset, dget?]
    · by_cases hk : k < j
      · simp [dget?, hj, hk] at h
      · simp only [dget?, hj, hk, if_false] at h
        simp [dset, hj, hk, ih h]

/-- A tile with a run is listed, so setting it to what it is changes nothing. -/
theorem setTile_tile {s : State} {k : Nat} {r : Run} (hr : (s.tile k).run = some r) : s.setTile k (s.tile k) = s := by
  cases h : dget? s.tiles k with
  | none => simp [State.tile, dget, h] at hr
  | some x =>
    have hx : s.tile k = x := by simp [State.tile, dget, h]
    rw [hx, State.setTile, dset_of_dget? h]

/-- Whether or not a freeze clears, only the freeze of the tile's run and the counts of it change. -/
theorem recheckFreeze_spec {s : State} {k : Nat} {r : Run} (hr : (s.tile k).run = some r) :
    ∃ hold r', s.recheckFreeze k = s.setTile k { s.tile k with dbgHold := hold, run := some r' } ∧ FreezeMoved r r' := by
  have same (h : s.recheckFreeze k = s) : ∃ hold r',
      s.recheckFreeze k = s.setTile k { s.tile k with dbgHold := hold, run := some r' } ∧ FreezeMoved r r' :=
    ⟨(s.tile k).dbgHold, r, by rw [h, ← hr, setTile_tile hr], rfl⟩
  cases hf : r.freeze with
  | none => exact same (recheckFreeze_of_none hr hf)
  | some f =>
    cases hb : (r.bundles[r.pc]?).bind decodeBundle with
    | none => exact same (recheckFreeze_of_undecoded hr hf hb)
    | some b =>
      cases hc : f.cleared with
      | some c => exact same (recheckFreeze_of_cleared hr hf (by simp [hc]))
      | none =>
        obtain ⟨hold, r', g, h, hmoved, -⟩ := recheckFreeze_of_uncleared hr hf hb hc
        exact ⟨hold, r', h, hmoved⟩

/-! ### Tile DMA goes on -/

/-- Of a run at most its freeze, and the requests of its fills and writes, differ. -/
structure WentOn (r r' : Run) : Prop where
  run : r' = { r with fills := r'.fills, writes := r'.writes, freeze := r'.freeze, holdCycles := r'.holdCycles, waitCycles := r'.waitCycles }
  fills : r'.fills.length = r.fills.length
  writes : r'.writes.map DrainOp.data = r.writes.map DrainOp.data

theorem Pumped.wentOn {r r' r'' : Run} (h : Pumped r r') (g : FreezeMoved r' r'') : WentOn r r'' := by
  rw [g]
  exact ⟨by rw [h.run], h.fills, h.writes⟩

theorem WentOn.length {r r' : Run} (h : WentOn r r') : r'.writes.length = r.writes.length := by
  simpa using congrArg List.length h.writes

/-- Of a state at most the fabric and the tiles differ. -/
def FabricAndTiles (s t : State) : Prop := t = { s with fabric := t.fabric, tiles := t.tiles }

theorem FabricAndTiles.mem {s t : State} (h : FabricAndTiles s t) : t.mem = s.mem := (congrArg State.mem h :)
theorem FabricAndTiles.parts {s t : State} (h : FabricAndTiles s t) : t.parts = s.parts := (congrArg State.parts h :)
theorem FabricAndTiles.sec {s t : State} (h : FabricAndTiles s t) : t.sec = s.sec := (congrArg State.sec h :)

/-- Requests leave by the fabric, and a freeze may clear (R135, R136). -/
theorem dmaGoesOn_spec {s : State} {k : Nat} {r : Run} (hr : (s.tile k).run = some r) :
    FabricAndTiles s (s.dmaGoesOn k) ∧ ∃ r', ((s.dmaGoesOn k).tile k).run = some r' ∧ WentOn r r' := by
  obtain ⟨hfab, hpump⟩ := pumpDma_spec s r
  unfold State.dmaGoesOn
  rw [hr]
  dsimp only
  have hr' : (((s.pumpDma r).1.modTile k (fun x => { x with run := some (s.pumpDma r).2 })).tile k).run = some (s.pumpDma r).2 := by simp
  obtain ⟨hold, r', he, hmoved⟩ := recheckFreeze_spec hr'
  rw [he, tile_setTile_same]
  refine ⟨?_, r', rfl, hpump.wentOn hmoved⟩
  rw [hfab]
  rfl

/-- Without a freeze and with nothing queued it has nothing to do. -/
theorem dmaGoesOn_idle {s : State} {k : Nat} {r : Run} (hr : (s.tile k).run = some r) (hf : r.freeze = none) (hs : r.sent) :
    s.dmaGoesOn k = s := by
  unfold State.dmaGoesOn
  rw [hr]
  dsimp only
  rw [pumpDma_idle s hs]
  have he : s.modTile k (fun x => { x with run := some r }) = s := by
    rw [modTile_congr (g := fun x => x) (by rw [← hr])]
    exact setTile_tile hr
  rw [he, recheckFreeze_of_none hr hf]

end Sys2Proof.Machine
end

section
/-! SUPPORT. Program load, issue, freezes and the array (R131 to R141, R160, R165 to R173, R205). -/

namespace Sys2Proof.Machine

/-! ### What a bundle's slots leave of the run -/

/-- Where a run stands: sequencer, program and task, and whether it has ended. -/
def Run.place (r : Run) : Nat × List (Nat × Nat) × Bool × Option RunEnd × List (BitVec 256) × Task :=
  (r.pc, r.loops, r.atEnd, r.ended, r.bundles, r.task)

/-- Where a run stands, and after how many cycles. -/
def Run.course (r : Run) : (Nat × List (Nat × Nat) × Bool × Option RunEnd × List (BitVec 256) × Task) × Nat := (r.place, r.cycles)

@[simp] theorem modStream_course (r : Run) (b : Bool) (i : Nat) (f : Stream → Stream) : (r.modStream b i f).course = r.course := by
  cases b <;> rfl

@[simp] theorem loadAcc_course (s : State) (t : Nat) (r : Run) (o : ArrayOp) : (s.loadAcc t r o).course = r.course := rfl

@[simp] theorem startArray_course (r : Run) (o : ArrayOp) : (r.startArray o).course = r.course := by
  unfold Run.startArray
  dsimp only
  split <;> rfl

@[simp] theorem vecOp_course (r : Run) (o : VecOp) : (r.vecOp o).course = r.course := by
  unfold Run.vecOp
  dsimp only
  split
  · rfl
  · split
    · rfl
    · split
      · rfl
      · split
        · exact List.foldlRecOn (motive := fun (y : Run) => y.course = r.course) _ _ rfl fun y hy p _ => hy
        · rfl

@[simp] theorem watch_course (r : Run) (on : Bool) (accs : List W32) (o : OutBlock) : (r.watch on accs o).course = r.course := by
  unfold Run.watch
  split
  · rfl
  · rfl
  · rfl
  · split <;> rfl

@[simp] theorem drainAcc_course (s : State) (t : Nat) (r : Run) (o : ArrayOp) : (s.drainAcc t r o).2.course = r.course := by
  refine List.foldlRecOn (motive := fun (y : State × Run) => y.2.course = r.course) _ _ rfl fun y hy k _ => ?_
  exact List.foldlRecOn (motive := fun (x : Run) => x.course = r.course) _ _ hy fun x hx b _ => (watch_course x _ b.1 b.2).trans hx

@[simp] theorem keepBlock_course (s : State) (r : Run) (i u : Nat) : (s.keepBlock r i u).course = r.course := by
  unfold State.keepBlock
  split <;> rfl

theorem Pumped.course {r r' : Run} (h : Pumped r r') : r'.course = r.course := by
  rw [h.run]
  rfl

@[simp] theorem startFill_course (s : State) (r : Run) (i n : Nat) : (s.startFill r i n).2.course = r.course := by
  unfold State.startFill
  split
  · rfl
  · extract_lets tail cmd r'
    have hr' : r'.course = r.course :=
      List.foldlRecOn (motive := fun (y : Run) => y.course = r.course) _ _ rfl fun y hy k _ => (keepBlock_course s y i _).trans hy
    exact (pumpDma_spec s _).2.course.trans ((modStream_course r' true i (fun x => { x with done := x.done + n })).trans hr')

@[simp] theorem startDrain_course (r : Run) (i n : Nat) : (r.startDrain i n).course = r.course := by
  unfold Run.startDrain
  split
  · rfl
  · extract_lets head cmd r'
    have hr' : r'.course = r.course :=
      List.foldlRecOn (motive := fun (y : Run) => y.course = r.course) _ _ rfl fun y hy k _ => hy
    exact (modStream_course r' false i (fun x => { x with done := x.done + n })).trans hr'

@[simp] theorem advance_course (old r : Run) (b : Bundle) : (old.advance r b).course = r.course := by
  unfold Run.advance
  extract_lets fillCar drainCar up r1 r2 r3 r4 r5
  clear_value fillCar drainCar
  have hup : ∀ (r : Run) o f, (up r o f).course = r.course := fun r o f => by cases o <;> rfl
  have h4 : r4.course = r3.course := by
    simp only [r4]
    split <;> rfl
  have h5 : r5.course = r4.course := by
    simp only [r5]
    split <;> rfl
  calc _ = r5.course := by split <;> rfl
    _ = r.course := by rw [h5, h4, hup, hup, hup]

/-- Cycles of the issue of a bundle (R165, R172). -/
def Bundle.cycles (b : Bundle) : Nat := 1 + (if b.sop = 3 then b.arg else 0)

/-! ### What a bundle's slots leave of the state -/

/-- Two states differ at most in the DPA space. -/
def MemOnly (s t : State) : Prop := t = { s with mem := t.mem }

theorem MemOnly.trans {s t u : State} (h : MemOnly s t) (g : MemOnly t u) : MemOnly s u := by
  unfold MemOnly at *
  rw [g, h]

theorem MemOnly.foldl {α : Type} {f : State → α → State} (hf : ∀ s a, MemOnly s (f s a)) (l : List α) (s : State) :
    MemOnly s (l.foldl f s) :=
  List.foldlRecOn (motive := MemOnly s) l f rfl fun u hu a _ => hu.trans (hf u a)

theorem MemOnly.padWrite (s : State) (t a : Nat) (bs : List Byte) : MemOnly s (s.padWrite t a bs) := rfl

theorem MemOnly.slotWrite (s : State) (t : Nat) (c : CarouselCfg) (ptr off : Nat) (bs : List Byte) :
    MemOnly s (s.slotWrite t c ptr off bs) := MemOnly.foldl (fun u _ => MemOnly.padWrite u t _ _) _ s

theorem MemOnly.drainAcc (s : State) (t : Nat) (r : Run) (o : ArrayOp) : MemOnly s (s.drainAcc t r o).1 := by
  refine List.foldlRecOn (motive := fun (y : State × Run) => MemOnly s y.1) _ _ rfl fun y hy k _ => hy.trans ?_
  dsimp only
  unfold State.writeValues
  dsimp only
  split
  · exact MemOnly.slotWrite _ _ _ _ _ _
  · exact (MemOnly.slotWrite _ _ _ _ _ _).trans (MemOnly.slotWrite _ _ _ _ _ _)

theorem FabricOnly.startFill (s : State) (r : Run) (i n : Nat) : FabricOnly s (s.startFill r i n).1 := by
  unfold State.startFill
  split
  · rfl
  · exact (pumpDma_spec s _).1

/-- Two states differ at most in the DPA space and the fabric. -/
def MemAndFabric (s t : State) : Prop := t = { s with mem := t.mem, fabric := t.fabric }

theorem MemOnly.fabric {s t u : State} (h : MemOnly s t) (g : FabricOnly t u) : MemAndFabric s u := by
  unfold MemAndFabric
  rw [g, h]

/-! ### A bundle issues -/

/-- The tile of a run that has issued a bundle. -/
def Tile.issued (x : Tile) (r : Run) (b : Bundle) (now : Nat) : Tile :=
  { x with mode := .running, run := some { r.sequence b with freeze := none, arrayWait := false, endNs := now } }

/-- A bundle issues: memory and the fabric may change; the run goes on in its course by its sequencer slot and its cycles. -/
theorem issueBundle_spec (s : State) (t : Nat) (r : Run) (b : Bundle) :
    ∃ (u : State) (r' : Run), s.issueBundle t r b = u.modTile t (fun x => x.issued r' b s.now) ∧ MemAndFabric s u ∧
      r'.place = r.place ∧ r'.cycles = r.cycles + b.cycles * 2 ^ (s.tile t).issueLog2 := by
  unfold State.issueBundle
  extract_lets x counted r1 r2 y3 r5 r6 y7 r8 r9 r10
  have hcounted : counted.course = r.course :=
    List.foldlRecOn (motive := fun (y : Run) => y.course = r.course) _ _ rfl fun y hy a _ => hy
  have h1 : r1.course = counted.course := by
    simp only [r1]
    split
    · split
      · exact loadAcc_course _ _ _ _
      · rfl
    · rfl
  have h2 : r2.course = r1.course := by
    simp only [r2]
    split
    · split <;> rfl
    · rfl
  have h3 : MemOnly s y3.1 ∧ y3.2.course = r2.course := by
    simp only [y3]
    split
    · split
      · exact ⟨MemOnly.drainAcc _ _ _ _, drainAcc_course _ _ _ _⟩
      · exact ⟨rfl, rfl⟩
    · exact ⟨rfl, rfl⟩
  have h5 : r5.course = y3.2.course := by
    simp only [r5]
    split
    · split
      · rfl
      · split
        · rfl
        · exact vecOp_course _ _
    · rfl
  have h6 : r6.course = r5.course := by
    simp only [r6]
    split
    · exact startArray_course _ _
    · rfl
  have h7 : FabricOnly y3.1 y7.1 ∧ y7.2.course = r6.course := by
    simp only [y7]
    split
    · exact ⟨FabricOnly.startFill _ _ _ _, startFill_course _ _ _ _⟩
    · exact ⟨rfl, rfl⟩
  have h8 : r8.course = y7.2.course := by
    simp only [r8]
    split
    · exact modStream_course _ _ _ _
    · rfl
  have h9 : r9.course = r8.course := by
    simp only [r9]
    split
    · exact startDrain_course _ _ _
    · rfl
  have hrun : (r.advance r9 b).course = r.course := by
    rw [advance_course, h9, h8, h7.2, h6, h5, h3.2, h2, h1, hcounted]
  obtain ⟨hplace, hcycles⟩ := Prod.ext_iff.1 hrun
  exact ⟨y7.1, r10, rfl, h3.1.fabric h7.1, hplace, congrArg (· + b.cycles * 2 ^ (s.tile t).issueLog2) hcycles⟩

/-- The sequencer slot goes by where the run stands. -/
theorem sequence_place {r r' : Run} (h : r'.place = r.place) (b : Bundle) : (r'.sequence b).place = (r.sequence b).place := by
  simp only [Run.place, Prod.mk.injEq] at h
  obtain ⟨hpc, hloops, hend, hended, hbundles, htask⟩ := h
  unfold Run.sequence Run.place
  rw [hpc, hloops]
  split
  · simp [*]
  · split
    · split
      · split <;> simp [*]
      · simp [*]
    · split <;> simp [*]

theorem sequence_keeps (r : Run) (b : Bundle) :
    (r.sequence b).cycles = r.cycles ∧ (r.sequence b).ended = r.ended ∧ (r.sequence b).bundles = r.bundles ∧ (r.sequence b).task = r.task := by
  unfold Run.sequence
  repeat' split
  all_goals exact ⟨rfl, rfl, rfl, rfl⟩

theorem sequence_data (r : Run) (b : Bundle) :
    (r.sequence b).cars = r.cars ∧ (r.sequence b).acc = r.acc ∧ (r.sequence b).vregs = r.vregs := by
  unfold Run.sequence
  repeat' split
  all_goals exact ⟨rfl, rfl, rfl⟩

/-- What every issue of a bundle shows: the sequencer has moved on, its cycles are counted, and of the package only memory and
the fabric may differ beside the tile (R165, R172). -/
structure IssuedIn (s : State) (k : Nat) (r : Run) (b : Bundle) (t : State) (r' : Run) : Prop where
  mode : (t.tile k).mode = .running
  run : (t.tile k).run = some r'
  freeze : r'.freeze = none
  place : r'.place = (r.sequence b).place
  cycles : r'.cycles = r.cycles + b.cycles * 2 ^ (s.tile k).issueLog2
  parts : t.parts = s.parts
  sec : t.sec = s.sec

theorem issueBundle_issued (s : State) (k : Nat) (r : Run) (b : Bundle) : ∃ r', IssuedIn s k r b (s.issueBundle k r b) r' := by
  obtain ⟨u, r', he, hu, hplace, hcycles⟩ := issueBundle_spec s k r b
  rw [he]
  refine ⟨{ r'.sequence b with freeze := none, arrayWait := false, endNs := s.now }, ?_, ?_, rfl, ?_, ?_, ?_, ?_⟩
  · rw [tile_modTile_same]
    rfl
  · rw [tile_modTile_same]
    rfl
  · exact sequence_place hplace b
  · exact (sequence_keeps r' b).1.trans hcycles
  · exact (congrArg State.parts hu :)
  · exact (congrArg State.sec hu :)

theorem IssuedIn.stands {s t : State} {k : Nat} {r r' : Run} {b : Bundle} (h : IssuedIn s k r b t r') :
    r'.pc = (r.sequence b).pc ∧ r'.loops = (r.sequence b).loops ∧ r'.atEnd = (r.sequence b).atEnd ∧ r'.ended = r.ended ∧
      r'.bundles = r.bundles ∧ r'.task = r.task := by
  have hp := h.place
  simp only [Run.place, Prod.mk.injEq] at hp
  obtain ⟨-, he, hb, ht⟩ := sequence_keeps r b
  rwa [he, hb, ht] at hp

/-- A bundle whose slots name no operation of the array, the vector unit, tile DMA or a carousel changes only the course. -/
theorem issueBundle_idle (s : State) (t : Nat) (r : Run) {b : Bundle} (ha : b.array = none) (hv : b.vec = none) (hf : b.fill = none)
    (hs : b.skip = none) (hd : b.drain = none) (hh : b.advHead = none) (ht : b.advTail = none) :
    (s.issueBundle t r b).mem = s.mem ∧ (s.issueBundle t r b).fabric = s.fabric ∧
      ∀ r', ((s.issueBundle t r b).tile t).run = some r' → r'.cars = r.cars ∧ r'.acc = r.acc ∧ r'.vregs = r.vregs := by
  have he : s.issueBundle t r b = s.modTile t (fun x => x.issued (r.addCycles (s.tile t).issueLog2 b.cycles) b s.now) := by
    simp only [State.issueBundle, Run.slotsOf, Run.advance, ha, hv, hf, hs, hd, hh, ht, List.append_nil, List.foldl_nil, Option.bind_none]
    rfl
  rw [he]
  refine ⟨rfl, rfl, fun r' hr' => ?_⟩
  rw [tile_modTile_same] at hr'
  obtain rfl := Option.some.inj hr'
  exact sequence_data _ b

/-! ### BUNDLE_ISSUE -/

theorem exec_bundleIssue (k : TileNo) (s : State) : exec (.bundleIssue k) s = execBundleIssue k s := rfl
theorem exec_programLoaded (k : TileNo) (s : State) : exec (.programLoaded k) s = execProgramLoaded k s := rfl
theorem exec_arrayFree (k : TileNo) (s : State) : exec (.arrayFree k) s = execArrayFree k s := rfl
theorem exec_blockRunEnd (k : TileNo) (f : Option CellFault) (s : State) : exec (.blockRunEnd k f) s = execBlockRunEnd k f s := rfl
theorem exec_freezeRelease (k : TileNo) (s : State) : exec (.freezeRelease k) s = execFreezeRelease k s := rfl

theorem tryIssue_undecoded {s : State} {k : Nat} {r : Run} (h : (r.bundles[r.pc]?).bind decodeBundle = none) :
    s.tryIssue k r = s.stopRun k .malformed := by
  simp only [State.tryIssue, h]

section
variable {s : State} {k : Nat} {r : Run} {b : Bundle} (hb : (r.bundles[r.pc]?).bind decodeBundle = some b)
include hb

theorem tryIssue_misfit (h : r.bundleOk b = false) : s.tryIssue k r = s.stopRun k .malformed := by
  simp only [State.tryIssue, hb, h, Bool.not_false, if_true]

variable (hok : r.bundleOk b = true)
include hok

theorem tryIssue_busy (h1 : b.array.isSome = true) (h2 : r.array.isSome = true) :
    s.tryIssue k r = s.modTile k (fun x => { x with run := some { r with arrayWait := true } }) := by
  simp only [State.tryIssue, hb, hok, h1, h2, Bool.not_true, Bool.false_eq_true, if_false, Bool.and_self, if_true]

variable (hfree : b.array = none ∨ r.array = none)
include hfree

/-- The array is free for the bundle: it waits for its cycle, freezes the tile, or issues. -/
theorem tryIssue_free : s.tryIssue k r = if r.notYet b then s
    else if (r.freezeCauses b).isEmpty then s.issueBundle k r b
    else s.modTile k (fun x => { x with
      mode := .frozen, run := some { r with freeze := some { causes := r.freezeCauses b, startNs := s.now, countedNs := s.now } } }) := by
  have hbusy : (b.array.isSome && r.array.isSome) = false := by rcases hfree with h | h <;> simp [h]
  simp only [State.tryIssue, hb, hok, hbusy, Bool.not_true, Bool.false_eq_true, if_false]

end

section
variable {s : State} {k : TileNo} (hs : s.serving)
include hs

theorem programCommands_idle (hr : (s.tile k.val).run = none) :
    exec (.bundleIssue k) s = .next s ∧ exec (.programLoaded k) s = .next s ∧ exec (.arrayFree k) s = .next s ∧
      (∀ f, exec (.blockRunEnd k f) s = .next s) ∧ exec (.freezeRelease k) s = .next s := by
  simp only [exec_bundleIssue, execBundleIssue, exec_programLoaded, execProgramLoaded, exec_arrayFree, execArrayFree, exec_blockRunEnd,
    execBlockRunEnd, exec_freezeRelease, execFreezeRelease, inService_next hs, hr, implies_true, and_self]

variable {r : Run} (hr : (s.tile k.val).run = some r)
include hr

theorem programLoaded_next (hm : (s.tile k.val).mode = .loading) (he : r.ended = none)
    (hw : s.withdrawnIn r.task.desc.program r.task.desc.programLen = none) :
    exec (.programLoaded k) s = .next (s.modTile k.val (fun x => { x with
      mode := .running,
      codeCache := cacheProgram x.codeCache ⟨r.task.desc.program, bundlesOf (s.readDpa r.task.desc.program r.task.desc.programLen)⟩,
      run := some { r with bundles := bundlesOf (s.readDpa r.task.desc.program r.task.desc.programLen),
                           codeLoadCycles := x.cyclesOf (s.time - r.placedAt) } })) := by
  rw [exec_programLoaded, execProgramLoaded, inService_next hs]
  simp [hr, hm, he, hw]

theorem bundleIssue_held (h : (s.tile k.val).mode ≠ .running ∨ r.ended.isSome = true ∨ r.atEnd = true ∨ r.arrayWait = true) :
    exec (.bundleIssue k) s = .next s := by
  rw [exec_bundleIssue, execBundleIssue, inService_next hs]
  simp only [hr]
  rw [if_neg]
  rcases h with h | h | h | h
  · simp [h]
  · obtain ⟨e, he⟩ := Option.isSome_iff_exists.1 h
    simp [he]
  · simp [h]
  · simp [h]

theorem bundleIssue_next (hm : (s.tile k.val).mode = .running) (he : r.ended = none) (ha : r.atEnd = false) (hw : r.arrayWait = false) :
    exec (.bundleIssue k) s = .next (s.tryIssue k.val r) := by
  rw [exec_bundleIssue, execBundleIssue, inService_next hs]
  simp [hr, hm, he, ha, hw]

end

/-! ### FREEZE_RELEASE and FREEZE_EXPIRY -/

/-- A freeze that outlasts TILE_HOLD_LIMIT ends its run (R141). -/
theorem expireFreeze_spec {s : State} {k : Nat} {r : Run} {f : Freeze} (hr : (s.tile k).run = some r) (hf : r.freeze = some f) :
    ∃ hold r', RunsKept (s.setTile k { s.tile k with mode := (s.tile k).mode.thawed, dbgHold := hold,
                                                     run := some (r'.stop .freezeExpired s.now) }) (s.expireFreeze k r) ∧
      FreezeClosed r r' ∧ r'.cycles = r.cycles + (s.tile k).cyclesOf (s.now - f.startNs) := by
  obtain ⟨hold, r', hev, hclosed, hcycles⟩ :=
    stopRun_of_some (s := s.dropAnswers (r.fills.flatMap FillOp.xids)) hr hf .freezeExpired
  refine ⟨hold, r', ?_, hclosed, hcycles⟩
  have h := hev.runsKept.trans (RunsKept.testTile _ k)
  exact ⟨h.mem, h.sec, h.now, h.tile, h.mode⟩

/-- What a run holds that ends does not go by its freeze. -/
theorem FreezeMoved.stopped {r r' r'' : Run} (h : FreezeMoved r r') {e : RunEnd} (g : StoppedAs r' r'' e) : StoppedAs r r'' e := by
  rw [h] at g
  exact ⟨g.ended, g.freeze, g.fills, g.drains, g.array, g.writes, g.task, g.check⟩

/-- The freeze of run `r` on tile `k` has cleared, with cause list `l` at time `c`. -/
structure ClearedAt (s : State) (k : Nat) (r : Run) (f : Freeze) (l : List FreezeCause) (c : Nat) : Prop where
  run : (s.tile k).run = some r
  freeze : r.freeze = some f
  cleared : f.cleared = some (l, c)

section
variable {s : State} {k : Nat} {r : Run} {f : Freeze} {l : List FreezeCause} {c : Nat} (h : ClearedAt s k r f l c)
  {b : Bundle} (hb : (r.bundles[r.pc]?).bind decodeBundle = some b)
include h hb

theorem releaseFreeze_expired (hl : s.reg .tileHoldLimit < c - f.startNs) : s.releaseFreeze k = s.expireFreeze k r := by
  obtain ⟨hr, hf, hc⟩ := h
  unfold State.releaseFreeze
  simp only [hr, hf, Option.bind_some, hb, hc, hl, if_true]

/-- The held bundle issues, in a state that differs by its tile and by the event of a long hold (R136, R138, R140). -/
theorem releaseFreeze_issues (hl : c - f.startNs ≤ s.reg .tileHoldLimit) :
    ∃ (u : State) (hold : Nat) (r' : Run),
      EventsOnly (s.setTile k { s.tile k with mode := (s.tile k).mode.thawed, dbgHold := hold, run := some r' }) u ∧
      s.releaseFreeze k = u.issueBundle k r' b ∧ FreezeClosed r r' ∧
      r'.cycles = r.cycles + (s.tile k).cyclesOf (c - f.startNs) + 2 := by
  obtain ⟨hr, hf, hc⟩ := h
  obtain ⟨hold, r', hev, hclosed, hcycles⟩ := closeFreeze_of_some hr hf true
  refine ⟨_, hold, r', hev, ?_, hclosed, by rw [hcycles, f.until_cleared hc]; rfl⟩
  have hr' : ((s.closeFreeze k true).tile k).run = some r' := by rw [tile_of_tiles hev.tiles, tile_setTile_same]
  unfold State.releaseFreeze
  simp only [hr, hf, Option.bind_some, hb, hc, Nat.not_lt.2 hl, if_false, hr']

end

theorem releaseFreeze_of_uncleared {s : State} {k : Nat} {r : Run} {f : Freeze} (hr : (s.tile k).run = some r) (hf : r.freeze = some f)
    (hc : f.cleared = none) : s.releaseFreeze k = s := by
  unfold State.releaseFreeze
  cases hb : (r.bundles[r.pc]?).bind decodeBundle with
  | none => simp only [hr, hf, Option.bind_some, hb]
  | some b => simp only [hr, hf, Option.bind_some, hb, hc]

/-- With its last cause cleared, the freeze is looked at in a state that differs by its tile alone. -/
theorem recheckFreeze_clears {s : State} {k : Nat} {r : Run} {f : Freeze} {b : Bundle} (hr : (s.tile k).run = some r)
    (hf : r.freeze = some f) (hb : (r.bundles[r.pc]?).bind decodeBundle = some b) {c : Nat}
    (hc : c = s.now ∧ f.cleared = none ∧ r.freezeCauses b = [] ∨ ∃ l, f.cleared = some (l, c)) :
    ∃ hold r' g l, s.recheckFreeze k = s.setTile k { s.tile k with dbgHold := hold, run := some r' } ∧
      FreezeMoved r r' ∧ r'.freeze = some g ∧ g.cleared = some (l, c) ∧ g.startNs = f.startNs := by
  rcases hc with ⟨rfl, hc, hl⟩ | ⟨l, hc⟩
  · obtain ⟨hold, r', g, hre, hmoved, hg, hstart, -, hcleared⟩ := recheckFreeze_of_uncleared hr hf hb hc
    rw [if_pos (by simp [hl])] at hcleared
    exact ⟨hold, r', g, _, hre, hmoved, hg, hcleared, hstart⟩
  · refine ⟨(s.tile k).dbgHold, r, f, l, ?_, rfl, hf, hc, rfl⟩
    rw [recheckFreeze_of_cleared hr hf (by simp [hc]), ← hr, setTile_tile hr]

section
variable {s : State} {k : TileNo} (hs : s.serving) {r : Run} (hr : (s.tile k.val).run = some r)
include hs hr

theorem freezeRelease_held (h : (s.tile k.val).mode ≠ .frozen ∨ r.ended.isSome = true) : exec (.freezeRelease k) s = .next s := by
  rw [exec_freezeRelease, execFreezeRelease, inService_next hs]
  simp only [hr]
  rw [if_neg]
  rcases h with h | h
  · simp [h]
  · obtain ⟨e, he⟩ := Option.isSome_iff_exists.1 h
    simp [he]

variable (hm : (s.tile k.val).mode = .frozen) (he : r.ended = none)
include hm he

theorem freezeRelease_next : exec (.freezeRelease k) s = .next ((s.recheckFreeze k.val).releaseFreeze k.val) := by
  rw [exec_freezeRelease, execFreezeRelease, inService_next hs]
  simp [hr, hm, he]

variable {f : Freeze} {b : Bundle} (hf : r.freeze = some f) (hb : (r.bundles[r.pc]?).bind decodeBundle = some b)
include hf hb

/-- A freeze whose causes hold goes on (R136). -/
theorem freezeRelease_goesOn (hc : f.cleared = none) (hl : r.freezeCauses b ≠ []) :
    ∃ t r' g, exec (.freezeRelease k) s = .next t ∧ (t.tile k.val).mode = .frozen ∧
      (t.tile k.val).run = some r' ∧ r'.freeze = some g ∧ g.causes = r.freezeCauses b ∧ g.cleared = none ∧ g.startNs = f.startNs ∧
      r'.pc = r.pc ∧ r'.cycles = r.cycles ∧ t.mem = s.mem ∧ t.parts = s.parts ∧ t.sec = s.sec := by
  obtain ⟨hold, r', g, hre, hmoved, hg, hstart, hcauses, hcleared⟩ := recheckFreeze_of_uncleared hr hf hb hc
  rw [if_neg (by simpa using hl)] at hcleared
  have hr' : ((s.setTile k.val { s.tile k.val with dbgHold := hold, run := some r' }).tile k.val).run = some r' := by
    rw [tile_setTile_same]
  rw [freezeRelease_next hs hr hm he, hre, releaseFreeze_of_uncleared hr' hg hcleared]
  exact ⟨_, r', g, rfl, by rw [tile_setTile_same]; exact hm, hr', hg, hcauses, hcleared, hstart, by rw [hmoved], by rw [hmoved],
    rfl, rfl, rfl⟩

theorem freezeRelease_issues {c : Nat} (hc : c = s.now ∧ f.cleared = none ∧ r.freezeCauses b = [] ∨ ∃ l, f.cleared = some (l, c))
    (hl : c - f.startNs ≤ s.reg .tileHoldLimit) :
    ∃ t r', exec (.freezeRelease k) s = .next t ∧ (t.tile k.val).mode = .running ∧
      (t.tile k.val).run = some r' ∧ r'.freeze = none ∧ r'.pc = (r.sequence b).pc ∧ r'.ended = none ∧ t.sec = s.sec ∧
      r'.cycles = r.cycles + (s.tile k.val).cyclesOf (c - f.startNs) + 2 + b.cycles * 2 ^ (s.tile k.val).issueLog2 := by
  obtain ⟨hold, r1, g, l, hre, hmoved, hg, hcleared, hstart⟩ := recheckFreeze_clears hr hf hb hc
  have hat : ClearedAt (s.setTile k.val { s.tile k.val with dbgHold := hold, run := some r1 }) k.val r1 g l c :=
    ⟨by rw [tile_setTile_same], hg, hcleared⟩
  have hb1 : (r1.bundles[r1.pc]?).bind decodeBundle = some b := by rw [hmoved]; exact hb
  obtain ⟨u, hold', r2, hev, hissue, hclosed, hcycles⟩ := releaseFreeze_issues hat hb1 (by rw [hstart]; exact hl)
  obtain ⟨r', hi⟩ := issueBundle_issued u k.val r2 b
  have hplace : r2.place = r.place := by rw [hclosed, hmoved]; rfl
  have htile := tile_of_tiles hev.tiles k.val
  obtain ⟨hpc, -, -, hended, -, -⟩ := hi.stands
  refine ⟨_, r', by rw [freezeRelease_next hs hr hm he, hre, hissue], hi.mode, hi.run, hi.freeze, ?_, ?_, hi.sec.trans hev.sec, ?_⟩
  · exact hpc.trans (congrArg Prod.fst (sequence_place hplace b))
  · rw [hended, ← he]
    exact congrArg (fun x => x.2.2.2.1) hplace
  · rw [hi.cycles, hcycles, htile, hstart]
    simp only [tile_setTile_same]
    rw [hmoved]
    rfl

theorem freezeRelease_expires {c : Nat} (hc : c = s.now ∧ f.cleared = none ∧ r.freezeCauses b = [] ∨ ∃ l, f.cleared = some (l, c))
    (hl : s.reg .tileHoldLimit < c - f.startNs) :
    ∃ t r', exec (.freezeRelease k) s = .next t ∧ (t.tile k.val).run = some r' ∧
      StoppedAs r r' .freezeExpired ∧ t.mem = s.mem ∧ t.sec = s.sec := by
  obtain ⟨hold, r1, g, l, hre, hmoved, hg, hcleared, hstart⟩ := recheckFreeze_clears hr hf hb hc
  have hat : ClearedAt (s.setTile k.val { s.tile k.val with dbgHold := hold, run := some r1 }) k.val r1 g l c :=
    ⟨by rw [tile_setTile_same], hg, hcleared⟩
  have hb1 : (r1.bundles[r1.pc]?).bind decodeBundle = some b := by rw [hmoved]; exact hb
  obtain ⟨hold', r2, hkept, hclosed, -⟩ := expireFreeze_spec hat.run hg
  have hstop := hclosed.stop (by rw [hmoved]; exact he) .freezeExpired s.now
  refine ⟨_, r2.stop .freezeExpired s.now, by
    rw [freezeRelease_next hs hr hm he, hre, releaseFreeze_expired hat hb1 (by rw [hstart]; exact hl)], ?_, ?_, hkept.mem, hkept.sec⟩
  · rw [hkept.run, tile_setTile_same]
    rfl
  · exact hmoved.stopped hstop

end

/-! ### BLOCK_RUN_END and ARRAY_FREE -/

/-- An arithmetic check or an overflow ends the run (R205 to R207). -/
theorem raiseArithmetic_spec (s : State) (k : Nat) {r : Run} (he : r.ended = none) (check overflow : Bool) :
    ∃ mode hold r', RunsKept (s.setTile k { s.tile k with mode := mode, dbgHold := hold, run := some r' })
        (s.raiseArithmetic k r check overflow) ∧
      StoppedAs { r with arrayCheck := r.arrayCheck || check } r' .arithmetic := by
  unfold State.raiseArithmetic
  extract_lets x sub s1 s2 s3
  have hr : (s1.tile k).run = some { r with arrayCheck := r.arrayCheck || check, overflow := r.overflow || overflow } := by
    simp only [s1, tile_modTile_same]
  obtain ⟨mode, hold, r', hkept, hstop⟩ := stopRun_stopped hr he .arithmetic
  simp only [s1, tile_modTile_same, setTile_modTile] at hkept
  have h3 : EventsOnly s2 s3 := EventsOnly.raiseEventIf s2 (check = true) r.part evArrayCheck sub 0
  have h4 := EventsOnly.raiseEventIf s3 (overflow = true) r.part evNarrowOverflow sub 0
  exact ⟨mode, hold, r', ((hkept.trans h3.runsKept).trans h4.runsKept).trans (RunsKept.testTile _ k), hstop.ended, hstop.freeze,
    hstop.fills, hstop.drains, hstop.array, hstop.writes, hstop.task, hstop.check⟩

/-- The operation in the array has no block run left (R160). -/
def ArrayRun.past (a : ArrayRun) : Bool :=
  match a.op.kind with
  | .run | .runAcc => decide (a.op.blocks ≤ a.block)
  | _ => true

theorem ArrayRun.past_eq (a : ArrayRun) : a.past = decide (a.op.kind ≠ .run ∧ a.op.kind ≠ .runAcc ∨ a.op.blocks ≤ a.block) := by
  unfold ArrayRun.past
  cases a.op.kind <;> simp

/-- The run once the array is free again. -/
def Run.arrayFreed (r : Run) (issueLog2 : Nat) : Run :=
  { r.addCycles issueLog2 r.arrayBusy with array := none, arrayBusy := 0, arrayWait := false }

/-- The state once the array of run `r` on tile `k` is free again. -/
def State.arrayFreed (s : State) (k : Nat) (r : Run) : State :=
  s.modTile k (fun x => { x with run := some (r.arrayFreed x.issueLog2) })

section
variable {s : State} {k : TileNo} (hs : s.serving) {r : Run} (hr : (s.tile k.val).run = some r)
include hs hr

theorem arrayCommands_none (ha : r.array = none) : exec (.arrayFree k) s = .next s ∧ ∀ f, exec (.blockRunEnd k f) s = .next s := by
  simp only [exec_arrayFree, execArrayFree, exec_blockRunEnd, execBlockRunEnd, inService_next hs, hr, ha, implies_true, and_self]

variable {a : ArrayRun} (ha : r.array = some a)
include ha

theorem arrayFree_eq : exec (.arrayFree k) s = .next (
    if a.past && r.ended.isNone && (s.tile k.val).mode = .running && (r.arrayWait || r.atEnd || r.arrayBusy = 0) then
      (if r.arrayWait then (s.arrayFreed k.val r).tryIssue k.val (r.arrayFreed (s.tile k.val).issueLog2) else s.arrayFreed k.val r)
    else s) := by
  rw [exec_arrayFree, execArrayFree, inService_next hs]
  simp only [hr, ha]
  rfl

theorem blockRunEnd_eq (f : Option CellFault) : exec (.blockRunEnd k f) s = .next (
    if r.blockEnds a && (s.tile k.val).mode = .running && r.ended.isNone then
      (if (s.blockRun k.val r a f).2.1 || (s.blockRun k.val r a f).2.2 then
        s.raiseArithmetic k.val (s.blockRun k.val r a f).1 (s.blockRun k.val r a f).2.2 (s.blockRun k.val r a f).2.1
      else s.modTile k.val (fun x => { x with run := some (s.blockRun k.val r a f).1 }))
    else s) := by
  rw [exec_blockRunEnd, execBlockRunEnd, inService_next hs]
  simp only [hr, ha]

theorem arrayCommands_held (h : (s.tile k.val).mode ≠ .running ∨ r.ended.isSome = true) :
    exec (.arrayFree k) s = .next s ∧ ∀ f, exec (.blockRunEnd k f) s = .next s := by
  have hno : ¬ ((s.tile k.val).mode = .running ∧ r.ended.isNone = true) := by
    rintro ⟨hm, he⟩
    rcases h with h | h
    · exact h hm
    · simp [Option.isNone_iff_eq_none.1 he] at h
  refine ⟨?_, fun f => ?_⟩
  · rw [arrayFree_eq hs hr ha, if_neg (fun h => hno (by simp_all))]
  · rw [blockRunEnd_eq hs hr ha, if_neg (fun h => hno (by simp_all))]

theorem blockRunEnd_early (h : r.blockEnds a = false) (f : Option CellFault) : exec (.blockRunEnd k f) s = .next s := by
  rw [blockRunEnd_eq hs hr ha, if_neg (by simp [h])]

variable (he : r.ended = none) (hm : (s.tile k.val).mode = .running)
include he hm

theorem blockRunEnd_clean (h : r.blockEnds a = true) {f : Option CellFault} (hx : (s.blockRun k.val r a f).2 = (false, false)) :
    exec (.blockRunEnd k f) s = .next (s.modTile k.val (fun x => { x with run := some (s.blockRun k.val r a f).1 })) := by
  rw [blockRunEnd_eq hs hr ha, if_pos (by simp [h, hm, he]), if_neg (by simp [hx])]

/-- A block run with a failed residue check or an overflow ends the run (R205). -/
theorem blockRunEnd_raises (h : r.blockEnds a = true) {f : Option CellFault} (hx : (s.blockRun k.val r a f).2 ≠ (false, false)) :
    ∃ t r', exec (.blockRunEnd k f) s = .next t ∧ (t.tile k.val).run = some r' ∧ r'.ended = some .arithmetic ∧ r'.array = none ∧
      r'.fills = [] ∧ r'.drains = [] ∧ t.mem = s.mem ∧ t.sec = s.sec := by
  have hbad : ((s.blockRun k.val r a f).2.1 || (s.blockRun k.val r a f).2.2) = true := by
    by_contra hno
    simp only [Bool.or_eq_true, not_or, Bool.not_eq_true] at hno
    exact hx (Prod.ext hno.1 hno.2)
  obtain ⟨mode, hold, r', hkept, hstop⟩ := raiseArithmetic_spec s k.val (r := (s.blockRun k.val r a f).1) he
    (s.blockRun k.val r a f).2.2 (s.blockRun k.val r a f).2.1
  refine ⟨_, r', by rw [blockRunEnd_eq hs hr ha, if_pos (by simp [h, hm, he]), if_pos hbad], ?_, hstop.ended, hstop.array, hstop.fills,
    hstop.drains, hkept.mem, hkept.sec⟩
  rw [hkept.run, tile_setTile_same]

/-- The bundle that waited for the array issues as BUNDLE_ISSUE would issue it. -/
theorem arrayFree_issues (hp : a.past = true) (hw : r.arrayWait = true) (hend : r.atEnd = false) :
    exec (.arrayFree k) s = exec (.bundleIssue k) (s.arrayFreed k.val r) := by
  have hr' : ((s.arrayFreed k.val r).tile k.val).run = some (r.arrayFreed (s.tile k.val).issueLog2) := by
    rw [State.arrayFreed, tile_modTile_same]
  have hm' : ((s.arrayFreed k.val r).tile k.val).mode = .running := by
    rw [State.arrayFreed, tile_modTile_same]
    exact hm
  rw [arrayFree_eq hs hr ha, if_pos (by simp [hp, hm, he, hw]), if_pos hw]
  exact (bundleIssue_next (s := s.arrayFreed k.val r) hs hr' hm' he hend rfl).symm

end

/-- Settles O57: the commands of a program by the branches of issue, of the freeze and of the array. -/
theorem bundlesIssueOrFreeze : Obligations.BundlesIssueOrFreeze := by
  intro s k hs
  refine ⟨programCommands_idle hs, fun r hr => ⟨programLoaded_next hs hr, bundleIssue_held hs hr, fun hm he ha hw hf => ⟨fun hb => ?_,
    fun b hb => ⟨fun hok => ?_, fun hok h1 h2 => ?_, fun hok hfree hn => ?_, fun hok hfree hn hc => ?_, fun hok hfree hn hc => ?_⟩⟩,
    freezeRelease_held hs hr, fun f b hf hb hm he => ⟨freezeRelease_goesOn hs hr hm he hf hb, fun c hc => ⟨?_, fun hl => ?_⟩⟩,
    fun h => ?_, fun a ha he hm => ⟨blockRunEnd_early hs hr ha, fun h f => ⟨blockRunEnd_clean hs hr ha he hm h,
      blockRunEnd_raises hs hr ha he hm h⟩, fun h => ?_, fun hp hw h => ?_, fun hp => ?_⟩⟩⟩
  · rw [bundleIssue_next hs hr hm he ha hw, tryIssue_undecoded hb, stopRun_of_none hr hf]
  · rw [bundleIssue_next hs hr hm he ha hw, tryIssue_misfit hb hok, stopRun_of_none hr hf]
  · rw [bundleIssue_next hs hr hm he ha hw, tryIssue_busy hb hok h1 h2]
  · rw [bundleIssue_next hs hr hm he ha hw, tryIssue_free hb hok hfree, if_pos hn]
  · rw [bundleIssue_next hs hr hm he ha hw, tryIssue_free hb hok hfree, if_neg (by simp [hn]), if_neg (by simpa using hc)]
  · obtain ⟨r', hi⟩ := issueBundle_issued s k.val r b
    obtain ⟨hpc, hloops, hend, hended, hbundles, htask⟩ := hi.stands
    refine ⟨_, r', by rw [bundleIssue_next hs hr hm he ha hw, tryIssue_free hb hok hfree, if_neg (by simp [hn]), if_pos (by simp [hc])],
      hi.mode, hi.run, hpc, hloops, hend, hended.trans he, hbundles, htask, hi.freeze, hi.cycles, hi.parts, hi.sec, ?_⟩
    intro h1 h2 h3 h4 h5 h6 h7
    obtain ⟨hmem, hfabric, hdata⟩ := issueBundle_idle s k.val r h1 h2 h3 h4 h5 h6 h7
    exact ⟨hmem, hfabric, hdata r' hi.run⟩
  · exact freezeRelease_issues hs hr hm he hf hb hc
  · obtain ⟨t, r', hx, hrun, hstop, hmem, hsec⟩ := freezeRelease_expires hs hr hm he hf hb hc hl
    exact ⟨t, r', hx, hrun, hstop.ended, hstop.freeze, hstop.fills, hstop.writes, hmem, hsec⟩
  · cases ha : r.array with
    | none => exact arrayCommands_none hs hr ha
    | some a => exact arrayCommands_held hs hr ha (h.resolve_left (by simp [ha]))
  · rw [arrayFree_eq hs hr ha, if_neg]
    rw [ArrayRun.past_eq]
    rcases h with h | ⟨h1, h2, h3⟩
    · simp [h]
    · simp [h1, h2, h3]
  · rw [arrayFree_eq hs hr ha, if_pos (by rw [ArrayRun.past_eq, hp]; rcases h with h | h <;> simp [he, hm, h]), if_neg (by simp [hw])]
    rfl
  · intro hw hend
    exact arrayFree_issues hs hr ha he hm ((ArrayRun.past_eq a).trans hp) hw hend

end Sys2Proof.Machine
end

section
/-! SUPPORT. Fills, drains, banks and scratchpad reads (R95 to R112, R123, R125, R142, R145, R154, R278, R643, R846). -/

namespace Sys2Proof.Machine

theorem exec_fillSlotComplete (k : TileNo) (i : Nat) (s : State) : exec (.fillSlotComplete k i) s = execFillSlotComplete k i s := rfl
theorem exec_fillFailed (k : TileNo) (i : Nat) (c : FillCause) (s : State) : exec (.fillFailed k i c) s = execFillFailed k i c s := rfl
theorem exec_drainSlotReadDone (k : TileNo) (i : Nat) (s : State) : exec (.drainSlotReadDone k i) s = execDrainSlotReadDone k i s := rfl
theorem exec_drainWriteDone (k : TileNo) (i : Nat) (s : State) : exec (.drainWriteDone k i) s = execDrainWriteDone k i s := rfl
theorem exec_bankGrant (k : TileNo) (n : Fin 16) (qs : List BankReq) (s : State) : exec (.bankGrant k n qs) s = execBankGrant k n qs s := rfl
theorem exec_scratchpadReadReturn (k : TileNo) (n : Fin 16) (e : Ecc) (s : State) :
    exec (.scratchpadReadReturn k n e) s = execScratchpadReadReturn k n e s := rfl

theorem MemOnly.parts {s t : State} (h : MemOnly s t) : t.parts = s.parts := (congrArg State.parts h :)
theorem MemOnly.sec {s t : State} (h : MemOnly s t) : t.sec = s.sec := (congrArg State.sec h :)

/-! ### FILL_SLOT_COMPLETE -/

/-- The run once its fill `i`, which is `f`, is in its slot (R123, R976). -/
def Run.filledSlot (r : Run) (f : FillOp) (i : Nat) : Run :=
  { r.modCar f.carousel (fun c => (c.stamp f.ptr).release f.ptr) with fills := r.fills.eraseIdx i }

/-- The scratchpad once the pieces of a fill are in its slot. -/
def State.slotFilled (s : State) (k : Nat) (r : Run) (f : FillOp) (ps : List Piece) : State :=
  (s.gather ps f.xids).foldl (fun s x => s.slotWrite k (r.car f.carousel).cfg f.ptr x.1 x.2) s

theorem MemOnly.slotFilled (s : State) (k : Nat) (r : Run) (f : FillOp) (ps : List Piece) : MemOnly s (s.slotFilled k r f ps) :=
  MemOnly.foldl (fun _ _ => MemOnly.slotWrite _ _ _ _ _ _) _ s

theorem length_eraseIdx_some {α : Type} {xs : List α} {i : Nat} {a : α} (h : xs[i]? = some a) :
    (xs.eraseIdx i).length + 1 = xs.length := by
  obtain ⟨hi, -⟩ := List.getElem?_eq_some_iff.1 h
  rw [List.length_eraseIdx_of_lt hi]
  omega

theorem Run.sent.eraseFill {r : Run} (h : r.sent) (i : Nat) : Run.sent { r with fills := r.fills.eraseIdx i } :=
  ⟨fun f hf => h.1 f (List.mem_of_mem_eraseIdx hf), h.2⟩

theorem Run.sent.eraseWrite {r : Run} (h : r.sent) (i : Nat) : Run.sent { r with writes := r.writes.eraseIdx i } :=
  ⟨h.1, fun d hd => h.2 d (List.mem_of_mem_eraseIdx hd)⟩

section
variable {s : State} {k : TileNo} (hs : s.serving) {r : Run} (hr : (s.tile k.val).run = some r) {i : Nat}
include hs hr

theorem fillSlotComplete_none (h : r.fills[i]? = none) : exec (.fillSlotComplete k i) s = .next s := by
  simp only [exec_fillSlotComplete, execFillSlotComplete, inService_next hs, hr, h]

variable {f : FillOp} {ps : List Piece} (hf : r.fills[i]? = some f) (hps : s.fillPieces r f = some ps)
include hf hps

theorem fillSlotComplete_eq : exec (.fillSlotComplete k i) s = .next (
    if !f.queued.isEmpty then s.dmaGoesOn k.val
    else if r.blockKept f && s.readable ps && !s.piecesHeld ps &&
        f.xids.all (fun x => match s.outcome? x with | some y => decide (y.1 = stOk) | none => false) then
      (((s.slotFilled k.val r f ps).dropAnswers f.xids).modTile k.val (fun x => { x with run := some (r.filledSlot f i) })).dmaGoesOn k.val
    else s) := by
  simp only [exec_fillSlotComplete, execFillSlotComplete, inService_next hs, hr, hf, hps]
  rfl

theorem fillSlotComplete_waits (hq : f.queued = [])
    (h : r.blockKept f = false ∨ s.piecesHeld ps = true ∨ ∃ x ∈ f.xids, s.outcome? x = none) :
    exec (.fillSlotComplete k i) s = .next s := by
  rw [fillSlotComplete_eq hs hr hf hps, if_neg (by simp [hq]), if_neg]
  rcases h with h | h | ⟨x, hx, h⟩
  · simp [h]
  · simp [h]
  · simp only [Bool.and_eq_true, List.all_eq_true, not_and, not_forall]
    exact fun _ => ⟨x, hx, by simp [h]⟩

/-- A fill ends in the state in which its slot is written and its tile's run has it no more; then tile DMA goes on. -/
theorem fillSlotComplete_done (hq : f.queued = []) (hk : r.blockKept f = true) (hread : s.readable ps = true)
    (hheld : s.piecesHeld ps = false) (ha : ∀ x ∈ f.xids, ∃ d, s.outcome? x = some (stOk, d)) :
    ∃ t r', exec (.fillSlotComplete k i) s = .next t ∧ t.sec = s.sec ∧ (t.tile k.val).run = some r' ∧
      r'.cars = (r.filledSlot f i).cars ∧ r'.fills.length + 1 = r.fills.length ∧
      (r.freeze = none ∧ r.sent → t.parts = s.parts ∧ r' = r.filledSlot f i) ∧ t.mem = (s.slotFilled k.val r f ps).mem := by
  have hall : f.xids.all (fun x => match s.outcome? x with | some y => decide (y.1 = stOk) | none => false) = true := by
    refine List.all_eq_true.2 fun x hx => ?_
    obtain ⟨d, hd⟩ := ha x hx
    simp [hd]
  have he := fillSlotComplete_eq hs hr hf hps
  rw [if_neg (by simp [hq]), if_pos (by rw [hall]; simp [hk, hread, hheld])] at he
  have hmem := MemOnly.slotFilled s k.val r f ps
  generalize hu : ((s.slotFilled k.val r f ps).dropAnswers f.xids).modTile k.val (fun x => { x with run := some (r.filledSlot f i) }) = u
    at he
  have hur : (u.tile k.val).run = some (r.filledSlot f i) := by rw [← hu, tile_modTile_same]
  obtain ⟨hkept, r', hr', hon⟩ := dmaGoesOn_spec hur
  refine ⟨_, r', he, ?_, hr', ?_, ?_, fun ⟨hfree, hsent⟩ => ⟨?_, ?_⟩, ?_⟩
  · rw [hkept.sec, ← hu]
    exact hmem.sec
  · rw [hon.run]
  · rw [hon.fills]
    exact length_eraseIdx_some hf
  · rw [hkept.parts, ← hu]
    exact hmem.parts
  · rw [dmaGoesOn_idle hur hfree (hsent.eraseFill i), hur] at hr'
    exact (Option.some.inj hr').symm
  · rw [hkept.mem, ← hu]
    rfl

end

/-! ### FILL_FAILED -/

/-- What is recorded and tested of a fill that failed (R265, R276). -/
def State.noteCause (s : State) : FillCause → State
  | .uncorrectable d => s.uncorrectable d
  | .withdrawn d => s.recordUe d
  | _ => s

theorem TilesKept.noteCause (s : State) (c : FillCause) : TilesKept s (s.noteCause c) := by
  cases c with
  | uncorrectable d => exact TilesKept.uncorrectable s d
  | withdrawn d => exact TilesKept.recordUe s d
  | _ => exact TilesKept.refl s

section
variable {s : State} {k : TileNo} (hs : s.serving) {r : Run} (hr : (s.tile k.val).run = some r) {i : Nat} {c : FillCause}
include hs hr

theorem fillFailed_eq : exec (.fillFailed k i c) s = .next (
    if r.ended.isNone && (r.fills[i]?.isSome || (s.tile k.val).mode = .loading) && s.mayFail r i c then
      ((s.noteCause c).dropAnswers (r.fills.flatMap FillOp.xids)).stopRun k.val (.fillFailed (causeStatus c) (causeDpa c))
    else s) := by
  simp only [exec_fillFailed, execFillFailed, inService_next hs, hr]
  cases c <;> rfl

theorem fillFailed_not (h : s.mayFail r i c = false ∨ r.ended.isSome = true) : exec (.fillFailed k i c) s = .next s := by
  rw [fillFailed_eq hs hr, if_neg]
  rcases h with h | h
  · simp [h]
  · obtain ⟨e, he⟩ := Option.isSome_iff_exists.1 h
    simp [he]

theorem fillFailed_ends (he : r.ended = none) (hi : (r.fills[i]?).isSome = true ∨ (s.tile k.val).mode = .loading)
    (hc : s.mayFail r i c = true) :
    ∃ t r', exec (.fillFailed k i c) s = .next t ∧ (t.tile k.val).run = some r' ∧
      StoppedAs r r' (.fillFailed (causeStatus c) (causeDpa c)) ∧
      (r.freeze = none → r' = r.stop (.fillFailed (causeStatus c) (causeDpa c)) s.now) ∧ t.sec = s.sec := by
  have hx := fillFailed_eq hs hr (i := i) (c := c)
  rw [if_pos (by rcases hi with hi | hi <;> simp [he, hi, hc])] at hx
  have hkept := TilesKept.noteCause s c
  generalize hu : (s.noteCause c).dropAnswers (r.fills.flatMap FillOp.xids) = u at hx
  have hut : TilesKept s u := by
    rw [← hu]
    exact ⟨hkept.tiles, hkept.sec, hkept.now⟩
  have hur : (u.tile k.val).run = some r := by rw [hut.tile, hr]
  obtain ⟨mode, hold, r', hev, hclosed⟩ := stopRun_spec hur (.fillFailed (causeStatus c) (causeDpa c))
  have hrun : ((u.stopRun k.val (.fillFailed (causeStatus c) (causeDpa c))).tile k.val).run =
      some (r'.stop (.fillFailed (causeStatus c) (causeDpa c)) s.now) := by
    rw [tile_of_tiles hev.tiles, tile_setTile_same, hut.now]
  refine ⟨_, _, hx, hrun, hclosed.stop he _ _, fun hf => ?_, hev.sec.trans hut.sec⟩
  rw [stopRun_of_none hur hf, tile_modTile_same, hut.now] at hrun
  exact (Option.some.inj hrun).symm

end

/-! ### DRAIN_SLOT_READ_DONE and DRAIN_WRITE_DONE -/

/-- What a drain reads from its slot (R125, R154). -/
def State.drainData (s : State) (k : Nat) (r : Run) (d : DrainOp) (x : Stream) : List (Nat × List Byte) :=
  ((s.unitPieces x d.unit (r.car d.carousel).cfg.slotRows r.blockLen).getD []).map (fun p =>
    (p.1, s.slotRead k (r.car d.carousel).cfg d.ptr p.2.2 p.2.1))

/-- The run once drain `i`, which is `d`, has read its slot and has `data` to write. -/
def Run.drained (r : Run) (d : DrainOp) (i : Nat) (data : List (Nat × List Byte)) : Run :=
  { r.modCar d.carousel (fun c => c.release d.ptr) with
    drains := r.drains.eraseIdx i, writes := r.writes ++ [{ d with data := data, queued := writeRequests data }],
    checkData := if r.task.desc.check then r.checkData ++ [(d.stream, d.unit, (data.map (·.2)).flatten)] else r.checkData }

section
variable {s : State} {k : TileNo} (hs : s.serving) {r : Run} (hr : (s.tile k.val).run = some r) {i : Nat}
include hs hr

theorem drainSlotReadDone_not (h : r.drains[i]? = none ∨ r.storing = true) : exec (.drainSlotReadDone k i) s = .next s := by
  simp only [exec_drainSlotReadDone, execDrainSlotReadDone, inService_next hs, hr]
  rcases h with h | h
  · simp only [h]
  · split
    · rw [if_pos h]
    · rfl

/-- A drain reads its slot, gives it up, and has its data to write. -/
theorem drainSlotReadDone_done {d : DrainOp} {x : Stream} (hd : r.drains[i]? = some d) (hx : r.outs[d.stream]? = some x)
    (hst : r.storing = false) :
    ∃ t r' w, exec (.drainSlotReadDone k i) s = .next t ∧ (t.tile k.val).run = some r' ∧ r'.drains = r.drains.eraseIdx i ∧
      r'.writes.length = r.writes.length + 1 ∧ r'.writes[r.writes.length]? = some w ∧
      r'.cars = (r.modCar d.carousel (fun c => c.release d.ptr)).cars ∧ w.data = s.drainData k.val r d x ∧ t.mem = s.mem ∧ t.sec = s.sec := by
  have he : exec (.drainSlotReadDone k i) s = .next
      ((s.modTile k.val (fun y => { y with run := some (r.drained d i (s.drainData k.val r d x)) })).dmaGoesOn k.val) := by
    simp only [exec_drainSlotReadDone, execDrainSlotReadDone, inService_next hs, hr, hd, Option.bind_some, hx, hst, Bool.false_eq_true,
      if_false]
    rfl
  generalize s.drainData k.val r d x = data at he ⊢
  generalize hu : s.modTile k.val (fun y => { y with run := some (r.drained d i data) }) = u at he
  have hur : (u.tile k.val).run = some (r.drained d i data) := by rw [← hu, tile_modTile_same]
  obtain ⟨hkept, r', hr', hon⟩ := dmaGoesOn_spec hur
  have hlen : r'.writes.length = r.writes.length + 1 := by
    rw [hon.length]
    simp [Run.drained]
  obtain ⟨w, hw⟩ : ∃ w, r'.writes[r.writes.length]? = some w := ⟨_, List.getElem?_eq_getElem (by omega)⟩
  have hdata := congrArg (fun l => l[r.writes.length]?) hon.writes
  simp only [List.getElem?_map, hw, Run.drained, List.getElem?_concat_length, Option.map_some, Option.some.injEq] at hdata
  refine ⟨_, r', w, he, hr', by rw [hon.run]; rfl, hlen, hw, by rw [hon.run]; rfl, hdata, ?_, ?_⟩
  · rw [hkept.mem, ← hu]
    rfl
  · rw [hkept.sec, ← hu]
    rfl

theorem drainWriteDone_none (h : r.writes[i]? = none) : exec (.drainWriteDone k i) s = .next s := by
  simp only [exec_drainWriteDone, execDrainWriteDone, inService_next hs, hr, h]

variable {d : DrainOp} (hd : r.writes[i]? = some d)
include hd

theorem drainWriteDone_queued (hq : d.queued ≠ []) : exec (.drainWriteDone k i) s = .next (s.dmaGoesOn k.val) := by
  simp only [exec_drainWriteDone, execDrainWriteDone, inService_next hs, hr, hd]
  rw [if_pos (by simp [hq])]

theorem drainWriteDone_waits (hq : d.queued = []) (h : ∃ x ∈ d.xids, s.outcome? x = none) : exec (.drainWriteDone k i) s = .next s := by
  simp only [exec_drainWriteDone, execDrainWriteDone, inService_next hs, hr, hd]
  obtain ⟨x, hx, h⟩ := h
  rw [if_neg (by simp [hq]), if_pos]
  exact List.any_eq_true.2 ⟨none, List.mem_map.2 ⟨x, hx, h⟩, rfl⟩

/-- The state once the local data of a write are in memory, unless the run is of another epoch (R154, R643). -/
def State.drainWritten (s : State) (r : Run) (d : DrainOp) : State :=
  if r.task.desc.epoch = (s.part r.part).epoch then
    (d.data.filter (fun x => s.isSelf x.1)).foldl (fun s x => s.writeDpa (x.1 % 2 ^ 48) x.2) s
  else s

theorem drainWriteDone_done (hq : d.queued = []) (hx : d.xids = []) :
    ∃ t r', exec (.drainWriteDone k i) s = .next t ∧ (t.tile k.val).run = some r' ∧ r'.writes.length + 1 = r.writes.length ∧
      (r.freeze = none ∧ r.sent → r' = { r with writes := r.writes.eraseIdx i }) ∧ t.mem = (s.drainWritten r d).mem := by
  have he : exec (.drainWriteDone k i) s = .next ((((s.drainWritten r d).dropAnswers []).modTile k.val (fun y => { y with
      run := some { r with writes := r.writes.eraseIdx i } })).dmaGoesOn k.val) := by
    simp only [exec_drainWriteDone, execDrainWriteDone, inService_next hs, hr, hd, hq, hx, List.map_nil, List.filterMap_nil,
      List.find?_nil, List.any_nil, List.isEmpty_nil, Bool.not_true, Bool.false_eq_true, if_false]
    rfl
  generalize hu : ((s.drainWritten r d).dropAnswers []).modTile k.val (fun y => { y with
      run := some { r with writes := r.writes.eraseIdx i } }) = u at he
  have hur : (u.tile k.val).run = some { r with writes := r.writes.eraseIdx i } := by rw [← hu, tile_modTile_same]
  obtain ⟨hkept, r', hr', hon⟩ := dmaGoesOn_spec hur
  refine ⟨_, r', he, hr', ?_, fun ⟨hfree, hsent⟩ => ?_, ?_⟩
  · rw [hon.length]
    exact length_eraseIdx_some hd
  · rw [dmaGoesOn_idle hur hfree (hsent.eraseWrite i), hur] at hr'
    exact (Option.some.inj hr').symm
  · rw [hkept.mem, ← hu]
    rfl

end

/-! ### BANK_GRANT -/

theorem bankGrant_late {s : State} {k : TileNo} (hs : s.serving) {n : Fin 16} (qs : List BankReq)
    (h : ∃ x ∈ (dget (s.tile k.val).banks n.val {}).returns, x.due < (dget (s.tile k.val).banks n.val {}).cycle) :
    exec (.bankGrant k n qs) s = .next s := by
  obtain ⟨x, hx, h⟩ := h
  rw [exec_bankGrant, execBankGrant, inService_next hs]
  dsimp only
  rw [if_pos (List.any_eq_true.2 ⟨x, hx, by simpa using h⟩)]

theorem bankGrant_next {s : State} {k : TileNo} (hs : s.serving) {n : Fin 16} (qs : List BankReq)
    (h : ∀ x ∈ (dget (s.tile k.val).banks n.val {}).returns, (dget (s.tile k.val).banks n.val {}).cycle ≤ x.due) :
    exec (.bankGrant k n qs) s = .next
      (s.bankCycle k.val n.val (qs.filter (arrives (decide ((s.tile k.val).mode = .frozen))))) := by
  rw [exec_bankGrant, execBankGrant, inService_next hs]
  dsimp only
  rw [if_neg]
  simpa using h

/-- The bank of an idle tile once the requests `came` have joined it. -/
def Bank.joined (b : Bank) (came : List BankReq) : Bank := b.join (came.map (fun q => { q with since := b.cycle }))

/-- What a granted read brings, and when (R98). -/
def State.grantedRead (s : State) (k n cycle : Nat) (q : BankReq) : ReadReturn :=
  { who := q.who, row := q.row, seg := q.seg, due := cycle + 3, data := s.padRead k (reqAddr n q).1 (reqAddr n q).2 }

/-- A granted write is made. -/
def State.grantedWrite (k n : Nat) (s : State) (q : BankReq) : State :=
  match q.write, q.skip with
  | some bs, some j => s.padWrite k ((reqAddr n q).1 + j) bs
  | some bs, none => s.padWrite k (reqAddr n q).1 (padTo bs (reqAddr n q).2)
  | none, _ => s

/-- Two states differ at most in the DPA space and in tiles. -/
def MemAndTiles (s t : State) : Prop := t = { s with mem := t.mem, tiles := t.tiles }

theorem MemAndTiles.trans {s t u : State} (h : MemAndTiles s t) (g : MemAndTiles t u) : MemAndTiles s u := by
  unfold MemAndTiles at *
  rw [g, h]

theorem MemAndTiles.parts {s t : State} (h : MemAndTiles s t) : t.parts = s.parts := (congrArg State.parts h :)
theorem MemAndTiles.sec {s t : State} (h : MemAndTiles s t) : t.sec = s.sec := (congrArg State.sec h :)
theorem MemAndTiles.repair {s t : State} (h : MemAndTiles s t) : t.repair = s.repair := (congrArg State.repair h :)

theorem MemOnly.modTile {s t : State} (h : MemOnly s t) (k : Nat) (f : Tile → Tile) : MemAndTiles s (t.modTile k f) := by
  unfold MemAndTiles
  rw [h]
  rfl

theorem MemOnly.grantedWrites (s : State) (k n : Nat) (won : List BankReq) : MemOnly s (won.foldl (State.grantedWrite k n) s) :=
  MemOnly.foldl (fun u q => by unfold State.grantedWrite; split <;> rfl) won s

/-- One cycle of a bank of a tile without a run: the arrivals join, what WIDE_FIRST grants leaves, and reads see the row before the
cycle's writes (R95 to R100). -/
theorem bankCycle_idle {s : State} {k : Nat} (hr : (s.tile k).run = none) (n : Nat) (came : List BankReq) {b c : Bank}
    (hb : dget (s.tile k).banks n {} = b) (hc : b.joined came = c) {won : List BankReq} (hwon : grantWideFirst c = won) :
    MemAndTiles s (s.bankCycle k n came) ∧ (s.bankCycle k n came).mem = (won.foldl (State.grantedWrite k n) s).mem ∧
      ((s.bankCycle k n came).tile k).run = none ∧
      ∃ frame, dget ((s.bankCycle k n came).tile k).banks n {} = { won.foldl Bank.leave c with
        returns := (won.foldl Bank.leave c).returns ++ (won.filter (fun q => q.write.isNone)).map (s.grantedRead k n b.cycle),
        cycle := b.cycle + 1, frame := frame } := by
  have hmem := MemOnly.grantedWrites s k n won
  subst hb hc hwon
  unfold State.bankCycle
  simp only [hr, Bool.false_eq_true, if_false, Option.toList_none, List.append_nil]
  refine ⟨?_, ?_, ?_, ?_⟩
  · exact hmem.modTile k _
  · rfl
  · rw [tile_modTile_same]
    rfl
  · rw [tile_modTile_same, dget_dset_same]
    exact ⟨_, rfl⟩

/-- A wide request joins a bank at which no other waits. -/
theorem joined_wide {b : Bank} {q : BankReq} (hw : b.wide = []) (ho : b.outside = []) (hq : q.seg = none) :
    b.joined [q] = { b with wide := [{ q with since := b.cycle }] } := by
  cases b
  simp_all [Bank.joined, Bank.join, isWide]

/-- Alone, the wide request is granted at once (R99). -/
theorem grantWideFirst_alone {b : Bank} (hn : b.narrow = []) (q : BankReq) : grantWideFirst { b with wide := [q] } = [q] := by
  simp [grantWideFirst, hn, sortBy]

/-- A narrow request that has waited 32 cycles goes first (R100). -/
theorem grantWideFirst_aged {b : Bank} {m : BankReq} (hn : b.narrow = [m]) (hm : m.since + 32 ≤ b.cycle) (q : BankReq) :
    grantWideFirst { b with wide := [q] } = [m] := by
  simp [grantWideFirst, hn, sortBy, insertBy, hm, joinRow]

theorem leave_wide (b : Bank) (q : BankReq) : Bank.leave { b with wide := [q] } q = { b with wide := [] } := by
  simp [Bank.leave]

theorem leave_narrow {b : Bank} {m q : BankReq} (hn : b.narrow = [m]) (hm : m.seg.isSome = true) (hq : q.seg = none) :
    Bank.leave { b with wide := [q] } m = { b with wide := [q], narrow := [] } := by
  have hne : m ≠ q := fun h => by simp [h, hq] at hm
  simp [Bank.leave, hn, hne]

theorem bankGrant_idle {s : State} {k : TileNo} (hs : s.serving) {n : Fin 16} {q : BankReq} {b : Bank}
    (hb : dget (s.tile k.val).banks n.val {} = b) (hr : (s.tile k.val).run = none) (hdue : ∀ x ∈ b.returns, b.cycle ≤ x.due) :
    ∃ t c, exec (.bankGrant k n [q]) s = .next t ∧ c = dget (t.tile k.val).banks n.val {} ∧ c.cycle = b.cycle + 1 ∧ t.parts = s.parts ∧
      (arrives (decide ((s.tile k.val).mode = .frozen)) q = true → q.skip = none → b.wide = [] → b.outside = [] → q.seg = none →
        (b.narrow = [] → q.write = none → t.mem = s.mem ∧ c.wide = [] ∧ c.returns = b.returns ++
          [⟨q.who, q.row, none, b.cycle + 3, s.padRead k.val (n.val * 2 ^ 18 + q.row * 256) 256⟩]) ∧
        (∀ bs, b.narrow = [] → q.write = some bs →
          t.mem = (s.padWrite k.val (n.val * 2 ^ 18 + q.row * 256) (padTo bs 256)).mem ∧ c.wide = [] ∧ c.returns = b.returns) ∧
        (∀ m, b.narrow = [m] → m.seg.isSome = true → m.since + 32 ≤ b.cycle → c.narrow = [] ∧ c.wide = [{ q with since := b.cycle }])) := by
  have hx := bankGrant_next hs [q] (n := n) (by rw [hb]; exact hdue)
  generalize hcame : [q].filter (arrives (decide ((s.tile k.val).mode = .frozen))) = came at hx
  obtain ⟨hkept, hmem, -, frame, hbank⟩ := bankCycle_idle hr n.val came hb rfl rfl
  refine ⟨_, _, hx, rfl, by rw [hbank], hkept.parts, fun harr hskip hw ho hseg => ?_⟩
  rw [List.filter_cons_of_pos harr, List.filter_nil] at hcame
  subst hcame
  rw [joined_wide hw ho hseg] at hmem hbank
  rw [hmem, hbank]
  refine ⟨fun hn hwr => ?_, fun bs hn hwr => ?_, fun m hn hm hage => ?_⟩
  · rw [grantWideFirst_alone hn]
    simp [leave_wide, State.grantedWrite, State.grantedRead, hwr, reqAddr, isWide, hseg]
  · rw [grantWideFirst_alone hn]
    simp [leave_wide, State.grantedWrite, hwr, hskip, reqAddr, isWide, hseg]
  · rw [grantWideFirst_aged hn hage]
    simp only [List.foldl_cons, List.foldl_nil]
    rw [leave_narrow (q := { q with since := b.cycle }) hn hm hseg]
    exact ⟨rfl, rfl⟩

/-! ### SCRATCHPAD_READ_RETURN -/

/-- Nothing waits at the bank. -/
structure Bank.Quiet (b : Bank) : Prop where
  wide : b.wide = []
  narrow : b.narrow = []
  outside : b.outside = []

/-- Cycles in which nothing arrives pass at a quiet bank of a tile without a run. -/
theorem bankCycles_quiet {k n : Nat} (m : Nat) : ∀ {s : State}, (s.tile k).run = none → (dget (s.tile k).banks n {}).Quiet →
    MemAndTiles s (State.bankCycles k n m s) ∧ (State.bankCycles k n m s).mem = s.mem ∧ ((State.bankCycles k n m s).tile k).run = none ∧
      ∃ frame, dget ((State.bankCycles k n m s).tile k).banks n {} =
        { dget (s.tile k).banks n {} with cycle := (dget (s.tile k).banks n {}).cycle + m, frame := frame } := by
  induction m with
  | zero => exact fun hr hq => ⟨rfl, rfl, hr, _, rfl⟩
  | succ m ih =>
    intro s hr hq
    generalize hb : dget (s.tile k).banks n {} = b at hq
    have hjoin : b.joined [] = b := by
      obtain ⟨hw, hn, ho⟩ := hq
      cases b
      simp_all [Bank.joined, Bank.join]
    have hgrant : grantWideFirst b = [] := by simp [grantWideFirst, hq.narrow, hq.wide, sortBy]
    obtain ⟨hkept, hmem, hr', frame, hbank⟩ := bankCycle_idle hr n [] hb hjoin hgrant
    simp only [List.foldl_nil, List.filter_nil, List.map_nil, List.append_nil] at hmem hbank
    obtain ⟨hkept2, hmem2, hr2, frame2, hbank2⟩ := ih hr' (by rw [hbank]; exact ⟨hq.wide, hq.narrow, hq.outside⟩)
    refine ⟨hkept.trans hkept2, hmem2.trans hmem, hr2, frame2, ?_⟩
    refine hbank2.trans ?_
    rw [hbank]
    simp [Nat.add_assoc, Nat.add_comm 1 m]

/-- Read data leaves its bank: only its tile differs, and of its run, where the data are lost, at most the freeze (R98). -/
theorem deliverRead_spec (s : State) (k n : Nat) (q : ReadReturn) (lost : Bool) :
    ∃ x : Tile, s.deliverRead k n q lost = s.setTile k x ∧
      dget x.banks n {} = { dget (s.tile k).banks n {} with returns := (dget (s.tile k).banks n {}).returns.tail } ∧
      x.delivered = (if lost then none else some q) ∧
      (lost = true → ∀ r, (s.tile k).run = some r → ∃ r', x.run = some r' ∧ FreezeMoved r r') := by
  unfold State.deliverRead
  generalize hu : s.modTile k _ = u
  have hut : u.tile k = { s.tile k with
      banks := (u.tile k).banks, delivered := if lost then none else some q, run := (u.tile k).run } := by
    rw [← hu, tile_modTile_same]
  have hbank : dget (u.tile k).banks n {} =
      { dget (s.tile k).banks n {} with returns := (dget (s.tile k).banks n {}).returns.tail } := by
    rw [← hu, tile_modTile_same, dget_dset_same]
  have hlost : lost = true → (u.tile k).run = (s.tile k).run := fun h => by
    rw [← hu, tile_modTile_same, h]
    simp
  cases hr : (u.tile k).run with
  | none =>
    refine ⟨u.tile k, ?_, hbank, by rw [hut], fun h r hsr => by rw [← hlost h, hr] at hsr; cases hsr⟩
    rw [recheckFreeze_of_idle hr, ← hu, tile_modTile_same]
    rfl
  | some r =>
    obtain ⟨hold, r', he, hmoved⟩ := recheckFreeze_spec hr
    refine ⟨{ u.tile k with dbgHold := hold, run := some r' }, ?_, hbank, by rw [hut], fun h r1 hsr => ⟨r', rfl, ?_⟩⟩
    · rw [he, ← hu, tile_modTile_same, setTile_modTile]
    · rw [← hlost h, hr] at hsr
      obtain rfl := Option.some.inj hsr
      exact hmoved

/-- The row that an erroneous read came from is tested (R846). -/
def State.testRow (s : State) (k n row : Nat) : State :=
  match s.rowPart k n row with
  | some p => s.startTest p
  | none => s

theorem RunsKept.testRow (s : State) (k n row : Nat) : RunsKept s (s.testRow k n row) := by
  unfold State.testRow
  split
  · exact RunsKept.startTest s _ none
  · exact RunsKept.refl s

/-- An uncorrectable read ends the run of its tile as an array check does (R846). -/
def State.readLost (s : State) (k n row : Nat) : State :=
  match (s.tile k).run with
  | some r => if r.ended.isNone then (s.raiseArithmetic k r true false).testRow k n row else (s.testRow k n row).testTile k
  | none => (s.testRow k n row).testTile k

/-- What becomes of a row that a read came from, by how its data read (R846). -/
def State.readJudged (s : State) (k n row : Nat) : Ecc → State
  | .clean => s
  | .corrected => s.testRow k n row
  | .uncorrectable => s.readLost k n row

theorem readLost_spec (s : State) (k n row : Nat) :
    (s.readLost k n row).mem = s.mem ∧ (s.readLost k n row).sec = s.sec ∧
      ((s.readLost k n row).tile k).banks = (s.tile k).banks ∧ ((s.readLost k n row).tile k).delivered = (s.tile k).delivered ∧
      ∀ r, (s.tile k).run = some r → r.ended = none →
        ∃ r', ((s.readLost k n row).tile k).run = some r' ∧ r'.ended = some .arithmetic ∧ r'.arrayCheck = true := by
  have hkept : RunsKept s ((s.testRow k n row).testTile k) := (RunsKept.testRow s k n row).trans (RunsKept.testTile _ k)
  unfold State.readLost
  cases hr : (s.tile k).run with
  | none => exact ⟨hkept.mem, hkept.sec, hkept.banks k, hkept.delivered k, fun r h => by cases h⟩
  | some r =>
    cases he : r.ended with
    | some e =>
      simp only [he, Option.isNone_some, Bool.false_eq_true, if_false]
      exact ⟨hkept.mem, hkept.sec, hkept.banks k, hkept.delivered k, fun r1 h h1 => by simp_all⟩
    | none =>
      simp only [he, Option.isNone_none, if_true]
      obtain ⟨mode, hold, r', hraise, hstop⟩ := raiseArithmetic_spec s k he true false
      have hall := hraise.trans (RunsKept.testRow _ k n row)
      refine ⟨hall.mem, hall.sec, ?_, ?_, fun r1 h _ => ⟨r', ?_, hstop.ended, ?_⟩⟩
      · exact (hall.banks k).trans (by rw [tile_setTile_same])
      · exact (hall.delivered k).trans (by rw [tile_setTile_same])
      · exact (hall.run k).trans (by rw [tile_setTile_same])
      · exact hstop.check.trans (by simp)

/-- The cycles up to the return of a read pass: none is left to pass, or nothing waits at the bank. -/
theorem bankCycles_due {s : State} {k : TileNo} {n : Fin 16} {b : Bank} (hb : dget (s.tile k.val).banks n.val {} = b) {due : Nat}
    (h : due ≤ b.cycle ∨ (s.tile k.val).run = none ∧ b.wide = [] ∧ b.narrow = [] ∧ b.outside = []) :
    ∃ u, State.bankCycles k.val n.val (due - b.cycle) s = u ∧ MemAndTiles s u ∧ u.mem = s.mem ∧ (u.tile k.val).run = (s.tile k.val).run ∧
      (dget (u.tile k.val).banks n.val {}).returns = b.returns ∧ (dget (u.tile k.val).banks n.val {}).cycle = max b.cycle due := by
  subst hb
  refine ⟨_, rfl, ?_⟩
  rcases h with h | ⟨hr, hw, hn, ho⟩
  · rw [Nat.sub_eq_zero_of_le h]
    exact ⟨rfl, rfl, rfl, rfl, (Nat.max_eq_left h).symm⟩
  · obtain ⟨hkept, hmem, hr', frame, hbank⟩ := bankCycles_quiet (due - (dget (s.tile k.val).banks n.val {}).cycle) hr ⟨hw, hn, ho⟩
    refine ⟨hkept, hmem, hr'.trans hr.symm, by rw [hbank], ?_⟩
    rw [hbank]
    dsimp only
    omega

section
variable {s : State} {k : TileNo} (hs : s.serving) {n : Fin 16}
include hs

theorem scratchpadReadReturn_none (e : Ecc) (h : (dget (s.tile k.val).banks n.val {}).returns = []) :
    exec (.scratchpadReadReturn k n e) s = .next s := by
  simp only [exec_scratchpadReadReturn, execScratchpadReadReturn, inService_next hs, h]

theorem scratchpadReadReturn_eq {q : ReadReturn} {rest : List ReadReturn} {b : Bank} (hb : dget (s.tile k.val).banks n.val {} = b)
    (hq : b.returns = q :: rest) (e : Ecc) :
    exec (.scratchpadReadReturn k n e) s = .next
      (((State.bankCycles k.val n.val (q.due - b.cycle) s).deliverRead k.val n.val q (decide (e = .uncorrectable))).readJudged
        k.val n.val q.row e) := by
  simp only [exec_scratchpadReadReturn, execScratchpadReadReturn, inService_next hs, hb, hq]
  generalize (State.bankCycles k.val n.val (q.due - b.cycle) s).deliverRead k.val n.val q (decide (e = .uncorrectable)) = u
  cases e with
  | clean => rfl
  | corrected => rfl
  | uncorrectable => rfl

theorem scratchpadReadReturn_done {q : ReadReturn} {rest : List ReadReturn} {b : Bank} (hb : dget (s.tile k.val).banks n.val {} = b)
    (hq : b.returns = q :: rest) (e : Ecc)
    (h : q.due ≤ b.cycle ∨ (s.tile k.val).run = none ∧ b.wide = [] ∧ b.narrow = [] ∧ b.outside = []) :
    ∃ t, exec (.scratchpadReadReturn k n e) s = .next t ∧ t.mem = s.mem ∧ t.sec = s.sec ∧
      (dget (t.tile k.val).banks n.val {}).returns = rest ∧ (dget (t.tile k.val).banks n.val {}).cycle = max b.cycle q.due ∧
      (e ≠ .uncorrectable → (t.tile k.val).delivered = some q) ∧
      (e = .clean → t.parts = s.parts ∧ t.repair = s.repair) ∧
      (e = .uncorrectable → (t.tile k.val).delivered = none ∧
        ∀ r, (s.tile k.val).run = some r → r.ended = none →
          ∃ r', (t.tile k.val).run = some r' ∧ r'.ended = some .arithmetic ∧ r'.arrayCheck = true) := by
  obtain ⟨u, hu, hkept, hmem, hrun, hreturns, hcycle⟩ := bankCycles_due hb h
  obtain ⟨x, hx, hbank, hdelivered, hmoved⟩ := deliverRead_spec u k.val n.val q (decide (e = .uncorrectable))
  have he := scratchpadReadReturn_eq hs hb hq e
  rw [hu, hx] at he
  rw [hreturns, hq] at hbank
  have hret : (dget x.banks n.val {}).returns = rest := by rw [hbank]; rfl
  have hcyc : (dget x.banks n.val {}).cycle = max b.cycle q.due := by rw [hbank]; exact hcycle
  cases e with
  | clean =>
    rw [State.readJudged] at he
    refine ⟨_, he, hmem, hkept.sec, ?_, ?_, fun _ => ?_, fun _ => ⟨hkept.parts, hkept.repair⟩, fun h => by cases h⟩
    all_goals rw [tile_setTile_same]
    · exact hret
    · exact hcyc
    · exact hdelivered
  | corrected =>
    rw [State.readJudged] at he
    have hrow := RunsKept.testRow (u.setTile k.val x) k.val n.val q.row
    refine ⟨_, he, hrow.mem.trans hmem, hrow.sec.trans hkept.sec, ?_, ?_, fun _ => ?_, fun h => (by cases h), fun h => (by cases h)⟩
    · rw [hrow.banks, tile_setTile_same]
      exact hret
    · rw [hrow.banks, tile_setTile_same]
      exact hcyc
    · rw [hrow.delivered, tile_setTile_same]
      exact hdelivered
  | uncorrectable =>
    rw [State.readJudged] at he
    obtain ⟨hm, hsec, hbanks, hdel, hends⟩ := readLost_spec (u.setTile k.val x) k.val n.val q.row
    rw [tile_setTile_same] at hbanks hdel
    refine ⟨_, he, hm.trans hmem, hsec.trans hkept.sec, by rw [hbanks]; exact hret, by rw [hbanks]; exact hcyc, fun h => absurd rfl h,
      fun h => (by cases h), fun _ => ⟨hdel.trans hdelivered, fun r hr hended => ?_⟩⟩
    obtain ⟨r', hr', hmv⟩ := hmoved rfl r (hrun.trans hr)
    refine hends r' (by rw [tile_setTile_same]; exact hr') ?_
    rw [hmv]
    exact hended

end

/-- Settles O58: fills, drains, banks and scratchpad reads, each by what its command does where it is due. -/
theorem tileDataMovesAsStated : Obligations.TileDataMovesAsStated := by
  intro s k hs
  refine ⟨fun r i hr => ⟨fillSlotComplete_none hs hr, fun f ps hf hps => ⟨fun hq => ?_, fillSlotComplete_waits hs hr hf hps,
    fun hq hk hread hheld hx => fillSlotComplete_done hs hr hf hps hq hk hread hheld hx⟩, fun c => fillFailed_not hs hr,
    fun c he hi hc => ?_, drainSlotReadDone_not hs hr, fun d x hd hx hst => drainSlotReadDone_done hs hr hd hx hst,
    drainWriteDone_none hs hr, fun d hd => ⟨drainWriteDone_queued hs hr hd, drainWriteDone_waits hs hr hd, fun hq hx => ?_⟩⟩,
    fun n qs => bankGrant_late hs qs, fun n q hr hdue => bankGrant_idle hs rfl hr hdue,
    fun n e => ⟨scratchpadReadReturn_none hs e, fun q rest hq h => scratchpadReadReturn_done hs rfl hq e h⟩⟩
  · rw [fillSlotComplete_eq hs hr hf hps, if_pos (by simp [hq])]
  · obtain ⟨t, r', hx, hrun, hstop, hfree, hsec⟩ := fillFailed_ends hs hr he hi hc
    exact ⟨t, r', hx, hrun, hstop.ended, hstop.fills, hstop.writes, hstop.freeze, hfree, hsec⟩
  · obtain ⟨t, r', he, hr', hlen, hstill, hmem⟩ := drainWriteDone_done hs hr hd hq hx
    refine ⟨t, r', he, hr', hlen, hstill, fun hep => ?_, fun hep => ?_⟩
    · rw [hmem, State.drainWritten, if_neg hep]
    · rw [hmem, State.drainWritten, if_pos hep]

end Sys2Proof.Machine
end

section
/-! SUPPORT. Placing a task (R88, R119, R173, R176, R630 to R633, R642, R653). -/

namespace Sys2Proof.Machine

theorem exec_dispatchPlace (p : Part) (ue : List Nat) (s : State) : exec (.dispatchPlace p ue) s = execDispatchPlace p ue s := rfl

/-- In service, with no read found uncorrectable before, an operation acts on the state that holds the DPAs it finds so. -/
theorem inServiceUe_next {s : State} (h : s.serving) (ue : List Nat) (f : State → State) :
    inServiceUe s ue f = .next { f { s with found := ue } with found := [] } := by
  obtain ⟨hready, hlands, hfound⟩ := h
  rw [inServiceUe, inService_next ⟨hready, hlands, hfound⟩, hfound]

/-- An operation that changes nothing leaves the state, whatever it finds. -/
theorem inServiceUe_idle {s : State} (h : s.serving) {ue : List Nat} {f : State → State}
    (hf : f { s with found := ue } = { s with found := ue }) : inServiceUe s ue f = .next s := by
  rw [inServiceUe_next h, hf]
  obtain ⟨-, -, hfound⟩ := h
  cases s
  cases hfound
  rfl

/-- With nothing found uncorrectable, the operation acts on the state as it is. -/
theorem inServiceUe_clean {s : State} (h : s.serving) (f : State → State) :
    inServiceUe s [] f = .next { f s with found := [] } := by
  rw [inServiceUe_next h]
  obtain ⟨-, -, hfound⟩ := h
  cases s
  cases hfound
  rfl

/-! ### What the checks before a placement read -/

/-- The tiles that take a task do not go by the partition's queues, nor by when the task became ready. -/
theorem usableTile_setPart (s : State) (p : Part) (x : Partition) (t : Task) (a : Option Nat) :
    (s.setPart p x).usableTile p { t with readyAt := a } = s.usableTile p t := rfl

theorem readEwma_setPart (s : State) (p : Part) (x : Partition) (tag : Nat) : (s.setPart p x).readEwma p tag = s.readEwma p tag := rfl

theorem openStream_setPart (s : State) (p : Part) (x : Partition) (graph : Bool) (y : Stream) :
    (s.setPart p x).openStream p graph y = s.openStream p graph y := rfl

theorem openStreams_setPart (s : State) (p : Part) (x : Partition) (graph : Bool) (ys : List Stream) :
    (s.setPart p x).openStreams p graph ys = s.openStreams p graph ys := by
  induction ys with
  | nil => rfl
  | cons y ys ih => simp only [State.openStreams, openStream_setPart, ih]

theorem streamOk_setPart (s : State) (p : Part) (x : Partition) (t : Task) (a : Option Nat) (cars : List CarouselCfg) (y : Stream) (d : Bool) :
    (s.setPart p x).streamOk p { t with readyAt := a } cars y d = s.streamOk p t cars y d := rfl

theorem structRead_setPart (s : State) (p : Part) (x : Partition) (a n : Nat) :
    (s.setPart p x).structRead p a n = s.structRead p a n := rfl

theorem entriesRead_setPart (s : State) (p : Part) (x : Partition) (a : Nat) (ns : List Nat) :
    (s.setPart p x).entriesRead p a ns = s.entriesRead p a ns := by
  induction ns with
  | nil => rfl
  | cons i ns ih => simp only [State.entriesRead, structRead_setPart, ih]

theorem inHbm_setPart (s : State) (p : Part) (x : Partition) (a n : Nat) : (s.setPart p x).inHbm p a n = s.inHbm p a n := rfl

theorem widthsOk_readyAt (t : Task) (a : Option Nat) (ins : List Stream) : widthsOk { t with readyAt := a } ins = widthsOk t ins := rfl

theorem checkTask_setPart (s : State) (p : Part) (x : Partition) (cls : Nat) (t : Task) (a : Option Nat) :
    (s.setPart p x).checkTask p cls { t with readyAt := a } = s.checkTask p cls t := by
  unfold State.checkTask
  simp only [openStreams_setPart, streamOk_setPart, structRead_setPart, entriesRead_setPart, inHbm_setPart, widthsOk_readyAt]
  rfl

/-! ### Queues without tasks, and with one -/

/-- With empty queues no task becomes ready. -/
theorem markReady_of_empty {s : State} {p : Part} (hlc : (s.part p).lcQ = []) (hbe : (s.part p).beQ = []) : s.markReady p = s := by
  have h : ∀ x : Partition, x.lcQ = [] → x.beQ = [] → { x with lcQ := [], beQ := [] } = x := by
    intro x h1 h2
    cases x
    simp_all
  unfold State.markReady State.modPart
  simp only [hlc, hbe, List.map_nil]
  rw [h _ hlc hbe, setPart_part]

/-- The task with the moment noted at which it became ready (R653). -/
def State.readyNoted (s : State) (t : Task) : Task := { t with readyAt := some (t.readyAt.getD s.time) }

/-- The partition with these tasks in its LC queue alone. -/
def Partition.queued (x : Partition) (ts : List Task) : Partition := { x with lcQ := ts, beQ := [] }

/-- The one queued task is noted ready. -/
theorem markReady_of_one {s : State} {p : Part} {t : Task} (hlc : (s.part p).lcQ = [t]) (hbe : (s.part p).beQ = [])
    (hready : (s.part p).isReady t = true) :
    s.markReady p = s.setPart p ((s.part p).queued [s.readyNoted t]) := by
  unfold State.markReady State.modPart
  simp only [hlc, hbe, List.map_cons, List.map_nil, hready, if_true]
  rfl

/-- A ready task promotes none: it waits for nothing (R636). -/
theorem promotedBy_of_ready {x : Partition} {t : Task} (h : x.isReady t = true) (n : Nat) : x.promotedBy n t = [] := by
  have hu : x.unsatisfied t = [] := by simpa [Partition.isReady] using h
  cases n with
  | zero => rfl
  | succ n => rw [Partition.promotedBy, hu, List.flatMap_nil]

/-- The LC order of one ready task is that task (R630). -/
theorem lcOrder_of_one {x : Partition} {t : Task} (hlc : x.lcQ = [t]) (hready : x.isReady t = true) :
    x.lcOrder = [(false, 0, t)] := by
  simp [Partition.lcOrder, hlc, promotedBy_of_ready hready, firstRefs]

theorem beOrder_of_empty {x : Partition} (hbe : x.beQ = []) : x.beOrder = [] := by
  simp [Partition.beOrder, hbe]

/-- The one task of the LC queue goes next where it may be placed (R631). -/
theorem nextTask_of_one {s : State} {p : Part} {t : Task} (hlc : (s.part p).lcQ = [t]) (hbe : (s.part p).beQ = [])
    (hready : (s.part p).isReady t = true) (hp : s.placeable p t = true) : s.nextTask p = some ((false, 0, t), true) := by
  simp [State.nextTask, lcOrder_of_one hlc hready, beOrder_of_empty hbe, hp]

theorem countPlacement_of_one {s : State} {p : Part} (t : Task) (hbe : (s.part p).beQ = []) :
    s.countPlacement p (false, 0, t) true = s := by
  simp [State.countPlacement, beOrder_of_empty hbe]

/-- The one queued task starts on the tile that takes it (R631). -/
theorem placeTasks_one {s : State} {p : Part} {t : Task} {i : Nat} (hlc : (s.part p).lcQ = [t]) (hbe : (s.part p).beQ = [])
    (hready : (s.part p).isReady t = true) (hheld : (s.part p).kv.advanceHeld = false) (hi : s.usableTile p t = some i) :
    State.placeTasks p 1 s = ((s.setPart p ((s.part p).queued [])).startRun p i 0 t).feedGraphs p := by
  have hnext := nextTask_of_one hlc hbe hready (by simp [State.placeable, hready, hheld, hi])
  have hdequeue : (s.part p).dequeue (false, 0, t) = (s.part p).queued [] := by simp [Partition.dequeue, Partition.queued, hlc, ← hbe]
  simp only [State.placeTasks, hnext, hi, countPlacement_of_one t hbe, State.modPart, hdequeue, Bool.false_eq_true, if_false]

/-- Queues and graphs that hold nothing get nothing. -/
theorem feedGraphs_of_empty {s : State} {p : Part} (hlc : (s.part p).lcQ = []) (hbe : (s.part p).beQ = [])
    (hfw : (s.part p).fwWait = []) (hg : (s.part p).graphs = []) : s.feedGraphs p = s := by
  unfold State.feedGraphs State.modPart
  simp only [hfw, List.length_nil, Partition.feedFirmware, setPart_part, hg, List.foldl_nil]
  exact markReady_of_empty hlc hbe

/-- The run that a placed task starts in: its program loads (R173, R176). -/
structure Loading (s t : State) (p : Part) (i : Nat) (tk : Task) (ins outs : List Stream) (w : EwmaEntry) (r : Run) : Prop where
  mode : (t.tile i).mode = .loading
  run : (t.tile i).run = some r
  desc : r.task.desc = tk.desc
  part : r.part = p
  pc : r.pc = tk.desc.entry
  placedAt : r.placedAt = s.time
  ended : r.ended = none
  ins : r.ins = ins
  outs : r.outs = outs
  ewma : r.ewma = w
  mem : t.mem = s.mem
  sec : t.sec = s.sec

/-- A task that passes its checks starts on a tile whose code cache is empty: its program loads (R88, R173). -/
theorem startRun_loads {s : State} {p : Part} {i cls : Nat} {tk : Task} {cars : List CarouselCfg} {ins outs : List Stream} {w : EwmaEntry}
    (hc : s.checkTask p cls tk = .good cars ins outs) (hw : s.readEwma p tk.desc.layerTag = .inr w) (hcache : (s.tile i).codeCache = []) :
    ∃ r, Loading s (s.startRun p i cls tk) p i tk ins outs w r ∧
      (s.startRun p i cls tk).part p = { s.part p with acct := ((s.startRun p i cls tk).part p).acct, kv := ((s.startRun p i cls tk).part p).kv } := by
  unfold State.startRun
  simp only [hc, hw]
  generalize hu : (if ins.any Stream.paged = true then (s.charge p tk.clients _).registerWalker p else s.charge p tk.clients _) = u
  have hut : u.tiles = s.tiles := by rw [← hu]; split <;> rfl
  have hum : u.mem = s.mem := by rw [← hu]; split <;> rfl
  have hus : u.sec = s.sec := by rw [← hu]; split <;> rfl
  have hun : u.time = s.time := by rw [← hu]; split <;> rfl
  have hup : u.part p = { s.part p with acct := (u.part p).acct, kv := (u.part p).kv } := by
    rw [← hu]
    split <;> simp [State.registerWalker, State.charge]
  rw [tile_of_tiles hut, hcache]
  refine ⟨_, ⟨?_, by rw [tile_modTile_same], rfl, rfl, rfl, hun, rfl, rfl, rfl, rfl, hum, hus⟩, hup⟩
  rw [tile_modTile_same]
  rfl

/-! ### DISPATCH_PLACE -/

section
variable {s : State} {p : Part} (hs : s.serving)
include hs

theorem dispatchPlace_idle (h : (s.part p).fn.st = .off ∨ (s.part p).advance.running = true) (ue : List Nat) :
    exec (.dispatchPlace p ue) s = .next s := by
  rw [exec_dispatchPlace, execDispatchPlace]
  exact inServiceUe_idle hs (if_pos (by rw [Bool.or_eq_true, decide_eq_true_eq]; exact h))

theorem dispatchPlace_none (hlc : (s.part p).lcQ = []) (hbe : (s.part p).beQ = []) (hg : (s.part p).graphs = []) (ue : List Nat) :
    exec (.dispatchPlace p ue) s = .next s := by
  rw [exec_dispatchPlace, execDispatchPlace]
  refine inServiceUe_idle hs ?_
  generalize hv : ({ s with found := ue } : State) = v
  have hp : v.part p = s.part p := by rw [← hv]; rfl
  dsimp only
  split
  · rfl
  · rw [hp, hlc, hbe, hg]
    exact markReady_of_empty (by rw [hp, hlc]) (by rw [hp, hbe])

theorem dispatchPlace_one {tk : Task} {i : Nat} {cars : List CarouselCfg} {ins outs : List Stream} {w : EwmaEntry}
    (hon : (s.part p).fn.st ≠ .off) (hrun : (s.part p).advance.running = false) (hlc : (s.part p).lcQ = [tk]) (hbe : (s.part p).beQ = [])
    (hg : (s.part p).graphs = []) (hfw : (s.part p).fwWait = []) (hready : (s.part p).isReady tk = true)
    (hheld : (s.part p).kv.advanceHeld = false) (hi : s.usableTile p tk = some i) (hc : s.checkTask p 0 tk = .good cars ins outs)
    (hw : s.readEwma p tk.desc.layerTag = .inr w) (hcache : (s.tile i).codeCache = []) :
    ∃ t r, exec (.dispatchPlace p []) s = .next t ∧ Loading s t p i tk ins outs w r ∧ (t.part p).lcQ = [] := by
  generalize hu : s.setPart p ((s.part p).queued [s.readyNoted tk]) = u
  have hpart : u.part p = (s.part p).queued [s.readyNoted tk] := by rw [← hu, part_setPart_same]
  have hv : u.setPart p ((u.part p).queued []) = s.setPart p ((s.part p).queued []) := by
    rw [hpart, ← hu, setPart_setPart]
    rfl
  have hplace := placeTasks_one (s := u) (p := p) (t := s.readyNoted tk) (i := i) (by rw [hpart]; rfl) (by rw [hpart]; rfl)
    (by rw [hpart]; exact hready) (by rw [hpart]; exact hheld) (by rw [← hu]; exact (usableTile_setPart s p _ tk _).trans hi)
  rw [hv] at hplace
  obtain ⟨r, hload, hafter⟩ := startRun_loads (s := s.setPart p ((s.part p).queued [])) (i := i) (cls := 0) (tk := s.readyNoted tk)
    ((checkTask_setPart s p _ 0 tk _).trans hc) ((readEwma_setPart s p _ _).trans hw) hcache
  generalize (s.setPart p ((s.part p).queued [])).startRun p i 0 (s.readyNoted tk) = z at hload hafter hplace
  rw [part_setPart_same] at hafter
  rw [feedGraphs_of_empty (by rw [hafter]; rfl) (by rw [hafter]; rfl) (by rw [hafter]; exact hfw) (by rw [hafter]; exact hg)] at hplace
  refine ⟨{ z with found := [] }, r, ?_, ?_, ?_⟩
  · rw [exec_dispatchPlace, execDispatchPlace, inServiceUe_clean hs]
    simp only [hlc, hbe, hg, hon, hrun, markReady_of_one hlc hbe hready, hu]
    exact congrArg (fun y : State => Host.Outcome.next { y with found := [] }) hplace
  · obtain ⟨hmode, hr, hdesc, hp, hpc, hplaced, hended, hins, houts, hewma, hmem, hsec⟩ := hload
    exact ⟨hmode, hr, hdesc, hp, hpc, hplaced, hended, hins, houts, hewma, hmem, hsec⟩
  · show (z.part p).lcQ = []
    rw [hafter]
    rfl

end

/-! ### TASK_RUN_END before its time -/

theorem exec_taskRunEnd (k : TileNo) (ue : List Nat) (s : State) : exec (.taskRunEnd k ue) s = execTaskRunEnd k ue s := rfl
theorem exec_boundOver (k : TileNo) (s : State) : exec (.boundOver k) s = execBoundOver k s := rfl
theorem exec_watchdogExpiry (k : TileNo) (s : State) : exec (.watchdogExpiry k) s = execWatchdogExpiry k s := rfl
theorem exec_freezeExpiry (k : TileNo) (s : State) : exec (.freezeExpiry k) s = execFreezeExpiry k s := rfl
theorem exec_tileInternalResetDone (k : TileNo) (s : State) : exec (.tileInternalResetDone k) s = execTileInternalResetDone k s := rfl

@[simp] theorem tile_advanceTo (s : State) (n k : Nat) : (s.advanceTo n).tile k = s.tile k := rfl
@[simp] theorem tile_openPad (s : State) (n k : Nat) : (s.openPad n).tile k = s.tile k := rfl

section
variable {s : State} {k : TileNo} (hs : s.serving)
include hs

theorem taskRunEnd_none (hr : (s.tile k.val).run = none) (ue : List Nat) : exec (.taskRunEnd k ue) s = .next s := by
  rw [exec_taskRunEnd, execTaskRunEnd]
  refine inServiceUe_idle hs ?_
  have h : (({ s with found := ue } : State).tile k.val).run = none := hr
  simp only [h]

/-- A run that has ended waits for its DRAIN writes (R141). -/
theorem taskRunEnd_writes {r : Run} (hr : (s.tile k.val).run = some r) (he : r.ended.isSome = true) (hw : r.writes ≠ []) (ue : List Nat) :
    exec (.taskRunEnd k ue) s = .next s := by
  obtain ⟨e, he⟩ := Option.isSome_iff_exists.1 he
  rw [exec_taskRunEnd, execTaskRunEnd]
  refine inServiceUe_idle hs ?_
  have h : (({ s with found := ue } : State).tile k.val).run = some r := hr
  simp only [h, he, List.isEmpty_iff, hw, if_false]

/-- A run that has not ended waits for its program and all it started (R172). -/
theorem taskRunEnd_busy {r : Run} (hr : (s.tile k.val).run = some r) (he : r.ended = none) (h : r.atEnd = false ∨ r.quiet = false)
    (ue : List Nat) : exec (.taskRunEnd k ue) s = .next s := by
  rw [exec_taskRunEnd, execTaskRunEnd]
  refine inServiceUe_idle hs ?_
  have hr' : (({ s with found := ue } : State).tile k.val).run = some r := hr
  have hb : (r.atEnd && r.quiet) = false := by rcases h with h | h <;> simp [h]
  simp only [hr', he, hb, Bool.false_eq_true, if_false]

/-! ### BOUND_OVER -/

theorem boundOver_none (hr : (s.tile k.val).run = none) : exec (.boundOver k) s = .next s := by
  simp only [exec_boundOver, execBoundOver, inService_next hs, hr]

theorem boundOver_idle {r : Run} (hr : (s.tile k.val).run = some r) (h : r.boundCounted = true ∨ r.ended.isSome = true) :
    exec (.boundOver k) s = .next s := by
  have hb : (r.boundCounted || r.ended.isSome) = true := by rwa [Bool.or_eq_true]
  simp only [exec_boundOver, execBoundOver, inService_next hs, hr, hb, if_true]

/-- A run that passes its bound is counted (R634). -/
theorem boundOver_counts {r : Run} (hr : (s.tile k.val).run = some r) (he : r.ended = none) (hb : r.boundCounted = false) :
    exec (.boundOver k) s = .next (((s.advanceTo (s.now + (r.placedAt +
      (if r.task.desc.boundNs = 0 then s.reg .partBound r.part.val else r.task.desc.boundNs) + 1 - s.time))).modTile k.val (fun x =>
        { x with run := some { r with boundCounted := true } })).count .partBoundOver r.part.val 1) := by
  have hgo : ¬ (r.boundCounted || r.ended.isSome) = true := by simp [he, hb]
  simp only [exec_boundOver, execBoundOver, inService_next hs, hr]
  rw [if_neg hgo]
  refine congrArg (fun u : State => Host.Outcome.next (u.count .partBoundOver r.part.val 1)) (modTile_congr ?_)
  simp only [tile_advanceTo, hr, Option.map_some]

/-! ### WATCHDOG_EXPIRY -/

theorem watchdogExpiry_none (hr : (s.tile k.val).run = none) : exec (.watchdogExpiry k) s = .next s := by
  simp only [exec_watchdogExpiry, execWatchdogExpiry, inService_next hs, hr]

theorem watchdogExpiry_ended {r : Run} (hr : (s.tile k.val).run = some r) (he : r.ended.isSome = true) :
    exec (.watchdogExpiry k) s = .next s := by
  simp only [exec_watchdogExpiry, execWatchdogExpiry, inService_next hs, hr, he, if_true]

section
variable {r : Run} (hr : (s.tile k.val).run = some r) (he : r.ended = none)
include hr he

theorem watchdogExpiry_next :
    exec (.watchdogExpiry k) s = .next (((s.advanceTo (s.now + (r.placedAt + s.reg .partWatchdog r.part.val + 1 - s.time))).stopRun k.val
      .watchdog).modTile k.val (fun x => { x with resetting := true, mode := .fenced })) := by
  simp only [exec_watchdogExpiry, execWatchdogExpiry, inService_next hs, hr, he]
  rfl

/-- Without a freeze, the watchdog changes its tile alone (R635). -/
theorem watchdogExpiry_of_no_freeze (hf : r.freeze = none) :
    exec (.watchdogExpiry k) s =
      (let v := s.advanceTo (s.now + (r.placedAt + s.reg .partWatchdog r.part.val + 1 - s.time))
       .next (v.modTile k.val (fun x => { x with run := some (r.stop .watchdog v.now), resetting := true, mode := .fenced }))) := by
  have hr' (n : Nat) : ((s.advanceTo n).tile k.val).run = some r := hr
  rw [watchdogExpiry_next hs hr he, stopRun_of_none (hr' _) hf, modTile_modTile]

/-- The watchdog ends its run; the tile is fenced and resets (R635). -/
theorem watchdogExpiry_stops :
    ∃ t r', exec (.watchdogExpiry k) s = .next t ∧ (t.tile k.val).run = some r' ∧ StoppedAs r r' .watchdog ∧
      (t.tile k.val).mode = .fenced ∧ (t.tile k.val).resetting = true ∧
      t.now = (s.advanceTo (s.now + (r.placedAt + s.reg .partWatchdog r.part.val + 1 - s.time))).now ∧ t.mem = s.mem ∧ t.sec = s.sec := by
  have hx := watchdogExpiry_next hs hr he
  generalize hv : s.advanceTo (s.now + (r.placedAt + s.reg .partWatchdog r.part.val + 1 - s.time)) = v at hx ⊢
  obtain ⟨mode, hold, r', hkept, hstop⟩ := stopRun_stopped (s := v) (k := k.val) (r := r) (by rw [← hv]; exact hr) he .watchdog
  have hmem : v.mem = s.mem := by rw [← hv]; rfl
  have hsec : v.sec = s.sec := by rw [← hv]; rfl
  refine ⟨_, r', hx, ?_, hstop, by rw [tile_modTile_same], by rw [tile_modTile_same], hkept.now, hkept.mem.trans hmem, hkept.sec.trans hsec⟩
  rw [tile_modTile_same]
  exact (hkept.run k.val).trans (by rw [tile_setTile_same])

end

/-! ### FREEZE_EXPIRY -/

theorem freezeExpiry_none (hr : (s.tile k.val).run = none) : exec (.freezeExpiry k) s = .next s := by
  simp only [exec_freezeExpiry, execFreezeExpiry, inService_next hs, hr]

theorem freezeExpiry_ended {r : Run} (hr : (s.tile k.val).run = some r) (he : r.ended.isSome = true) : exec (.freezeExpiry k) s = .next s := by
  obtain ⟨e, he⟩ := Option.isSome_iff_exists.1 he
  cases hf : r.freeze with
  | none => simp only [exec_freezeExpiry, execFreezeExpiry, inService_next hs, hr, Option.bind_some, hf]
  | some f => simp [exec_freezeExpiry, execFreezeExpiry, inService_next hs, hr, hf, he]

section
variable {r : Run} {f : Freeze} (hr : (s.tile k.val).run = some r) (hf : r.freeze = some f)
include hr hf

/-- A freeze whose last cause has cleared is about to end (R136, R141). -/
theorem freezeExpiry_cleared (hc : f.cleared.isSome = true) : exec (.freezeExpiry k) s = .next s := by
  obtain ⟨c, hc⟩ := Option.isSome_iff_exists.1 hc
  simp [exec_freezeExpiry, execFreezeExpiry, inService_next hs, hr, hf, hc]

theorem freezeExpiry_stops (hm : (s.tile k.val).mode = .frozen) (he : r.ended = none) (hc : f.cleared = none) :
    ∃ t r', exec (.freezeExpiry k) s = .next t ∧ (t.tile k.val).run = some r' ∧ StoppedAs r r' .freezeExpired ∧
      r'.cycles = r.cycles + (s.tile k.val).cyclesOf (t.now - f.startNs) ∧ (t.tile k.val).mode = .running ∧
      t.now = max s.now (f.startNs + s.reg .tileHoldLimit + 1) ∧ t.mem = s.mem ∧ t.sec = s.sec := by
  have hx : exec (.freezeExpiry k) s = .next ((s.advanceTo (f.startNs + s.reg .tileHoldLimit + 1)).expireFreeze k.val r) := by
    simp only [exec_freezeExpiry, execFreezeExpiry, inService_next hs, hr, Option.bind_some, hf, hm, he, hc]
    rfl
  generalize hv : s.advanceTo (f.startNs + s.reg .tileHoldLimit + 1) = v at hx
  have hvt : v.tile k.val = s.tile k.val := by rw [← hv]; rfl
  have hvn : v.now = max s.now (f.startNs + s.reg .tileHoldLimit + 1) := by rw [← hv]; rfl
  have hmem : v.mem = s.mem := by rw [← hv]; rfl
  have hsec : v.sec = s.sec := by rw [← hv]; rfl
  obtain ⟨hold, r', hkept, hclosed, hcycles⟩ := expireFreeze_spec (s := v) (k := k.val) (r := r) (by rw [hvt]; exact hr) hf
  have hnow : (v.expireFreeze k.val r).now = v.now := hkept.now
  refine ⟨_, r'.stop .freezeExpired v.now, hx, ?_, hclosed.stop he _ _, ?_, ?_, hnow.trans hvn, hkept.mem.trans hmem, hkept.sec.trans hsec⟩
  · exact (hkept.run k.val).trans (by rw [tile_setTile_same])
  · rw [hnow, ← hvt]
    exact hcycles
  · refine (hkept.mode k.val (by rw [tile_setTile_same]; rfl)).trans ?_
    rw [tile_setTile_same, hvt, hm]
    rfl

end

/-! ### TILE_INTERNAL_RESET_DONE -/

theorem tileInternalResetDone_idle (h : (s.tile k.val).resetting = false ∨ (s.tile k.val).run.isSome = true) :
    exec (.tileInternalResetDone k) s = .next s := by
  rw [exec_tileInternalResetDone, execTileInternalResetDone, inService_next hs]
  dsimp only
  rw [if_neg]
  rcases h with h | h
  · simp [h]
  · obtain ⟨r, hr⟩ := Option.isSome_iff_exists.1 h
    simp [hr]

/-- The reset of a tile empties its code cache (R932). -/
theorem tileInternalResetDone_done (h : (s.tile k.val).resetting = true) (hr : (s.tile k.val).run = none) :
    ∃ t, exec (.tileInternalResetDone k) s = .next t ∧ (t.tile k.val).resetting = false ∧ (t.tile k.val).codeCache = [] ∧
      (t.tile k.val).run = none ∧ (s.repair.tests = [] → (t.tile k.val).mode = .free) ∧ t.parts = s.parts ∧ t.sec = s.sec := by
  have hb : ((s.tile k.val).resetting && (s.tile k.val).run.isNone) = true := by simp [h, hr]
  rw [exec_tileInternalResetDone, execTileInternalResetDone, inService_next hs]
  dsimp only
  rw [if_pos hb]
  refine ⟨_, rfl, ?_⟩
  rw [tile_openPad, tile_modTile_same]
  exact ⟨rfl, rfl, hr, fun ht => by simp [ht], rfl, rfl⟩

end

end Sys2Proof.Machine
end

section
/-! SUPPORT. What the end of a task leaves of the tiles and of the queues, and the end of a run (R88, R205 to R218, R625, R664). -/

namespace Sys2Proof.Machine

/-! ### What the end of a task leaves of the tiles

The completion of a task, its reissue and the feeding of the queues change memory, registers and partitions, and no tile. -/

theorem PartOnly.tilesKept {p : Part} {s t : State} (h : PartOnly p s t) : TilesKept s t :=
  have e : t.sansPart p = s.sansPart p := h
  ⟨(congrArg State.tiles e :), (congrArg State.sec e :), (congrArg State.now e :)⟩

theorem TilesKept.modPart (s : State) (p : Part) (f : Partition → Partition) : TilesKept s (s.modPart p f) := ⟨rfl, rfl, rfl⟩

theorem TilesKept.count (s : State) (n : RegName) (i k : Nat) : TilesKept s (s.count n i k) := ⟨rfl, rfl, rfl⟩

theorem TilesKept.found (s : State) (ds : List Nat) : TilesKept s { s with found := ds } := ⟨rfl, rfl, rfl⟩

theorem TilesKept.free (s : State) (n : Nat) : TilesKept s { s with free := n } := ⟨rfl, rfl, rfl⟩

theorem TilesKept.foldl {α : Type} {f : State → α → State} (h : ∀ s a, TilesKept s (f s a)) (xs : List α) (s : State) :
    TilesKept s (xs.foldl f s) := by
  induction xs generalizing s with
  | nil => exact TilesKept.refl s
  | cons x xs ih => exact (h s x).trans (ih _)

theorem TilesKept.markReady (s : State) (p : Part) : TilesKept s (s.markReady p) := ⟨rfl, rfl, rfl⟩

theorem TilesKept.modGraph (s : State) (p : Part) (cmd : Nat) (f : Graph → Graph) : TilesKept s (s.modGraph p cmd f) :=
  TilesKept.modPart s p _

/-- What happens only under a condition keeps what it keeps where it happens. -/
theorem TilesKept.ite {s t u : State} (c : Prop) [Decidable c] (ht : TilesKept s t) (hu : TilesKept s u) :
    TilesKept s (if c then t else u) := by
  split
  · exact ht
  · exact hu

theorem TilesKept.when {s t : State} (c : Prop) [Decidable c] (h : TilesKept s t) : TilesKept s (if c then t else s) :=
  TilesKept.ite c h (TilesKept.refl s)

theorem TilesKept.noteWrites (s : State) (a n : Nat) : TilesKept s (s.noteWrites a n) := by
  refine TilesKept.ite _ (TilesKept.refl s) (TilesKept.foldl (fun s i => ?_) _ s)
  split
  · exact TilesKept.when _ ⟨rfl, rfl, rfl⟩
  · exact TilesKept.refl s

theorem TilesKept.writeDpa (s : State) (a : Nat) (bs : List Byte) : TilesKept s (s.writeDpa a bs) := by
  refine ((TilesKept.noteWrites s a bs.length).trans (TilesKept.foldl (fun s x => ?_) _ _)).trans (TilesKept.foldl (fun s d => ?_) _ _)
  · split
    · exact TilesKept.ite _ (TilesKept.refl s) ⟨rfl, rfl, rfl⟩
    · exact TilesKept.refl s
  · refine TilesKept.when _ ?_
    split
    · exact TilesKept.count s _ _ _
    · exact TilesKept.refl s

theorem TilesKept.openDpa (s : State) (a n : Nat) : TilesKept s (s.openDpa a n) := by
  refine TilesKept.ite _ ⟨rfl, rfl, rfl⟩ (TilesKept.trans (TilesKept.foldl (fun s d => ?_) (granulesOf a n) s) (TilesKept.free _ _))
  split
  · exact ⟨rfl, rfl, rfl⟩
  · exact TilesKept.refl s

theorem TilesKept.noteUnreadable (s : State) (a : Nat) : TilesKept s (s.noteUnreadable a) :=
  TilesKept.ite _ (TilesKept.recordUe s a) (TilesKept.uncorrectable s a)

theorem TilesKept.clearEwmaSector (s : State) (a : Nat) : TilesKept s (s.clearEwmaSector a) :=
  (TilesKept.writeDpa s _ _).trans (TilesKept.found _ _)

theorem TilesKept.ewmaAdd (s : State) (p : Part) (tag : Nat) (sum : Int) (count : Nat) : TilesKept s (s.ewmaAdd p tag sum count) := by
  refine TilesKept.ite _ (TilesKept.refl s) ?_
  split
  · exact (TilesKept.noteUnreadable s _).trans (TilesKept.clearEwmaSector _ _)
  · exact (TilesKept.writeDpa s _ _).trans (TilesKept.writeDpa _ _ _)

theorem TilesKept.foldEwma (s : State) (p : Part) : TilesKept s (s.foldEwma p) := by
  refine TilesKept.ite _ (TilesKept.refl s) (TilesKept.foldl (fun s t => ?_) _ s)
  dsimp only
  split
  · exact TilesKept.when _ ((TilesKept.noteUnreadable s _).trans (TilesKept.clearEwmaSector _ _))
  · exact TilesKept.ite _ (TilesKept.refl s) (TilesKept.writeDpa s _ _)

theorem TilesKept.noteRecipe (s : State) (p : Part) (t : Task) : TilesKept s (s.noteRecipe p t) :=
  TilesKept.ite _ (TilesKept.refl s) (TilesKept.modPart s p _)

theorem TilesKept.withdrawTasks (s : State) (p : Part) (which : Task → Bool) : TilesKept s (s.withdrawTasks p which) :=
  (TilesKept.modPart s p _).trans (TilesKept.foldl (fun s t => TilesKept.noteRecipe s p t) _ _)

/-- A task of Nelnus firmware that loses its working state withdraws queued tasks alone (R280 to R285). -/
theorem TilesKept.failTask (s : State) (p : Part) (t : Task) : TilesKept s (s.failTask p t) := by
  refine TilesKept.ite _ ?_ (TilesKept.when _ ((TilesKept.withdrawTasks s p _).trans (TilesKept.modPart _ p _)))
  unfold State.failChunk
  extract_lets ofTask u
  refine TilesKept.trans (t := u) (TilesKept.withdrawTasks s p _) ?_
  split
  · exact TilesKept.modPart _ p _
  · exact TilesKept.modPart _ p _
  · exact TilesKept.refl _

theorem TilesKept.finishOrder (s : State) (p : Part) (order : Nat) (status : W16) (info result : Nat) :
    TilesKept s (s.finishOrder p order status info result) := by
  unfold State.finishOrder
  split
  · exact (PartOnly.finish p s _ _ _ _).tilesKept
  · exact TilesKept.refl s

theorem TilesKept.settleGraphs (s : State) (p : Part) : TilesKept s (s.settleGraphs p) :=
  TilesKept.foldl (fun s _ => ((TilesKept.when _ (TilesKept.foldEwma s p)).trans (TilesKept.modPart _ p _)).trans
    (TilesKept.finishOrder _ p _ _ _ _)) _ s

theorem TilesKept.stopGraph (s : State) (p : Part) (cmd : Nat) : TilesKept s (s.stopGraph p cmd) :=
  (TilesKept.modPart s p _).trans (TilesKept.modGraph _ p _ _)

theorem TilesKept.feedGraphs (s : State) (p : Part) : TilesKept s (s.feedGraphs p) :=
  ((TilesKept.modPart s p _).trans (TilesKept.foldl (fun s _ =>
    TilesKept.trans (PartOnly.setPart p s _).tilesKept (TilesKept.modGraph _ p _ _)) _ _)).trans (TilesKept.markReady _ p)

theorem TilesKept.graphTaskDone (s : State) (p : Part) (t : Task) (st : W16) : TilesKept s (s.graphTaskDone p t st) := by
  unfold State.graphTaskDone
  split
  · exact TilesKept.refl s
  · exact (((TilesKept.modPart s p _).trans (TilesKept.when _ (TilesKept.stopGraph _ p _))).trans (TilesKept.settleGraphs _ p)).trans
      (TilesKept.feedGraphs _ p)

theorem TilesKept.raiseCount (s : State) (p : Part) (code : W16) (subject n : Nat) : TilesKept s (s.raiseCount p code subject n) :=
  TilesKept.ite _ (TilesKept.refl s) (EventsOnly.raiseEvent s p code subject n).tilesKept

theorem TilesKept.signalSems (s : State) (p : Part) (t : Task) : TilesKept s (s.signalSems p t) :=
  (TilesKept.modPart s p _).trans (TilesKept.markReady _ p)

/-- A task completes in memory, in its partition and in the counters (R177, R216). -/
theorem TilesKept.completeTask (s : State) (p : Part) (t : Task) (st : W16) (r : Report) : TilesKept s (s.completeTask p t st r) := by
  unfold State.completeTask
  extract_lets sub s1 s2 s3 s4 s5 s6 s7 s8
  have h1 : TilesKept s s1 := TilesKept.writeDpa s _ _
  have h2 : TilesKept s1 s2 :=
    ((TilesKept.raiseCount s1 p _ _ _).trans (TilesKept.raiseCount _ p _ _ _)).trans (TilesKept.raiseCount _ p _ _ _)
  have h3 : TilesKept s2 s3 := TilesKept.when _ (TilesKept.count s2 _ _ _)
  have h4 : TilesKept s3 s4 := TilesKept.when _ (TilesKept.count s3 _ _ _)
  have h5 : TilesKept s4 s5 := TilesKept.ite _ (TilesKept.count s4 _ _ _) (TilesKept.signalSems s4 p t)
  have h6 : TilesKept s5 s6 := TilesKept.when _ (TilesKept.ewmaAdd s5 p _ _ _)
  have h7 : TilesKept s6 s7 := TilesKept.noteRecipe s6 p t
  have h8 : TilesKept s7 s8 := TilesKept.when _ (TilesKept.failTask s7 p t)
  exact (((((((h1.trans h2).trans h3).trans h4).trans h5).trans h6).trans h7).trans h8).trans (TilesKept.graphTaskDone s8 p t st)

theorem TilesKept.openOutputs (s : State) (r : Run) : TilesKept s (s.openOutputs r) :=
  TilesKept.when _ (TilesKept.foldl (fun s _ => TilesKept.when _ (TilesKept.openDpa s _ _)) _ s)

theorem TilesKept.reissue (s : State) (p : Part) (t : Task) : TilesKept s (s.reissue p t) :=
  TilesKept.ite _ (TilesKept.when _ (TilesKept.noteRecipe s p t)) (TilesKept.modPart s p _)

theorem TilesKept.taskFillFailed (s : State) (p : Part) (t : Task) (st : W16) (r : Report) (dpa : Option Nat) :
    TilesKept s (s.taskFillFailed p t st r dpa) := by
  unfold State.taskFillFailed
  split
  · refine TilesKept.trans ?_ (TilesKept.completeTask _ p t st r)
    split
    · exact TilesKept.when _ (TilesKept.clearEwmaSector s _)
    · exact TilesKept.refl s
  · exact TilesKept.modPart s p _

theorem TilesKept.discardTask (s : State) (p : Part) (t : Task) : TilesKept s (s.discardTask p t) := by
  unfold State.discardTask
  split
  · exact TilesKept.refl s
  · exact TilesKept.modGraph s p _ _

/-- The decision at the end of a run touches no tile (R210). -/
theorem TilesKept.judgeRun (s : State) (p : Part) (k : Nat) (r : Run) (e : RunEnd) : TilesKept s (s.judgeRun p k r e) := by
  unfold State.judgeRun
  extract_lets src t rep
  have hagain (n : RegName) (t : Task) : TilesKept s ((s.count n p.val 1).reissue p t) :=
    (TilesKept.count s n _ _).trans (TilesKept.reissue _ p t)
  cases e with
  | arithmetic | freezeExpired | watchdog => exact TilesKept.ite _ (TilesKept.completeTask s p _ _ _) (hagain _ _)
  | fillFailed st d => exact TilesKept.taskFillFailed s p _ _ _ _
  | malformed => exact TilesKept.completeTask s p _ _ _
  | epoch => exact (TilesKept.discardTask s p _).trans (TilesKept.settleGraphs _ p)
  | finished =>
    have hdone (t : Task) (st : W16) : TilesKept s ((s.openOutputs r).completeTask p t st rep) :=
      (TilesKept.openOutputs s r).trans (TilesKept.completeTask _ p _ _ _)
    dsimp only
    split
    · split
      · exact hagain _ _
      · exact hdone _ _
    · exact hdone _ _

/-! ### The head of a queue -/

/-- Whatever stands at the head of queue `q` stands at that of queue `q'`, but for when it became ready. -/
def HeadKept (q q' : List Task) : Prop := ∀ t ts, q = t :: ts → ∃ a ts', q' = { t with readyAt := a } :: ts'

theorem HeadKept.refl (q : List Task) : HeadKept q q := fun t ts h => ⟨t.readyAt, ts, h⟩

theorem HeadKept.trans {q q' q'' : List Task} (h : HeadKept q q') (g : HeadKept q' q'') : HeadKept q q'' := fun t ts ht => by
  obtain ⟨a, ts', h'⟩ := h t ts ht
  obtain ⟨b, ts'', g'⟩ := g _ ts' h'
  exact ⟨b, ts'', g'⟩

theorem HeadKept.append (q xs : List Task) : HeadKept q (q ++ xs) := fun t ts h => ⟨t.readyAt, ts ++ xs, by rw [h]; rfl⟩

theorem HeadKept.map {f : Task → Task} (hf : ∀ t, f t = { t with readyAt := (f t).readyAt }) (q : List Task) : HeadKept q (q.map f) :=
  fun t ts h => ⟨_, ts.map f, by rw [h, List.map_cons, ← hf t]⟩

/-- The tasks of a class that are queued (R625). -/
def Partition.queueOf (x : Partition) (cls : Byte) : List Task := if cls = 0 then x.lcQ else x.beQ

/-- Both queues keep their heads. -/
structure HeadsKept (x y : Partition) : Prop where
  lc : HeadKept x.lcQ y.lcQ
  be : HeadKept x.beQ y.beQ

theorem HeadsKept.refl (x : Partition) : HeadsKept x x := ⟨HeadKept.refl _, HeadKept.refl _⟩

theorem HeadsKept.trans {x y z : Partition} (h : HeadsKept x y) (g : HeadsKept y z) : HeadsKept x z :=
  ⟨h.lc.trans g.lc, h.be.trans g.be⟩

theorem HeadsKept.queueOf {x y : Partition} (h : HeadsKept x y) (cls : Byte) : HeadKept (x.queueOf cls) (y.queueOf cls) := by
  unfold Partition.queueOf
  split
  · exact h.lc
  · exact h.be

theorem HeadsKept.enqueueTask (x : Partition) (t : Task) : HeadsKept x (x.enqueueTask t) := by
  unfold Partition.enqueueTask
  split
  · exact ⟨HeadKept.append _ _, HeadKept.refl _⟩
  · exact ⟨HeadKept.refl _, HeadKept.append _ _⟩

theorem HeadsKept.feedFirmware (waits : Task → Bool) (n : Nat) (x : Partition) : HeadsKept x (Partition.feedFirmware waits n x) := by
  induction n generalizing x with
  | zero => exact HeadsKept.refl x
  | succ n ih =>
    unfold Partition.feedFirmware
    split
    · exact HeadsKept.refl x
    · next t ts _ =>
      split
      · have h : HeadsKept x { x with fwWait := ts } := ⟨HeadKept.refl _, HeadKept.refl _⟩
        exact (h.trans (HeadsKept.enqueueTask _ t)).trans (ih _)
      · exact HeadsKept.refl x

theorem HeadsKept.feedGraph (n : Nat) (x : Partition) (g : Graph) : HeadsKept x (Partition.feedGraph n x g).1 := by
  induction n generalizing x g with
  | zero => exact HeadsKept.refl x
  | succ n ih =>
    unfold Partition.feedGraph
    split
    · exact HeadsKept.refl x
    · next t ts _ =>
      split
      · exact (HeadsKept.enqueueTask x t).trans (ih _ _)
      · exact HeadsKept.refl x

/-- Noting which tasks are ready changes no order (R653). -/
theorem HeadsKept.markReady (s : State) (p : Part) : HeadsKept (s.part p) ((s.markReady p).part p) := by
  unfold State.markReady
  rw [part_modPart_same]
  refine ⟨HeadKept.map (fun t => ?_) _, HeadKept.map (fun t => ?_) _⟩ <;> dsimp only <;> split <;> rfl

theorem HeadsKept.foldl {α : Type} {p : Part} {f : State → α → State} (h : ∀ s a, HeadsKept (s.part p) ((f s a).part p)) (xs : List α)
    (s : State) : HeadsKept (s.part p) ((xs.foldl f s).part p) := by
  induction xs generalizing s with
  | nil => exact HeadsKept.refl _
  | cons x xs ih => exact (h s x).trans (ih _)

/-- The queues are fed behind the tasks that they hold (R625, R664). -/
theorem HeadsKept.feedGraphs (s : State) (p : Part) : HeadsKept (s.part p) ((s.feedGraphs p).part p) := by
  unfold State.feedGraphs
  extract_lets out u
  have hu : HeadsKept (s.part p) (u.part p) := by
    rw [part_modPart_same]
    exact HeadsKept.feedFirmware _ _ _
  refine (hu.trans (HeadsKept.foldl (fun v g => ?_) _ u)).trans (HeadsKept.markReady _ p)
  rw [State.modGraph, part_modPart_same, part_setPart_same]
  exact ⟨(HeadsKept.feedGraph _ (v.part p) g).lc, (HeadsKept.feedGraph _ (v.part p) g).be⟩

/-- A reissued task stands at the head of its class queue (R213), unless it is one of a step to be replayed (R284). -/
theorem reissue_queueOf {s : State} {p : Part} {t : Task}
    (h : t.graph.isSome = true ∨ t.chunk = true ∨ (s.part p).step.failed = false) :
    ((s.reissue p t).part p).queueOf t.desc.cls =
      { t with passed := true, readyAt := some s.time } :: (s.part p).queueOf t.desc.cls := by
  have hgo : (t.graph.isNone && !t.chunk && (s.part p).step.failed) = false := by
    rcases h with h | h | h <;> simp_all [Option.isSome_iff_ne_none]
  unfold State.reissue Partition.queueOf
  rw [hgo]
  simp only [Bool.false_eq_true, if_false, part_modPart_same]
  split <;> rfl

/-! ### The end of a run -/

theorem EventsOnly.step {s t : State} (h : EventsOnly s t) (p : Part) : (t.part p).step = (s.part p).step := by
  have hp (u : State) : (u.sansEvents.part p).step = (u.part p).step := by
    simp only [State.sansEvents, State.part, get_eq, Vector.getElem_map]
  rw [← hp t, h.1, hp s]

theorem EventsOnly.raiseCount (s : State) (p : Part) (code : W16) (subject n : Nat) : EventsOnly s (s.raiseCount p code subject n) := by
  unfold State.raiseCount
  split
  · exact EventsOnly.refl s
  · exact EventsOnly.raiseEvent s p code subject n

/-- The run as it completes: its cycles count up to here (R177). -/
def State.completing (s : State) (k : Nat) (r : Run) : Run :=
  { r with cycles := max r.cycles (r.endCycles + (s.tile k).cyclesOf (s.now - r.endNs)) }

/-- The run leaves its tile and its walker counter, and its counts raise their events (R208, R315). -/
def State.runLeaves (s : State) (k : Nat) (r : Run) : State :=
  let sub := runSubject k r.task.desc.layerTag
  let u := (s.releaseTile k).leaveWalker r.part r.walkEpoch
  ((u.raiseCount r.part evThinIce sub r.thin).raiseCount r.part evWhiteout sub r.white).raiseCount r.part evZeroBlock sub r.zero

theorem endRun_eq (s : State) (k : Nat) (r : Run) (e : RunEnd) :
    s.endRun k r e = ((s.runLeaves k r).judgeRun r.part k (s.completing k r) e).feedGraphs r.part := rfl

/-- The state after a run has left: its tile is free, and of its partition no step has changed. -/
structure Left (s t : State) (k : Nat) (p : Part) : Prop where
  run : (t.tile k).run = none
  mode : (t.tile k).mode = .free
  sec : t.sec = s.sec
  site : t.siteOf k = s.siteOf k
  step : (t.part p).step = (s.part p).step

theorem leaveWalker_step (s : State) (p : Part) (e : Option Nat) : ((s.leaveWalker p e).part p).step = (s.part p).step := by
  cases e with
  | none => rfl
  | some e => rw [State.leaveWalker, part_modPart_same]

theorem TilesKept.leaveWalker (s : State) (p : Part) (e : Option Nat) : TilesKept s (s.leaveWalker p e) := by
  cases e with
  | none => exact TilesKept.refl s
  | some e => exact ⟨rfl, rfl, rfl⟩

theorem leaveWalker_repair (s : State) (p : Part) (e : Option Nat) : (s.leaveWalker p e).repair = s.repair := by
  cases e <;> rfl

/-- A tile for whose run no test waits, and which does not reset, is free once its run leaves (R88). -/
theorem runLeaves_left {s : State} {k : Nat} (r : Run) (ht : (s.tile k).testAfterRun = []) (hr : (s.tile k).resetting = false) :
    Left s (s.runLeaves k r) k r.part := by
  have hfree : s.releaseTile k = s.modTile k (fun x => { x with run := none, testAfterRun := [], mode := .free }) := by
    unfold State.releaseTile
    simp only [ht, List.foldl_nil]
    exact modTile_congr (by simp [ht, hr])
  unfold State.runLeaves
  extract_lets sub u
  generalize hz : ((u.raiseCount r.part evThinIce sub r.thin).raiseCount r.part evWhiteout sub r.white).raiseCount r.part evZeroBlock sub r.zero = z
  have hev : EventsOnly u z := by
    rw [← hz]
    exact ((EventsOnly.raiseCount u _ _ _ _).trans (EventsOnly.raiseCount _ _ _ _ _)).trans (EventsOnly.raiseCount _ _ _ _ _)
  have htiles : TilesKept (s.releaseTile k) z := (TilesKept.leaveWalker _ _ _).trans hev.tilesKept
  have htile : z.tile k = { s.tile k with run := none, testAfterRun := [], mode := .free } := by
    rw [htiles.tile, hfree, tile_modTile_same]
  have hrepair : z.repair = s.repair := by rw [hev.repair, leaveWalker_repair, hfree]; rfl
  refine ⟨by rw [htile], by rw [htile], htiles.sec.trans (by rw [hfree]; rfl), by rw [State.siteOf, hrepair, State.siteOf], ?_⟩
  rw [hev.step, leaveWalker_step, hfree]
  rfl

/-- A run that leaves a free tile leaves it free, however the dispatcher decides. -/
theorem endRun_frees {s : State} {k : Nat} (r : Run) (ht : (s.tile k).testAfterRun = []) (hr : (s.tile k).resetting = false) (e : RunEnd) :
    ((s.endRun k r e).tile k).run = none ∧ ((s.endRun k r e).tile k).mode = .free ∧ (s.endRun k r e).sec = s.sec := by
  have hleft := runLeaves_left r ht hr
  have hkept := (TilesKept.judgeRun (s.runLeaves k r) r.part k (s.completing k r) e).trans (TilesKept.feedGraphs _ r.part)
  rw [endRun_eq]
  exact ⟨by rw [hkept.tile]; exact hleft.run, by rw [hkept.tile]; exact hleft.mode, hkept.sec.trans hleft.sec⟩

/-- A reissued task stays at the head of its class queue when the queues are fed (R213, R625). -/
theorem feedGraphs_reissue {s : State} {p : Part} {t : Task}
    (h : t.graph.isSome = true ∨ t.chunk = true ∨ (s.part p).step.failed = false) :
    ∃ tk rest, (((s.reissue p t).feedGraphs p).part p).queueOf t.desc.cls = tk :: rest ∧
      ∃ a, tk = { t with passed := true, readyAt := a } := by
  obtain ⟨a, rest, hq⟩ := (HeadsKept.feedGraphs (s.reissue p t) p).queueOf t.desc.cls _ _ (reissue_queueOf h)
  exact ⟨_, rest, hq, a, rfl⟩

/-- A task goes again for its run: its recipe or its tile changes as the dispatcher decides (R210). -/
theorem endRun_reissues {s : State} {k : Nat} {r : Run} {e : RunEnd} {n : RegName} {t : Task}
    (hj : (s.runLeaves k r).judgeRun r.part k (s.completing k r) e = ((s.runLeaves k r).count n r.part.val 1).reissue r.part t)
    (h : t.graph.isSome = true ∨ t.chunk = true ∨ ((s.runLeaves k r).part r.part).step.failed = false) :
    ∃ tk rest, ((s.endRun k r e).part r.part).queueOf t.desc.cls = tk :: rest ∧ ∃ a, tk = { t with passed := true, readyAt := a } := by
  rw [endRun_eq, hj]
  exact feedGraphs_reissue h

/-- A run over its limits that can widen is reissued in its next wider format, with no tile excluded (R209, R213). -/
theorem judgeRun_widens (s : State) (p : Part) (k : Nat) {r : Run} (hw : r.task.desc.replayWiden = true) (hn : r.task.widened = false)
    (hl : r.overLimit = true) (hc : r.canWiden = true) :
    ∃ t, s.judgeRun p k r .finished = (s.count .numWidenCount p.val 1).reissue p t ∧ t.desc = r.task.desc ∧ t.graph = r.task.graph ∧
      t.chunk = r.task.chunk ∧ t.widened = true ∧ t.excluded = [] ∧ t.widths = r.wider.1 ∧ t.actWidth = r.wider.2 := by
  unfold State.judgeRun
  simp only [hl, hc, hw, hn, Bool.not_false, Bool.and_self, if_true]
  exact ⟨_, rfl, rfl, rfl, rfl, rfl, rfl, rfl, rfl⟩

/-- A run that failed is reissued once, its site excluded (R205, R213, R214). -/
theorem judgeRun_relocates (s : State) (p : Part) (k : Nat) {r : Run} {e : RunEnd}
    (he : e = .arithmetic ∨ e = .freezeExpired ∨ e = .watchdog) (hn : r.task.relocated = false) :
    ∃ t, s.judgeRun p k r e = (s.count .numRelocateCount p.val 1).reissue p t ∧ t.desc = r.task.desc ∧ t.graph = r.task.graph ∧
      t.chunk = r.task.chunk ∧ t.relocated = true ∧ ∀ x, s.siteOf k = some x → x ∈ t.excluded := by
  unfold State.judgeRun
  rcases he with rfl | rfl | rfl <;> simp only [hn, Bool.false_eq_true, if_false]
  all_goals exact ⟨_, rfl, rfl, rfl, rfl, rfl, fun x hx => by simp [hx]⟩

section
variable {s : State} {k : Nat} {r : Run} (ht : (s.tile k).testAfterRun = []) (hr : (s.tile k).resetting = false)
  (hstep : r.task.graph.isSome = true ∨ r.task.chunk = true ∨ (s.part r.part).step.failed = false)
include ht hr hstep

theorem runLeaves_unfailed :
    r.task.graph.isSome = true ∨ r.task.chunk = true ∨ ((s.runLeaves k r).part r.part).step.failed = false := by
  rw [(runLeaves_left r ht hr).step]
  exact hstep

/-- A run over its limits goes again in its next wider format, wherever a tile is free (R209, R213). -/
theorem endRun_widens (hw : r.task.desc.replayWiden = true) (hn : r.task.widened = false) (hl : r.overLimit = true)
    (hc : r.canWiden = true) :
    ∃ tk rest, ((s.endRun k r .finished).part r.part).queueOf r.task.desc.cls = tk :: rest ∧ tk.desc = r.task.desc ∧ tk.widened = true ∧
      tk.excluded = [] ∧ tk.widths = r.wider.1 ∧ tk.actWidth = r.wider.2 := by
  obtain ⟨t, hj, hdesc, hgraph, hchunk, hwid, hex, hws, ha⟩ :=
    judgeRun_widens (s.runLeaves k r) r.part k (r := s.completing k r) hw hn hl hc
  have hun := runLeaves_unfailed ht hr hstep
  obtain ⟨tk, rest, hq, a, rfl⟩ := endRun_reissues hj (by rw [hgraph, hchunk]; exact hun)
  rw [hdesc] at hq
  exact ⟨_, rest, hq, rfl, hwid, hex, hws, ha⟩

/-- A run that failed for the first time goes again on another tile (R205, R213, R214). -/
theorem endRun_relocates {e : RunEnd} (he : e = .arithmetic ∨ e = .freezeExpired ∨ e = .watchdog) (hn : r.task.relocated = false) :
    ∃ tk rest, ((s.endRun k r e).part r.part).queueOf r.task.desc.cls = tk :: rest ∧ tk.desc = r.task.desc ∧ tk.relocated = true ∧
      ∀ x, s.siteOf k = some x → x ∈ tk.excluded := by
  obtain ⟨t, hj, hdesc, hgraph, hchunk, hrel, hex⟩ := judgeRun_relocates (s.runLeaves k r) r.part k (r := s.completing k r) he hn
  have hun := runLeaves_unfailed ht hr hstep
  obtain ⟨tk, rest, hq, a, rfl⟩ := endRun_reissues hj (by rw [hgraph, hchunk]; exact hun)
  rw [hdesc] at hq
  rw [(runLeaves_left r ht hr).site] at hex
  exact ⟨_, rest, hq, rfl, hrel, hex⟩

end

/-! ### TASK_RUN_END -/

section
variable {s : State} {k : TileNo} (hs : s.serving) {r : Run} (hr : (s.tile k.val).run = some r)
include hs hr

/-- The run of a tile ends in the state that holds the DPAs found uncorrectable (R194). -/
theorem taskRunEnd_ends {e : RunEnd} (h : r.ended = some e ∧ r.writes = [] ∨ r.ended = none ∧ r.atEnd = true ∧ r.quiet = true ∧ e = .finished)
    (ue : List Nat) :
    exec (.taskRunEnd k ue) s = .next { ({ s with found := ue } : State).endRun k.val r e with found := [] } := by
  rw [exec_taskRunEnd, execTaskRunEnd, inServiceUe_next hs]
  have hr' : (({ s with found := ue } : State).tile k.val).run = some r := hr
  rcases h with ⟨he, hw⟩ | ⟨he, hend, hquiet, rfl⟩
  · simp only [hr', he, hw, List.isEmpty_nil, if_true]
  · simp only [hr', he, hend, hquiet, Bool.and_self, if_true]

variable (ht : (s.tile k.val).testAfterRun = []) (hreset : (s.tile k.val).resetting = false)
include ht hreset

/-- A run whose program and work are done frees its tile; one over its limits goes again wider (R88, R172, R209). -/
theorem taskRunEnd_finishes (he : r.ended = none) (hend : r.atEnd = true) (hquiet : r.quiet = true) (ue : List Nat) :
    ∃ t, exec (.taskRunEnd k ue) s = .next t ∧ (t.tile k.val).run = none ∧ (t.tile k.val).mode = .free ∧ t.sec = s.sec ∧
      (r.task.desc.replayWiden = true → r.task.widened = false → r.overLimit = true → r.canWiden = true →
        (r.task.graph.isSome = true ∨ r.task.chunk = true ∨ (s.part r.part).step.failed = false) →
        ∃ tk rest, (t.part r.part).queueOf r.task.desc.cls = tk :: rest ∧ tk.desc = r.task.desc ∧
          tk.widened = true ∧ tk.excluded = [] ∧ tk.widths = r.wider.1 ∧ tk.actWidth = r.wider.2) := by
  have hx := taskRunEnd_ends hs hr (Or.inr ⟨he, hend, hquiet, rfl⟩) ue
  have hfrees := endRun_frees (s := { s with found := ue }) r ht hreset .finished
  have hwidens := endRun_widens (s := { s with found := ue }) (r := r) ht hreset
  generalize ({ s with found := ue } : State).endRun k.val r .finished = u at hx hfrees hwidens
  obtain ⟨hrun, hmode, hsec⟩ := hfrees
  exact ⟨_, hx, hrun, hmode, hsec, fun hw hn hl hc hstep => hwidens hstep hw hn hl hc⟩

/-- A run that failed frees its tile and goes again elsewhere (R205, R210, R213). -/
theorem taskRunEnd_relocates (he : r.ended = some .arithmetic ∨ r.ended = some .freezeExpired ∨ r.ended = some .watchdog)
    (hw : r.writes = []) (hn : r.task.relocated = false)
    (hstep : r.task.graph.isSome = true ∨ r.task.chunk = true ∨ (s.part r.part).step.failed = false) (ue : List Nat) :
    ∃ t tk rest, exec (.taskRunEnd k ue) s = .next t ∧ (t.tile k.val).run = none ∧ (t.tile k.val).mode = .free ∧
      (t.part r.part).queueOf r.task.desc.cls = tk :: rest ∧ tk.desc = r.task.desc ∧
      tk.relocated = true ∧ ∀ x, s.siteOf k.val = some x → x ∈ tk.excluded := by
  obtain ⟨e, he', hends⟩ : ∃ e, r.ended = some e ∧ (e = .arithmetic ∨ e = .freezeExpired ∨ e = .watchdog) := by
    rcases he with he | he | he <;> simp [he]
  have hx := taskRunEnd_ends hs hr (Or.inl ⟨he', hw⟩) ue
  have hfrees := endRun_frees (s := { s with found := ue }) r ht hreset e
  have hagain := endRun_relocates (s := { s with found := ue }) ht hreset hstep hends hn
  generalize ({ s with found := ue } : State).endRun k.val r e = u at hx hfrees hagain
  obtain ⟨hrun, hmode, -⟩ := hfrees
  obtain ⟨tk, rest, hq, hdesc, hrel, hex⟩ := hagain
  exact ⟨_, tk, rest, hx, hrun, hmode, hq, hdesc, hrel, hex⟩

end

/-- Settles O56: the placement of tasks, the end of runs, their bounds and the reset of a tile, each by what its command does where
it is due. -/
theorem tasksAreOfferedToFreeTiles : Obligations.TasksAreOfferedToFreeTiles := by
  intro s hs
  refine ⟨fun p => ⟨dispatchPlace_idle hs, dispatchPlace_none hs,
      fun tk i cars ins outs w hon hrun hlc hbe hg hfw hready hheld hi hc hw hcache => ?_⟩,
    fun k => ⟨fun hr => ⟨taskRunEnd_none hs hr, boundOver_none hs hr, watchdogExpiry_none hs hr, freezeExpiry_none hs hr⟩, fun r hr => ?_,
      tileInternalResetDone_idle hs, tileInternalResetDone_done hs⟩⟩
  · obtain ⟨t, r, he, h, hq⟩ := dispatchPlace_one hs hon hrun hlc hbe hg hfw hready hheld hi hc hw hcache
    exact ⟨t, r, he, h.mode, h.run, h.desc, h.part, h.pc, h.placedAt, h.ended, h.ins, h.outs, h.ewma, hq, h.mem, h.sec⟩
  · refine ⟨taskRunEnd_writes hs hr, taskRunEnd_busy hs hr, fun he hend hquiet ht hreset => taskRunEnd_finishes hs hr ht hreset he hend hquiet,
      fun he hw hn hstep ht hreset => taskRunEnd_relocates hs hr ht hreset he hw hn hstep,
      fun he => ⟨watchdogExpiry_ended hs hr he, boundOver_idle hs hr (Or.inr he), freezeExpiry_ended hs hr he⟩,
      boundOver_counts hs hr, fun hb => boundOver_idle hs hr (Or.inl hb), fun he => ⟨watchdogExpiry_of_no_freeze hs hr he, ?_⟩,
      fun f hf hm he => ⟨freezeExpiry_cleared hs hr hf, fun hc => ?_⟩⟩
    · obtain ⟨t, r', hx, hrun, hstop, hmode, hreset, hnow, hmem, hsec⟩ := watchdogExpiry_stops hs hr he
      exact ⟨t, r', hx, hrun, hstop.ended, hstop.freeze, hstop.fills, hstop.drains, hstop.writes, hstop.task, hmode, hreset, hnow, hmem, hsec⟩
    · obtain ⟨t, r', hx, hrun, hstop, hcycles, hmode, hnow, hmem, hsec⟩ := freezeExpiry_stops hs hr hf hm he hc
      exact ⟨t, r', hx, hrun, hstop.ended, hstop.freeze, hstop.fills, hstop.drains, hstop.writes, hstop.task, hcycles, hmode, hnow, hmem, hsec⟩

end Sys2Proof.Machine
end

section
/-! SUPPORT. Writes of the memory maps and of WATCH_EN (R199, R267, R272, R293). -/

namespace Sys2Proof.Machine

theorem exec_memHbmMapWrite (p : Part) (v : W64) (s : State) : exec (.memHbmMapWrite p v) s = execMemHbmMapWrite p v s := rfl
theorem exec_memFirnMapWrite (p : Part) (v : W32) (s : State) : exec (.memFirnMapWrite p v) s = execMemFirnMapWrite p v s := rfl
theorem exec_watchEnSet (p : Part) (v : W32) (s : State) : exec (.watchEnSet p v) s = execWatchEnSet p v s := rfl

/-! ### Bits of a number -/

theorem bitOf_eq_testBit (v i : Nat) : bitOf v i = v.testBit i := Nat.testBit_eq_decide_div_mod_eq.symm

/-- A bit of a bit field is a bit of the number. -/
theorem testBit_bitsOf (v lo n i : Nat) : (bitsOf v lo n).testBit i = (decide (i < n) && v.testBit (lo + i)) := by
  rw [bitsOf, Nat.testBit_mod_two_pow, Nat.testBit_div_two_pow, Nat.add_comm]

/-- Bits inside the replaced field come from the new value, the others from the old. -/
theorem testBit_setBits (v lo w x i : Nat) :
    (setBits v lo w x).testBit i = if lo ≤ i ∧ i < lo + w then x.testBit (i - lo) else v.testBit i := by
  have hlow : 2 ^ lo * (x % 2 ^ w) + v % 2 ^ lo < 2 ^ (lo + w) := by
    have hx : x % 2 ^ w < 2 ^ w := Nat.mod_lt _ (by positivity)
    have hv : v % 2 ^ lo < 2 ^ lo := Nat.mod_lt _ (by positivity)
    calc 2 ^ lo * (x % 2 ^ w) + v % 2 ^ lo < 2 ^ lo * (x % 2 ^ w + 1) := by rw [Nat.mul_add_one]; omega
      _ ≤ 2 ^ lo * 2 ^ w := Nat.mul_le_mul_left _ hx
      _ = 2 ^ (lo + w) := (Nat.pow_add ..).symm
  have hsum : setBits v lo w x = 2 ^ (lo + w) * (v / 2 ^ (lo + w)) + (2 ^ lo * (x % 2 ^ w) + v % 2 ^ lo) := by
    rw [setBits]
    ring
  rw [hsum, Nat.testBit_two_pow_mul_add _ hlow, Nat.testBit_two_pow_mul_add _ (Nat.mod_lt _ (by positivity)),
    Nat.testBit_mod_two_pow, Nat.testBit_mod_two_pow, Nat.testBit_div_two_pow]
  by_cases hlo : i < lo
  · simp [hlo, show i < lo + w by omega, show ¬ lo ≤ i by omega]
  · by_cases hw : i < lo + w
    · simp [hlo, hw, show lo ≤ i by omega, show i - lo < w by omega]
    · simp [hw, show i - (lo + w) + (lo + w) = i by omega]

/-- The first `n` bits of a number whose first `n` bits are replaced. -/
theorem testBit_setBits_low {n i : Nat} (v x : Nat) (h : i < n) : (setBits v 0 n x).testBit i = x.testBit i := by
  rw [testBit_setBits, if_pos ⟨Nat.zero_le i, by omega⟩, Nat.sub_zero]

/-- Numbers that agree in the bits of a field agree in the field. -/
theorem bitsOf_congr {u v lo n : Nat} (h : ∀ i, lo ≤ i → i < lo + n → u.testBit i = v.testBit i) : bitsOf u lo n = bitsOf v lo n := by
  refine Nat.eq_of_testBit_eq fun i => ?_
  rw [testBit_bitsOf, testBit_bitsOf]
  by_cases hi : i < n
  · rw [h (lo + i) (by omega) (by omega)]
  · simp [hi]

/-! ### A write of a register, field by field -/

/-- What a write of `new` makes of value `v` in one field (R7, R8). -/
def RegFld.put (new v : Nat) (f : RegFld) : Nat :=
  if f.acc = .rw && f.takes (bitsOf new f.lsb f.width) then setBits v f.lsb f.width (bitsOf new f.lsb f.width) else v

/-- A write of a register of three fields reaches them in turn. -/
theorem merge_three {r : RegRow} {a b c : RegFld} (h : r.flds = [a, b, c]) (old new : Nat) :
    r.merge old new = RegFld.put new (RegFld.put new (RegFld.put new old a) b) c := by
  rw [RegRow.merge, h]
  rfl

/-- A writable field that takes its new value shows the bits written. -/
theorem testBit_put {f : RegFld} {new : Nat} (ha : f.acc = .rw) (ht : f.takes (bitsOf new f.lsb f.width) = true) (v i : Nat) :
    (f.put new v).testBit i = if f.lsb ≤ i ∧ i < f.lsb + f.width then new.testBit i else v.testBit i := by
  rw [RegFld.put, if_pos (by simp [ha, ht]), testBit_setBits]
  refine if_ctx_congr Iff.rfl (fun h => ?_) (fun _ => rfl)
  rw [testBit_bitsOf, decide_eq_true (by omega), Bool.true_and, Nat.add_sub_of_le h.1]

/-- A writable field takes any value where the manual gives it no range. -/
theorem testBit_put_any (lo w new v i : Nat) :
    (RegFld.put new v ⟨lo, w, .rw, none⟩).testBit i = if lo ≤ i ∧ i < lo + w then new.testBit i else v.testBit i :=
  testBit_put rfl rfl v i

/-- A writable field with a range takes a value within it. -/
theorem testBit_put_range {lo w a b new : Nat} (h1 : a ≤ bitsOf new lo w) (h2 : bitsOf new lo w ≤ b) (v i : Nat) :
    (RegFld.put new v ⟨lo, w, .rw, some (a, b)⟩).testBit i = if lo ≤ i ∧ i < lo + w then new.testBit i else v.testBit i :=
  testBit_put rfl (by simp [RegFld.takes, h1, h2]) v i

/-! ### The three registers, before VALID and WATCH_EN are judged -/

theorem flds_memHbmMap : (regRow .memHbmMap).flds = [⟨0, 48, .rw, none⟩, ⟨48, 6, .rw, none⟩, ⟨63, 1, .rw, none⟩] := rfl

theorem flds_memFirnMap : (regRow .memFirnMap).flds = [⟨0, 14, .rw, none⟩, ⟨16, 15, .rw, some (1, 16384)⟩, ⟨31, 1, .rw, none⟩] := rfl

theorem flds_numCfg :
    (regRow .numCfg).flds = [⟨0, 4, .rw, some (2, 10)⟩, ⟨8, 12, .rw, some (1, 4095)⟩, ⟨20, 1, .rw, none⟩] := rfl

theorem testBit_merge_memHbmMap (old new i : Nat) (h : i < 54 ∨ i = 63) :
    ((regRow .memHbmMap).merge old new).testBit i = new.testBit i := by
  simp only [merge_three flds_memHbmMap, testBit_put_any]
  split
  · rfl
  · split
    · rfl
    · rw [if_pos (by omega)]

theorem testBit_merge_memFirnMap {old new : Nat} (h1 : 1 ≤ bitsOf new 16 15) (h2 : bitsOf new 16 15 ≤ 16384) (i : Nat)
    (h : i < 14 ∨ 16 ≤ i ∧ i < 32) : ((regRow .memFirnMap).merge old new).testBit i = new.testBit i := by
  simp only [merge_three flds_memFirnMap, testBit_put_any, testBit_put_range h1 h2]
  split
  · rfl
  · split
    · rfl
    · rw [if_pos (by omega)]

theorem testBit_merge_numCfg (old new : Nat) : ((regRow .numCfg).merge old new).testBit 20 = new.testBit 20 := by
  simp only [merge_three flds_numCfg, testBit_put_any, le_refl, Nat.lt_add_one, and_self, if_true]

/-! ### A bit that is refused -/

/-- Value `v` with bit `n` and what lies above it cleared where that bit is set and not allowed. -/
def refuseBit (n : Nat) (ok : Bool) (v : Nat) : Nat := if bitOf v n && !ok then v % 2 ^ n else v

theorem bitOf_refuseBit (n : Nat) (ok : Bool) (v : Nat) : bitOf (refuseBit n ok v) n = (v.testBit n && ok) := by
  rw [bitOf_eq_testBit, refuseBit, bitOf_eq_testBit]
  cases hv : v.testBit n <;> cases ok <;> simp [hv, Nat.testBit_mod_two_pow]

theorem testBit_refuseBit_below {n i : Nat} (ok : Bool) (v : Nat) (h : i < n) : (refuseBit n ok v).testBit i = v.testBit i := by
  rw [refuseBit]
  split
  · rw [Nat.testBit_mod_two_pow, decide_eq_true h, Bool.true_and]
  · rfl

/-! ### What the checks of the maps read -/

theorem bitsSet_congr {n u v : Nat} (h : ∀ i, i < n → u.testBit i = v.testBit i) : bitsSet n u = bitsSet n v :=
  List.filter_congr fun i hi => by rw [bitOf_eq_testBit, bitOf_eq_testBit, h i (List.mem_range.1 hi)]

theorem hbmMapOk_congr (s : State) (p : Part) {u v : Nat} (h : ∀ i, i < 54 → u.testBit i = v.testBit i) :
    s.hbmMapOk p u = s.hbmMapOk p v := by
  unfold State.hbmMapOk
  rw [bitsSet_congr fun i hi => h i (by omega), bitsOf_congr fun i _ hi => h i hi]

theorem firnMapOk_congr (s : State) (p : Part) {u v : Nat} (h : ∀ i, i < 14 ∨ 16 ≤ i ∧ i < 32 → u.testBit i = v.testBit i) :
    s.firnMapOk p u = s.firnMapOk p v := by
  unfold State.firnMapOk
  rw [bitsOf_congr (lo := 0) fun i _ hi => h i (by omega), bitsOf_congr (lo := 16) fun i _ hi => h i (by omega)]

/-! ### The writes -/

theorem partOff_iff (s : State) (p : Part) : s.partOff p = true ↔ (s.part p).fn.st = .off := by
  rw [State.partOff, decide_eq_true_eq]

theorem name_memHbmMap : (regRow .memHbmMap).name = .memHbmMap := rfl
theorem name_memFirnMap : (regRow .memFirnMap).name = .memFirnMap := rfl
theorem name_numCfg : (regRow .numCfg).name = .numCfg := rfl

/-- The value that a write of all 8 bytes of MEM_HBM_MAP asks for. -/
def State.hbmMapAsked (s : State) (p : Part) (value : Nat) : Nat :=
  (regRow .memHbmMap).merge (s.reg .memHbmMap p.val) (setBits (s.reg .memHbmMap p.val) (8 * 0) (8 * 8) value)

/-- The value that a write of MEM_FIRN_MAP asks for. -/
def State.firnMapAsked (s : State) (p : Part) (value : Nat) : Nat :=
  (regRow .memFirnMap).merge (s.reg .memFirnMap p.val) (setBits (s.reg .memFirnMap p.val) (8 * 0) (8 * 4) value)

/-- The value that a write of NUM_CFG asks for. -/
def State.numCfgAsked (s : State) (p : Part) (value : Nat) : Nat :=
  (regRow .numCfg).merge (s.reg .numCfg p.val) (setBits (s.reg .numCfg p.val) (8 * 0) (8 * 4) value)

section
variable (s : State) (p : Part) (value : Nat)

theorem writeRegister_memHbmMap : s.writeRegister (regRow .memHbmMap) p.val 0 8 value =
    if !s.partOff p then s
    else s.setReg .memHbmMap p.val (refuseBit 63 (s.hbmMapOk p (s.hbmMapAsked p value)) (s.hbmMapAsked p value)) := by
  simp only [State.writeRegister, name_memHbmMap, Fin.ofNat_val_eq_self, State.hbmMapAsked, refuseBit]
  rfl

theorem writeRegister_memFirnMap : s.writeRegister (regRow .memFirnMap) p.val 0 4 value =
    if !s.partOff p then s
    else s.setReg .memFirnMap p.val (refuseBit 31 (s.firnMapOk p (s.firnMapAsked p value)) (s.firnMapAsked p value)) := by
  simp only [State.writeRegister, name_memFirnMap, Fin.ofNat_val_eq_self, State.firnMapAsked, refuseBit]
  rfl

theorem writeRegister_numCfg : s.writeRegister (regRow .numCfg) p.val 0 4 value =
    s.setReg .numCfg p.val (refuseBit 20 (s.watchOk p) (s.numCfgAsked p value)) := by
  simp only [State.writeRegister, name_numCfg, Fin.ofNat_val_eq_self, State.numCfgAsked, refuseBit]
  rfl

theorem testBit_hbmMapAsked (i : Nat) (h : i < 54 ∨ i = 63) : (s.hbmMapAsked p value).testBit i = value.testBit i := by
  rw [State.hbmMapAsked, testBit_merge_memHbmMap _ _ i h, testBit_setBits_low _ _ (by omega)]

theorem testBit_numCfgAsked : (s.numCfgAsked p value).testBit 20 = value.testBit 20 := by
  rw [State.numCfgAsked, testBit_merge_numCfg, testBit_setBits_low _ _ (by omega)]

end

theorem testBit_firnMapAsked (s : State) (p : Part) {value : Nat} (h1 : 1 ≤ bitsOf value 16 15) (h2 : bitsOf value 16 15 ≤ 16384)
    (i : Nat) (h : i < 14 ∨ 16 ≤ i ∧ i < 32) : (s.firnMapAsked p value).testBit i = value.testBit i := by
  have hcount : bitsOf (setBits (s.reg .memFirnMap p.val) (8 * 0) (8 * 4) value) 16 15 = bitsOf value 16 15 :=
    bitsOf_congr fun j _ hj => testBit_setBits_low _ _ (by omega)
  rw [State.firnMapAsked, testBit_merge_memFirnMap (hcount ▸ h1) (hcount ▸ h2) i h, testBit_setBits_low _ _ (by omega)]

section
variable {s : State} (hs : s.serving) {p : Part}
include hs

theorem memHbmMapWrite_ignored (h : (s.part p).fn.st ≠ .off) (v : W64) : exec (.memHbmMapWrite p v) s = .next s := by
  rw [exec_memHbmMapWrite, execMemHbmMapWrite, inService_next hs, writeRegister_memHbmMap, if_pos (by simp [State.partOff, h])]

theorem memFirnMapWrite_ignored (h : (s.part p).fn.st ≠ .off) (v : W32) : exec (.memFirnMapWrite p v) s = .next s := by
  rw [exec_memFirnMapWrite, execMemFirnMapWrite, inService_next hs, writeRegister_memFirnMap, if_pos (by simp [State.partOff, h])]

theorem memHbmMapWrite_taken (h : (s.part p).fn.st = .off) (v : W64) :
    ∃ w, exec (.memHbmMapWrite p v) s = .next (s.setReg .memHbmMap p.val w) ∧
      bitsOf w 0 54 = bitsOf v.toNat 0 54 ∧ bitOf w 63 = (bitOf v.toNat 63 && s.hbmMapOk p v.toNat) := by
  have hbit := testBit_hbmMapAsked s p v.toNat
  refine ⟨refuseBit 63 (s.hbmMapOk p (s.hbmMapAsked p v.toNat)) (s.hbmMapAsked p v.toNat), ?_, ?_, ?_⟩
  · rw [exec_memHbmMapWrite, execMemHbmMapWrite, inService_next hs, writeRegister_memHbmMap, if_neg (by simp [State.partOff, h])]
  · exact bitsOf_congr fun i _ hi => (testBit_refuseBit_below _ _ (by omega)).trans (hbit i (by omega))
  · rw [bitOf_refuseBit, hbit 63 (Or.inr rfl), bitOf_eq_testBit, hbmMapOk_congr s p fun i hi => hbit i (Or.inl hi)]

theorem memFirnMapWrite_taken (h : (s.part p).fn.st = .off) {v : W32} (h1 : 1 ≤ bitsOf v.toNat 16 15)
    (h2 : bitsOf v.toNat 16 15 ≤ 16384) :
    ∃ w, exec (.memFirnMapWrite p v) s = .next (s.setReg .memFirnMap p.val w) ∧
      bitsOf w 0 14 = bitsOf v.toNat 0 14 ∧ bitsOf w 16 15 = bitsOf v.toNat 16 15 ∧
      bitOf w 31 = (bitOf v.toNat 31 && s.firnMapOk p v.toNat) := by
  have hbit := testBit_firnMapAsked s p h1 h2
  have hlow : ∀ ok i, i < 14 ∨ 16 ≤ i ∧ i < 31 → (refuseBit 31 ok (s.firnMapAsked p v.toNat)).testBit i = v.toNat.testBit i :=
    fun ok i hi => (testBit_refuseBit_below _ _ (by omega)).trans (hbit i (by omega))
  refine ⟨refuseBit 31 (s.firnMapOk p (s.firnMapAsked p v.toNat)) (s.firnMapAsked p v.toNat), ?_, ?_, ?_, ?_⟩
  · rw [exec_memFirnMapWrite, execMemFirnMapWrite, inService_next hs, writeRegister_memFirnMap, if_neg (by simp [State.partOff, h])]
  · exact bitsOf_congr fun i _ hi => hlow _ i (by omega)
  · exact bitsOf_congr fun i _ hi => hlow _ i (by omega)
  · rw [bitOf_refuseBit, hbit 31 (by omega), bitOf_eq_testBit, firnMapOk_congr s p hbit]

theorem watchEnSet_judged (v : W32) :
    ∃ w, exec (.watchEnSet p v) s = .next (s.setReg .numCfg p.val w) ∧ bitOf w 20 = s.watchOk p := by
  refine ⟨refuseBit 20 (s.watchOk p) (s.numCfgAsked p (setBits v.toNat 20 1 1)), ?_, ?_⟩
  · rw [exec_watchEnSet, execWatchEnSet, inService_next hs, writeRegister_numCfg]
  · rw [bitOf_refuseBit, testBit_numCfgAsked, testBit_setBits, if_pos (by omega)]
    exact Bool.true_and _

end

/-- Settles O21: each write by the bits of the value it asks for, with VALID or WATCH_EN judged last. -/
theorem mapWritesTakeHoldOnlyWhileOff : Obligations.MapWritesTakeHoldOnlyWhileOff := by
  intro s hs
  exact ⟨fun p v h => memHbmMapWrite_ignored hs h v, fun p v h => memFirnMapWrite_ignored hs h v,
    fun p v h => memHbmMapWrite_taken hs h v, fun p v h h1 h2 => memFirnMapWrite_taken hs h h1 h2, fun p v => watchEnSet_judged hs v⟩

end Sys2Proof.Machine
end

section
/-! SUPPORT. Commands that are judged as they start, and complete at once or await the step boundary: SET_RECIPE, SET_SPEC_POLICY,
SET_ATTN_PATTERN, SET_EXPERT_POLICY (R229 to R231, R339 to R343, R416 to R422). -/

namespace Sys2Proof.Machine

/-! ### A command that starts -/

theorem mem_of_nextCmd {x : Partition} {r : CmdRing} {op : Nat} {c : Cmd} (h : x.nextCmd r op = some c) : c ∈ x.cmds := by
  unfold Partition.nextCmd at h
  split at h
  · next d hd =>
    split at h
    · exact Option.some.inj h ▸ List.mem_of_find?_eq_some hd
    · cases h
  · cases h

/-- A command as it is handed to its effect. -/
def Cmd.begun (c : Cmd) : Cmd := { c with stage := .started }

theorem Cmd.field_begun (c : Cmd) (off n : Nat) : c.begun.field off n = c.field off n := rfl
theorem Cmd.opcode_begun (c : Cmd) : c.begun.opcode = c.opcode := rfl

theorem inService_runCmd {s : State} (hs : s.serving) {p : Part} {r : CmdRing} {op : Nat} {c : Cmd}
    (hc : (s.part p).nextCmd r op = some c) (f : State → Cmd → State) :
    inService s (fun s => runCmd s p r op f) = .next ((f (s.started p c) c.begun).modPart p Partition.startFences) := by
  rw [inService_next hs, runCmd_next hc]
  rfl

/-- A command that starts and finishes, in a state that differs from `u` in the stages of commands alone, completes at once. -/
theorem completesAtOnce_of_finish {i : Instr} {s u v : State} {p : Part} {c : Cmd} {st : W16} {info result : Nat}
    (hx : exec i s = .next ((v.finish p c.begun st info result).modPart p Partition.startFences)) (hv : CmdsOnly p u v) :
    CompletesAtOnce i s u p c st info result :=
  ⟨_, hx, finish_completed hv c.begun st info result⟩

/-! ### What a start of a command leaves -/

theorem part_started (s : State) (p : Part) (c : Cmd) :
    (s.started p c).part p = { s.part p with cmds := ((s.started p c).part p).cmds } := by
  simp [State.started, State.modCmd]

theorem req?_started (s : State) (p : Part) (c : Cmd) (id : Nat) : (s.started p c).req? p id = s.req? p id := by
  rw [State.req?, part_started]
  rfl

theorem mainInfo_started (s : State) (p : Part) (c : Cmd) : (s.started p c).mainInfo p = s.mainInfo p := by
  rw [State.mainInfo, part_started]
  rfl

theorem baseOf_started (s : State) (p : Part) (c : Cmd) (tag : Nat) : (s.started p c).baseOf p tag = s.baseOf p tag := by
  rw [State.baseOf, part_started]
  rfl

theorem recipeOf_started (s : State) (p : Part) (c : Cmd) (tag : Nat) : (s.started p c).recipeOf p tag = s.recipeOf p tag := by
  rw [State.recipeOf, part_started, baseOf_started]
  rfl

theorem fabric_started (s : State) (p : Part) (c : Cmd) : (s.started p c).fabric = s.fabric := rfl

theorem self_started (s : State) (p : Part) (c : Cmd) : (s.started p c).self = s.self := rfl

theorem requests_started (s : State) (p : Part) (c : Cmd) : ((s.started p c).part p).requests = (s.part p).requests := by
  rw [part_started]

theorem exp_started (s : State) (p : Part) (c : Cmd) : ((s.started p c).part p).exp = (s.part p).exp := by
  rw [part_started]

theorem otherMembers_started (s : State) (p : Part) (c : Cmd) : (s.started p c).otherMembers p = s.otherMembers p := by
  rw [State.otherMembers, exp_started]
  rfl

theorem stepAhead_started (s : State) (p : Part) (c : Cmd) : (s.started p c).stepAhead p = s.stepAhead p := by
  rw [State.stepAhead, exp_started, State.stepAhead]

theorem atBoundary_started (s : State) (p : Part) (c : Cmd) : ((s.started p c).part p).atBoundary = (s.part p).atBoundary := by
  rw [part_started]

theorem cmd?_started (s : State) (p : Part) (c : Cmd) (o : Nat) :
    (s.started p c).cmd? p o = (s.cmd? p o).map (fun y => if y.order = c.order then y.begun else y) := by
  have hmap : ((s.started p c).part p).cmds = (s.part p).cmds.map (fun y => if y.order = c.order then y.begun else y) := by
    rw [State.started, State.modCmd, part_modPart_same]
    rfl
  have horder : (fun y : Cmd => decide (y.order = o)) ∘ (fun y => if y.order = c.order then y.begun else y) =
      fun y => decide (y.order = o) := by
    funext y
    simp only [Function.comp]
    split <;> rfl
  rw [State.cmd?, hmap, List.find?_map, horder, State.cmd?]

theorem recipeFrom_started (s : State) (p : Part) (c y : Cmd) (tag : Nat) (r : Recipe) :
    (s.started p c).recipeFrom p y tag r = s.recipeFrom p y tag r := by
  rw [State.recipeFrom, baseOf_started, State.recipeFrom]

/-- The stage of a command does not enter the recipe that it leaves. -/
theorem recipeFrom_begun (s : State) (p : Part) (y : Cmd) (tag : Nat) (r : Recipe) :
    s.recipeFrom p y.begun tag r = s.recipeFrom p y tag r := rfl

/-- What is gathered over the commands with the take orders `os` that meet `q` does not depend on their stages. -/
theorem foldl_cmds_started {α : Type} (s : State) (p : Part) (c : Cmd) {q : Cmd → Bool} {f : α → Cmd → α}
    (hq : ∀ y, q y.begun = q y) (hf : ∀ a y, f a y.begun = f a y) (os : List Nat) (a : α) :
    (os.filterMap (fun o => ((s.started p c).cmd? p o).filter q)).foldl f a =
      (os.filterMap (fun o => (s.cmd? p o).filter q)).foldl f a := by
  have hfilter : ∀ o, ((s.started p c).cmd? p o).filter q =
      ((s.cmd? p o).filter q).map (fun y => if y.order = c.order then y.begun else y) := by
    intro o
    rw [cmd?_started, Option.filter_map]
    congr 2
    funext y
    simp only [Function.comp]
    split
    · exact hq y
    · rfl
  simp only [hfilter]
  rw [← List.map_filterMap, List.foldl_map]
  congr 1
  funext a y
  split
  · exact hf a y
  · rfl

theorem recipeAfter_started (s : State) (p : Part) (c : Cmd) (tag : Nat) :
    (s.started p c).recipeAfter p c.begun tag = s.recipeAfter p c tag := by
  unfold State.recipeAfter
  simp only [atBoundary_started, recipeOf_started, recipeFrom_started, recipeFrom_begun]
  rw [foldl_cmds_started s p c (fun _ => rfl) (fun a y => recipeFrom_begun s p y tag a)]

/-! ### A command that goes on -/

/-- A FENCE that starts changes no command that is under way. -/
theorem startFence_of_not_held {l : List Cmd} {c : Cmd} (h : c.stage ≠ .held) : startFence l c = c := by
  simp [startFence, h]

/-- A command set under way is so after the FENCEs have started, whatever else has changed since its start. -/
theorem stageIs_running {s v : State} {p : Part} {c : Cmd} (hc : c ∈ (s.part p).cmds)
    (hv : (v.part p).cmds = ((s.started p c).part p).cmds) {g : Partition → Partition} (hg : ∀ x, (g x).cmds = x.cmds) :
    StageIs (((v.setStage p c.order .running).modPart p g).modPart p Partition.startFences) p c.order .running := by
  let l := ((v.setStage p c.order .running).part p).cmds
  have hl : l = ((s.started p c).part p).cmds.map (fun d => if d.order = c.order then { d with stage := .running } else d) := by
    simp only [l, State.setStage, State.modCmd, part_modPart_same, hv]
  have hmem : ∃ e ∈ l, e.order = c.order := by
    refine ⟨{ c.begun with stage := .running }, ?_, rfl⟩
    rw [hl]
    refine List.mem_map.2 ⟨c.begun, ?_, if_pos rfl⟩
    rw [State.started, State.modCmd, part_modPart_same]
    exact List.mem_map.2 ⟨c, hc, if_pos rfl⟩
  have hrun : ∀ e ∈ l, e.order = c.order → e.stage = .running := by
    intro e he ho
    rw [hl] at he
    obtain ⟨d, -, rfl⟩ := List.mem_map.1 he
    by_cases hd : d.order = c.order
    · rw [if_pos hd]
    · rw [if_neg hd] at ho
      exact absurd ho hd
  have hcmds : ((((v.setStage p c.order .running).modPart p g).modPart p Partition.startFences).part p).cmds =
      l.map (startFence l) := by
    simp only [part_modPart_same, Partition.startFences, hg, l]
  rw [StageIs, hcmds]
  refine ⟨?_, fun e he ho => ?_⟩
  · obtain ⟨e, he, ho⟩ := hmem
    exact ⟨_, List.mem_map_of_mem he, (startFence_order l e).trans ho⟩
  · obtain ⟨d, hd, rfl⟩ := List.mem_map.1 he
    rw [startFence_order] at ho
    rw [startFence_of_not_held (by simp [hrun d hd ho]), hrun d hd ho]

/-- A command that is kept for the next step boundary, and changes the ranges kept beside it by `f`. -/
theorem awaitsBoundary {i : Instr} {s : State} {p : Part} {c : Cmd} (hc : c ∈ (s.part p).cmds) {f : Dict (List (Nat × Nat)) → Dict (List (Nat × Nat))}
    (hx : exec i s = .next ((((s.started p c).setStage p c.order .running).modPart p (fun x => { x with
      atBoundary := x.atBoundary ++ [c.order], cmdRanges := f x.cmdRanges })).modPart p Partition.startFences)) :
    ∃ t, exec i s = .next t ∧ StageIs t p c.order .running ∧
      t = s.modPart p (fun x => { x with
        cmds := (t.part p).cmds, atBoundary := x.atBoundary ++ [c.order], cmdRanges := f x.cmdRanges }) := by
  refine ⟨_, hx, stageIs_running hc rfl (fun _ => rfl), ?_⟩
  simp only [State.started, State.setStage, State.modCmd, modPart_modPart, part_modPart_same]
  rfl

/-! ### Announcements to the other members (R418) -/

theorem FabricOnly.part {s t : State} (h : FabricOnly s t) (p : Part) : t.part p = s.part p := by
  have h : t = { s with fabric := t.fabric } := h
  rw [h]
  rfl

theorem FabricOnly.self {s t : State} (h : FabricOnly s t) : t.self = s.self := by
  have h : t = { s with fabric := t.fabric } := h
  rw [h]
  rfl

theorem announce_alone {s : State} {p : Part} (h : s.otherMembers p = []) (kind : Nat) (body : List Nat) :
    s.announce p kind body = ([], s) := by
  rw [State.announce, h, List.foldl_nil]

/-- An announcement sends one transfer to each other member and changes the fabric alone. -/
theorem announce_sends (s : State) (p : Part) (kind : Nat) (body : List Nat) :
    FabricOnly s (s.announce p kind body).2 ∧ (s.announce p kind body).1.length = (s.otherMembers p).length := by
  have hfold : ∀ (ns : List Node) (y : List Nat × State),
      let z := ns.foldl (fun (y : List Nat × State) n =>
        ((y.1 ++ [(y.2.sendAcked tyMsg 0 n p 0 (Config.messageKind kind) (Config.messageBody body)).1],
          (y.2.sendAcked tyMsg 0 n p 0 (Config.messageKind kind) (Config.messageBody body)).2) : List Nat × State)) y
      FabricOnly y.2 z.2 ∧ z.1.length = y.1.length + ns.length := by
    intro ns
    induction ns with
    | nil => exact fun y => ⟨FabricOnly.refl _, rfl⟩
    | cons n ns ih =>
      intro y
      obtain ⟨hfabric, hlength⟩ := ih (y.1 ++ [(y.2.sendAcked tyMsg 0 n p 0 (Config.messageKind kind) (Config.messageBody body)).1],
        (y.2.sendAcked tyMsg 0 n p 0 (Config.messageKind kind) (Config.messageBody body)).2)
      refine ⟨(FabricOnly.sendAcked y.2 tyMsg 0 n p 0 _ _ none).trans hfabric, hlength.trans ?_⟩
      simp only [List.length_append, List.length_cons, List.length_nil]
      omega
  simpa [State.announce] using hfold (s.otherMembers p) ([], s)

/-- The experts once this member has announced a policy. -/
def Experts.announces (a : PolicyAsk) (self : Node) (x : Experts) : Experts := { x with announced := x.announced ++ [⟨a, self⟩] }

/-- The experts once a command waits for the answers `keys` about step `n`. -/
def Experts.asks (cmd : Nat) (keys : List Nat) (n : Nat) (x : Experts) : Experts := { x with asking := x.asking ++ [⟨cmd, keys, n⟩] }

/-- A change of the experts beside a change of stages of commands. -/
theorem CmdsOnly.modExp {p : Part} {s v : State} (h : CmdsOnly p s v) (f : Experts → Experts) :
    CmdsOnly p (s.modExp p f) (v.modExp p f) := by
  obtain ⟨hv, hcmd⟩ := h
  have hcmds : ((v.modExp p f).part p).cmds = (v.part p).cmds := by simp only [State.modExp, part_modPart_same]
  refine ⟨?_, fun o => ?_⟩
  · rw [hcmds]
    conv_lhs => rw [hv]
    simp only [State.modExp, modPart_modPart]
  · simpa only [State.cmd?, State.modExp, part_modPart_same] using hcmd o

/-! ### The rows -/

theorem exec_setRecipe (p : Part) (r : CmdRing) (s : State) : exec (.setRecipe p r) s = execSetRecipe p r s := rfl
theorem exec_setSpecPolicy (p : Part) (r : CmdRing) (s : State) : exec (.setSpecPolicy p r) s = execSetSpecPolicy p r s := rfl
theorem exec_setAttnPattern (p : Part) (r : CmdRing) (d : HostData) (s : State) :
    exec (.setAttnPattern p r d) s = execSetAttnPattern p r d s := rfl
theorem exec_setExpertPolicy (p : Part) (r : CmdRing) (s : State) : exec (.setExpertPolicy p r) s = execSetExpertPolicy p r s := rfl

theorem recipeFault_begun (c : Cmd) : recipeFault c.begun = recipeFault c := rfl
theorem tagsNamed_begun (c : Cmd) : tagsNamed c.begun = tagsNamed c := rfl
theorem specFault_begun (c : Cmd) (heads : Nat) : specFault c.begun heads = specFault c heads := rfl
theorem patternFault_begun (c : Cmd) (layers : Nat) (d : HostData) : patternFault c.begun layers d = patternFault c layers d := rfl
theorem expertPolicyFault_begun (c : Cmd) : expertPolicyFault c.begun = expertPolicyFault c := rfl

theorem rangesOf_begun (c : Cmd) (d : HostData) : rangesOf c.begun d = rangesOf c d := rfl
theorem layersNamed_begun (c : Cmd) : layersNamed c.begun = layersNamed c := rfl
theorem patternOf_begun (c : Cmd) (rs : List (Nat × Nat)) : patternOf c.begun rs = patternOf c rs := rfl
theorem policyAsk_begun (c : Cmd) (n : Nat) : policyAsk c.begun n = policyAsk c n := rfl

/-- A SET_EXPERT_POLICY without a field at fault names at least one layer. -/
theorem expertPolicyFault_count {c : Cmd} (h : expertPolicyFault c = none) : 0 < c.field 0x12 2 := by
  refine Nat.pos_of_ne_zero fun h0 => ?_
  simp [expertPolicyFault, h0] at h

/-! ### What a SET_ATTN_PATTERN covers (R341) -/

/-- The requests that a SET_ATTN_PATTERN covers: the one it names, or every one. -/
def Partition.coveredBy (x : Partition) (c : Cmd) : List (Nat × Request) :=
  x.requests.filter (fun e => if bitOf (c.field 0x19 1) 0 then decide (e.1 = c.field 0x14 4) else true)

/-- The layers of a request that it covers: of every request, those without a pattern of their own. -/
def Request.coveredLayers (r : Request) (c : Cmd) : List Nat :=
  (layersNamed c).filter (fun l => bitOf (c.field 0x19 1) 0 || (dget? r.patterns l).isNone)

theorem mem_coveredBy_one {x : Partition} {c : Cmd} (h : bitOf (c.field 0x19 1) 0 = true) {e : Nat × Request} :
    e ∈ x.coveredBy c ↔ e ∈ x.requests ∧ e.1 = c.field 0x14 4 := by
  simp [Partition.coveredBy, h]

theorem coveredBy_all {x : Partition} {c : Cmd} (h : bitOf (c.field 0x19 1) 0 = false) : x.coveredBy c = x.requests := by
  simp [Partition.coveredBy, h]

theorem coveredLayers_one {c : Cmd} (h : bitOf (c.field 0x19 1) 0 = true) (r : Request) : r.coveredLayers c = layersNamed c := by
  simp [Request.coveredLayers, h]

theorem coveredLayers_all {c : Cmd} (h : bitOf (c.field 0x19 1) 0 = false) (r : Request) :
    r.coveredLayers c = (layersNamed c).filter (fun l => (dget? r.patterns l).isNone) := by
  simp [Request.coveredLayers, h]

/-! ### The rows in service -/

section
variable {s : State} (hs : s.serving) {p : Part} {r : CmdRing} {c : Cmd}
include hs

/-! ### SET_RECIPE -/

section
variable (hc : (s.part p).nextCmd r opSetRecipe = some c)
include hc

theorem setRecipe_malformed {off : Nat} (h : recipeFault c = some off) :
    CompletesAtOnce (.setRecipe p r) s s p c stMalformed off := by
  refine completesAtOnce_of_finish ?_ (started_cmdsOnly s p c)
  rw [exec_setRecipe, execSetRecipe, inService_runCmd hs hc]
  simp only [recipeFault_begun, h]
  rfl

theorem setRecipe_rejected (h : recipeFault c = none)
    (hw : ∃ g ∈ tagsNamed c, (s.recipeAfter p c g).wMax < (s.recipeAfter p c g).wMin) :
    CompletesAtOnce (.setRecipe p r) s s p c stState := by
  have hany : (tagsNamed c).any (fun g => decide ((s.recipeAfter p c g).wMax < (s.recipeAfter p c g).wMin)) = true := by
    simpa using hw
  refine completesAtOnce_of_finish ?_ (started_cmdsOnly s p c)
  rw [exec_setRecipe, execSetRecipe, inService_runCmd hs hc]
  simp only [recipeFault_begun, h, tagsNamed_begun, recipeAfter_started, hany, if_true]

theorem setRecipe_awaits (h : recipeFault c = none)
    (hw : ∀ g ∈ tagsNamed c, (s.recipeAfter p c g).wMin ≤ (s.recipeAfter p c g).wMax) :
    ∃ t, exec (.setRecipe p r) s = .next t ∧ StageIs t p c.order .running ∧
      t = s.modPart p (fun x => { x with cmds := (t.part p).cmds, atBoundary := x.atBoundary ++ [c.order] }) := by
  have hany : (tagsNamed c).any (fun g => decide ((s.recipeAfter p c g).wMax < (s.recipeAfter p c g).wMin)) = false := by
    simpa using hw
  refine awaitsBoundary (f := fun m => m) (mem_of_nextCmd hc) ?_
  rw [exec_setRecipe, execSetRecipe, inService_runCmd hs hc]
  simp only [recipeFault_begun, h, tagsNamed_begun, recipeAfter_started, hany, Bool.false_eq_true, if_false]
  rfl

end

/-! ### SET_SPEC_POLICY -/

section
variable (hc : (s.part p).nextCmd r opSetSpec = some c)
include hc

theorem setSpecPolicy_malformed {off : Nat} (h : specFault c (s.mainInfo p).exitHeads = some off) :
    CompletesAtOnce (.setSpecPolicy p r) s s p c stMalformed off := by
  refine completesAtOnce_of_finish ?_ (started_cmdsOnly s p c)
  rw [exec_setSpecPolicy, execSetSpecPolicy, inService_runCmd hs hc]
  simp only [specFault_begun, mainInfo_started, h]
  rfl

theorem setSpecPolicy_rejected (h : specFault c (s.mainInfo p).exitHeads = none)
    (hw : (bitOf (c.field 0x14 1) 0 = true ∧ s.req? p (c.field 0x10 4) = none) ∨
      (bitOf (c.field 0x14 1) 2 = true ∧ (s.mainInfo p).hasBarker = false)) :
    CompletesAtOnce (.setSpecPolicy p r) s s p c stState := by
  refine completesAtOnce_of_finish ?_ (started_cmdsOnly s p c)
  rw [exec_setSpecPolicy, execSetSpecPolicy, inService_runCmd hs hc]
  simp only [specFault_begun, mainInfo_started, req?_started, Cmd.field_begun, h]
  rcases hw with ⟨hone, hreq⟩ | ⟨hon, hbarker⟩
  · rw [if_pos (by simp [hone, hreq])]
  · split
    · rfl
    · rw [if_pos (by simp [hon, hbarker])]

theorem setSpecPolicy_awaits (h : specFault c (s.mainInfo p).exitHeads = none)
    (hreq : bitOf (c.field 0x14 1) 0 = true → (s.req? p (c.field 0x10 4)).isSome = true)
    (hbarker : bitOf (c.field 0x14 1) 2 = true → (s.mainInfo p).hasBarker = true) :
    ∃ t, exec (.setSpecPolicy p r) s = .next t ∧ StageIs t p c.order .running ∧
      t = s.modPart p (fun x => { x with cmds := (t.part p).cmds, atBoundary := x.atBoundary ++ [c.order] }) := by
  refine awaitsBoundary (f := fun m => m) (mem_of_nextCmd hc) ?_
  rw [exec_setSpecPolicy, execSetSpecPolicy, inService_runCmd hs hc]
  simp only [specFault_begun, mainInfo_started, req?_started, Cmd.field_begun, h]
  rw [if_neg (by simpa [Option.isSome_iff_ne_none] using hreq), if_neg (by simpa using hbarker)]
  rfl

end

/-! ### SET_ATTN_PATTERN -/

section
variable (hc : (s.part p).nextCmd r opSetAttn = some c) {d : HostData}
include hc

theorem setAttnPattern_malformed {off : Nat} (h : patternFault c (s.mainInfo p).attnLayers d = some off) :
    CompletesAtOnce (.setAttnPattern p r d) s s p c stMalformed off := by
  refine completesAtOnce_of_finish ?_ (started_cmdsOnly s p c)
  rw [exec_setAttnPattern, execSetAttnPattern, inService_runCmd hs hc]
  simp only [patternFault_begun, mainInfo_started, h]
  rfl

theorem setAttnPattern_rejected (h : patternFault c (s.mainInfo p).attnLayers d = none)
    (hw : (bitOf (c.field 0x19 1) 0 = true ∧ (s.part p).coveredBy c = []) ∨
      ∃ e ∈ (s.part p).coveredBy c, e.2.wouldMiss (patternOf c (rangesOf c d)) (e.2.coveredLayers c) = true) :
    CompletesAtOnce (.setAttnPattern p r d) s s p c stState := by
  refine completesAtOnce_of_finish ?_ (started_cmdsOnly s p c)
  rw [exec_setAttnPattern, execSetAttnPattern, inService_runCmd hs hc]
  simp only [patternFault_begun, mainInfo_started, h, requests_started]
  rcases hw with ⟨hone, hnone⟩ | hmiss
  · have hnamed : (bitOf (c.begun.field 0x19 1) 0 && ((s.part p).coveredBy c.begun).isEmpty) = true :=
      Bool.and_eq_true_iff.2 ⟨hone, List.isEmpty_iff.2 hnone⟩
    unfold Partition.coveredBy at hnamed
    rw [hnamed, if_pos rfl]
  · have hany : ((s.part p).coveredBy c.begun).any (fun e =>
        e.2.wouldMiss (patternOf c.begun (rangesOf c.begun d)) (e.2.coveredLayers c.begun)) = true := List.any_eq_true.2 hmiss
    unfold Partition.coveredBy Request.coveredLayers at hany
    rw [hany, if_pos rfl, ite_self]

theorem setAttnPattern_awaits (h : patternFault c (s.mainInfo p).attnLayers d = none)
    (hreq : bitOf (c.field 0x19 1) 0 = true → (s.part p).coveredBy c ≠ [])
    (hkeep : ∀ e ∈ (s.part p).coveredBy c, e.2.wouldMiss (patternOf c (rangesOf c d)) (e.2.coveredLayers c) = false) :
    ∃ t, exec (.setAttnPattern p r d) s = .next t ∧ StageIs t p c.order .running ∧
      t = s.modPart p (fun x => { x with cmds := (t.part p).cmds, atBoundary := x.atBoundary ++ [c.order],
                                         cmdRanges := dset x.cmdRanges c.order (rangesOf c d) }) := by
  have hnamed : (bitOf (c.begun.field 0x19 1) 0 && ((s.part p).coveredBy c.begun).isEmpty) = false := by
    refine Bool.eq_false_iff.2 fun hn => ?_
    obtain ⟨hone, hempty⟩ := Bool.and_eq_true_iff.1 hn
    exact hreq hone (List.isEmpty_iff.1 hempty)
  have hany : ((s.part p).coveredBy c.begun).any (fun e =>
      e.2.wouldMiss (patternOf c.begun (rangesOf c.begun d)) (e.2.coveredLayers c.begun)) = false :=
    List.any_eq_false.2 fun e he => Bool.eq_false_iff.1 (hkeep e he)
  unfold Partition.coveredBy at hnamed
  unfold Partition.coveredBy Request.coveredLayers at hany
  refine awaitsBoundary (f := fun m => dset m c.order (rangesOf c d)) (mem_of_nextCmd hc) ?_
  rw [exec_setAttnPattern, execSetAttnPattern, inService_runCmd hs hc]
  simp only [patternFault_begun, mainInfo_started, h, requests_started]
  rw [hnamed, if_neg Bool.false_ne_true, hany, if_neg Bool.false_ne_true]
  rfl

end

/-! ### SET_EXPERT_POLICY -/

section
variable (hc : (s.part p).nextCmd r opSetExpert = some c)
include hc

theorem setExpertPolicy_malformed {off : Nat} (h : expertPolicyFault c = some off) :
    CompletesAtOnce (.setExpertPolicy p r) s s p c stMalformed off := by
  refine completesAtOnce_of_finish ?_ (started_cmdsOnly s p c)
  rw [exec_setExpertPolicy, execSetExpertPolicy, inService_runCmd hs hc]
  simp only [expertPolicyFault_begun, h]
  rfl

variable (h : expertPolicyFault c = none)
include h

theorem setExpertPolicy_no_experts (h0 : (s.mainInfo p).expertLayers = 0) :
    CompletesAtOnce (.setExpertPolicy p r) s s p c stState := by
  refine completesAtOnce_of_finish ?_ (started_cmdsOnly s p c)
  rw [exec_setExpertPolicy, execSetExpertPolicy, inService_runCmd hs hc]
  simp only [expertPolicyFault_begun, h, mainInfo_started, h0, if_true]

variable (hpos : 0 < (s.mainInfo p).expertLayers)
include hpos

theorem setExpertPolicy_first_layer (hf : (s.mainInfo p).expertLayers ≤ c.field 0x10 2) :
    CompletesAtOnce (.setExpertPolicy p r) s s p c stMalformed 0x10 := by
  refine completesAtOnce_of_finish ?_ (started_cmdsOnly s p c)
  rw [exec_setExpertPolicy, execSetExpertPolicy, inService_runCmd hs hc]
  simp only [expertPolicyFault_begun, h, mainInfo_started, Cmd.field_begun, Nat.ne_of_gt hpos, hf, if_true, if_false]
  rfl

theorem setExpertPolicy_last_layer (hf : c.field 0x10 2 < (s.mainInfo p).expertLayers)
    (hl : (s.mainInfo p).expertLayers < c.field 0x10 2 + c.field 0x12 2) :
    CompletesAtOnce (.setExpertPolicy p r) s s p c stMalformed 0x12 := by
  refine completesAtOnce_of_finish ?_ (started_cmdsOnly s p c)
  rw [exec_setExpertPolicy, execSetExpertPolicy, inService_runCmd hs hc]
  simp only [expertPolicyFault_begun, h, mainInfo_started, Cmd.field_begun, Nat.ne_of_gt hpos, Nat.not_le.2 hf, hl, if_true, if_false]
  rfl

variable (hlayers : c.field 0x10 2 + c.field 0x12 2 ≤ (s.mainInfo p).expertLayers)
include hlayers

omit hs hc hpos in
/-- The layers named lie within the model. -/
theorem expertLayers_within : ¬ (s.mainInfo p).expertLayers ≤ c.field 0x10 2 ∧
    ¬ (s.mainInfo p).expertLayers < c.field 0x10 2 + c.field 0x12 2 := by
  have hcount := expertPolicyFault_count h
  omega

theorem setExpertPolicy_fenced (hn : ∃ n ∈ (s.part p).exp.members, n ∈ s.fabric.fenced) :
    CompletesAtOnce (.setExpertPolicy p r) s s p c stNodeLost := by
  have hany : (s.part p).exp.members.any s.fabric.fenced.contains = true := by simpa using hn
  obtain ⟨hfirst, hlast⟩ := expertLayers_within h hlayers
  refine completesAtOnce_of_finish ?_ (started_cmdsOnly s p c)
  rw [exec_setExpertPolicy, execSetExpertPolicy, inService_runCmd hs hc]
  simp only [expertPolicyFault_begun, h, mainInfo_started, Cmd.field_begun, exp_started, fabric_started, Nat.ne_of_gt hpos, hfirst, hlast,
    hany, if_true, if_false]

variable (hn : ∀ n ∈ (s.part p).exp.members, n ∉ s.fabric.fenced)
include hn

theorem setExpertPolicy_alone (h1 : s.otherMembers p = []) :
    CompletesAtOnce (.setExpertPolicy p r) s
      (s.modPart p (fun x => { x with exp := { x.exp with
        announced := x.exp.announced ++ [⟨policyAsk c (s.stepAhead p), s.self⟩] } })) p c stOk 0 (s.stepAhead p) := by
  have hany : (s.part p).exp.members.any s.fabric.fenced.contains = false := by simpa using hn
  obtain ⟨hfirst, hlast⟩ := expertLayers_within h hlayers
  refine completesAtOnce_of_finish ?_ ((started_cmdsOnly s p c).modExp (Experts.announces (policyAsk c (s.stepAhead p)) s.self))
  rw [exec_setExpertPolicy, execSetExpertPolicy, inService_runCmd hs hc]
  simp only [expertPolicyFault_begun, h, mainInfo_started, Cmd.field_begun, exp_started, fabric_started, Nat.ne_of_gt hpos, hfirst, hlast,
    hany, Bool.false_eq_true, if_false, announce_alone ((otherMembers_started s p c).trans h1), List.isEmpty_nil, if_true, self_started,
    policyAsk_begun, stepAhead_started]
  rfl

theorem setExpertPolicy_asks (h1 : s.otherMembers p ≠ []) :
    ∃ t ks, exec (.setExpertPolicy p r) s = .next t ∧ StageIs t p c.order .running ∧
      ks.length = (s.otherMembers p).length ∧
      t.part p = { s.part p with cmds := (t.part p).cmds, exp := { (s.part p).exp with
        announced := (s.part p).exp.announced ++ [⟨policyAsk c (s.stepAhead p), s.self⟩],
        asking := (s.part p).exp.asking ++ [⟨c.order, ks, s.stepAhead p⟩] } } ∧
      t.mem = s.mem ∧ t.sec = s.sec ∧ t.power = s.power := by
  have hany : (s.part p).exp.members.any s.fabric.fenced.contains = false := by simpa using hn
  obtain ⟨hfirst, hlast⟩ := expertLayers_within h hlayers
  obtain ⟨hfabric, hlength⟩ := announce_sends (s.started p c) p kindPolicy (policyNumbers (policyAsk c (s.stepAhead p)))
  generalize hsent : (s.started p c).announce p kindPolicy (policyNumbers (policyAsk c (s.stepAhead p))) = sent at hfabric hlength
  have hsome : sent.1.isEmpty = false := by
    rw [otherMembers_started] at hlength
    rw [List.isEmpty_eq_false_iff, ← List.length_pos_iff, hlength]
    exact List.length_pos_iff.2 h1
  let v := sent.2.modExp p (Experts.announces (policyAsk c (s.stepAhead p)) s.self)
  refine ⟨((v.setStage p c.order .running).modPart p (fun x => { x with
    exp := x.exp.asks c.order sent.1 (s.stepAhead p) })).modPart p Partition.startFences, sent.1, ?_, ?_, ?_, ?_, ?_⟩
  · rw [exec_setExpertPolicy, execSetExpertPolicy, inService_runCmd hs hc]
    simp only [expertPolicyFault_begun, h, mainInfo_started, Cmd.field_begun, exp_started, fabric_started, Nat.ne_of_gt hpos, hfirst, hlast,
      hany, Bool.false_eq_true, if_false, policyAsk_begun, stepAhead_started, self_started, hsent, hsome]
    rfl
  · refine stageIs_running (mem_of_nextCmd hc) ?_ (fun _ => rfl)
    simp only [v, State.modExp, part_modPart_same, hfabric.part]
  · rw [hlength, otherMembers_started]
  · simp only [v, State.modExp, State.setStage, State.modCmd, part_modPart_same]
    rw [hfabric.part, part_started]
    rfl
  · have hkept : sent.2 = { s.started p c with fabric := sent.2.fabric } := hfabric
    show sent.2.mem = s.mem ∧ sent.2.sec = s.sec ∧ sent.2.power = s.power
    rw [hkept]
    exact ⟨rfl, rfl, rfl⟩

end
end

/-- Settles O41: each command by its checks in their order, then by what it keeps for the step boundary or announces. -/
theorem policiesAreJudgedThenAwaitTheBoundary : Obligations.PoliciesAreJudgedThenAwaitTheBoundary := by
  intro s p r c hs
  refine ⟨fun hc => ⟨fun off h => setRecipe_malformed hs hc h, fun h hw => setRecipe_rejected hs hc h hw,
      fun h hw => setRecipe_awaits hs hc h hw⟩,
    fun hc => ⟨fun off h => setSpecPolicy_malformed hs hc h, fun h hw => setSpecPolicy_rejected hs hc h hw,
      fun h hreq hbarker => setSpecPolicy_awaits hs hc h hreq hbarker⟩,
    fun d hc => ⟨fun off h => setAttnPattern_malformed hs hc h, fun h hone hnone => ?_, fun h hone hex hkeep => ?_,
      fun h hone hmiss => ?_, fun h hall hmiss => ?_, fun h hall hkeep => ?_⟩,
    fun hc => ⟨fun off h => setExpertPolicy_malformed hs hc h, fun h => ⟨fun h0 => setExpertPolicy_no_experts hs hc h h0, fun hpos =>
      ⟨fun hf => setExpertPolicy_first_layer hs hc h hpos hf, fun hf hl => setExpertPolicy_last_layer hs hc h hpos hf hl, fun hl =>
        ⟨fun hn => setExpertPolicy_fenced hs hc h hpos hl hn, fun h1 hn => setExpertPolicy_alone hs hc h hpos hl hn h1,
          fun h1 hn => setExpertPolicy_asks hs hc h hpos hl hn h1⟩⟩⟩⟩⟩
  · refine setAttnPattern_rejected hs hc h (Or.inl ⟨hone, List.eq_nil_iff_forall_not_mem.2 fun e he => ?_⟩)
    obtain ⟨hmem, hid⟩ := (mem_coveredBy_one hone).1 he
    exact hnone e hmem hid
  · refine setAttnPattern_awaits hs hc h (fun _ hempty => ?_) fun e he => ?_
    · obtain ⟨e, hmem, hid⟩ := hex
      exact List.eq_nil_iff_forall_not_mem.1 hempty e ((mem_coveredBy_one hone).2 ⟨hmem, hid⟩)
    · obtain ⟨hmem, hid⟩ := (mem_coveredBy_one hone).1 he
      rw [coveredLayers_one hone]
      exact hkeep e hmem hid
  · obtain ⟨e, hmem, hid, hm⟩ := hmiss
    exact setAttnPattern_rejected hs hc h (Or.inr ⟨e, (mem_coveredBy_one hone).2 ⟨hmem, hid⟩, (coveredLayers_one hone e.2).symm ▸ hm⟩)
  · obtain ⟨e, hmem, hm⟩ := hmiss
    exact setAttnPattern_rejected hs hc h (Or.inr ⟨e, (coveredBy_all hall).symm ▸ hmem, (coveredLayers_all hall e.2).symm ▸ hm⟩)
  · refine setAttnPattern_awaits hs hc h (fun hone => absurd hone (by simp [hall])) fun e he => ?_
    rw [coveredLayers_all hall]
    exact hkeep e (coveredBy_all hall ▸ he)

end Sys2Proof.Machine
end

section
/-! SUPPORT. A step boundary that finds nothing due of the requests of its partition and of their KV, and the step that it forms
(R195, R221, R316, R331 to R333, R401, R412, R623). -/

namespace Sys2Proof.Machine

/-! ### Changes that change nothing -/

theorem modPart_eq_self {s : State} {p : Part} {f : Partition → Partition} (h : f (s.part p) = s.part p) : s.modPart p f = s := by
  rw [State.modPart, h, setPart_part]

/-- A fold whose every step leaves the state as it is. -/
theorem foldl_eq_self {α β : Type} {f : β → α → β} {b : β} {l : List α} (h : ∀ a ∈ l, f b a = b) : l.foldl f b = b := by
  induction l with
  | nil => rfl
  | cons a l ih => rw [List.foldl_cons, h a List.mem_cons_self, ih fun x hx => h x (List.mem_cons_of_mem a hx)]

theorem map_eq_self {α : Type} {f : α → α} {l : List α} (h : ∀ a ∈ l, f a = a) : l.map f = l :=
  (List.map_congr_left h).trans (List.map_id l)

theorem mem_of_mem_insertBy {α : Type} {le : α → α → Bool} {a x : α} {l : List α} (h : x ∈ insertBy le a l) : x = a ∨ x ∈ l := by
  induction l with
  | nil => exact Or.inl (List.mem_singleton.1 h)
  | cons b l ih =>
    unfold insertBy at h
    split at h
    · exact List.mem_cons.1 h
    · rcases List.mem_cons.1 h with h | h
      · exact Or.inr (h ▸ List.mem_cons_self)
      · exact (ih h).imp id (List.mem_cons_of_mem b)

theorem mem_of_mem_sortBy {α : Type} {le : α → α → Bool} {x : α} {l : List α} (h : x ∈ sortBy le l) : x ∈ l := by
  induction l with
  | nil => exact h
  | cons a l ih =>
    rcases mem_of_mem_insertBy h with h | h
    · exact h ▸ List.mem_cons_self
    · exact List.mem_cons_of_mem a (ih h)

theorem Partition.mem_requests_of_byAccept {x : Partition} {e : Nat × Request} (h : e ∈ x.byAccept) : e ∈ x.requests := mem_of_mem_sortBy h

theorem modReq_eq_self {s : State} {p : Part} {id : Nat} {r : Request} (h : s.req? p id = some r) {f : Request → Request} (hf : f r = r) :
    s.modReq p id f = s := by
  have h : dget? (s.part p).requests id = some r := h
  refine modPart_eq_self ?_
  simp only [h, hf, dset_of_dget? h]

/-! ### The KV of a request that has settled (R323 to R326, R336 to R338) -/

/-- With nothing to make, no page is made. -/
theorem makePages_settled (s : State) (m : ModelInfo) (k : KvPlace) (upto n : Nat) {y : LayerKv} (hf : y.flushed = 0) (hr : y.redo = []) :
    s.makePages m k upto n y = y := by
  have h0 : s.makePages m k upto 0 y = y := by rw [State.makePages, hr, List.foldl_nil]
  cases n with
  | zero => exact h0
  | succ n => rw [State.makePages, if_pos hf, h0]

/-- A page that nothing releases, demotes or puts into a frame stays as it is (R336 to R338). -/
theorem turnPage_still (s : State) (p : Part) (m : ModelInfo) {pat : Pattern} (q depth count : Nat) (busy : Bool) (taken : List (Nat × Nat))
    {n : Nat} {e : PageEnt} (hw : pat.window = false) (hp : e.present = true → e.pinned = pat.pins n) :
    s.turnPage p m pat q depth count busy none none taken n e = { ent := e } := by
  obtain ⟨frame, present, pinned, firn⟩ := e
  cases present with
  | false => simp [State.turnPage]
  | true =>
    have hpin : pinned = pat.pins n := hp rfl
    simp [State.turnPage, hw, hpin]

theorem turnPages_still (s : State) (p : Part) (m : ModelInfo) {pat : Pattern} (q depth : Nat) (busy : Nat → Bool) {y : LayerKv}
    (hi : y.images = []) (hw : pat.window = false) (hp : ∀ e ∈ y.pages.zipIdx, e.1.present = true → e.1.pinned = pat.pins e.2) :
    s.turnPages p m pat q depth busy y [] = y.pages.map (fun e => { ent := e }) := by
  have hfold : ∀ (es : List (PageEnt × Nat)) (a : List PageTurn × List (Nat × Nat)),
      (∀ e ∈ es, e.1.present = true → e.1.pinned = pat.pins e.2) →
      (es.foldl (fun (a : List PageTurn × List (Nat × Nat)) e =>
        let t := s.turnPage p m pat q depth y.pages.length (busy e.2) none none a.2 e.2 e.1
        ((a.1 ++ [t], if t.ent.frame = e.1.frame then a.2 else (t.ent.frame, frameBytes m.frame) :: a.2) : List PageTurn × List (Nat × Nat))) a).1 =
        a.1 ++ es.map (fun e => { ent := e.1 }) := by
    intro es
    induction es with
    | nil => intro a _; simp
    | cons e es ih =>
      intro a h
      have he := turnPage_still s p m q depth y.pages.length (busy e.2) a.2 hw (h e List.mem_cons_self)
      rw [List.foldl_cons, ih _ fun x hx => h x (List.mem_cons_of_mem e hx)]
      simp [he]
  have hmap : y.pages.zipIdx.map (fun e => ({ ent := e.1 } : PageTurn)) = y.pages.map (fun e => { ent := e }) := by
    conv_rhs => rw [← List.zipIdx_map_fst 0 y.pages, List.map_map]
    rfl
  unfold State.turnPages
  simp only [hi, dget?_nil, List.find?_nil, Option.map_none]
  exact (hfold _ ([], []) hp).trans (by simpa using hmap)

/-- With nothing to make and no page demoted, a boundary reads nothing of a layer (R276). -/
theorem layerUnreadable_still (s : State) (m : ModelInfo) {y : LayerKv} (k : KvPlace) {turns : List PageTurn} (hf : y.flushed = 0)
    (ht : ∀ t ∈ turns, t.demoted = false) : s.layerUnreadable m y k turns = none := by
  have hnone : ∀ e ∈ (y.pages.zip turns).zipIdx, e.1.2.demoted = false := fun e he =>
    ht _ (List.of_mem_zip (List.fst_mem_of_mem_zipIdx he)).2
  simp only [State.layerUnreadable, hf, Nat.lt_irrefl, decide_false, Bool.false_and, Bool.false_eq_true, if_false]
  refine List.findSome?_eq_none_iff.2 fun e he => ?_
  simp [hnone e he]

theorem fillDrift_still (s : State) (m : ModelInfo) (y : LayerKv) {k : KvPlace} (upto : Nat) (hk : k.values = []) :
    s.fillDrift m y k upto = s := by
  rw [State.fillDrift, hk, List.foldl_nil, ite_self]

theorem keepDrift_still (m : ModelInfo) (y : LayerKv) {k : KvPlace} (upto : Nat) (hk : k.values = []) : y.keepDrift m k upto = y := by
  unfold LayerKv.keepDrift
  simp only [hk, List.find?_nil, Option.map_none]
  split
  · rfl
  · next h =>
    cases hn : upto - 128 * y.pages.length with
    | zero => simp [hn] at h
    | succ n => simp [hn, List.range_succ] at h

/-- What keeps a layer as it is at a boundary: nothing of it waits, its pattern is dense, and its pages carry their pins. -/
structure LayerKv.Still (y : LayerKv) (pat : Pattern) : Prop where
  settled : y.settled = true
  dense : pat.window = false
  pinned : ∀ e ∈ y.pages.zipIdx, e.1.present = true → e.1.pinned = pat.pins e.2

theorem LayerKv.settled_iff (y : LayerKv) : y.settled = true ↔ y.flushed = 0 ∧ y.redo = [] ∧ y.images = [] ∧ y.driftIn = [] := by
  simp [LayerKv.settled, and_assoc]

/-- Without a place for anything of it, a still layer stays as it is (log entry 105). -/
theorem kvLayer_still {s : State} {p : Part} {id : Nat} {r : Request} {l : Nat} (hr : s.req? p id = some r) (hl : l < r.layers.length)
    (h : (r.layers.getD l {}).Still (s.patternAt p r l)) (issued : List Stream) : s.kvLayer p id issued [] l = s := by
  obtain ⟨hflushed, hredo, himages, -⟩ := (LayerKv.settled_iff _).1 h.settled
  have hdemoted : ∀ t ∈ (r.layers.getD l {}).pages.map (fun e => ({ ent := e } : PageTurn)), t.demoted = false := by
    intro t ht
    obtain ⟨e, -, rfl⟩ := List.mem_map.1 ht
    rfl
  have hpages : ((r.layers.getD l {}).pages.map (fun e => ({ ent := e } : PageTurn))).map PageTurn.ent = (r.layers.getD l {}).pages := by
    rw [List.map_map]
    exact List.map_id _
  have hset : r.layers.set l (r.layers.getD l {}) = r.layers := by
    rw [List.getD_eq_getElem _ _ hl, List.set_getElem_self]
  unfold State.kvLayer
  simp only [hr, List.find?_nil, Option.getD_none, makePages_settled s _ _ _ 8192 hflushed hredo]
  rw [show (default : KvPlace).frames = [] from rfl, turnPages_still s p _ _ _ _ himages h.dense h.pinned]
  simp only [layerUnreadable_still s _ _ hflushed hdemoted, hpages]
  rw [if_pos (by simp [show (default : KvPlace).dirs = [] from rfl]), fillDrift_still s _ _ (k := default) _ rfl]
  refine modReq_eq_self hr ?_
  rw [keepDrift_still _ _ (k := default) _ rfl, hset]

/-- What keeps the KV of every request of a partition as it is at a boundary. -/
def State.KvStill (s : State) (p : Part) (places : List KvPlace) : Prop :=
  ∀ e ∈ (s.part p).requests, places = [] ∧ s.req? p e.1 = some e.2 ∧ e.2.thawing = none ∧
    ∀ l < e.2.layers.length, (e.2.layers.getD l {}).Still (s.patternAt p e.2 l)

theorem kvPages_still {s : State} {p : Part} {places : List KvPlace} (h : s.KvStill p places) : s.kvPages p places = s := by
  have hthaws : s.thawsDone p = s := by
    refine foldl_eq_self fun e he => ?_
    obtain ⟨-, -, hthaw, -⟩ := h e (Partition.mem_requests_of_byAccept he)
    simp only [hthaw]
  have hpages : (s.part p).byAccept.foldl (fun u e =>
      (List.range e.2.layers.length).foldl (fun v l => v.kvLayer p e.1 (s.issuedStreams p) places l) u) s = s := by
    refine foldl_eq_self fun e he => foldl_eq_self fun l hl => ?_
    obtain ⟨rfl, hreq, -, hstill⟩ := h e (Partition.mem_requests_of_byAccept he)
    exact kvLayer_still hreq (List.mem_range.1 hl) (hstill l (List.mem_range.1 hl)) _
  rw [State.kvPages, hpages, hthaws]

/-! ### A partition of which nothing is due -/

/-- A request that no boundary ends, freezes or hands over, and whose barker and chunks go on as they are. -/
structure Request.Calm (r : Request) : Prop where
  cancel : r.cancel = []
  closing : r.closing = none
  freezing : r.freezing = none
  expired : r.expired = false
  warming : r.warming = false
  chunkFails : r.chunkFails < 3
  deadline : r.deadline = 0

/-- A partition without commands, chunks, switches or an expert group that a boundary acts on, and with calm requests. -/
structure Partition.Calm (x : Partition) : Prop where
  atBoundary : x.atBoundary = []
  chunks : x.step.chunks = []
  members : x.exp.members = []
  leaving : x.leaving = []
  switch : x.switch = none
  swap : x.swap = none
  main : (x.slot 0).st ≠ .complete ∨ (x.slot 1).st ≠ .empty
  barker : (x.slot 2).st ≠ .complete ∨ (x.slot 3).st ≠ .empty
  requests : ∀ e ∈ x.requests, e.2.Calm

theorem Partition.Calm.byAccept {x : Partition} (h : x.Calm) {e : Nat × Request} (he : e ∈ x.byAccept) : e.2.Calm :=
  h.requests e (Partition.mem_requests_of_byAccept he)

theorem Request.Calm.inTime {r : Request} (h : r.Calm) (s : State) : s.deadlinePassed r = false := by
  simp [State.deadlinePassed, h.deadline]

section
variable {s : State} {p : Part}

theorem updateRecipes_eq (s : State) (p : Part) : ∃ rs, s.updateRecipes p = s.modPart p (fun x => { x with recipes := rs }) :=
  ⟨_, modPart_congr (f := fun x => { x with recipes := x.recipes.map (fun e =>
    (e.1, e.2.update ((s.baseOf p e.1).getD (e.2.wRun, e.2.aRun, 8)))) })
    (g := fun x => { x with recipes := (s.part p).recipes.map (fun e =>
    (e.1, e.2.update ((s.baseOf p e.1).getD (e.2.wRun, e.2.aRun, 8)))) }) rfl⟩

theorem foldEwma_off (h : s.watchEn p = false) : s.foldEwma p = s := by
  rw [State.foldEwma, if_pos (by simp [h])]

/-- Requests of the model that serves do not wait for it (R614). -/
theorem settleWaiting_calm (hm : ∀ e ∈ (s.part p).requests, e.2.st ≠ .waiting ∧ s.modelActive p e.2.model = true) :
    s.settleWaiting p = s := by
  refine modPart_eq_self ?_
  have hmap : (s.part p).requests.map (fun e => (e.1, if e.2.st = .waiting then { e.2 with st := s.entersAt p e.2 }
      else if e.2.st = .idle || s.modelActive p e.2.model then e.2 else { e.2 with st := .waiting })) = (s.part p).requests :=
    map_eq_self fun e he => by rw [if_neg (hm e he).1, if_pos (by simp [(hm e he).2])]
  simp only [hmap]

variable (h : (s.part p).Calm)
include h

theorem applyAccepted_calm : s.applyAccepted p = s := by
  have hclear : s.modPart p (fun x => { x with atBoundary := [] }) = s := by
    refine modPart_eq_self ?_
    rw [← h.atBoundary]
  rw [State.applyAccepted, h.atBoundary, List.foldl_nil, hclear]

theorem chunksDone_calm : s.chunksDone p = s := by
  unfold State.chunksDone
  simp only [h.chunks, List.filter_nil, List.foldl_nil]
  refine modPart_eq_self ?_
  simp only [h.chunks, List.filter_nil]
  rw [← h.chunks]

theorem abandonChunks_calm : s.abandonChunks p = s :=
  foldl_eq_self fun e he => if_pos (by simp [(h.byAccept he).chunkFails])

theorem resumeBarkers_calm : s.resumeBarkers p = s := by
  unfold State.resumeBarkers
  extract_lets busy
  refine modPart_eq_self ?_
  have hmap : (s.part p).requests.map (fun e => (e.1, if e.2.warming && !busy.any (fun t => t.reqs.contains e.1) then { e.2 with draft := 1, missed := 0, warming := false } else e.2)) = (s.part p).requests :=
    map_eq_self fun e he => by rw [if_neg (by simp [(h.requests e he).warming])]
  simp only [hmap]

theorem grouped_calm : s.grouped p = false := by
  simp [State.grouped, h.members]

theorem switchModels_calm : s.switchModels p = s := by
  rw [State.switchModels, h.switch]

theorem activateSlots_calm : s.activateSlots p = s := by
  refine foldl_eq_self fun n hn => ?_
  rcases List.mem_cons.1 hn with rfl | hn
  · rw [if_neg]
    rcases h.main with hm | hm <;> simp [hm]
  · obtain rfl := List.mem_singleton.1 hn
    rw [if_neg]
    rcases h.barker with hm | hm <;> simp [hm]

theorem swapModels_calm : s.swapModels p = s := by
  rw [State.swapModels, h.swap]

theorem cancelRequests_calm : s.cancelRequests p = s :=
  foldl_eq_self fun e he => if_pos (by simp [(h.byAccept he).cancel])

theorem expireRequests_calm (which : Request → Bool) (ice : List (Nat × Nat)) : s.expireRequests p which ice = s :=
  foldl_eq_self fun e he => if_neg (by simp [(h.byAccept he).expired, (h.byAccept he).inTime s])

theorem freezeRequests_calm (ice : List (Nat × Nat)) : s.freezeRequests p ice = s :=
  foldl_eq_self fun e he => by simp only [(h.byAccept he).freezing]

theorem handOver_calm : s.handOver p = s := by
  rw [State.handOver, h.leaving, List.foldl_nil]

end

/-! ### Between two steps -/

/-- Partition `p` once the step under way has ended, with recipes `rs` and KV state `k`. -/
def State.between (s : State) (p : Part) (rs : Dict Recipe) (k : Kv) : State :=
  s.modPart p (fun x => { x with
    recipes := rs, step := { x.step with running := false, batch := [], halfOf := [], tasks := [] }, kv := k })

section
variable (s : State) (p : Part) (rs : Dict Recipe) (k : Kv)

theorem part_between : (s.between p rs k).part p = { s.part p with
    recipes := rs, step := { (s.part p).step with running := false, batch := [], halfOf := [], tasks := [] }, kv := k } :=
  part_modPart_same s p _

theorem req?_between (id : Nat) : (s.between p rs k).req? p id = s.req? p id := by
  rw [State.req?, part_between]
  rfl

theorem modelActive_between (model : Nat) : (s.between p rs k).modelActive p model = s.modelActive p model := by
  rw [State.modelActive, part_between]
  rfl

theorem infoOf_between (model : Nat) : (s.between p rs k).infoOf p model = s.infoOf p model := by
  rw [State.infoOf, part_between, modelActive_between]
  rfl

theorem patternAt_between (r : Request) (l : Nat) : (s.between p rs k).patternAt p r l = s.patternAt p r l := by
  rw [State.patternAt, part_between, infoOf_between]
  rfl

theorem draftLength_between (r : Request) : (s.between p rs k).draftLength p r = s.draftLength p r := by
  rw [State.draftLength, State.barkerActive, part_between]
  rfl

theorem fwTasks_between : (s.between p rs k).fwTasks p = s.fwTasks p := by
  rw [State.fwTasks, part_between]
  rfl

variable {s p}

theorem Partition.Calm.between (h : (s.part p).Calm) : ((s.between p rs k).part p).Calm := by
  rw [part_between]
  exact ⟨h.atBoundary, h.chunks, h.members, h.leaving, h.switch, h.swap, h.main, h.barker, h.requests⟩

theorem State.KvStill.between {places : List KvPlace} (h : s.KvStill p places) : (s.between p rs k).KvStill p places := by
  intro e he
  rw [part_between] at he
  obtain ⟨hplaces, hreq, hthaw, hstill⟩ := h e he
  exact ⟨hplaces, (req?_between s p rs k e.1).trans hreq, hthaw, fun l hl => (patternAt_between s p rs k e.2 l).symm ▸ hstill l hl⟩

end

/-! ### STEP_BOUNDARY -/

theorem exec_stepBoundary (p : Part) (out : StepOut) (ue : List Nat) (s : State) :
    exec (.stepBoundary p out ue) s = execStepBoundary p out ue s := rfl

/-- The bounds of the length buckets that a boundary puts in force (R330). -/
def State.bucketBounds (s : State) (p : Part) : List Nat :=
  ((List.range 16).map (fun k => s.reg .kvBucket (p.val * 16 + k))).takeWhile (fun b => decide (b ≠ 0))

/-- The KV state after a boundary: the walker epoch advances, and the bounds are those of the registers (R316, R330). -/
def State.kvTurned (s : State) (p : Part) : Kv := { (s.part p).kv.advance with bounds := s.bucketBounds p }

section
variable {s : State} (hs : s.serving) {p : Part} (out : StepOut) (ue : List Nat)
include hs

theorem stepBoundary_waits (h : (s.part p).fn.st = .off ∨ (s.part p).advance.running = true ∨ s.stepEnded p = false ∨
    (s.part p).switchHolds = true) : exec (.stepBoundary p out ue) s = .next s := by
  rw [exec_stepBoundary, execStepBoundary]
  refine inServiceUe_idle hs (if_pos ?_)
  have hended : State.stepEnded { s with found := ue } p = s.stepEnded p := rfl
  have hpart : State.part { s with found := ue } p = s.part p := rfl
  rw [hended, hpart]
  rcases h with h | h | h | h <;> simp [h]

/-- A boundary at which nothing is due ends the step, and forms the next one with the recipes and the walker epoch that follow. -/
theorem stepBoundary_calm (hon : (s.part p).fn.st ≠ .off) (hrun : (s.part p).advance.running = false) (hended : s.stepEnded p = true)
    (hwatch : s.watchEn p = false) (h : (s.part p).Calm) (hkv : s.KvStill p out.kv)
    (hm : ∀ e ∈ (s.part p).requests, e.2.st ≠ .waiting ∧ s.modelActive p e.2.model = true) :
    ∃ rs, exec (.stepBoundary p out ue) s =
      .next { ((State.between { s with found := ue } p rs (s.kvTurned p)).startStep p out) with found := [] } := by
  have hu : ∃ u : State, u = { s with found := ue } := ⟨_, rfl⟩
  obtain ⟨u, hu⟩ := hu
  have hp : u.part p = s.part p := by rw [hu]; rfl
  have hcalm : (u.part p).Calm := hp ▸ h
  have hwatch' : u.watchEn p = false := by rw [hu]; exact hwatch
  have hstill : u.KvStill p out.kv := by rw [hu]; exact hkv
  have hactive : ∀ e ∈ (u.part p).requests, e.2.st ≠ .waiting ∧ u.modelActive p e.2.model = true := by rw [hu]; exact hm
  have hgo : ¬ ((u.part p).fn.st = .off || (u.part p).advance.running || !u.stepEnded p || (u.part p).switchHolds) = true := by
    have hended' : u.stepEnded p = true := by rw [hu]; exact hended
    have hholds : (u.part p).switchHolds = false := by rw [Partition.switchHolds, hcalm.switch]
    have hon' : (u.part p).fn.st ≠ .off := hp ▸ hon
    have hrun' : (u.part p).advance.running = false := hp ▸ hrun
    simp [hended', hholds, hon', hrun']
  have hk : u.kvTurned p = s.kvTurned p := by rw [hu]; rfl
  obtain ⟨rs, hrs⟩ := updateRecipes_eq u p
  refine ⟨rs, ?_⟩
  rw [exec_stepBoundary, execStepBoundary, inServiceUe_next hs, ← hu, ← hk]
  have h1 : ((u.modPart p (fun x => { x with recipes := rs })).part p).Calm := by
    rw [part_modPart_same]
    exact ⟨hcalm.atBoundary, hcalm.chunks, hcalm.members, hcalm.leaving, hcalm.switch, hcalm.swap, hcalm.main, hcalm.barker, hcalm.requests⟩
  have h2 := hcalm.between rs (u.part p).kv
  have hstill2 := hstill.between rs (u.part p).kv
  have hactive2 : ∀ e ∈ ((u.between p rs (u.part p).kv).part p).requests,
      e.2.st ≠ .waiting ∧ (u.between p rs (u.part p).kv).modelActive p e.2.model = true := by
    intro e he
    rw [part_between] at he
    rw [modelActive_between]
    exact hactive e he
  have hclear : (u.modPart p (fun x => { x with recipes := rs })).modPart p (fun x => { x with
      step := { x.step with running := false, batch := [], halfOf := [], tasks := [] } }) = u.between p rs (u.part p).kv := by
    rw [modPart_modPart]
    exact modPart_congr rfl
  let v := (u.between p rs (u.part p).kv).modPart p (fun x => { x with kv := x.kv.advance })
  have hturn : v.modPart p (fun x => { x with kv := { x.kv with
      bounds := ((List.range 16).map (fun k => v.reg .kvBucket (p.val * 16 + k))).takeWhile (fun b => decide (b ≠ 0)) } }) =
      u.between p rs (u.kvTurned p) := by
    simp only [v, State.between, modPart_modPart]
    exact modPart_congr rfl
  simp only [if_neg hgo, foldEwma_off hwatch', hrs, applyAccepted_calm h1, chunksDone_calm h1, abandonChunks_calm h1, resumeBarkers_calm h1,
    hclear, grouped_calm h2, switchModels_calm h2, activateSlots_calm h2, swapModels_calm h2, settleWaiting_calm hactive2,
    cancelRequests_calm h2, expireRequests_calm h2, freezeRequests_calm h2, handOver_calm h2, kvPages_still hstill2,
    Bool.false_eq_true, if_false]
  rw [hturn]

end

/-! ### Issuing tasks (R625) -/

/-- Two states differ at most in the queues of a partition and in its graphs. -/
def QueuesOnly (p : Part) (s t : State) : Prop :=
  ∃ lc be fw gs, t = s.modPart p (fun x => { x with lcQ := lc, beQ := be, fwWait := fw, graphs := gs })

theorem QueuesOnly.modPart {s : State} {p : Part} {f : Partition → Partition}
    (h : ∃ lc be fw gs, f (s.part p) = { s.part p with lcQ := lc, beQ := be, fwWait := fw, graphs := gs }) : QueuesOnly p s (s.modPart p f) := by
  obtain ⟨lc, be, fw, gs, h⟩ := h
  exact ⟨lc, be, fw, gs, modPart_congr h⟩

theorem QueuesOnly.refl (p : Part) (s : State) : QueuesOnly p s s :=
  ⟨_, _, _, _, (modPart_eq_self (f := fun x => { x with
    lcQ := (s.part p).lcQ, beQ := (s.part p).beQ, fwWait := (s.part p).fwWait, graphs := (s.part p).graphs }) rfl).symm⟩

theorem QueuesOnly.trans {p : Part} {s t u : State} (h : QueuesOnly p s t) (g : QueuesOnly p t u) : QueuesOnly p s u := by
  obtain ⟨_, _, _, _, rfl⟩ := h
  obtain ⟨lc, be, fw, gs, rfl⟩ := g
  exact ⟨lc, be, fw, gs, by rw [modPart_modPart]⟩

theorem QueuesOnly.foldl {α : Type} {p : Part} {f : State → α → State} (hf : ∀ s a, QueuesOnly p s (f s a)) (l : List α) (s : State) :
    QueuesOnly p s (l.foldl f s) := by
  induction l generalizing s with
  | nil => exact QueuesOnly.refl p s
  | cons a l ih => exact (hf s a).trans (ih _)

theorem enqueueTask_queues (x : Partition) (t : Task) : ∃ lc be, x.enqueueTask t = { x with lcQ := lc, beQ := be } := by
  unfold Partition.enqueueTask
  split
  · exact ⟨_, x.beQ, rfl⟩
  · exact ⟨x.lcQ, _, rfl⟩

theorem feedFirmware_queues (waits : Task → Bool) (n : Nat) (x : Partition) :
    ∃ lc be fw, Partition.feedFirmware waits n x = { x with lcQ := lc, beQ := be, fwWait := fw } := by
  induction n generalizing x with
  | zero => exact ⟨x.lcQ, x.beQ, x.fwWait, rfl⟩
  | succ n ih =>
    unfold Partition.feedFirmware
    split
    · exact ⟨x.lcQ, x.beQ, x.fwWait, rfl⟩
    · next t ts _ =>
      split
      · obtain ⟨lc, be, hq⟩ := enqueueTask_queues { x with fwWait := ts } t
        obtain ⟨lc', be', fw', hfeed⟩ := ih (Partition.enqueueTask { x with fwWait := ts } t)
        exact ⟨lc', be', fw', by rw [hfeed, hq]⟩
      · exact ⟨x.lcQ, x.beQ, x.fwWait, rfl⟩

theorem feedGraph_queues (n : Nat) (x : Partition) (g : Graph) : ∃ lc be, (Partition.feedGraph n x g).1 = { x with lcQ := lc, beQ := be } := by
  induction n generalizing x g with
  | zero => exact ⟨x.lcQ, x.beQ, rfl⟩
  | succ n ih =>
    unfold Partition.feedGraph
    split
    · exact ⟨x.lcQ, x.beQ, rfl⟩
    · next t ts _ =>
      split
      · obtain ⟨lc, be, hq⟩ := enqueueTask_queues x t
        obtain ⟨lc', be', hfeed⟩ := ih (x.enqueueTask t) { g with unqueued := ts }
        exact ⟨lc', be', by rw [hfeed, hq]⟩
      · exact ⟨x.lcQ, x.beQ, rfl⟩

theorem QueuesOnly.markReady (s : State) (p : Part) : QueuesOnly p s (s.markReady p) := by
  unfold State.markReady
  exact QueuesOnly.modPart ⟨_, _, _, _, rfl⟩

theorem QueuesOnly.feedGraphs (s : State) (p : Part) : QueuesOnly p s (s.feedGraphs p) := by
  unfold State.feedGraphs
  extract_lets out u
  have hfirmware : QueuesOnly p s u := by
    obtain ⟨lc, be, fw, h⟩ := feedFirmware_queues (awaitsBackfill out) (s.part p).fwWait.length (s.part p)
    exact QueuesOnly.modPart ⟨lc, be, fw, (s.part p).graphs, h⟩
  refine (hfirmware.trans (QueuesOnly.foldl (fun v g => ?_) _ u)).trans (QueuesOnly.markReady _ p)
  obtain ⟨lc, be, h⟩ := feedGraph_queues g.unqueued.length (v.part p) g
  have hset : QueuesOnly p v (v.setPart p (Partition.feedGraph g.unqueued.length (v.part p) g).1) :=
    ⟨lc, be, (v.part p).fwWait, (v.part p).graphs, by rw [h]; rfl⟩
  exact hset.trans (QueuesOnly.modPart ⟨_, _, _, _, rfl⟩)

theorem QueuesOnly.issueTasks (s : State) (p : Part) (ts : List Task) : QueuesOnly p s (s.issueTasks p ts) :=
  QueuesOnly.trans (QueuesOnly.modPart ⟨_, _, _, _, rfl⟩) (QueuesOnly.feedGraphs _ p)

/-! ### Forming a step -/

theorem startStep_idle {s : State} {p : Part} (out : StepOut) (h : ((s.part p).slot 0).st ≠ .active) : s.startStep p out = s := by
  simp [State.startStep, h]

/-- What a step formed in `s` with batch `b` and new chunks `cs` leaves in `t`. -/
structure StepFormed (s t : State) (p : Part) (out : StepOut) (b cs : List (Nat × Nat)) : Prop where
  running : (t.part p).step.running = !b.isEmpty
  batch : (t.part p).step.batch = b
  halfOf : (t.part p).step.halfOf = halves b 0 0
  checked : (t.part p).step.checked = false
  chunks : (t.part p).step.chunks = (s.part p).step.chunks ++ cs
  kv : (t.part p).kv = (s.part p).kv
  requests : (∀ f ∈ out.tasks, f.kind ≠ .barker) → (t.part p).requests =
    (s.part p).requests.map (fun e => (e.1, { e.2 with backfill := if b.any (fun x => decide (x.1 = e.1)) then none else e.2.backfill }))
  mem : t.mem = s.mem
  host : t.host = s.host
  other : ∀ q, q ≠ p → t.part q = s.part q

/-- What is issued afterwards changes no more than queues. -/
theorem StepFormed.queues {s t u : State} {p : Part} {out : StepOut} {b cs : List (Nat × Nat)} (h : StepFormed s t p out b cs)
    (hq : QueuesOnly p t u) : StepFormed s u p out b cs := by
  obtain ⟨lc, be, fw, gs, rfl⟩ := hq
  obtain ⟨hrunning, hbatch, hhalf, hchecked, hchunks, hkv, hrequests, hmem, hhost, hother⟩ := h
  constructor
  case mem => exact hmem
  case host => exact hhost
  case other => exact fun q hq => (part_modPart_other t p q _ hq).trans (hother q hq)
  all_goals rw [part_modPart_same]; assumption

theorem mem_of_mem_intoBuckets {key : FwTask → Option (Nat × Nat)} {f g : FwTask} {fs : List FwTask} (h : g ∈ intoBuckets key f fs) :
    g = f ∨ g ∈ fs := by
  induction fs with
  | nil => exact Or.inl (List.mem_singleton.1 h)
  | cons a fs ih =>
    unfold intoBuckets at h
    split at h
    · split at h
      · rcases List.mem_cons.1 h with h | h
        · exact Or.inr (h ▸ List.mem_cons_self)
        · exact (ih h).imp id (List.mem_cons_of_mem a)
      · exact List.mem_cons.1 h
    · exact List.mem_cons.1 h

theorem mem_of_mem_byBucket {s : State} {p : Part} {g : FwTask} {fs : List FwTask} (h : g ∈ s.byBucket p fs) : g ∈ fs := by
  induction fs with
  | nil => exact h
  | cons a fs ih =>
    rcases mem_of_mem_intoBuckets h with h | h
    · exact h ▸ List.mem_cons_self
    · exact List.mem_cons_of_mem a (ih h)

theorem startStep_forms {s : State} {p : Part} {out : StepOut} {b cs : List (Nat × Nat)} (h : (s.part p).Calm)
    (hactive : ((s.part p).slot 0).st = .active) (hblocked : (s.part p).stepsBlocked = false)
    (hb : s.formBatch p out.tasks = b) (hcs : s.formChunks p out.tasks = cs)
    (hall : ∀ e ∈ (s.part p).requests, e.2.st = .decode → ∃ x ∈ b, x.1 = e.1) : StepFormed s (s.startStep p out) p out b cs := by
  have hbroken : s.groupBroken p = false := by simp [State.groupBroken, h.members]
  have hskip : (s.part p).requests.filter (fun e => e.2.st = .decode && !s.deadlinePassed e.2 && !b.any (fun x => decide (x.1 = e.1))) = [] := by
    refine List.filter_eq_nil_iff.2 fun e he hd => ?_
    simp only [Bool.and_eq_true, decide_eq_true_eq, Bool.not_eq_true', List.any_eq_false] at hd
    obtain ⟨x, hx, hid⟩ := hall e he hd.1.1
    exact hd.2 x hx hid
  unfold State.startStep
  simp only [hactive, hblocked, hbroken, h.swap, hb, hcs, hskip, grouped_calm h, decide_true, Bool.not_false, Bool.and_self, Bool.not_true,
    Option.all_none, Bool.false_eq_true, if_false, List.foldl_nil, Bool.or_false]
  refine StepFormed.queues ?_ (QueuesOnly.issueTasks _ p _)
  constructor
  case mem | host => rfl
  case other => exact fun q hq => part_modPart_other s p q _ hq
  case requests =>
    intro hbarker
    have hwarm : ∀ i, (s.byBucket p (out.tasks.filter (s.mayIssue p (!b.isEmpty) b cs))).any (fun f =>
        decide (f.kind = .barker) && f.requests.contains i) = false := by
      intro i
      refine List.any_eq_false.2 fun f hf => ?_
      simp [hbarker f (List.mem_of_mem_filter (mem_of_mem_byBucket hf))]
    rw [part_modPart_same]
    simp only [hwarm, Bool.or_false]
  all_goals rw [part_modPart_same]

/-! ### One request in service (R321, R331, R332, R623) -/

/-- A partition serves one request, whose KV has settled, and nothing withdraws it. -/
structure State.Serves (s : State) (p : Part) (id : Nat) (r : Request) : Prop where
  only : (s.part p).requests = [(id, r)]
  calm : (s.part p).Calm
  settled : r.settled = true
  seeded : id ∉ (s.part p).jnl.reseedLeft
  active : s.modelActive p r.model = true

section
variable {s : State} {p : Part} {id : Nat} {r : Request} (h : s.Serves p id r)
include h

theorem State.Serves.calmRequest : r.Calm := h.calm.requests (id, r) (h.only ▸ List.mem_singleton_self _)

theorem State.Serves.mayServe : (s.part p).mayServe (id, r) = true := by
  have hr := h.calmRequest
  simp [Partition.mayServe, hr.closing, hr.cancel, hr.expired, hr.freezing, h.calm.leaving, h.seeded]

theorem State.Serves.inOrder : (s.part p).inOrder = [(id, r)] := by
  have hsort : (s.part p).byAccept = [(id, r)] := by rw [Partition.byAccept, h.only]; rfl
  rw [Partition.inOrder, hsort]
  cases hbe : r.be <;> simp [hbe]

theorem State.Serves.between (rs : Dict Recipe) (k : Kv) : (s.between p rs k).Serves p id r where
  only := by rw [part_between]; exact h.only
  calm := h.calm.between rs k
  settled := h.settled
  seeded := by rw [part_between]; exact h.seeded
  active := (modelActive_between s p rs k r.model).trans h.active

theorem formBatch_decode (fs : List FwTask) (hst : r.st = .decode) (hheld : r.held = []) (hdur : r.undurable = 0) (hfinal : r.finalSeen = false)
    (hfill : r.backfill = none) (hroom : 1 + s.draftLength p r ≤ s.regBits .partBatch p.val 0 16) :
    s.formBatch p fs = [(id, s.draftLength p r)] := by
  have hready : backfillReady fs (id, r) = true := by simp [backfillReady, hfill]
  unfold State.formBatch
  simp [h.inOrder, h.mayServe, h.calmRequest.inTime s, h.active, h.settled, hready, hst, hheld, hdur, hfinal, takeBatch, hroom]

theorem formBatch_prefill (fs : List FwTask) (hst : r.st = .prefill) : s.formBatch p fs = [] := by
  unfold State.formBatch
  simp [h.inOrder, hst, takeBatch]

theorem formChunks_decode (fs : List FwTask) (hst : r.st = .decode) : s.formChunks p fs = [] := by
  unfold State.formChunks
  simp [h.inOrder, hst]

theorem formChunks_prefill {fs : List FwTask} (hst : r.st = .prefill) (hleft : 0 < r.toPrefill) (hroom : 1 ≤ s.regBits .kvCfg p.val 16 4)
    (htask : ∃ f ∈ fs, f.kind = .chunk ∧ id ∈ f.requests) (hidle : ∀ k ∈ s.fwTasks p, k.kind = .chunk → id ∉ k.reqs) :
    s.formChunks p fs = [(id, min r.toPrefill (8192 - (r.committed - r.toPrefill) % 128))] := by
  have hlayers : r.layers.all (fun l => decide (l.flushed = 0) && l.images.isEmpty && l.driftIn.isEmpty) = true := by
    refine List.all_eq_true.2 fun l hl => ?_
    obtain ⟨hflushed, -, himages, hdrift⟩ := l.settled_iff.1 (List.all_eq_true.1 h.settled l hl)
    simp [hflushed, himages, hdrift]
  have htask' : fs.any (fun f => decide (f.kind = .chunk) && f.requests.contains id) = true := by simpa using htask
  have hidle' : (s.fwTasks p).any (fun t => decide (t.kind = .chunk) && t.reqs.contains id) = false := by simpa using hidle
  have htake : ∀ x : Nat × Nat, [x].take (s.regBits .kvCfg p.val 16 4) = [x] := fun x => List.take_of_length_le hroom
  unfold State.formChunks
  simp only [h.inOrder, h.mayServe, h.calmRequest.inTime s, h.active, h.calm.chunks, hlayers, htask', hidle', hst, hleft, htake,
    List.filter_cons, List.filter_nil, List.any_nil, List.length_nil, Nat.sub_zero, decide_true, Bool.true_or, Bool.not_false,
    Bool.and_self, if_true, List.map_cons, List.map_nil]

end

/-- A boundary at which nothing is due forms a step of the batch `b` and the chunks `cs` that the state between the steps gives. -/
theorem stepBoundary_forms {s : State} (hs : s.serving) {p : Part} (out : StepOut) (ue : List Nat) {id : Nat} {r : Request} {b cs : List (Nat × Nat)}
    (hon : (s.part p).fn.st ≠ .off) (hrun : (s.part p).advance.running = false) (hended : s.stepEnded p = true) (hwatch : s.watchEn p = false)
    (h : s.Serves p id r) (hkv : s.KvStill p out.kv) (hslot : ((s.part p).slot 0).st = .active) (hblocked : (s.part p).stepsBlocked = false)
    (hst : r.st ≠ .waiting) (hb : ∀ rs, (State.between { s with found := ue } p rs (s.kvTurned p)).formBatch p out.tasks = b)
    (hcs : ∀ rs, (State.between { s with found := ue } p rs (s.kvTurned p)).formChunks p out.tasks = cs)
    (hall : r.st = .decode → ∃ x ∈ b, x.1 = id) :
    ∃ t rs, exec (.stepBoundary p out ue) s = .next t ∧ StepFormed (State.between { s with found := ue } p rs (s.kvTurned p)) t p out b cs := by
  obtain ⟨rs, hexec⟩ := stepBoundary_calm hs out ue hon hrun hended hwatch h.calm hkv fun e he => by
    obtain rfl := List.mem_singleton.1 (h.only ▸ he)
    exact ⟨hst, h.active⟩
  have hfound : State.Serves { s with found := ue } p id r := ⟨h.only, h.calm, h.settled, h.seeded, h.active⟩
  have hserves := hfound.between rs (s.kvTurned p)
  have hpart := part_between { s with found := ue } p rs (s.kvTurned p)
  obtain ⟨hrunning, hbatch, hhalf, hchecked, hchunks, hk, hrequests, hmem, hhost, hother⟩ :=
    startStep_forms hserves.calm (by rw [hpart]; exact hslot) (by rw [hpart]; exact hblocked) (hb rs) (hcs rs) fun e he hd => by
      rw [hserves.only] at he
      obtain rfl := List.mem_singleton.1 he
      exact hall hd
  exact ⟨_, rs, hexec, hrunning, hbatch, hhalf, hchecked, hchunks, hk, hrequests, hmem, hhost, hother⟩

/-- A request whose KV has settled, with a dense pattern and its pins in place on every layer, keeps its KV as it is. -/
theorem State.Serves.kvStill {s : State} {p : Part} {id : Nat} {r : Request} (h : s.Serves p id r) {places : List KvPlace} (hplaces : places = [])
    (hthaw : r.thawing = none) (hpages : ∀ l < r.layers.length, (s.patternAt p r l).window = false ∧
      ∀ e ∈ (r.layers.getD l {}).pages.zipIdx, e.1.present = true → e.1.pinned = (s.patternAt p r l).pins e.2) : s.KvStill p places := by
  intro e he
  obtain rfl := List.mem_singleton.1 (h.only ▸ he)
  have hreq : s.req? p id = some r := by
    rw [State.req?, h.only]
    simp [dget?]
  refine ⟨hplaces, hreq, hthaw, fun l hl => ?_⟩
  obtain ⟨hdense, hpinned⟩ := hpages l hl
  have hsettled : (r.layers.getD l {}).settled = true := by
    rw [List.getD_eq_getElem _ _ hl]
    exact List.all_eq_true.1 h.settled _ (List.getElem_mem hl)
  exact ⟨hsettled, hdense, hpinned⟩

/-- A step is formed of the one request that decodes, with no chunk (R623). -/
theorem stepBoundary_decode {s : State} (hs : s.serving) {p : Part} (out : StepOut) (ue : List Nat) {id : Nat} {r : Request}
    (hon : (s.part p).fn.st ≠ .off) (hrun : (s.part p).advance.running = false) (hended : s.stepEnded p = true) (hwatch : s.watchEn p = false)
    (h : s.Serves p id r) (hkv : s.KvStill p out.kv) (hslot : ((s.part p).slot 0).st = .active) (hblocked : (s.part p).stepsBlocked = false)
    (hst : r.st = .decode) (hheld : r.held = []) (hdur : r.undurable = 0) (hfinal : r.finalSeen = false)
    (hfill : r.backfill = none) (hroom : 1 + s.draftLength p r ≤ s.regBits .partBatch p.val 0 16) :
    ∃ t rs, exec (.stepBoundary p out ue) s = .next t ∧
      StepFormed (State.between { s with found := ue } p rs (s.kvTurned p)) t p out [(id, s.draftLength p r)] [] := by
  have hfound : State.Serves { s with found := ue } p id r := ⟨h.only, h.calm, h.settled, h.seeded, h.active⟩
  refine stepBoundary_forms hs out ue hon hrun hended hwatch h hkv hslot hblocked (by simp [hst]) (fun rs => ?_) (fun rs => ?_) (by simp)
  · have hdraft : (State.between { s with found := ue } p rs (s.kvTurned p)).draftLength p r = s.draftLength p r :=
      draftLength_between _ p rs _ r
    rw [formBatch_decode (hfound.between rs _) out.tasks hst hheld hdur hfinal hfill (hdraft ▸ hroom), hdraft]
  · exact formChunks_decode (hfound.between rs _) out.tasks hst

/-- A chunk of the one request being prefilled is started, and no step runs (R331 to R333). -/
theorem stepBoundary_prefill {s : State} (hs : s.serving) {p : Part} (out : StepOut) (ue : List Nat) {id : Nat} {r : Request}
    (hon : (s.part p).fn.st ≠ .off) (hrun : (s.part p).advance.running = false) (hended : s.stepEnded p = true) (hwatch : s.watchEn p = false)
    (h : s.Serves p id r) (hkv : s.KvStill p out.kv) (hslot : ((s.part p).slot 0).st = .active) (hblocked : (s.part p).stepsBlocked = false)
    (hst : r.st = .prefill) (hleft : 0 < r.toPrefill) (hroom : 1 ≤ s.regBits .kvCfg p.val 16 4)
    (htask : ∃ f ∈ out.tasks, f.kind = .chunk ∧ id ∈ f.requests) (hidle : ∀ k ∈ s.fwTasks p, k.kind = .chunk → id ∉ k.reqs) :
    ∃ t rs, exec (.stepBoundary p out ue) s = .next t ∧
      StepFormed (State.between { s with found := ue } p rs (s.kvTurned p)) t p out []
        [(id, min r.toPrefill (8192 - (r.committed - r.toPrefill) % 128))] := by
  have hfound : State.Serves { s with found := ue } p id r := ⟨h.only, h.calm, h.settled, h.seeded, h.active⟩
  refine stepBoundary_forms hs out ue hon hrun hended hwatch h hkv hslot hblocked (by simp [hst]) (fun rs => ?_) (fun rs => ?_) (by simp [hst])
  · exact formBatch_prefill (hfound.between rs _) out.tasks hst
  · have htasks : (State.between { s with found := ue } p rs (s.kvTurned p)).fwTasks p = s.fwTasks p := fwTasks_between _ p rs _
    exact formChunks_prefill (hfound.between rs _) hst hleft hroom htask (htasks ▸ hidle)

/-- The requests of a step formed between two steps are those of before, where none of its batch has a backfill due. -/
theorem StepFormed.requests_eq {s t : State} {p : Part} {rs : Dict Recipe} {k : Kv} {out : StepOut} {b cs : List (Nat × Nat)} {id : Nat} {r : Request}
    (h : StepFormed (s.between p rs k) t p out b cs) (hone : (s.part p).requests = [(id, r)]) (hfill : b = [] ∨ r.backfill = none)
    (hbarker : ∀ f ∈ out.tasks, f.kind ≠ .barker) : (t.part p).requests = (s.part p).requests := by
  rw [h.requests hbarker, part_between, hone]
  rcases hfill with rfl | hfill
  · simp
  · simp [← hfill]

/-- Settles O43: where nothing is due, every part of the boundary but the end of the step, the recipes and the walker epoch leaves the
state as it is (`stepBoundary_calm`), and the step is formed of the one request in service (`stepBoundary_forms`). -/
theorem stepBoundaryFormsAStep : Obligations.StepBoundaryFormsAStep := by
  unfold Obligations.StepBoundaryFormsAStep
  intro s p out ue hs
  refine ⟨stepBoundary_waits hs out ue, fun hon hrun hended hswitch hswap hwatch hpend hchunks hmembers hleaving hmain hbarker => ⟨?_, ?_⟩⟩
  · intro hslot hnone
    have hcalm : (s.part p).Calm := ⟨hpend, hchunks, hmembers, hleaving, hswitch, hswap, hmain, hbarker, by simp [hnone]⟩
    obtain ⟨rs, hexec⟩ := stepBoundary_calm hs out ue hon hrun hended hwatch hcalm (by intro e he; simp [hnone] at he) (by simp [hnone])
    rw [startStep_idle out (by rw [part_between]; exact hslot)] at hexec
    obtain ⟨-, -, hfound⟩ := hs
    have hnext : { State.between { s with found := ue } p rs (s.kvTurned p) with found := [] } = s.between p rs (s.kvTurned p) := by
      rw [← hfound]
      rfl
    rw [hnext] at hexec
    refine ⟨_, hexec, ?_⟩
    rw [part_between]
    rfl
  · intro id r hslot hblocked hone hsettled hplaces hpages hcancel hclosing hfreezing hthawing hexpired hwarming hfails hdeadline hseeded hactive
    have hcalm : r.Calm := ⟨hcancel, hclosing, hfreezing, hexpired, hwarming, hfails, hdeadline⟩
    have hserves : s.Serves p id r :=
      ⟨hone, ⟨hpend, hchunks, hmembers, hleaving, hswitch, hswap, hmain, hbarker, by simpa [hone] using hcalm⟩, hsettled, hseeded, hactive⟩
    have hkv : s.KvStill p out.kv := hserves.kvStill hplaces hthawing hpages
    refine ⟨fun hst hheld hdur hfinal hfill hroom => ?_, fun hst hleft hroom htask hidle => ?_⟩
    · obtain ⟨t, rs, hexec, h⟩ :=
        stepBoundary_decode hs out ue hon hrun hended hwatch hserves hkv hslot hblocked hst hheld hdur hfinal hfill hroom
      have hchunks' : (t.part p).step.chunks = [] := by
        rw [h.chunks, part_between, List.append_nil]
        exact hchunks
      have hepoch : (t.part p).kv.epoch = (s.part p).kv.advance.epoch := by
        rw [h.kv, part_between]
        rfl
      have hother : ∀ q, q ≠ p → t.part q = s.part q := fun q hq => (h.other q hq).trans (part_modPart_other _ p q _ hq)
      exact ⟨t, hexec, h.running, h.batch, h.halfOf, h.checked, hchunks', hepoch, h.requests_eq hone (.inr hfill), h.mem, h.host, hother⟩
    · obtain ⟨t, rs, hexec, h⟩ :=
        stepBoundary_prefill hs out ue hon hrun hended hwatch hserves hkv hslot hblocked hst hleft hroom htask hidle
      have hchunks' : (t.part p).step.chunks = [(id, min r.toPrefill (8192 - (r.committed - r.toPrefill) % 128))] := by
        rw [h.chunks, part_between]
        exact congrArg (· ++ _) hchunks
      have hother : ∀ q, q ≠ p → t.part q = s.part q := fun q hq => (h.other q hq).trans (part_modPart_other _ p q _ hq)
      exact ⟨t, hexec, h.running, h.batch, hchunks', h.requests_eq hone (.inl rfl), h.mem, h.host, hother⟩

end Sys2Proof.Machine
end

section
/-! SUPPORT. Operations that neither read nor change partitions, FENCE and COPY (R253, R276, R579 to R586). -/

namespace Sys2Proof.Machine

/-! ### Operations that leave partitions out of account -/

/-- The state with other partitions. -/
def State.withParts (s : State) (ps : Vector Partition 16) : State := { s with parts := ps }

theorem setPart_eq_withParts (s : State) (p : Part) (x : Partition) : s.setPart p x = s.withParts (s.parts.set p x) := rfl
theorem started_eq_withParts (s : State) (p : Part) (c : Cmd) : s.started p c = s.withParts (s.started p c).parts := rfl

/-- An operation neither reads nor changes partitions. -/
def PartsBlind (f : State → State) : Prop := ∀ s ps, f (s.withParts ps) = (f s).withParts ps

theorem PartsBlind.id : PartsBlind (fun s => s) := fun _ _ => rfl

theorem PartsBlind.comp {f g : State → State} (hg : PartsBlind g) (hf : PartsBlind f) : PartsBlind (fun s => g (f s)) := fun s ps => by
  show g (f (s.withParts ps)) = _
  rw [hf, hg]

/-- A choice between two operations by what the state shows apart from its partitions. -/
theorem PartsBlind.ite {c : State → Prop} [∀ s, Decidable (c s)] {f g : State → State} (hc : ∀ s ps, c (s.withParts ps) = c s)
    (hf : PartsBlind f) (hg : PartsBlind g) : PartsBlind (fun s => if c s then f s else g s) := fun s ps => by
  simp only [hc, hf s ps, hg s ps]
  split <;> rfl

/-- An operation on what the state shows apart from its partitions. -/
theorem PartsBlind.of {α : Type} {v : State → α} {f : α → State → State} (hv : ∀ s ps, v (s.withParts ps) = v s)
    (hf : ∀ x, PartsBlind (f x)) : PartsBlind (fun s => f (v s) s) := fun s ps => by
  show f (v (s.withParts ps)) (s.withParts ps) = _
  rw [hv, hf]

theorem PartsBlind.foldl {α : Type} {f : State → α → State} (hf : ∀ x, PartsBlind (fun s => f s x)) (l : List α) :
    PartsBlind (fun s => l.foldl f s) := by
  induction l with
  | nil => exact PartsBlind.id
  | cons x l ih => exact ih.comp (hf x)

theorem PartsBlind.parts {f : State → State} (hf : PartsBlind f) (s : State) : (f s).parts = s.parts := by
  have h := hf s s.parts
  rw [show s.withParts s.parts = s from rfl] at h
  rw [h]
  rfl

theorem PartsBlind.part {f : State → State} (hf : PartsBlind f) (s : State) (p : Part) : (f s).part p = s.part p := by
  simp only [State.part, hf.parts]

/-- An operation that leaves partitions out of account commutes with a change of one. -/
theorem PartsBlind.modPart {f : State → State} (hf : PartsBlind f) (s : State) (p : Part) (g : Partition → Partition) :
    f (s.modPart p g) = (f s).modPart p g := by
  simp only [State.modPart, hf.part, setPart_eq_withParts, hf.parts]
  exact hf s _

theorem PartsBlind.started {f : State → State} (hf : PartsBlind f) (s : State) (p : Part) (c : Cmd) :
    f (s.started p c) = (f s).started p c :=
  hf.modPart s p (fun x => { x with cmds := x.cmds.map (fun d => if d.order = c.order then d.begun else d) })

/-- Such an operation keeps that two states differ in the commands of a partition alone. -/
theorem PartsBlind.cmdsOnly {f : State → State} (hf : PartsBlind f) (s : State) (p : Part) (c : Cmd) :
    CmdsOnly p (f s) (f (s.started p c)) := by
  rw [hf.started]
  exact started_cmdsOnly (f s) p c

/-! ### Registers, memory and repair leave partitions out of account -/

theorem PartsBlind.count (n : RegName) (i k : Nat) : PartsBlind (fun s => s.count n i k) := fun _ _ => rfl
theorem PartsBlind.hostWrite (a : Nat) (bs : List Byte) : PartsBlind (fun s => s.hostWrite a bs) := fun _ _ => rfl
theorem PartsBlind.writePlace (x : Nat) (b : Byte) : PartsBlind (fun s => s.writePlace x b) := fun _ _ => rfl
theorem PartsBlind.openPlaces (lo n : Nat) : PartsBlind (fun s => s.openPlaces lo n) := fun _ _ => rfl
theorem PartsBlind.modRepair (f : Repair → Repair) : PartsBlind (fun s => s.modRepair f) := fun _ _ => rfl
theorem PartsBlind.modTile (k : Nat) (f : Tile → Tile) : PartsBlind (fun s => s.modTile k f) := fun _ _ => rfl
theorem PartsBlind.modFabric (f : Fabric → Fabric) : PartsBlind (fun s => s.modFabric f) := fun _ _ => rfl
theorem PartsBlind.addTest (q : PartId) : PartsBlind (fun s => s.addTest q) := fun _ _ => rfl

@[simp] theorem place_withParts (s : State) (ps : Vector Partition 16) (a : Nat) : (s.withParts ps).place a = s.place a := rfl
@[simp] theorem extentOf_withParts (s : State) (ps : Vector Partition 16) (a : Nat) : (s.withParts ps).extentOf a = s.extentOf a := rfl
@[simp] theorem withdrawnDpa_withParts (s : State) (ps : Vector Partition 16) (a : Nat) :
    (s.withParts ps).withdrawnDpa a = s.withdrawnDpa a := rfl
@[simp] theorem repair_withParts (s : State) (ps : Vector Partition 16) : (s.withParts ps).repair = s.repair := rfl
@[simp] theorem tile_withParts (s : State) (ps : Vector Partition 16) (k : Nat) : (s.withParts ps).tile k = s.tile k := rfl

theorem PartsBlind.noteWrites (a n : Nat) : PartsBlind (fun s => s.noteWrites a n) := by
  refine PartsBlind.ite (fun _ _ => rfl) PartsBlind.id (PartsBlind.foldl (fun i s ps => ?_) (List.range n))
  simp only [place_withParts]
  cases s.place (a + i) with
  | none => rfl
  | some x => exact PartsBlind.ite (c := fun _ => a + i < hbmEnd) (fun _ _ => rfl) (PartsBlind.modRepair (Repair.noteWrite · x)) PartsBlind.id s ps

theorem PartsBlind.writeDpa (a : Nat) (bs : List Byte) : PartsBlind (fun s => s.writeDpa a bs) := by
  refine PartsBlind.comp (PartsBlind.foldl (fun d => ?_) (granulesOf a bs.length))
    (PartsBlind.comp (PartsBlind.foldl (fun x s ps => ?_) bs.zipIdx) (PartsBlind.noteWrites a bs.length))
  · refine PartsBlind.ite (fun _ _ => rfl) (fun s ps => ?_) PartsBlind.id
    simp only [extentOf_withParts]
    cases s.extentOf d <;> rfl
  · simp only [place_withParts]
    cases s.place (a + x.2) with
    | none => rfl
    | some y => exact PartsBlind.ite (c := fun s => s.withdrawnDpa (a + x.2)) (fun _ _ => rfl) PartsBlind.id (PartsBlind.writePlace y x.1) s ps

/-- A granule of a range is left undefined. -/
def State.openGranule (a n : Nat) (s : State) (d : Nat) : State :=
  match s.place d with
  | some x => { s with mem := s.mem.leaveOpen x (min (a + n - d) (4096 - d % 4096)) s.free }
  | none => s

theorem openDpa_eq (s : State) (a n : Nat) : s.openDpa a n =
    if windowBase ≤ a then s.openPlaces a n else { (granulesOf a n).foldl (State.openGranule a n) s with free := s.free + 1 } := rfl

theorem PartsBlind.openDpa (a n : Nat) : PartsBlind (fun s => s.openDpa a n) := by
  have hgranules : PartsBlind (fun s => (granulesOf a n).foldl (State.openGranule a n) s) := by
    refine PartsBlind.foldl (fun d s ps => ?_) _
    simp only [State.openGranule, place_withParts]
    cases s.place d <;> rfl
  refine PartsBlind.ite (fun _ _ => rfl) (PartsBlind.openPlaces a n) (fun s ps => ?_)
  exact congrArg (fun t : State => { t with free := s.free + 1 }) (hgranules s ps)

theorem PartsBlind.recordUe (a : Nat) : PartsBlind (fun s => s.recordUe a) := by
  have hcount (o : Option Part) : PartsBlind (fun s => match o with
      | some p => s.count .memUeCount p.val 1
      | none => s) := by
    cases o with
    | none => exact PartsBlind.id
    | some p => exact PartsBlind.count .memUeCount p.val 1
  have hlog (o : Option Part) : PartsBlind (fun s => if s.repair.ueLog.isSome then s
      else { s with repair := { s.repair with ueLog := some (a, decide (firnBase ≤ a), o), ueLast := (a, decide (firnBase ≤ a), o) } }) :=
    PartsBlind.ite (fun _ _ => rfl) PartsBlind.id (fun _ _ => rfl)
  have hall (o : Option Part) := (hcount o).comp ((PartsBlind.count .memUeTotal 0 1).comp (hlog o))
  exact PartsBlind.of (v := fun s => s.extentOf a) (fun _ _ => rfl) hall

theorem PartsBlind.startTest (q : PartId) (n : Option Nat) : PartsBlind (fun s => s.startTest q n) := by
  have hadd : PartsBlind (fun s => s.addTest q) := PartsBlind.addTest q
  have hunretired : PartsBlind (fun s => if s.repair.retired q then s else s.addTest q) := PartsBlind.ite (fun _ _ => rfl) PartsBlind.id hadd
  refine PartsBlind.ite (fun _ _ => rfl) PartsBlind.id ?_
  cases q with
  | page h c p =>
    refine PartsBlind.ite (fun _ _ => rfl) PartsBlind.id (fun s ps => ?_)
    simp only [repair_withParts]
    cases s.repair.slotFor h c <;> rfl
  | tile x y | row x y =>
    refine PartsBlind.ite (fun _ _ => rfl) PartsBlind.id (fun s ps => ?_)
    simp only [repair_withParts]
    cases s.repair.tileAt x y with
    | none => rfl
    | some n =>
      exact PartsBlind.ite (c := fun s => (s.tile n).run.isSome) (fun _ _ => rfl) (PartsBlind.modTile n _) (hadd.comp (PartsBlind.modTile n _)) s ps
  | core c => exact PartsBlind.ite (fun _ _ => rfl) PartsBlind.id (hadd.comp (PartsBlind.modRepair _))
  | sm3 l => exact PartsBlind.ite (fun _ _ => rfl) PartsBlind.id (hadd.comp (PartsBlind.modRepair _))
  | conv c => exact PartsBlind.id
  | chan h c | granule i | lane u l => exact hunretired

theorem PartsBlind.testOfDpa (a : Nat) : PartsBlind (fun s => s.testOfDpa a) := by
  intro s ps
  simp only [State.testOfDpa, place_withParts]
  cases s.place a with
  | none => rfl
  | some x =>
    exact PartsBlind.ite (c := fun s => s.withdrawnDpa a || windowBase ≤ a) (fun _ _ => rfl) PartsBlind.id
      (PartsBlind.ite (c := fun _ => a < hbmEnd) (fun _ _ => rfl) (PartsBlind.startTest _ _) (PartsBlind.startTest _ _)) s ps

theorem PartsBlind.uncorrectable (a : Nat) : PartsBlind (fun s => s.uncorrectable a) :=
  (PartsBlind.testOfDpa a).comp (PartsBlind.recordUe a)

theorem PartsBlind.copyTo (toDpa : Bool) (a : Nat) (bs : List Byte) : PartsBlind (fun s => s.copyTo toDpa a bs) :=
  PartsBlind.ite (fun _ _ => rfl) (PartsBlind.writeDpa a bs) (PartsBlind.hostWrite a bs)

theorem PartsBlind.copyOpen (toDpa : Bool) (a n : Nat) : PartsBlind (fun s => s.copyOpen toDpa a n) :=
  PartsBlind.ite (fun _ _ => rfl) (PartsBlind.openDpa a n) (fun _ _ => rfl)

/-! ### FENCE and COPY -/

theorem exec_fence (p : Part) (r : CmdRing) (s : State) : exec (.fence p r) s = execFence p r s := rfl
theorem exec_copy (p : Part) (r : CmdRing) (d : HostData) (ue : Option Nat) (s : State) :
    exec (.copy p r d ue) s = execCopy p r d ue s := rfl

section
variable {s : State} {p : Part} {r : CmdRing} {c : Cmd} (hs : s.serving)
include hs

/-- The FENCE that has started on a ring waits for commands that are still there, and then completes (R580). -/
theorem exec_fence_started {w : List Nat} (hc : (s.part p).cmds.find? (fun c =>
      decide (c.ring = r) && decide (c.opcode.toNat = opFence) && c.waited.isSome) = some c) (hw : c.waited = some w) :
    exec (.fence p r) s = .next (if w.any (fun o => (s.cmd? p o).isSome) then s else s.finish p c stOk 0 w.length) := by
  rw [exec_fence, execFence, inService_next hs]
  simp only [hc, hw, Option.getD_some]

theorem fence_completes {w : List Nat} (hc : (s.part p).cmds.find? (fun c =>
      decide (c.ring = r) && decide (c.opcode.toNat = opFence) && c.waited.isSome) = some c) (hw : c.waited = some w)
    (hdone : ∀ o ∈ w, s.cmd? p o = none) : CompletesAtOnce (.fence p r) s s p c stOk 0 w.length := by
  have hnone : w.any (fun o => (s.cmd? p o).isSome) = false := by
    simp only [List.any_eq_false]
    intro o ho
    simp [hdone o ho]
  have hx := exec_fence_started hs hc hw
  rw [hnone] at hx
  exact ⟨_, hx, finish_completes ⟨(setPart_part s p).symm, fun _ => rfl⟩ c stOk 0 w.length⟩

theorem fence_waits {w : List Nat} (hc : (s.part p).cmds.find? (fun c =>
      decide (c.ring = r) && decide (c.opcode.toNat = opFence) && c.waited.isSome) = some c) (hw : c.waited = some w)
    {o : Nat} (ho : o ∈ w) (hthere : (s.cmd? p o).isSome = true) : exec (.fence p r) s = .next s := by
  rw [exec_fence_started hs hc hw, if_pos (List.any_eq_true.2 ⟨o, ho, hthere⟩)]

end

/-- What COPY `c` does once it has started. -/
def State.copyRun (s : State) (p : Part) (src : HostData) (ue : Option Nat) (c : Cmd) : State :=
  let a := c.field 0x10 8
  let d := c.field 0x18 8
  let n := c.field 0x20 8
  let toDpa := bitOf (c.field 0x28 1) 1
  match s.copyFault p c with
  | some off => s.malformed p c off
  | none =>
    if bitOf (c.field 0x28 1) 0 then
      match s.badByte a n ue with
      | some x => (((s.uncorrectable x).copyTo toDpa d (s.readDpa a (x - a))).copyOpen toDpa (d + (x - a)) (n - (x - a))).finish p c
          stUnrecoverable 0 (x - a)
      | none => (s.copyTo toDpa d (s.readDpa a n)).finish p c stOk 0 n
    else
      match src with
      | .failed => s.malformed p c 0x10
      | .bytes bs => (s.copyTo toDpa d (padTo bs n)).finish p c stOk 0 n

theorem execCopy_eq (p : Part) (r : CmdRing) (src : HostData) (ue : Option Nat) (s : State) : execCopy p r src ue s =
    inService s (fun s => if s.copyHeld p r then s else runCmd s p r opCopy (fun s c => s.copyRun p src ue c)) := rfl

section
variable {s : State} {p : Part} {c : Cmd} {src : HostData} {ue : Option Nat}

theorem copyRun_fault {off : Nat} (h : s.copyFault p c = some off) : s.copyRun p src ue c = s.malformed p c off := by
  simp only [State.copyRun, h]

theorem copyRun_dpa (h : s.copyFault p c = none) (hfrom : bitOf (c.field 0x28 1) 0 = true)
    (hb : s.badByte (c.field 0x10 8) (c.field 0x20 8) ue = none) : s.copyRun p src ue c =
      (s.copyTo (bitOf (c.field 0x28 1) 1) (c.field 0x18 8) (s.readDpa (c.field 0x10 8) (c.field 0x20 8))).finish p c stOk 0
        (c.field 0x20 8) := by
  simp only [State.copyRun, h, hfrom, hb, if_true]

theorem copyRun_bad {x : Nat} (h : s.copyFault p c = none) (hfrom : bitOf (c.field 0x28 1) 0 = true)
    (hb : s.badByte (c.field 0x10 8) (c.field 0x20 8) ue = some x) : s.copyRun p src ue c =
      (((s.uncorrectable x).copyTo (bitOf (c.field 0x28 1) 1) (c.field 0x18 8)
        (s.readDpa (c.field 0x10 8) (x - c.field 0x10 8))).copyOpen (bitOf (c.field 0x28 1) 1) (c.field 0x18 8 + (x - c.field 0x10 8))
          (c.field 0x20 8 - (x - c.field 0x10 8))).finish p c stUnrecoverable 0 (x - c.field 0x10 8) := by
  simp only [State.copyRun, h, hfrom, hb, if_true]

theorem copyRun_failed (h : s.copyFault p c = none) (hfrom : bitOf (c.field 0x28 1) 0 = false) :
    s.copyRun p .failed ue c = s.malformed p c 0x10 := by
  simp only [State.copyRun, h, hfrom, Bool.false_eq_true, if_false]

theorem copyRun_host {bs : List Byte} (h : s.copyFault p c = none) (hfrom : bitOf (c.field 0x28 1) 0 = false)
    (hn : bs.length = c.field 0x20 8) : s.copyRun p (.bytes bs) ue c =
      (s.copyTo (bitOf (c.field 0x28 1) 1) (c.field 0x18 8) bs).finish p c stOk 0 (c.field 0x20 8) := by
  have hpad : padTo bs (c.field 0x20 8) = bs := by simp [padTo, hn]
  simp only [State.copyRun, h, hfrom, hpad, Bool.false_eq_true, if_false]

end

section
variable {s : State} {p : Part} {r : CmdRing} {c : Cmd} {src : HostData} {ue : Option Nat} (hc : (s.part p).nextCmd r opCopy = some c)
include hc

theorem copyHeld_eq : s.copyHeld p r =
    (bitOf (c.field 0x28 1) 0 && (s.copyFault p c).isNone && s.heldAt (c.field 0x10 8) (c.field 0x20 8)) := by
  rw [State.copyHeld, hc]

/-- A COPY that is not held completes in what a blind operation makes of the state. -/
theorem copy_completes (hs : s.serving) (hh : s.copyHeld p r = false) {f : State → State} (hf : PartsBlind f) {st : W16} {info result : Nat}
    (hv : (s.started p c).copyRun p src ue c.begun = (f (s.started p c)).finish p c.begun st info result) :
    CompletesAtOnce (.copy p r src ue) s (f s) p c st info result := by
  refine completesAtOnce_of_finish ?_ (hf.cmdsOnly s p c)
  rw [exec_copy, execCopy_eq, inService_next hs, hh, ← hv]
  simp only [Bool.false_eq_true, if_false]
  rw [runCmd_next hc]
  rfl

end

/-- Settles O30: a FENCE by what it waits for, a COPY by its source; what a COPY does neither reads nor changes partitions. -/
theorem fenceAndCopyComplete : Obligations.FenceAndCopyComplete := by
  unfold Obligations.FenceAndCopyComplete
  intro s p r c hs
  refine ⟨fun w hc hw => ⟨fence_completes hs hc hw, fun o ho => fence_waits hs hc hw ho⟩, fun hc src ue => ⟨fun off hoff => ?_, fun hok => ?_⟩⟩
  · have hh : s.copyHeld p r = false := by simp [copyHeld_eq hc, hoff]
    exact copy_completes hc hs hh PartsBlind.id (copyRun_fault hoff)
  dsimp only
  refine ⟨fun hfrom hheld => ?_, fun hfrom hheld hb => ?_, fun hfrom hheld x hb => ?_, fun hfrom hsrc => ?_, fun hfrom bs hsrc hn => ?_⟩
  · have hh : s.copyHeld p r = true := by simp [copyHeld_eq hc, hok, hfrom, hheld]
    rw [exec_copy, execCopy_eq, inService_next hs, hh, if_pos rfl]
  · have hh : s.copyHeld p r = false := by simp [copyHeld_eq hc, hheld]
    exact copy_completes hc hs hh (PartsBlind.copyTo _ _ _) (copyRun_dpa (s := s.started p c) (c := c.begun) hok hfrom hb)
  · have hh : s.copyHeld p r = false := by simp [copyHeld_eq hc, hheld]
    exact copy_completes hc hs hh (((PartsBlind.copyOpen _ _ _).comp (PartsBlind.copyTo _ _ _)).comp (PartsBlind.uncorrectable x))
      (copyRun_bad (s := s.started p c) (c := c.begun) hok hfrom hb)
  · have hh : s.copyHeld p r = false := by simp [copyHeld_eq hc, hfrom]
    subst hsrc
    exact copy_completes hc hs hh PartsBlind.id (copyRun_failed (s := s.started p c) (c := c.begun) hok hfrom)
  · have hh : s.copyHeld p r = false := by simp [copyHeld_eq hc, hfrom]
    subst hsrc
    exact copy_completes hc hs hh (PartsBlind.copyTo _ _ _) (copyRun_host (s := s.started p c) (c := c.begun) hok hfrom hn)

end Sys2Proof.Machine
end

section
/-! SUPPORT. What memory and ports leave unchanged; packets as they arrive; WRITE and READ, once and in order (R253, R456 to R469,
R692, R702). -/

namespace Sys2Proof.Machine

/-! ### What changes memory leaves unchanged -/

/-- Two states differ at most in the DPA space, registers, tiles and the repair state, in which the same channels have failed. -/
def MediaOnly (s t : State) : Prop :=
  t = { s with mem := t.mem, regs := t.regs, tiles := t.tiles, free := t.free, repair := { t.repair with
    sparedChan := s.repair.sparedChan, lostChans := s.repair.lostChans, lostStacks := s.repair.lostStacks } }

theorem MediaOnly.refl (s : State) : MediaOnly s s := rfl

theorem MediaOnly.trans {s t u : State} (h : MediaOnly s t) (g : MediaOnly t u) : MediaOnly s u := by
  unfold MediaOnly at *
  rw [g, h]

theorem MediaOnly.foldl {α : Type} {f : State → α → State} (hf : ∀ s a, MediaOnly s (f s a)) (l : List α) (s : State) :
    MediaOnly s (l.foldl f s) :=
  List.foldlRecOn (motive := MediaOnly s) l f rfl fun u hu a _ => hu.trans (hf u a)

theorem MediaOnly.sparedChan {s t : State} (h : MediaOnly s t) : t.repair.sparedChan = s.repair.sparedChan :=
  (congrArg (fun u : State => u.repair.sparedChan) h :)
theorem MediaOnly.lostChans {s t : State} (h : MediaOnly s t) : t.repair.lostChans = s.repair.lostChans :=
  (congrArg (fun u : State => u.repair.lostChans) h :)
theorem MediaOnly.lostStacks {s t : State} (h : MediaOnly s t) : t.repair.lostStacks = s.repair.lostStacks :=
  (congrArg (fun u : State => u.repair.lostStacks) h :)
theorem MediaOnly.parts {s t : State} (h : MediaOnly s t) : t.parts = s.parts := (congrArg State.parts h :)
theorem MediaOnly.part {s t : State} (h : MediaOnly s t) (p : Part) : t.part p = s.part p := by simp only [State.part, h.parts]
theorem MediaOnly.fabric {s t : State} (h : MediaOnly s t) : t.fabric = s.fabric := (congrArg State.fabric h :)
theorem MediaOnly.sec {s t : State} (h : MediaOnly s t) : t.sec = s.sec := (congrArg State.sec h :)
theorem MediaOnly.host {s t : State} (h : MediaOnly s t) : t.host = s.host := (congrArg State.host h :)
theorem MediaOnly.power {s t : State} (h : MediaOnly s t) : t.power = s.power := (congrArg State.power h :)
theorem MediaOnly.now {s t : State} (h : MediaOnly s t) : t.now = s.now := (congrArg State.now h :)

theorem MediaOnly.count (s : State) (n : RegName) (i k : Nat) : MediaOnly s (s.count n i k) := rfl
theorem MediaOnly.addTest (s : State) (q : PartId) : MediaOnly s (s.addTest q) := rfl

/-- What happens only under a condition keeps what it keeps where it happens. -/
theorem MediaOnly.ite {s t u : State} (c : Prop) [Decidable c] (ht : MediaOnly s t) (hu : MediaOnly s u) :
    MediaOnly s (if c then t else u) := by
  split
  · exact ht
  · exact hu

theorem MediaOnly.noteWrites (s : State) (a n : Nat) : MediaOnly s (s.noteWrites a n) := by
  refine MediaOnly.ite _ rfl (MediaOnly.foldl (fun u i => ?_) _ s)
  cases u.place (a + i) with
  | none => rfl
  | some x => exact MediaOnly.ite _ rfl rfl

theorem MediaOnly.writeDpa (s : State) (a : Nat) (bs : List Byte) : MediaOnly s (s.writeDpa a bs) := by
  refine ((MediaOnly.noteWrites s a bs.length).trans (MediaOnly.foldl (fun u x => ?_) bs.zipIdx _)).trans (MediaOnly.foldl (fun u d => ?_) _ _)
  · cases u.place (a + x.2) with
    | none => rfl
    | some y => exact MediaOnly.ite _ rfl rfl
  · refine MediaOnly.ite _ ?_ rfl
    cases u.extentOf d <;> rfl

theorem MediaOnly.openDpa (s : State) (a n : Nat) : MediaOnly s (s.openDpa a n) := by
  refine MediaOnly.ite _ rfl (MediaOnly.trans (MediaOnly.foldl (fun u d => ?_) (granulesOf a n) s) rfl)
  cases u.place d <;> rfl

theorem MediaOnly.recordUe (s : State) (a : Nat) : MediaOnly s (s.recordUe a) := by
  unfold State.recordUe
  dsimp only
  split <;> split <;> rfl

theorem MediaOnly.moveCore (s : State) (c : Nat) : MediaOnly s (s.modRepair (fun r => r.moveCore c)) := by
  unfold State.modRepair Repair.moveCore
  dsimp only
  split <;> rfl

theorem MediaOnly.startTest (s : State) (q : PartId) (n : Option Nat) : MediaOnly s (s.startTest q n) := by
  refine MediaOnly.ite _ rfl ?_
  cases q with
  | page h c p =>
    refine MediaOnly.ite _ rfl ?_
    cases s.repair.slotFor h c <;> rfl
  | tile x y | row x y =>
    refine MediaOnly.ite _ rfl ?_
    cases s.repair.tileAt x y with
    | none => rfl
    | some k => exact MediaOnly.ite _ rfl rfl
  | core c => exact MediaOnly.ite _ rfl ((MediaOnly.moveCore s c).trans (MediaOnly.addTest _ _))
  | conv i => rfl
  | chan | granule | lane | sm3 => exact MediaOnly.ite _ rfl rfl

theorem MediaOnly.testOfDpa (s : State) (a : Nat) : MediaOnly s (s.testOfDpa a) := by
  unfold State.testOfDpa
  cases s.place a with
  | none => rfl
  | some x => exact MediaOnly.ite _ rfl (MediaOnly.ite _ (MediaOnly.startTest _ _ _) (MediaOnly.startTest _ _ _))

theorem MediaOnly.uncorrectable (s : State) (a : Nat) : MediaOnly s (s.uncorrectable a) :=
  (MediaOnly.recordUe s a).trans (MediaOnly.testOfDpa _ a)

theorem MediaOnly.noteUnreadable (s : State) (a : Nat) : MediaOnly s (s.noteUnreadable a) :=
  MediaOnly.ite _ (MediaOnly.recordUe s a) (MediaOnly.uncorrectable s a)

/-! ### What sending leaves unchanged -/

/-- Two states differ at most in the ports of the fabric. -/
def PortsOnly (s t : State) : Prop := t = { s with fabric := { s.fabric with ports := t.fabric.ports } }

theorem PortsOnly.refl (s : State) : PortsOnly s s := rfl

theorem PortsOnly.trans {s t u : State} (h : PortsOnly s t) (g : PortsOnly t u) : PortsOnly s u := by
  unfold PortsOnly at *
  rw [g, h]

theorem PortsOnly.foldl {α : Type} {f : State → α → State} (hf : ∀ s a, PortsOnly s (f s a)) (l : List α) (s : State) :
    PortsOnly s (l.foldl f s) :=
  List.foldlRecOn (motive := PortsOnly s) l f rfl fun u hu a _ => hu.trans (hf u a)

theorem PortsOnly.fabricOnly {s t : State} (h : PortsOnly s t) : FabricOnly s t := by
  unfold PortsOnly at h
  rw [h]
  rfl

theorem PortsOnly.parts {s t : State} (h : PortsOnly s t) : t.parts = s.parts := (congrArg State.parts h :)
theorem PortsOnly.mem {s t : State} (h : PortsOnly s t) : t.mem = s.mem := (congrArg State.mem h :)
theorem PortsOnly.sec {s t : State} (h : PortsOnly s t) : t.sec = s.sec := (congrArg State.sec h :)
theorem PortsOnly.fabric {s t : State} (h : PortsOnly s t) : t.fabric = { s.fabric with ports := t.fabric.ports } :=
  (congrArg State.fabric h :)

theorem PortsOnly.modPort (s : State) (u : PortNo) (f : Port → Port) : PortsOnly s (s.modPort u f) := rfl

theorem PortsOnly.enqueue (s : State) (u : PortNo) (k : Packet) : PortsOnly s (s.enqueue u k) := by
  unfold State.enqueue State.pump
  split <;> rfl

theorem PortsOnly.route (s : State) (k : Packet) (from_ : Option PortNo) : PortsOnly s (s.route k from_) := by
  unfold State.route
  split
  · exact PortsOnly.enqueue s _ _
  · rfl

theorem PortsOnly.sendPlain (s : State) (typ : Byte) (tc : Fin 4) (dst : Node) (p : Part) (xid : W32) (addr : W64) (arg : W32)
    (payload : List Byte) : PortsOnly s (s.sendPlain typ tc dst p xid addr arg payload) := by
  unfold State.sendPlain
  split
  · rfl
  · exact PortsOnly.route s _ _

theorem PortsOnly.sendAck (s : State) (k : Packet) : PortsOnly s (s.sendAck k) := PortsOnly.sendPlain s ..
theorem PortsOnly.sendNack (s : State) (k : Packet) (st : W16) : PortsOnly s (s.sendNack k st) := PortsOnly.sendPlain s ..

/-! ### A packet for this node arrives (R456 to R458) -/

theorem hears_self {s : State} {k : Packet} (h : s.hears k) : k.dst = s.self := h.2.2.2.1

/-- A packet that passes every check leaves its receive buffer and is served. -/
theorem arriveAs_hears {s : State} {u : PortNo} {k : Packet} {typ : Byte} (h : s.hears k) (ht : k.typ = typ) (hk : knownType typ = true)
    (f : State → State) : s.arriveAs (some u) k typ f = f (s.received u k) := by
  obtain ⟨hfenced, hzero, hhops, hdst, hecrc⟩ := h
  subst ht
  have harrive : s.arrive (some u) k = (s.received u k, true) := by
    have hself : (s.received u k).self = s.self := rfl
    have hf : (s.received u k).fabric.fenced.contains k.src = false := by
      have hmem : k.src ∉ (s.received u k).fabric.fenced := hfenced
      simpa using hmem
    unfold State.arrive
    simp only [show s.modPort u (fun p => p.takeRx k) = s.received u k from rfl, hf, hzero, hk, hself, ← hdst, ← hecrc, ne_eq,
      not_true_eq_false, Bool.not_true, Bool.or_self, Bool.false_or, decide_eq_true_eq, Nat.not_le.2 hhops, Bool.false_eq_true,
      if_false]
  simp only [State.arriveAs, ne_eq, not_true_eq_false, decide_false, Bool.false_and, Bool.false_eq_true, if_false, harrive, if_true]

/-! ### The record of a source's XIDs (R468, R469) -/

/-- The record that a packet is judged by. -/
def State.recordOf (s : State) (k : Packet) : XidRec := dget s.fabric.xidRecs (recKey k.src k.tc) {}

theorem recordOf_modRec (s : State) (k : Packet) (f : XidRec → XidRec) : (s.modRec k f).recordOf k = f (s.recordOf k) := by
  show dget (dmod s.fabric.xidRecs (recKey k.src k.tc) {} f) (recKey k.src k.tc) {} = _
  rw [dmod, dget, dget?_dset_same]
  rfl

theorem PortsOnly.recordOf {s t : State} (h : PortsOnly s t) (k : Packet) : t.recordOf k = s.recordOf k := by
  rw [State.recordOf, h.fabric]
  rfl

theorem MediaOnly.recordOf {s t : State} (h : MediaOnly s t) (k : Packet) : t.recordOf k = s.recordOf k := by
  simp only [State.recordOf, h.fabric]

theorem judge_of_seen {r : XidRec} {k : Packet} (h : k.xid ∈ r.seen) : r.judge k = .again := by
  simp [XidRec.judge, h]

theorem judge_of_next {r : XidRec} {k : Packet} (h : k.xid ∉ r.seen) (hn : k.tc ≠ 0 ∨ k.xid = r.next) : r.judge k = .now := by
  simp [XidRec.judge, h, hn]

/-- Only a packet of TC0 after a gap is held, and where fewer than 256 are (R469). -/
theorem judge_hold {r : XidRec} {k : Packet} (h : r.judge k = .hold) : k.tc = 0 ∧ k.xid ≠ r.next ∧ r.heldBack.length < 256 := by
  unfold XidRec.judge at h
  split at h
  · cases h
  split at h
  · cases h
  next _ hgap =>
  split at h
  · split at h
    · cases h
    next hroom =>
      simp only [Bool.or_eq_true, decide_eq_true_eq, not_or, not_not] at hgap hroom
      exact ⟨by simpa using hgap.1, hgap.2, by omega⟩
  · cases h

theorem mem_note_seen (r : XidRec) (k : Packet) : k.xid ∈ (r.note k).seen := by simp [XidRec.note]

theorem note_seen_length (r : XidRec) (k : Packet) : (r.note k).seen.length ≤ 4096 := by
  simp only [XidRec.note, List.length_take]
  omega

theorem note_next {r : XidRec} {k : Packet} (h : k.tc = 0) : (r.note k).next = k.xid + 1 := by simp [XidRec.note, h]

/-! ### Delivery -/

/-- Where no packet is held for a gap, none is delivered. -/
theorem deliverHeld_of_none {s : State} {k : Packet} (h : (s.recordOf k).heldBack = []) (n : Nat) : State.deliverHeld k.src k.tc n s = s := by
  have h' : (dget s.fabric.xidRecs (recKey k.src k.tc) {}).heldBack = [] := h
  cases n with
  | zero => rfl
  | succ n => simp only [State.deliverHeld, h', List.find?_nil]

theorem noted_heldBack {s : State} {u : PortNo} {k : Packet} (h : s.inTurn k) : ((s.noted u k).recordOf k).heldBack = [] := by
  have hrec : (s.received u k).recordOf k = s.recordOf k := (PortsOnly.modPort s u _).recordOf k
  have hback : (s.recordOf k).heldBack = [] := h.2
  rw [State.noted, recordOf_modRec, hrec]
  simp [XidRec.note, hback]

/-- A packet in turn is noted and served, and nothing is delivered after it. -/
theorem deliver_inTurn {s : State} {u : PortNo} {k : Packet} {m : MsgKind} (h : s.inTurn k)
    (hback : (((s.noted u k).serveKind k m).recordOf k).heldBack = []) :
    (s.received u k).deliver k m = (s.noted u k).serveKind k m := by
  have hjudge : (dget (s.received u k).fabric.xidRecs (recKey k.src k.tc) {}).judge k = .now := h.1
  simp only [State.deliver, hjudge]
  exact deliverHeld_of_none hback 256

theorem refusePacket_heldBack (s : State) (k : Packet) (st : W16) :
    ((s.refusePacket k st).recordOf k).heldBack = (s.recordOf k).heldBack := by
  unfold State.refusePacket
  rw [(PortsOnly.sendNack _ k st).recordOf, recordOf_modRec]

/-! ### WRITE -/

theorem exec_write (u : PortNo) (k : Packet) (s : State) : exec (.write u k) s = execWrite u k s := rfl
theorem exec_read (u : PortNo) (k : Packet) (ue : Option Nat) (pull : Option PullAsk) (s : State) :
    exec (.read u k ue pull) s = execRead u k ue pull s := rfl

theorem serveWrite_heldBack (s : State) (k : Packet) : ((s.serveWrite k).recordOf k).heldBack = (s.recordOf k).heldBack := by
  unfold State.serveWrite
  split
  · rw [(PortsOnly.sendAck _ k).recordOf, (MediaOnly.writeDpa s _ _).recordOf]
  · exact refusePacket_heldBack s k stMalformed

section
variable {s : State} {u : PortNo} {k : Packet} (hs : s.serving) (hh : s.hears k)
include hs hh

theorem exec_write_hears (ht : k.typ = tyWrite) : exec (.write u k) s = .next ((s.received u k).deliver k .write) := by
  rw [exec_write, execWrite, inService_next hs, arriveAs_hears hh ht rfl]

theorem write_inTurn (ht : k.typ = tyWrite) (hturn : s.inTurn k) : exec (.write u k) s = .next ((s.noted u k).serveWrite k) := by
  have hback : (((s.noted u k).serveKind k .write).recordOf k).heldBack = [] :=
    (serveWrite_heldBack (s.noted u k) k).trans (noted_heldBack hturn)
  rw [exec_write_hears hs hh ht, deliver_inTurn hturn hback]
  rfl

/-! ### READ -/

theorem exec_read_hears (ht : k.typ = tyRead) {ue : Option Nat} {pull : Option PullAsk}
    (hw : pull.isNone = true → s.heldAt (dpaOf k.addr) (min k.arg.toNat 4096) = false) :
    exec (.read u k ue pull) s = .next ((s.received u k).deliver k (.read ue pull)) := by
  have hgo : (pull.isNone && s.heldAt (dpaOf k.addr) (min k.arg.toNat 4096)) = false := by
    cases h : pull.isNone
    · rfl
    · simp [hw h]
  rw [exec_read, execRead, inService_next hs, hgo, arriveAs_hears hh ht rfl]
  rfl

omit hh in
theorem read_waits {ue : Option Nat} (hw : s.heldAt (dpaOf k.addr) (min k.arg.toNat 4096) = true) :
    exec (.read u k ue none) s = .next s := by
  rw [exec_read, execRead, inService_next hs, hw]
  rfl

omit hs hh in
theorem serveAnyRead_recordOf (s : State) (k q : Packet) (ue : Option Nat) (pull : Option PullAsk) :
    (s.serveAnyRead k ue pull).recordOf q = s.recordOf q := by
  cases pull with
  | none =>
    unfold State.serveAnyRead State.serveRead
    dsimp only
    split
    · exact (PortsOnly.sendNack s k _).recordOf q
    · split
      · rw [(PortsOnly.sendNack _ k _).recordOf, (MediaOnly.uncorrectable s _).recordOf]
      · exact (PortsOnly.sendPlain s ..).recordOf q
  | some a =>
    unfold State.serveAnyRead State.servePull
    dsimp only
    split
    · exact (PortsOnly.sendNack s k _).recordOf q
    · split
      · rw [(PortsOnly.sendNack _ k _).recordOf, (MediaOnly.noteUnreadable s _).recordOf]
      · split
        · exact (PortsOnly.sendNack s k _).recordOf q
        · exact (PortsOnly.sendPlain s ..).recordOf q

theorem read_inTurn (ht : k.typ = tyRead) (hturn : s.inTurn k) {ue : Option Nat} {pull : Option PullAsk}
    (hw : pull.isNone = true → s.heldAt (dpaOf k.addr) (min k.arg.toNat 4096) = false) :
    exec (.read u k ue pull) s = .next ((s.noted u k).serveAnyRead k ue pull) := by
  have hback : (((s.noted u k).serveKind k (.read ue pull)).recordOf k).heldBack = [] :=
    (congrArg XidRec.heldBack (serveAnyRead_recordOf (s.noted u k) k k ue pull)).trans (noted_heldBack hturn)
  rw [exec_read_hears hs hh ht hw, deliver_inTurn hturn hback]
  rfl

end

/-! ### What a READ is answered -/

section
variable {s : State} {k : Packet} {ue : Option Nat}

theorem serveRead_refused (h : k.arg.toNat = 0 ∨ 4096 < k.arg.toNat ∨ s.remoteOk k.part k.addr k.arg.toNat = false) :
    s.serveRead k ue = s.sendNack k stMalformed := by
  unfold State.serveRead
  dsimp only
  rw [if_pos (by rcases h with h | h | h <;> simp [h])]

theorem serveRead_within (h1 : 1 ≤ k.arg.toNat) (h2 : k.arg.toNat ≤ 4096) (h : s.remoteOk k.part k.addr k.arg.toNat = true) :
    s.serveRead k ue = match s.badByte (dpaOf k.addr) k.arg.toNat ue with
      | some d => (s.uncorrectable d).sendNack k stUnrecoverable
      | none => s.sendPlain tyReadData k.tc k.src k.part 0 0 k.xid (s.readDpa (dpaOf k.addr) k.arg.toNat) := by
  have h0 : k.arg.toNat ≠ 0 := by omega
  unfold State.serveRead
  dsimp only
  exact if_neg (by simp [h, h0, h2])

/-- A slot gives a pull its chunk: its ROOT begins with the tag asked for, and the chunk has verified there (R692, R702). -/
def pullHolds (a : PullAsk) (x : Slot) : Bool :=
  match x.head with
  | some h => decide (fieldAt h.root 0 8 = a.rootTag) && x.verified.contains a.chunk
  | none => false

theorem servePull_unknown {a : PullAsk} (h : ∀ e ∈ (s.part k.part).slots, pullHolds a e.2 = false) :
    s.servePull k ue a = s.sendNack k stState := by
  have hfind : (s.part k.part).slots.find? (fun e => pullHolds a e.2) = none := List.find?_eq_none.2 (by simpa using h)
  unfold State.servePull
  change (match (s.part k.part).slots.find? (fun e => pullHolds a e.2) with | none => _ | some e => _) = _
  rw [hfind]

theorem servePull_known {a : PullAsk} {e : Nat × Slot} {bs : List Byte}
    (h : (s.part k.part).slots.find? (fun e => pullHolds a e.2) = some e) (hread : s.chunkUnreadable k.part e.1 a.chunk = none)
    (hbs : s.chunkOf k.part e.1 a.chunk = some bs) : s.servePull k none a =
      if k.arg.toNat = 0 || 4096 < k.arg.toNat || bs.length < a.offset + k.arg.toNat then s.sendNack k stMalformed
      else s.sendPlain tyReadData k.tc k.src k.part 0 0 k.xid (sliceAt bs a.offset k.arg.toNat) := by
  unfold State.servePull
  change (match (s.part k.part).slots.find? (fun e => pullHolds a e.2) with | none => _ | some e => _) = _
  rw [h]
  simp only [hread, hbs, Option.getD_some]

end

/-- Settles O50: a packet in turn is noted and served, one that came before or after a gap is not, by the record of its source. -/
theorem transfersAreServedOnceAndInOrder : Obligations.TransfersAreServedOnceAndInOrder := by
  unfold Obligations.TransfersAreServedOnceAndInOrder
  intro s u k hs hh
  refine ⟨fun ht => ⟨fun hturn => ⟨fun hok => ?_, fun hok => ?_⟩, fun hhold => ?_, fun hagain hserved => ?_, fun hdrop => ?_⟩,
    fun ue ht => ⟨read_waits hs, fun hturn hw => ⟨fun hbad => ?_, fun h1 h2 hok => ⟨fun hb => ?_, fun d hb => ?_⟩⟩, fun a hturn => ⟨fun hnone => ?_,
      fun e bs hfind hue hread hbs => ⟨fun h1 h2 hlen => ?_, fun hbad => ?_⟩⟩⟩,
    judge_of_seen, judge_of_next, judge_hold, mem_note_seen _ k, note_seen_length _ k, note_next⟩
  · have hok' : (s.noted u k).remoteOk k.part k.addr k.payload.length = true := hok
    rw [write_inTurn hs hh ht hturn, State.serveWrite, if_pos hok']
  · have hok' : ¬ (s.noted u k).remoteOk k.part k.addr k.payload.length = true := Bool.eq_false_iff.1 hok
    rw [write_inTurn hs hh ht hturn, State.serveWrite, if_neg hok']
  · have hjudge : (dget (s.received u k).fabric.xidRecs (recKey k.src k.tc) {}).judge k = .hold := hhold
    rw [exec_write_hears hs hh ht]
    simp only [State.deliver, hjudge]
  · have hjudge : (dget (s.received u k).fabric.xidRecs (recKey k.src k.tc) {}).judge k = .again := hagain
    have hserved' : ¬ (s.received u k).stillServed k = true := Bool.eq_false_iff.1 hserved
    rw [exec_write_hears hs hh ht]
    simp only [State.deliver, hjudge, if_neg hserved']
  · have hjudge : (dget (s.received u k).fabric.xidRecs (recKey k.src k.tc) {}).judge k = .drop := hdrop
    rw [exec_write_hears hs hh ht]
    simp only [State.deliver, hjudge]
  · rw [read_inTurn hs hh ht hturn (fun _ => hw)]
    exact congrArg Host.Outcome.next (serveRead_refused (s := s.noted u k) hbad)
  · rw [read_inTurn hs hh ht hturn (fun _ => hw)]
    refine congrArg Host.Outcome.next ((serveRead_within (s := s.noted u k) h1 h2 hok).trans ?_)
    rw [show (s.noted u k).badByte (dpaOf k.addr) k.arg.toNat ue = none from hb]
    rfl
  · rw [read_inTurn hs hh ht hturn (fun _ => hw)]
    refine congrArg Host.Outcome.next ((serveRead_within (s := s.noted u k) h1 h2 hok).trans ?_)
    rw [show (s.noted u k).badByte (dpaOf k.addr) k.arg.toNat ue = some d from hb]
  · rw [read_inTurn hs hh ht hturn (by simp)]
    exact congrArg Host.Outcome.next (servePull_unknown (s := s.noted u k) hnone)
  · subst hue
    rw [read_inTurn hs hh ht hturn (by simp)]
    refine congrArg Host.Outcome.next ((servePull_known (s := s.noted u k) hfind hread hbs).trans (if_neg ?_))
    simp only [Bool.or_eq_true, decide_eq_true_eq]
    omega
  · subst hue
    rw [read_inTurn hs hh ht hturn (by simp)]
    refine congrArg Host.Outcome.next ((servePull_known (s := s.noted u k) hfind hread hbs).trans (if_pos ?_))
    simp only [Bool.or_eq_true, decide_eq_true_eq]
    omega

end Sys2Proof.Machine
end

section
/-! SUPPORT. Verdicts of tests, page copies, and failures of channels, stacks and cores (R252 to R262, R843 to R853, R870, R929). -/

namespace Sys2Proof.Machine

/-! ### What work in partitions leaves of failed channels

The completion of tasks and commands and the end of runs touch neither the failed channels nor security, and end no partition
reset. -/

/-- Security and the failed channels are as they were, and every partition reset that ran runs still. -/
structure FailuresKept (s t : State) : Prop where
  sec : t.sec = s.sec
  sparedChan : t.repair.sparedChan = s.repair.sparedChan
  lostChans : t.repair.lostChans = s.repair.lostChans
  lostStacks : t.repair.lostStacks = s.repair.lostStacks
  reset : ∀ q, (s.part q).advance.reset = true → (t.part q).advance.reset = true

theorem FailuresKept.refl (s : State) : FailuresKept s s := ⟨rfl, rfl, rfl, rfl, fun _ => id⟩

theorem FailuresKept.trans {s t u : State} (h : FailuresKept s t) (g : FailuresKept t u) : FailuresKept s u :=
  ⟨g.sec.trans h.sec, g.sparedChan.trans h.sparedChan, g.lostChans.trans h.lostChans, g.lostStacks.trans h.lostStacks,
    fun q hq => g.reset q (h.reset q hq)⟩

theorem FailuresKept.foldl {α : Type} {f : State → α → State} (h : ∀ s a, FailuresKept s (f s a)) (xs : List α) (s : State) :
    FailuresKept s (xs.foldl f s) :=
  List.foldlRecOn (motive := FailuresKept s) xs f (FailuresKept.refl s) fun u hu a _ => hu.trans (h u a)

theorem FailuresKept.ite {s t u : State} (c : Prop) [Decidable c] (ht : FailuresKept s t) (hu : FailuresKept s u) :
    FailuresKept s (if c then t else u) := by
  split
  · exact ht
  · exact hu

theorem FailuresKept.when {s t : State} (c : Prop) [Decidable c] (h : FailuresKept s t) : FailuresKept s (if c then t else s) :=
  FailuresKept.ite c h (FailuresKept.refl s)

theorem FailuresKept.unless {s t : State} (c : Prop) [Decidable c] (h : FailuresKept s t) : FailuresKept s (if c then s else t) :=
  FailuresKept.ite c (FailuresKept.refl s) h

theorem FailuresKept.chanFailed {s t : State} (h : FailuresKept s t) (i c : Nat) : t.repair.chanFailed i c = s.repair.chanFailed i c := by
  simp only [Repair.chanFailed, h.sparedChan, h.lostChans, h.lostStacks]

theorem MediaOnly.failuresKept {s t : State} (h : MediaOnly s t) : FailuresKept s t :=
  ⟨h.sec, h.sparedChan, h.lostChans, h.lostStacks, fun q hq => by rw [h.part]; exact hq⟩

theorem EventsOnly.advance {s t : State} (h : EventsOnly s t) (q : Part) : (t.part q).advance = (s.part q).advance := by
  have hp (u : State) : (u.sansEvents.part q).advance = (u.part q).advance := by
    simp only [State.sansEvents, State.part, get_eq, Vector.getElem_map]
  rw [← hp t, h.1, hp s]

theorem EventsOnly.failuresKept {s t : State} (h : EventsOnly s t) : FailuresKept s t :=
  ⟨h.sec, by rw [h.repair], by rw [h.repair], by rw [h.repair], fun q hq => by rw [h.advance]; exact hq⟩

/-- What changes of a state besides memory and parts that fail: nothing that is kept. -/
theorem FailuresKept.of_parts {s t : State} (hs : t.sec = s.sec) (hr : t.repair = s.repair) (hp : t.parts = s.parts) : FailuresKept s t :=
  ⟨hs, by rw [hr], by rw [hr], by rw [hr], fun q hq => by simp only [State.part, hp]; exact hq⟩

theorem FailuresKept.modPart (s : State) (p : Part) {f : Partition → Partition}
    (hf : (s.part p).advance.reset = true → (f (s.part p)).advance.reset = true) : FailuresKept s (s.modPart p f) := by
  refine ⟨rfl, rfl, rfl, rfl, fun q hq => ?_⟩
  by_cases h : q = p
  · subst h
    rw [part_modPart_same]
    exact hf hq
  · rw [part_modPart_other s p q f h]
    exact hq

theorem FailuresKept.finish (s : State) (p : Part) (c : Cmd) (st : W16) (info result : Nat) : FailuresKept s (s.finish p c st info result) := by
  obtain ⟨honly, hpart, -⟩ := finish_completes (u := s) (p := p) ⟨(setPart_part s p).symm, fun _ => rfl⟩ c st info result
  have heq := honly.eq
  refine ⟨(congrArg State.sec heq :), (congrArg (fun u : State => u.repair.sparedChan) heq :), (congrArg (fun u : State => u.repair.lostChans) heq :),
    (congrArg (fun u : State => u.repair.lostStacks) heq :), fun q hq => ?_⟩
  by_cases h : q = p
  · subst h
    rw [hpart]
    exact hq
  · rw [honly.other h]
    exact hq

theorem FailuresKept.finishOrder (s : State) (p : Part) (o : Nat) (st : W16) (info result : Nat) :
    FailuresKept s (s.finishOrder p o st info result) := by
  unfold State.finishOrder
  cases s.cmd? p o with
  | none => exact FailuresKept.refl s
  | some c => exact FailuresKept.finish s p c st info result

/-! ### Tasks and runs -/

theorem FailuresKept.modGraph (s : State) (p : Part) (cmd : Nat) (f : Graph → Graph) : FailuresKept s (s.modGraph p cmd f) :=
  FailuresKept.modPart s p id

theorem FailuresKept.markReady (s : State) (p : Part) : FailuresKept s (s.markReady p) := by
  unfold State.markReady
  exact FailuresKept.modPart s p id

theorem FailuresKept.noteRecipe (s : State) (p : Part) (t : Task) : FailuresKept s (s.noteRecipe p t) :=
  FailuresKept.unless _ (FailuresKept.modPart s p id)

theorem FailuresKept.found (s : State) (ds : List Nat) : FailuresKept s { s with found := ds } := FailuresKept.of_parts rfl rfl rfl

theorem FailuresKept.writeDpa (s : State) (a : Nat) (bs : List Byte) : FailuresKept s (s.writeDpa a bs) := (MediaOnly.writeDpa s a bs).failuresKept

theorem FailuresKept.clearEwmaSector (s : State) (a : Nat) : FailuresKept s (s.clearEwmaSector a) :=
  (FailuresKept.writeDpa s _ _).trans (FailuresKept.found _ _)

theorem FailuresKept.rewrittenSector (s : State) (d a : Nat) : FailuresKept s ((s.noteUnreadable d).clearEwmaSector a) :=
  (MediaOnly.noteUnreadable s d).failuresKept.trans (FailuresKept.clearEwmaSector _ a)

theorem FailuresKept.ewmaAdd (s : State) (p : Part) (tag : Nat) (sum : Int) (count : Nat) : FailuresKept s (s.ewmaAdd p tag sum count) := by
  refine FailuresKept.unless _ ?_
  split
  · exact FailuresKept.rewrittenSector s _ _
  · exact (FailuresKept.writeDpa s _ _).trans (FailuresKept.writeDpa _ _ _)

theorem FailuresKept.foldEwma (s : State) (p : Part) : FailuresKept s (s.foldEwma p) := by
  refine FailuresKept.unless _ (FailuresKept.foldl (fun s t => ?_) _ s)
  dsimp only
  split
  · exact FailuresKept.when _ (FailuresKept.rewrittenSector s _ _)
  · exact FailuresKept.unless _ (FailuresKept.writeDpa s _ _)

theorem FailuresKept.withdrawTasks (s : State) (p : Part) (which : Task → Bool) : FailuresKept s (s.withdrawTasks p which) :=
  (FailuresKept.modPart s p id).trans (FailuresKept.foldl (fun s t => FailuresKept.noteRecipe s p t) _ _)

theorem FailuresKept.failStep (s : State) (p : Part) : FailuresKept s (s.failStep p) :=
  FailuresKept.when _ ((FailuresKept.withdrawTasks s p _).trans (FailuresKept.modPart _ p id))

theorem FailuresKept.failTask (s : State) (p : Part) (t : Task) : FailuresKept s (s.failTask p t) := by
  refine FailuresKept.ite _ ?_ (FailuresKept.failStep s p)
  unfold State.failChunk
  extract_lets ofTask u
  refine FailuresKept.trans (t := u) (FailuresKept.withdrawTasks s p _) ?_
  split
  · exact FailuresKept.modPart _ p id
  · exact FailuresKept.modPart _ p id
  · exact FailuresKept.refl _

theorem FailuresKept.settleGraphs (s : State) (p : Part) : FailuresKept s (s.settleGraphs p) :=
  FailuresKept.foldl (fun s _ => ((FailuresKept.when _ (FailuresKept.foldEwma s p)).trans (FailuresKept.modPart _ p id)).trans
    (FailuresKept.finishOrder _ p _ _ _ _)) _ s

theorem feedFirmware_advance (waits : Task → Bool) (n : Nat) (x : Partition) : (Partition.feedFirmware waits n x).advance = x.advance := by
  induction n generalizing x with
  | zero => rfl
  | succ n ih =>
    unfold Partition.feedFirmware
    split
    · rfl
    · split
      · rw [ih]
        unfold Partition.enqueueTask
        split <;> rfl
      · rfl

theorem feedGraph_advance (n : Nat) (x : Partition) (g : Graph) : (Partition.feedGraph n x g).1.advance = x.advance := by
  induction n generalizing x g with
  | zero => rfl
  | succ n ih =>
    unfold Partition.feedGraph
    split
    · rfl
    · split
      · rw [ih]
        unfold Partition.enqueueTask
        split <;> rfl
      · rfl

theorem FailuresKept.feedGraphs (s : State) (p : Part) : FailuresKept s (s.feedGraphs p) := by
  have hfeed (s : State) (g : Graph) :
      FailuresKept s (s.setPart p (Partition.feedGraph g.unqueued.length (s.part p) g).1) :=
    FailuresKept.modPart s p (f := fun x => (Partition.feedGraph g.unqueued.length x g).1) (fun h => by rw [feedGraph_advance]; exact h)
  refine (FailuresKept.trans (FailuresKept.modPart s p (fun h => ?_)) (FailuresKept.foldl (fun s g =>
    (hfeed s g).trans (FailuresKept.modGraph _ p _ _)) _ _)).trans (FailuresKept.markReady _ p)
  rw [feedFirmware_advance]
  exact h

theorem FailuresKept.graphTaskDone (s : State) (p : Part) (t : Task) (st : W16) : FailuresKept s (s.graphTaskDone p t st) := by
  unfold State.graphTaskDone
  split
  · exact FailuresKept.refl s
  · have hstop (s : State) (cmd : Nat) : FailuresKept s (s.stopGraph p cmd) := (FailuresKept.modPart s p id).trans (FailuresKept.modGraph _ p _ _)
    exact (((FailuresKept.modGraph s p _ _).trans (FailuresKept.when _ (hstop _ _))).trans (FailuresKept.settleGraphs _ p)).trans
      (FailuresKept.feedGraphs _ p)

theorem FailuresKept.raiseCount (s : State) (p : Part) (code : W16) (subject n : Nat) : FailuresKept s (s.raiseCount p code subject n) :=
  (EventsOnly.raiseCount s p code subject n).failuresKept

theorem FailuresKept.count (s : State) (n : RegName) (i k : Nat) : FailuresKept s (s.count n i k) := (MediaOnly.count s n i k).failuresKept

theorem FailuresKept.signalSems (s : State) (p : Part) (t : Task) : FailuresKept s (s.signalSems p t) :=
  (FailuresKept.modPart s p id).trans (FailuresKept.markReady _ p)

theorem FailuresKept.completeTask (s : State) (p : Part) (t : Task) (st : W16) (r : Report) : FailuresKept s (s.completeTask p t st r) := by
  unfold State.completeTask
  extract_lets sub s1 s2 s3 s4 s5 s6 s7 s8
  have h1 : FailuresKept s s1 := FailuresKept.writeDpa s _ _
  have h2 : FailuresKept s1 s2 :=
    ((FailuresKept.raiseCount s1 p _ _ _).trans (FailuresKept.raiseCount _ p _ _ _)).trans (FailuresKept.raiseCount _ p _ _ _)
  have h3 : FailuresKept s2 s3 := FailuresKept.when _ (FailuresKept.count s2 _ _ _)
  have h4 : FailuresKept s3 s4 := FailuresKept.when _ (FailuresKept.count s3 _ _ _)
  have h5 : FailuresKept s4 s5 := FailuresKept.ite _ (FailuresKept.count s4 _ _ _) (FailuresKept.signalSems s4 p t)
  have h6 : FailuresKept s5 s6 := FailuresKept.when _ (FailuresKept.ewmaAdd s5 p _ _ _)
  have h7 : FailuresKept s6 s7 := FailuresKept.noteRecipe s6 p t
  have h8 : FailuresKept s7 s8 := FailuresKept.when _ (FailuresKept.failTask s7 p t)
  exact (((((((h1.trans h2).trans h3).trans h4).trans h5).trans h6).trans h7).trans h8).trans (FailuresKept.graphTaskDone s8 p t st)

theorem FailuresKept.discardTask (s : State) (p : Part) (t : Task) : FailuresKept s (s.discardTask p t) := by
  unfold State.discardTask
  split
  · exact FailuresKept.refl s
  · exact FailuresKept.modGraph s p _ _

/-- A run that ends with its epoch (R643): its tile is left, and its task discarded. -/
theorem FailuresKept.endRun_epoch (s : State) (k : Nat) (r : Run) : FailuresKept s (s.endRun k r .epoch) := by
  have htests (s : State) (qs : List PartId) : FailuresKept s (qs.foldl (fun s q => s.addTest q) s) :=
    FailuresKept.foldl (fun s q => (MediaOnly.addTest s q).failuresKept) qs s
  have htile (f : Tile → Tile) : FailuresKept s (s.modTile k f) := FailuresKept.of_parts rfl rfl rfl
  have hrelease : FailuresKept s (s.releaseTile k) := by
    unfold State.releaseTile
    exact (htile _).trans (htests _ _)
  have hwalker (s : State) (p : Part) (e : Option Nat) : FailuresKept s (s.leaveWalker p e) := by
    cases e with
    | none => exact FailuresKept.refl s
    | some e =>
      unfold State.leaveWalker
      exact FailuresKept.modPart s p id
  have hleaves : FailuresKept s (s.runLeaves k r) := (((hrelease.trans (hwalker _ _ _)).trans (FailuresKept.raiseCount _ _ _ _ _)).trans
    (FailuresKept.raiseCount _ _ _ _ _)).trans (FailuresKept.raiseCount _ _ _ _ _)
  rw [endRun_eq]
  exact (hleaves.trans ((FailuresKept.discardTask _ _ _).trans (FailuresKept.settleGraphs _ _))).trans (FailuresKept.feedGraphs _ _)

theorem FailuresKept.closeFreeze (s : State) (k : Nat) (resume : Bool) : FailuresKept s (s.closeFreeze k resume) := by
  have htile (x : Tile) : FailuresKept s (s.setTile k x) := FailuresKept.of_parts rfl rfl rfl
  unfold State.closeFreeze
  extract_lets x more
  split
  · extract_lets last upTo late wait u
    have hu : FailuresKept s u := htile _
    exact FailuresKept.ite _ (hu.trans (EventsOnly.raiseEvent u _ _ _ _).failuresKept) hu
  · exact FailuresKept.refl s

/-! ### A partition reset (R929) -/

theorem FailuresKept.advanceEpoch (s : State) (p : Part) (b : Bool) : FailuresKept s (s.advanceEpoch p b) := by
  unfold State.advanceEpoch
  extract_lets s1 e x old gone s2 s3 runs
  have h1 : FailuresKept s s1 := FailuresKept.modPart s p id
  have h2 : FailuresKept s1 s2 := FailuresKept.modPart s1 p id
  have h3 : FailuresKept s2 s3 := FailuresKept.foldl (fun s t => FailuresKept.discardTask s p t) gone s2
  refine ((h1.trans h2).trans h3).trans (FailuresKept.trans (FailuresKept.foldl (fun s y => ?_) runs s3) (FailuresKept.settleGraphs _ p))
  dsimp only
  have hu : FailuresKept s (s.closeFreeze y.1 false) := FailuresKept.closeFreeze s y.1 false
  split
  · exact hu.trans (FailuresKept.endRun_epoch _ y.1 _)
  · exact hu

theorem FailuresKept.clearPendingBits (s : State) (p : Part) : FailuresKept s (s.clearPendingBits p) := by
  refine FailuresKept.foldl (fun s v => ?_) _ s
  dsimp only
  split
  · exact FailuresKept.of_parts rfl rfl rfl
  · exact FailuresKept.refl s

/-- A partition reset starts, once: it runs then (R929, R930). -/
theorem startPartReset_runs (s : State) (p : Part) (flr : Bool) :
    FailuresKept s (s.startPartReset p flr) ∧ ((s.startPartReset p flr).part p).advance.reset = true := by
  unfold State.startPartReset
  by_cases h : (s.part p).advance.reset = true
  · rw [if_pos h]
    exact ⟨FailuresKept.refl s, h⟩
  rw [if_neg h]
  extract_lets s1 host s2 s3 cs s4
  have h1 : FailuresKept s s1 := FailuresKept.modPart s p (fun _ => rfl)
  have hreset : (s1.part p).advance.reset = true := by
    simp only [s1, part_modPart_same]
  clear_value s1
  have h2 : FailuresKept s1 s2 := FailuresKept.of_parts rfl rfl rfl
  have h3 : FailuresKept s2 s3 := (FailuresKept.clearPendingBits s2 p).trans (FailuresKept.advanceEpoch _ p false)
  clear_value s3
  have h4 : FailuresKept s3 s4 := FailuresKept.modPart s3 p id
  have h5 : FailuresKept s4 (if flr then s4 else cs.foldl (fun s c => s.finishOrder p c.order stPartReset) s4) :=
    FailuresKept.unless _ (FailuresKept.foldl (fun s c => FailuresKept.finishOrder s p _ _ _ _) cs s4)
  have hlast := ((h2.trans h3).trans h4).trans h5
  exact ⟨h1.trans hlast, hlast.reset p hreset⟩

/-- The partitions of a list are reset in turn. -/
theorem startPartResets (ps : List Part) (s : State) :
    FailuresKept s (ps.foldl (fun s p => s.startPartReset p false) s) ∧
    ∀ p ∈ ps, ((ps.foldl (fun s p => s.startPartReset p false) s).part p).advance.reset = true := by
  induction ps generalizing s with
  | nil => exact ⟨FailuresKept.refl s, by simp⟩
  | cons p ps ih =>
    obtain ⟨hkept, hreset⟩ := startPartReset_runs s p false
    obtain ⟨hrest, hall⟩ := ih (s.startPartReset p false)
    refine ⟨hkept.trans hrest, fun q hq => ?_⟩
    rcases List.mem_cons.1 hq with rfl | hq
    · exact hrest.reset q hreset
    · exact hall q hq

/-! ### Verdicts of tests (R845 to R851) -/

theorem exec_selfTestVerdict (q : PartId) (v : Verdict) (sc : PageFault) (bad : List Nat) (s : State) :
    exec (.selfTestVerdict q v sc bad) s = execSelfTestVerdict q v sc bad s := rfl
theorem exec_pageCopyDone (h c n : Nat) (bad : List Nat) (s : State) : exec (.pageCopyDone h c n bad) s = execPageCopyDone h c n bad s := rfl
theorem exec_channelFailed (h c : Nat) (s : State) : exec (.channelFailed h c) s = execChannelFailed h c s := rfl
theorem exec_stackFailed (h : Nat) (s : State) : exec (.stackFailed h) s = execStackFailed h s := rfl
theorem exec_controlCoreFault (k : Fin 8) (s : State) : exec (.controlCoreFault k) s = execControlCoreFault k s := rfl

theorem selfTestVerdict_of_not_tested {s : State} (hs : s.serving) {q : PartId} (hq : q ∉ s.repair.tests) (v : Verdict) (sc : PageFault)
    (bad : List Nat) : exec (.selfTestVerdict q v sc bad) s = .next s := by
  rw [exec_selfTestVerdict, execSelfTestVerdict, inService_next hs]
  simp [hq]

theorem mapGoesOn_of_no_map {s : State} (h : s.repair.mapWait = none) : s.mapGoesOn = s := by
  unfold State.mapGoesOn
  rw [h]
  split <;> rfl

theorem mapWait_foldl {α : Type} {f : State → α → State} (hf : ∀ s a, (f s a).repair.mapWait = s.repair.mapWait) (xs : List α) (s : State) :
    (xs.foldl f s).repair.mapWait = s.repair.mapWait :=
  List.foldlRecOn (motive := fun t : State => t.repair.mapWait = s.repair.mapWait) xs f rfl fun t ht a _ => (hf t a).trans ht

theorem noteWrites_mapWait (s : State) (a n : Nat) : (s.noteWrites a n).repair.mapWait = s.repair.mapWait := by
  unfold State.noteWrites
  split
  · rfl
  · refine mapWait_foldl (fun u i => ?_) _ s
    cases u.place (a + i) with
    | none => rfl
    | some x => dsimp only; split <;> rfl

/-- A write to memory leaves the map that waits for the tests as it is. -/
theorem writeDpa_mapWait (s : State) (a : Nat) (bs : List Byte) : (s.writeDpa a bs).repair.mapWait = s.repair.mapWait := by
  refine (mapWait_foldl (fun u d => ?_) _ _).trans ((mapWait_foldl (fun u x => ?_) _ _).trans (noteWrites_mapWait s a bs.length))
  · split
    · cases u.extentOf d <;> rfl
    · rfl
  · cases u.place (a + x.2) with
    | none => rfl
    | some y => dsimp only; split <;> rfl

theorem writeDpas_mapWait (s : State) (at_ : Nat → Nat) (bs : List Byte) (is : List Nat) :
    (is.foldl (fun (s : State) i => s.writeDpa (at_ i) bs) s).repair.mapWait = s.repair.mapWait :=
  mapWait_foldl (fun u _ => writeDpa_mapWait u _ _) is s

theorem zeroSectors_mapWait (s : State) (g : Nat) (bad : List Nat) :
    (s.zeroSectors (.granule g) bad).repair.mapWait = s.repair.mapWait :=
  writeDpas_mapWait s (fun i => firnBase + 4096 * g + 64 * i) _ _

/-- The state in which the verdict of a test is judged: the part is under test no more. -/
def State.testEnded (s : State) (q : PartId) : State := { s with repair := { s.repair with tests := s.repair.tests.erase q } }

section
variable {s : State} {g : Nat}

/-- A verdict for a granule under test that nobody asked for, while no map waits. -/
theorem granuleVerdict (hs : s.serving) (hq : PartId.granule g ∈ s.repair.tests) (ha : s.repair.asked = []) (v : Verdict) (sc : PageFault)
    (bad : List Nat) : exec (.selfTestVerdict (.granule g) v sc bad) s =
      .next (((s.testEnded (.granule g)).zeroSectors (.granule g) bad).judgeTest (.granule g) v sc true).mapGoesOn := by
  have hu : s.modRepair (fun r => { r with tests := r.tests.erase (.granule g), asked := r.asked.filter (fun a => decide (a.2.2.1 ≠ PartId.granule g)) }) =
      s.testEnded (.granule g) := by
    simp [State.modRepair, State.testEnded, ha]
  rw [exec_selfTestVerdict, execSelfTestVerdict, inService_next hs]
  simp only [List.contains_iff_mem.2 hq, Bool.not_true, Bool.or_self, Bool.false_eq_true, ↓reduceIte, ha, List.find?_nil]
  rw [← hu]

theorem threshold_count (s : State) (q : PartId) : (s.count .sprTransients 0 1).threshold q = s.threshold q := by
  simp only [State.threshold, State.regBits, reg_count_other s .sprTransients .sprThresh 0 0 1 (by decide) (by decide) (by decide)]

theorem transients_setTransients_granule (r : Repair) (n : Nat) :
    (r.setTransients (.granule g) n).transients (.granule g) = min n 7 := by
  simp only [Repair.setTransients, Repair.transients, Repair.ent, dget_dset_same]

theorem retired_setTransients_granule (r : Repair) (n : Nat) :
    (r.setTransients (.granule g) n).retired (.granule g) = r.retired (.granule g) := by
  have h : ((r.setTransients (.granule g) n).ent (.granule g)).st = (r.ent (.granule g)).st := by
    simp only [Repair.setTransients, Repair.ent, dget_dset_same]
  simp only [Repair.retired, h]

theorem retired_setEnt_granule (r : Repair) (ws : List Nat) :
    ({ r.setEnt (.granule g) 2 0 with withdrawnFirn := ws } : Repair).retired (.granule g) = true := by
  simp only [Repair.setEnt, Repair.retired, Repair.ent, dget_dset_same]
  decide

theorem condemn_granule (h : s.repair.retired (.granule g) = false) : s.condemn (.granule g) =
    { s with repair := { s.repair.setEnt (.granule g) 2 0 with withdrawnFirn := g :: s.repair.withdrawnFirn } } := by
  simp only [State.condemn, State.retirePart, h, Bool.false_eq_true, ↓reduceIte, State.modRepair]

/-- The state after the transient of a part is counted (R851). -/
def State.transientNoted (s : State) (q : PartId) : State :=
  (s.modRepair (fun r => r.setTransients q (min 7 (s.repair.transients q + 1)))).count .sprTransients 0 1

theorem judgeTest_granule_pass (s : State) (sc : PageFault) : s.judgeTest (.granule g) .pass sc true =
    if s.threshold (.granule g) < min 7 (s.repair.transients (.granule g) + 1) then (s.transientNoted (.granule g)).condemn (.granule g)
    else s.transientNoted (.granule g) := by
  have hthr : (s.transientNoted (.granule g)).threshold (.granule g) = s.threshold (.granule g) := threshold_count _ _
  have htr : (s.transientNoted (.granule g)).repair.transients (.granule g) = min 7 (s.repair.transients (.granule g) + 1) := by
    refine (transients_setTransients_granule s.repair _).trans ?_
    omega
  rw [← hthr, ← htr]
  rfl

/-- A granule that passes and is not over its threshold is in service again (R851). -/
theorem judgeTest_granule_under (sc : PageFault) (h : min 7 (s.repair.transients (.granule g) + 1) ≤ s.threshold (.granule g)) :
    s.judgeTest (.granule g) .pass sc true = s.transientNoted (.granule g) := by
  rw [judgeTest_granule_pass, if_neg (by omega)]

/-- A granule that has passed too many tests is withdrawn (R851). -/
theorem judgeTest_granule_over (sc : PageFault) (h : s.threshold (.granule g) < min 7 (s.repair.transients (.granule g) + 1)) :
    s.judgeTest (.granule g) .pass sc true = (s.transientNoted (.granule g)).condemn (.granule g) := by
  rw [judgeTest_granule_pass, if_pos h]

end

section
variable {s : State} {g : Nat} (hs : s.serving) (hq : PartId.granule g ∈ s.repair.tests) (hm : s.repair.mapWait = none)
include hs hq hm

section
variable (ha : s.repair.asked = [])
include ha

/-- A test that could not be run changes nothing but the sectors that read uncorrectable, which are zeros (R849). -/
theorem granuleVerdict_none (sc : PageFault) (bad : List Nat) : exec (.selfTestVerdict (.granule g) .none sc bad) s =
    .next ((s.testEnded (.granule g)).zeroSectors (.granule g) bad) := by
  rw [granuleVerdict hs hq ha]
  refine congrArg Host.Outcome.next (mapGoesOn_of_no_map ?_)
  exact (zeroSectors_mapWait (s.testEnded (.granule g)) g bad).trans hm

/-- A granule that passes and stays under its threshold is in service again, its transient counted (R851). -/
theorem granuleVerdict_pass (sc : PageFault) (h : min 7 (s.repair.transients (.granule g) + 1) ≤ s.threshold (.granule g)) :
    exec (.selfTestVerdict (.granule g) .pass sc []) s = .next ((s.testEnded (.granule g)).transientNoted (.granule g)) := by
  rw [granuleVerdict hs hq ha]
  refine congrArg Host.Outcome.next ((congrArg State.mapGoesOn (judgeTest_granule_under (s := s.testEnded (.granule g)) sc h)).trans
    (mapGoesOn_of_no_map hm))

/-- A granule that has passed too many tests is withdrawn (R851). -/
theorem granuleVerdict_pass_over (sc : PageFault) (h : s.threshold (.granule g) < min 7 (s.repair.transients (.granule g) + 1))
    (hr : s.repair.retired (.granule g) = false) : ∃ t, exec (.selfTestVerdict (.granule g) .pass sc []) s = .next t ∧
      t.repair.retired (.granule g) = true ∧ g ∈ t.repair.withdrawnFirn ∧ t.mem = s.mem := by
  have hr' : ((s.testEnded (.granule g)).transientNoted (.granule g)).repair.retired (.granule g) = false :=
    (retired_setTransients_granule _ _).trans hr
  have hjudge := (judgeTest_granule_over (s := s.testEnded (.granule g)) sc h).trans (condemn_granule hr')
  rw [granuleVerdict hs hq ha]
  refine ⟨_, congrArg Host.Outcome.next ((congrArg State.mapGoesOn hjudge).trans (mapGoesOn_of_no_map hm)), ?_, ?_, rfl⟩
  · exact retired_setEnt_granule _ _
  · exact List.mem_cons_self

/-- A granule that fails its test is withdrawn (R845). -/
theorem granuleVerdict_fail (sc : PageFault) (hr : s.repair.retired (.granule g) = false) :
    exec (.selfTestVerdict (.granule g) .fail sc []) s = .next { (s.testEnded (.granule g)).count .sprTestsFailed 0 1 with
      repair := { (s.testEnded (.granule g)).repair.setEnt (.granule g) 2 0 with withdrawnFirn := g :: s.repair.withdrawnFirn } } := by
  have hr' : ((s.testEnded (.granule g)).count .sprTestsFailed 0 1).repair.retired (.granule g) = false := hr
  rw [granuleVerdict hs hq ha]
  change Host.Outcome.next (((s.testEnded (.granule g)).count .sprTestsFailed 0 1).condemn (.granule g)).mapGoesOn = _
  rw [condemn_granule hr']
  exact congrArg Host.Outcome.next (mapGoesOn_of_no_map hm)

end

/-- A test that was asked for counts nothing and completes its command (R870). -/
theorem granuleVerdict_asked (sc : PageFault) {p : Part} {c : Cmd} (hc : s.cmd? p c.order = some c)
    (ha : s.repair.asked = [(p, c.order, .granule g, false)]) : ∃ t, exec (.selfTestVerdict (.granule g) .pass sc []) s = .next t ∧
      Completed { s with repair := { s.repair with tests := s.repair.tests.erase (.granule g), asked := [] } } t p c stOk 0
        (1 + 2 * s.repair.transients (.granule g)) := by
  set u : State := { s with repair := { s.repair with tests := s.repair.tests.erase (.granule g), asked := [] } } with hu
  have hdone : Completed u (u.finishOrder p c.order stOk 0 (1 + 2 * s.repair.transients (.granule g))) p c stOk 0
      (1 + 2 * s.repair.transients (.granule g)) :=
    finishOrder_completes ⟨(setPart_part u p).symm, fun _ => rfl⟩ hc stOk 0 _
  have hmap : (u.finishOrder p c.order stOk 0 (1 + 2 * s.repair.transients (.granule g))).repair.mapWait = none :=
    (congrArg (fun v : State => v.repair.mapWait) hdone.1.eq).trans hm
  refine ⟨_, ?_, hdone⟩
  rw [exec_selfTestVerdict, execSelfTestVerdict, inService_next hs]
  simp only [List.contains_iff_mem.2 hq, Bool.not_true, Bool.or_self, Bool.false_eq_true, ↓reduceIte, ha]
  rw [show [(p, c.order, PartId.granule g, false)].find? (fun a => decide (a.2.2.1 = PartId.granule g)) = some (p, c.order, .granule g, false) by simp]
  have hmod : s.modRepair (fun r =>
      { r with tests := r.tests.erase (.granule g), asked := r.asked.filter (fun a => decide (a.2.2.1 ≠ PartId.granule g)) }) = u := by
    simp [State.modRepair, ha, hu]
  rw [hmod]
  exact congrArg Host.Outcome.next (mapGoesOn_of_no_map hmap)

end
/-! ### Page copies (R252, R253, R848) -/

/-- The slot that a page had before, if it had one. -/
def Repair.slotBefore (r : Repair) (h c n : Nat) : List (Nat × Nat × Nat × Nat × Nat) :=
  match r.slotOf h c n with
  | some y => [(h, c, n, y.1, y.2)]
  | none => []

/-- The only copy under way ends: the page lies in its slot, as repair `r` had it before. -/
def State.pageCopied (t : State) (r : Repair) (h c n : Nat) (x : PageCopy) : State :=
  { t with repair := { t.repair with
    copies := [], retests := r.slotBefore h c n ++ r.retests,
    remaps := (h, c, n, x.slotChan, x.slot) ::
      r.remaps.filter (fun y => !(decide (y.1 = h) && decide (y.2.1 = c) && decide (y.2.2.1 = n))) } }

/-- The bytes of a sector that no held write has set since become zeros (R253). -/
def State.sectorZeroed (s : State) (h c n : Nat) (x : PageCopy) (i : Nat) : State :=
  { s with mem := ((List.range 64).filter (fun j => !x.written.contains (64 * i + j))).foldl (fun m j =>
    m.write ((32 * h + c) * chanBytes + 65536 * n + 64 * i + j) 0) s.mem }

/-- A sector that read uncorrectable as its page was copied: it is zeroed, and counted unless it started the test (R252). -/
def State.sectorLost (s : State) (h c n : Nat) (x : PageCopy) (i : Nat) : State :=
  let t := s.sectorZeroed h c n x i
  if x.counted = some i then t
  else
    match t.dpaOfPlace ((32 * h + c) * chanBytes + 65536 * n + 64 * i) with
    | some d => t.recordUe d
    | none => t.count .memUeTotal 0 1

section
variable {s : State} {h c n : Nat} (hs : s.serving)
include hs

theorem pageCopyDone_of_no_copy (hno : ∀ x ∈ s.repair.copies, ¬ (x.stack = h ∧ x.chan = c ∧ x.page = n)) (bad : List Nat) :
    exec (.pageCopyDone h c n bad) s = .next s := by
  have hfind : s.repair.copies.find? (fun k => decide (k.stack = h) && decide (k.chan = c) && decide (k.page = n)) = none :=
    List.find?_eq_none.2 fun x hx => by simpa [and_assoc] using hno x hx
  rw [exec_pageCopyDone, execPageCopyDone, inService_next hs, hfind]

theorem pageCopyDone_of_copy {x : PageCopy} (hcopies : s.repair.copies = [x]) (h1 : x.stack = h) (h2 : x.chan = c) (h3 : x.page = n)
    (bad : List Nat) {t : State} (ht : t = ((bad.filter (· < 1024)).eraseDups).foldl (fun (s : State) i => s.sectorLost h c n x i) s)
    (hc : t.repair.copies = s.repair.copies) (hr : t.repair.retests = s.repair.retests) (hm : t.repair.remaps = s.repair.remaps) :
    exec (.pageCopyDone h c n bad) s = .next (t.pageCopied s.repair h c n x) := by
  have hfind : s.repair.copies.find? (fun k => decide (k.stack = h) && decide (k.chan = c) && decide (k.page = n)) = some x := by
    simp [hcopies, h1, h2, h3]
  have hslot : t.repair.slotBefore h c n = s.repair.slotBefore h c n := by simp only [Repair.slotBefore, Repair.slotOf, hm]
  rw [exec_pageCopyDone, execPageCopyDone, inService_next hs, hfind]
  change Host.Outcome.next (State.modRepair (List.foldl (fun (s : State) i => s.sectorLost h c n x i) s _)
    (fun r => { r with
      copies := r.copies.erase x, retests := r.slotBefore h c n ++ r.retests,
      remaps := (h, c, n, x.slotChan, x.slot) ::
        r.remaps.filter (fun y => !(decide (y.1 = h) && decide (y.2.1 = c) && decide (y.2.2.1 = n))) })) = _
  rw [← ht]
  simp only [State.modRepair, State.pageCopied, hslot, hc, hr, hm, hcopies, List.erase_cons_head]

end

theorem recordUe_repair (s : State) (d : Nat) : ∃ l k, (s.recordUe d).repair = { s.repair with ueLog := l, ueLast := k } := by
  unfold State.recordUe
  extract_lets p r src t u
  have hu : u.repair = t.repair := rfl
  have ht : ∃ l k, t.repair = { s.repair with ueLog := l, ueLast := k } := by
    unfold t
    split
    · exact ⟨_, _, rfl⟩
    · exact ⟨_, _, rfl⟩
  cases p with
  | none => exact ht
  | some p => exact ht

/-! ### Failures of channels, stacks and cores (R256 to R262, R844) -/

theorem setEnt_chanFailed (r : Repair) (q : PartId) (a b h c : Nat) : (r.setEnt q a b).chanFailed h c = r.chanFailed h c := rfl

theorem withdrawPage_chanFailed (r : Repair) (h c p h' c' : Nat) : (r.withdrawPage h c p).chanFailed h' c' = r.chanFailed h' c' := rfl

theorem chanFailed_foldl {α : Type} {f : Repair → α → Repair} {h c : Nat} (hf : ∀ r a, (f r a).chanFailed h c = r.chanFailed h c)
    (xs : List α) (r : Repair) : (xs.foldl f r).chanFailed h c = r.chanFailed h c :=
  List.foldlRecOn (motive := fun t : Repair => t.chanFailed h c = r.chanFailed h c) xs f rfl fun t ht a _ => (hf t a).trans ht

theorem moveCopies_chanFailed (r : Repair) (h c h' c' : Nat) : (r.moveCopies h c).chanFailed h' c' = r.chanFailed h' c' := by
  refine (chanFailed_foldl (fun r k => ?_) _ _).trans rfl
  split
  · rfl
  · cases r.slotFor h k.chan <;> rfl

theorem spareChannel_chanFailed (r : Repair) (h c : Nat) : (r.spareChannel h c).chanFailed h c = true := by
  unfold Repair.spareChannel
  extract_lets inArea others elsewhere gone own src r1 pages free r2 r3
  have h1 : r1.chanFailed h c = true := by simp [r1, Repair.chanFailed, dget?_dset_same]
  have h2 : r2.chanFailed h c = r1.chanFailed h c := rfl
  clear_value r1 r2
  have h3 : r3.chanFailed h c = r2.chanFailed h c := chanFailed_foldl (fun r x => by split <;> rfl) _ r2
  clear_value r3
  rw [chanFailed_foldl (fun r (x : Nat × Nat) => withdrawPage_chanFailed r h x.1 x.2 h c), h3, h2, h1]

theorem loseChannel_chanFailed (r : Repair) (h c : Nat) : (r.loseChannel h c).chanFailed h c = true := by
  unfold Repair.loseChannel
  extract_lets inArea src r1
  have h1 : r1.chanFailed h c = true := by simp [r1, Repair.chanFailed]
  clear_value r1
  rw [chanFailed_foldl (fun r (x : Nat × Nat × Nat × Nat × Nat) => withdrawPage_chanFailed r h x.2.1 x.2.2.1 h c), h1]

theorem failChannel_chanFailed (r : Repair) (h c : Nat) : (r.failChannel h c).chanFailed h c = true := by
  unfold Repair.failChannel
  split
  · assumption
  · rw [moveCopies_chanFailed]
    split
    · exact spareChannel_chanFailed r h c
    · exact loseChannel_chanFailed r h c

/-- The partitions have the HBM they had, and failed channels are as they were. -/
structure HbmKept (s t : State) : Prop where
  failures : FailuresKept s t
  map : ∀ p : Part, t.reg .memHbmMap p.val = s.reg .memHbmMap p.val

theorem HbmKept.refl (s : State) : HbmKept s s := ⟨FailuresKept.refl s, fun _ => rfl⟩

theorem HbmKept.trans {s t u : State} (h : HbmKept s t) (g : HbmKept t u) : HbmKept s u :=
  ⟨h.failures.trans g.failures, fun p => (g.map p).trans (h.map p)⟩

theorem HbmKept.foldl {α : Type} {f : State → α → State} (h : ∀ s a, HbmKept s (f s a)) (xs : List α) (s : State) : HbmKept s (xs.foldl f s) :=
  List.foldlRecOn (motive := HbmKept s) xs f (HbmKept.refl s) fun u hu a _ => hu.trans (h u a)

theorem HbmKept.owner {s t : State} (h : HbmKept s t) (i c : Nat) : t.ownerOfChannel i c = s.ownerOfChannel i c := by
  simp only [State.ownerOfChannel, State.hbmValid, State.groups, h.map]

theorem HbmKept.openPlaces (s : State) (lo len : Nat) : HbmKept s (s.openPlaces lo len) := ⟨FailuresKept.of_parts rfl rfl rfl, fun _ => rfl⟩

theorem HbmKept.loseContents (s : State) (h c : Nat) : HbmKept s (s.loseContents h c) := by
  refine HbmKept.trans ?_ (HbmKept.foldl (fun s x => HbmKept.openPlaces s _ _) _ _)
  split
  · exact HbmKept.openPlaces s _ _
  · exact HbmKept.foldl (fun s p => HbmKept.openPlaces s _ _) _ s

theorem EventsOnly.hbmKept {s t : State} (h : EventsOnly s t) : HbmKept s t :=
  ⟨h.failuresKept, fun p => h.2 .memHbmMap p.val (by omega) (by decide) (by decide)⟩

theorem HbmKept.raiseIf (s : State) (live : Bool) (code : W16) (subject arg : Nat) : HbmKept s (s.raiseIf live code subject arg) := by
  unfold State.raiseIf
  split
  · exact (EventsOnly.raisePackage s code subject arg).hbmKept
  · exact HbmKept.refl s

theorem HbmKept.finishOrder (s : State) (p : Part) (o : Nat) (st : W16) (info result : Nat) : HbmKept s (s.finishOrder p o st info result) := by
  refine ⟨FailuresKept.finishOrder s p o st info result, fun q => ?_⟩
  unfold State.finishOrder
  cases s.cmd? p o with
  | none => rfl
  | some c =>
    simp only [State.reg, (PartOnly.finish p s c st info result).regs]

theorem HbmKept.endPageTests (s : State) (h : Nat) : HbmKept s (s.endPageTests h) := by
  unfold State.endPageTests
  extract_lets r ended gone u
  have hu : HbmKept s u := ⟨⟨rfl, rfl, rfl, rfl, fun _ => id⟩, fun _ => rfl⟩
  exact hu.trans (HbmKept.foldl (fun s a => HbmKept.finishOrder s _ _ _ _ _) gone u)

section
variable {s : State} {h : Nat}

/-- A channel in service fails: it has failed, and nothing else that its owner's reset turns on has changed (R256, R261). -/
theorem channel_retired {c : Nat} (hr : s.repair.retired (.chan h c) = false) :
    (s.retirePart (.chan h c) true).repair.chanFailed h c = true ∧ (s.retirePart (.chan h c) true).sec = s.sec ∧
    (s.retirePart (.chan h c) true).ownerOfChannel h c = s.ownerOfChannel h c := by
  unfold State.retirePart
  simp only [hr, Bool.false_eq_true, ↓reduceIte]
  have hlose := HbmKept.loseContents s h c
  have hraise (t : State) (b : Bool) (sub : Nat) : HbmKept t (t.raiseIf b evChannelSpared sub) := HbmKept.raiseIf t b _ _ _
  refine ⟨((hraise _ _ _).failures.chanFailed h c).trans (failChannel_chanFailed _ h c), (hraise _ _ _).failures.sec.trans hlose.failures.sec,
    ((hraise _ _ _).owner h c).trans ?_⟩
  exact hlose.owner h c

theorem channelFailed_ignored (hs : s.serving) {c : Nat} (hno : 12 ≤ h ∨ 32 ≤ c ∨ s.repair.chanFailed h c = true) :
    exec (.channelFailed h c) s = .next s := by
  rw [exec_channelFailed, execChannelFailed, inService_next hs]
  split
  next hin =>
    simp only [Bool.and_eq_true, decide_eq_true_eq] at hin
    have hfailed : s.repair.chanFailed h c = true := by
      rcases hno with hno | hno | hno
      · omega
      · omega
      · exact hno
    rw [State.loseChannelLive, if_pos hfailed]
  next => rfl

theorem channelFailed_retires (hs : s.serving) {c : Nat} (h12 : h < 12) (h32 : c < 32) (hok : s.repair.chanFailed h c = false)
    (hr : s.repair.retired (.chan h c) = false) : ∃ t, exec (.channelFailed h c) s = .next t ∧ t.repair.chanFailed h c = true ∧
      t.sec = s.sec ∧ ∀ p, s.ownerOfChannel h c = some p → (t.part p).advance.reset = true := by
  obtain ⟨hfailed, hsec, howner⟩ := channel_retired hr
  have htests := HbmKept.endPageTests (s.retirePart (.chan h c) true) h
  refine ⟨s.loseChannelLive h c, ?_, ?_⟩
  · rw [exec_channelFailed, execChannelFailed, inService_next hs, if_pos (by simp [h12, h32])]
  · unfold State.loseChannelLive
    rw [if_neg (by simp [hok])]
    dsimp only
    rw [htests.owner, howner]
    cases s.ownerOfChannel h c with
    | none => exact ⟨(htests.failures.chanFailed h c).trans hfailed, htests.failures.sec.trans hsec, by simp⟩
    | some p =>
      obtain ⟨hkept, hreset⟩ := startPartReset_runs ((s.retirePart (.chan h c) true).endPageTests h) p false
      refine ⟨(hkept.chanFailed h c).trans ((htests.failures.chanFailed h c).trans hfailed), hkept.sec.trans (htests.failures.sec.trans hsec), ?_⟩
      rintro q ⟨⟩
      exact hreset

theorem failStack_lost (r : Repair) (hno : h ∉ r.lostStacks) : h ∈ (r.failStack h).lostStacks := by
  unfold Repair.failStack
  rw [if_neg (by simpa using hno)]
  refine List.foldlRecOn (motive := fun t : Repair => h ∈ t.lostStacks) _ _ List.mem_cons_self fun t ht c _ => ht

theorem stackFailed_ignored (hs : s.serving) (hno : 12 ≤ h ∨ h ∈ s.repair.lostStacks) : exec (.stackFailed h) s = .next s := by
  rw [exec_stackFailed, execStackFailed, inService_next hs, if_pos (by simpa using hno)]

theorem stackFailed_retires (hs : s.serving) (h12 : h < 12) (hok : h ∉ s.repair.lostStacks) : ∃ t, exec (.stackFailed h) s = .next t ∧
    h ∈ t.repair.lostStacks ∧ t.sec = s.sec ∧
    ∀ p, s.hbmValid p = true → (∃ g ∈ s.groups p, g / 4 = h) → (t.part p).advance.reset = true := by
  rw [exec_stackFailed, execStackFailed, inService_next hs, if_neg (by simp [hok, h12])]
  extract_lets owners u
  have hu : h ∈ u.repair.lostStacks ∧ u.sec = s.sec := by
    have htests := HbmKept.endPageTests ((s.openPlaces (32 * h * chanBytes) (32 * chanBytes)).modRepair (fun r => r.failStack h)) h
    exact ⟨by rw [htests.failures.lostStacks]; exact failStack_lost _ hok, htests.failures.sec⟩
  obtain ⟨hkept, hreset⟩ := startPartResets owners u
  refine ⟨_, rfl, by rw [hkept.lostStacks]; exact hu.1, hkept.sec.trans hu.2, fun p hv hg => hreset p ?_⟩
  simpa [owners, allParts, hv] using hg

/-- A core that is retired or under test, or while a map waits, is not tested anew (R845, R866). -/
theorem controlCoreFault_ignored (hs : s.serving) {k : Fin 8}
    (hno : s.repair.retired (.core k.val) = true ∨ PartId.core k.val ∈ s.repair.tests ∨ s.repair.mapWait.isSome = true) :
    exec (.controlCoreFault k) s = .next s := by
  rw [exec_controlCoreFault, execControlCoreFault, inService_next hs]
  unfold State.startTest
  dsimp only
  split
  · rfl
  next hgo =>
    have hretired : s.repair.retired (.core k.val) = true := by
      rcases hno with hno | hno | hno
      · exact hno
      · simp [hno] at hgo
      · simp [hno] at hgo
    rw [if_pos hretired]

theorem controlCoreFault_tests (hs : s.serving) {k : Fin 8} (hr : s.repair.retired (.core k.val) = false)
    (ht : PartId.core k.val ∉ s.repair.tests) (hm : s.repair.mapWait = none) : exec (.controlCoreFault k) s =
      .next ((s.modRepair (fun r => r.moveCore k.val)).addTest (.core k.val)) := by
  rw [exec_controlCoreFault, execControlCoreFault, inService_next hs]
  unfold State.startTest
  dsimp only
  rw [if_neg (by simp [ht, hm]), if_neg (by simp [hr])]

end

/-- Settles O60: each verdict and each failure, case by case; a partition reset, once started, outlasts what follows it. -/
theorem verdictsAndFailuresRetireParts : Obligations.VerdictsAndFailuresRetireParts := by
  unfold Obligations.VerdictsAndFailuresRetireParts
  intro s hs
  refine ⟨fun q v sc bad hq => selfTestVerdict_of_not_tested hs hq v sc bad, fun g sc hq hm ha => ?_,
    fun g sc p c hq hm hc _ ha => granuleVerdict_asked hs hq hm sc hc ha, fun h c n bad => ⟨fun hno => pageCopyDone_of_no_copy hs hno bad, ?_⟩,
    fun h c => ⟨channelFailed_ignored hs, channelFailed_retires hs⟩, fun h => ⟨stackFailed_ignored hs, stackFailed_retires hs⟩,
    fun k => ⟨controlCoreFault_ignored hs, controlCoreFault_tests hs⟩⟩
  · exact ⟨granuleVerdict_none hs hq hm ha sc [], granuleVerdict_none hs hq hm ha sc, granuleVerdict_pass hs hq hm ha sc,
      granuleVerdict_pass_over hs hq hm ha sc, granuleVerdict_fail hs hq hm ha sc⟩
  · intro x hcopies h1 h2 h3
    refine ⟨?_, fun i hi hcounted => ?_, fun i d hi hcounted hd => ?_⟩
    · exact pageCopyDone_of_copy hs hcopies h1 h2 h3 [] rfl rfl rfl rfl
    · have hlost : s.sectorLost h c n x i = s.sectorZeroed h c n x i := if_pos hcounted
      exact pageCopyDone_of_copy hs hcopies h1 h2 h3 [i] (t := s.sectorZeroed h c n x i) (by simp [hi, List.eraseDups_cons, hlost]) rfl rfl rfl
    · have hlost : s.sectorLost h c n x i = (s.sectorZeroed h c n x i).recordUe d := by
        unfold State.sectorLost
        rw [if_neg hcounted, show (s.sectorZeroed h c n x i).dpaOfPlace _ = some d from hd]
      obtain ⟨l, k, hrep⟩ := recordUe_repair (s.sectorZeroed h c n x i) d
      exact pageCopyDone_of_copy hs hcopies h1 h2 h3 [i] (t := (s.sectorZeroed h c n x i).recordUe d) (by simp [hi, List.eraseDups_cons, hlost])
        (by rw [hrep]; rfl) (by rw [hrep]; rfl) (by rw [hrep]; rfl)

end Sys2Proof.Machine
end

section
/-! SUPPORT. The collective engine and withdrawn destinations (R289, R477 to R483, R697, R700). -/

namespace Sys2Proof.Machine

/-! ### What an unreadable byte leaves unchanged -/

theorem self_of_reg {s t : State} (h : t.reg .uagNode 0 = s.reg .uagNode 0) : t.self = s.self := by
  simp only [State.self, State.regBits, h]

/-- A count leaves this node's number. -/
theorem self_count (s : State) (n : RegName) (i k : Nat) (hi : i < 65536) (hn : n ≠ .uagNode) : (s.count n i k).self = s.self :=
  self_of_reg (reg_count_other s n .uagNode i 0 k hi (by decide) fun h => hn h.1.symm)

/-- The record of an unreadable byte and the test it starts: memory, partitions, the fabric and this node's number are as they were. -/
structure UeNoted (s t : State) : Prop where
  media : MediaOnly s t
  mem : t.mem = s.mem
  self : t.self = s.self

theorem UeNoted.trans {s t u : State} (h : UeNoted s t) (g : UeNoted t u) : UeNoted s u :=
  ⟨h.media.trans g.media, g.mem.trans h.mem, g.self.trans h.self⟩

theorem UeNoted.refl (s : State) : UeNoted s s := ⟨rfl, rfl, rfl⟩

theorem UeNoted.count (s : State) {n : RegName} {i : Nat} (k : Nat) (hi : i < 65536) (hn : n ≠ .uagNode) : UeNoted s (s.count n i k) :=
  ⟨rfl, rfl, self_count s n i k hi hn⟩

theorem UeNoted.ite {s t u : State} (c : Prop) [Decidable c] (ht : UeNoted s t) (hu : UeNoted s u) : UeNoted s (if c then t else u) := by
  split
  · exact ht
  · exact hu

theorem UeNoted.recordUe (s : State) (a : Nat) : UeNoted s (s.recordUe a) := by
  unfold State.recordUe
  extract_lets p r src t u
  have ht : UeNoted s t := UeNoted.ite _ (UeNoted.refl s) ⟨rfl, rfl, rfl⟩
  have hu : UeNoted t u := UeNoted.count t 1 (by decide) (by decide)
  cases p with
  | none => exact ht.trans hu
  | some p => exact (ht.trans hu).trans (UeNoted.count u 1 (by omega) (by decide))

theorem UeNoted.addTest (s : State) (q : PartId) : UeNoted s (s.addTest q) :=
  UeNoted.trans (t := s.modRepair (fun r => { r with tests := r.tests ++ [q] })) ⟨rfl, rfl, rfl⟩ (UeNoted.count _ 1 (by decide) (by decide))

theorem UeNoted.startTest_page (s : State) (h c p : Nat) (n : Option Nat) : UeNoted s (s.startTest (.page h c p) n) := by
  refine UeNoted.ite _ (UeNoted.refl s) (UeNoted.ite _ (UeNoted.refl s) ?_)
  cases s.repair.slotFor h c with
  | none => exact ⟨rfl, rfl, rfl⟩
  | some x =>
    exact UeNoted.trans (t := s.modRepair (fun r => { r with copies := r.copies ++ [⟨h, c, p, x.1, x.2, true, n, []⟩] })) ⟨rfl, rfl, rfl⟩
      (UeNoted.addTest _ _)

theorem UeNoted.startTest_granule (s : State) (g : Nat) (n : Option Nat) : UeNoted s (s.startTest (.granule g) n) :=
  UeNoted.ite _ (UeNoted.refl s) (UeNoted.ite _ (UeNoted.refl s) (UeNoted.addTest s _))

theorem UeNoted.noteUnreadable (s : State) (a : Nat) : UeNoted s (s.noteUnreadable a) := by
  refine UeNoted.ite _ (UeNoted.recordUe s a) ((UeNoted.recordUe s a).trans ?_)
  unfold State.uncorrectable State.testOfDpa
  cases (s.recordUe a).place a with
  | none => exact UeNoted.refl _
  | some x => exact UeNoted.ite _ (UeNoted.refl _) (UeNoted.ite _ (UeNoted.startTest_page _ _ _ _ _) (UeNoted.startTest_granule _ _ _))

/-! ### A failed step -/

theorem PartOnly.foldl {p : Part} {α : Type} {f : State → α → State} (hf : ∀ s a, PartOnly p s (f s a)) (l : List α) (s : State) :
    PartOnly p s (l.foldl f s) :=
  List.foldlRecOn (motive := PartOnly p s) l f (PartOnly.refl p s) fun u hu a _ => hu.trans (hf u a)

theorem PartOnly.fabric {p : Part} {s t : State} (h : PartOnly p s t) : t.fabric = s.fabric := (congrArg State.fabric h.eq :)
theorem PartOnly.mem {p : Part} {s t : State} (h : PartOnly p s t) : t.mem = s.mem := (congrArg State.mem h.eq :)

theorem PartOnly.self {p : Part} {s t : State} (h : PartOnly p s t) : t.self = s.self :=
  self_of_reg (by simp only [State.reg, h.regs])

theorem PartOnly.noteRecipe (p : Part) (s : State) (t : Task) : PartOnly p s (s.noteRecipe p t) := by
  unfold State.noteRecipe
  split
  · exact PartOnly.refl p s
  · exact PartOnly.modPart p s _

theorem PartOnly.withdrawTasks (p : Part) (s : State) (which : Task → Bool) : PartOnly p s (s.withdrawTasks p which) :=
  (PartOnly.modPart p s _).trans (PartOnly.foldl (fun s t => PartOnly.noteRecipe p s t) _ _)

theorem PartOnly.failStep (p : Part) (s : State) : PartOnly p s (s.failStep p) := by
  unfold State.failStep
  dsimp only
  split
  · exact (PartOnly.withdrawTasks p s _).trans (PartOnly.modPart p _ _)
  · exact PartOnly.refl p s

/-- A step that runs and is not yet checked fails (R283). -/
theorem failStep_failed {s : State} {p : Part} (hrun : (s.part p).step.running = true) (hcheck : (s.part p).step.checked = false) :
    ((s.failStep p).part p).step.failed = true := by
  unfold State.failStep
  simp only [hrun, hcheck, Bool.not_false, Bool.and_self, if_true, part_modPart_same]

/-! ### Collectives that leave their slot -/

/-- A collective under way is as it was, or ended by its ID. -/
theorem coll?_eq_none {s : State} {id : W16} : s.coll? id = none ↔ ∀ x ∈ s.fabric.colls, x.plan.id ≠ id := by
  simp [State.coll?, List.find?_eq_none]

theorem coll?_id {s : State} {id : W16} {x : Coll} (h : s.coll? id = some x) : x.plan.id = id := by
  simpa using List.find?_some h

/-- No collective is complete and none waits: the engine is settled. -/
def State.collsIdle (s : State) : Prop := (∀ x ∈ s.fabric.colls, x.complete s.self = false) ∧ s.fabric.waiting = []

theorem settleColls_idle {s : State} (h : s.collsIdle) (n : Nat) : State.settleColls n s = s := by
  cases n with
  | zero => rfl
  | succ n =>
    have hnone : s.fabric.colls.find? (fun x => x.complete s.self) = none := by
      simpa [List.find?_eq_none] using h.1
    simp only [State.settleColls, hnone, h.2, List.find?_nil]

theorem collsGoOn_idle {s : State} (h : s.collsIdle) : s.collsGoOn = s := settleColls_idle h _

/-- Where no slot is free for the collective that waits, and none is complete, nothing starts (R482). -/
theorem collsGoOn_full {s : State} {c : CollPlan} (hc : ∀ x ∈ s.fabric.colls, x.complete s.self = false) (hw : s.fabric.waiting = [c])
    (hfull : collSlots c.tc ≤ (s.fabric.colls.filter (fun x => decide (x.plan.tc = c.tc))).length) : s.collsGoOn = s := by
  have hnone : s.fabric.colls.find? (fun x => x.complete s.self) = none := by
    simpa [List.find?_eq_none] using hc
  have hwait : [c].find? (fun c => decide ((s.fabric.colls.filter (fun x => decide (x.plan.tc = c.tc))).length < collSlots c.tc)) = none := by
    simpa [List.find?_eq_none] using hfull
  unfold State.collsGoOn
  simp only [State.settleColls, hnone, hw, hwait]

/-- Where a slot is free the collective that waits starts, and the engine is settled if it is then (R482). -/
theorem collsGoOn_opens {s t : State} {c : CollPlan} (hc : ∀ x ∈ s.fabric.colls, x.complete s.self = false) (hw : s.fabric.waiting = [c])
    (hroom : (s.fabric.colls.filter (fun x => decide (x.plan.tc = c.tc))).length < collSlots c.tc)
    (ht : (s.modFabric (fun f => { f with waiting := [] })).openColl c = t) (hidle : t.collsIdle) : s.collsGoOn = t := by
  have hnone : s.fabric.colls.find? (fun x => x.complete s.self) = none := by
    simpa [List.find?_eq_none] using hc
  have hwait : [c].find? (fun c => decide ((s.fabric.colls.filter (fun x => decide (x.plan.tc = c.tc))).length < collSlots c.tc)) = some c := by
    simpa using hroom
  have herase : (s.modFabric (fun f => { f with waiting := f.waiting.erase c })).openColl c = t := by
    rw [← ht]
    simp [State.modFabric, hw]
  unfold State.collsGoOn
  rw [State.settleColls]
  simp only [hnone, hw, hwait, herase]
  exact settleColls_idle hidle _

/-- An abort leaves the ports aside only the collective that ends (R483). -/
structure Aborted (s t : State) (x : Coll) (st : W16) : Prop where
  fabricOnly : FabricOnly s t
  colls : t.fabric.colls = s.fabric.colls.filter (fun c => decide (c.plan.id ≠ x.plan.id))
  finished : t.fabric.finished = (x.plan.id, st, x.result) :: s.fabric.finished
  waiting : t.fabric.waiting = s.fabric.waiting

theorem abortOne_aborted (s : State) (x : Coll) (st : W16) : Aborted s (s.abortOne x st) x st := by
  unfold State.abortOne
  extract_lets c
  have hsent := PortsOnly.foldl (fun (s : State) n => PortsOnly.sendPlain s tyColl 0 n c.part 0 0 (BitVec.ofNat 32 c.id.toNat)
    (Config.messageBody [c.id.toNat])) (c.members.filter (fun n => decide (n ≠ s.self))) s
  generalize (c.members.filter (fun n => decide (n ≠ s.self))).foldl (fun (s : State) n => s.sendPlain tyColl 0 n c.part 0 0
    (BitVec.ofNat 32 c.id.toNat) (Config.messageBody [c.id.toNat])) s = u at hsent ⊢
  have hf := hsent.fabric
  refine ⟨hsent.fabricOnly.trans rfl, ?_, ?_, ?_⟩
  · change u.fabric.colls.filter _ = _
    rw [hf]
  · change (x.plan.id, st, x.result) :: u.fabric.finished = _
    rw [hf]
  · change u.fabric.waiting = _
    rw [hf]

theorem FabricOnly.parts {s t : State} (h : FabricOnly s t) : t.parts = s.parts := (congrArg State.parts h :)
theorem FabricOnly.mem {s t : State} (h : FabricOnly s t) : t.mem = s.mem := (congrArg State.mem h :)
theorem FabricOnly.sec {s t : State} (h : FabricOnly s t) : t.sec = s.sec := (congrArg State.sec h :)

/-! ### COLLECTIVE_START (R482, R483) -/

theorem exec_collectiveStart (c : CollPlan) (ue : Option Nat) (s : State) : exec (.collectiveStart c ue) s = execCollectiveStart c ue s := rfl

theorem castPlan_own {s : State} {c : CollPlan} (h : c.weights = none) : s.castPlan c = some c := by
  simp only [State.castPlan, h]

/-- A collective waits for a slot, and its ID is ended no more. -/
def State.collQueued (s : State) (c : CollPlan) : State :=
  { s with fabric := { s.fabric with waiting := [c], finished := s.fabric.finished.filter (fun x => decide (x.1 ≠ c.id)) } }

section
variable {s : State} {c plan : CollPlan} (hs : s.serving)
include hs

theorem collectiveStart_of_no_plan (h : s.castPlan c = none) (ue : Option Nat) : exec (.collectiveStart c ue) s = .next s := by
  rw [exec_collectiveStart, execCollectiveStart, inService_next hs, h]

theorem collectiveStart_again (h : s.castPlan c = some plan)
    (hdone : (s.coll? plan.id).isSome = true ∨ ∃ w ∈ s.fabric.waiting, w.id = plan.id) (ue : Option Nat) :
    exec (.collectiveStart c ue) s = .next s := by
  rw [exec_collectiveStart, execCollectiveStart, inService_next hs, h]
  dsimp only
  rw [if_pos (by simpa using hdone)]

theorem collectiveStart_queued (h : s.castPlan c = some plan) (hnone : s.coll? plan.id = none) (hw : s.fabric.waiting = []) :
    exec (.collectiveStart c none) s = .next (s.collQueued plan).collsGoOn := by
  rw [exec_collectiveStart, execCollectiveStart, inService_next hs, h]
  dsimp only
  rw [if_neg (by simp [hnone, hw])]
  simp only [Option.filter_none, State.collQueued, State.modFabric, hw, List.nil_append]

theorem collectiveStart_unread (h : s.castPlan c = some plan) (hnone : s.coll? plan.id = none) (hw : s.fabric.waiting = []) {d : Nat}
    (hd : (s.extentOf d).isSome = true) : exec (.collectiveStart c (some d)) s =
      .next (((((s.collQueued plan).modFabric (fun f => { f with waiting := [] })).noteUnreadable d).abortOne { plan := plan }
        stUnrecoverable).failStep plan.part).collsGoOn := by
  rw [exec_collectiveStart, execCollectiveStart, inService_next hs, h]
  dsimp only
  rw [if_neg (by simp [hnone, hw])]
  simp only [Option.filter_some, hd, if_true, State.collQueued, State.modFabric, hw, List.nil_append, List.erase_cons_head]

end

/-- An operation fails on an unreadable byte: its collective ends UNRECOVERABLE, and the step under way fails (R289). -/
theorem collUnread_fails {s : State} {x : Coll} {p : Part} (hw : s.fabric.waiting = [])
    (hc : ∀ y ∈ s.fabric.colls, y.plan.id ≠ x.plan.id → y.complete s.self = false) (d : Nat) {t : State}
    (ht : t = (((s.noteUnreadable d).abortOne x stUnrecoverable).failStep p).collsGoOn) :
    t.fabric.colls = s.fabric.colls.filter (fun y => decide (y.plan.id ≠ x.plan.id)) ∧ t.fabric.waiting = [] ∧ t.mem = s.mem ∧
    t.fabric.finished = (x.plan.id, stUnrecoverable, x.result) :: s.fabric.finished ∧
    ((s.part p).step.running = true → (s.part p).step.checked = false → (t.part p).step.failed = true) := by
  have hnoted := UeNoted.noteUnreadable s d
  have habort := abortOne_aborted (s.noteUnreadable d) x stUnrecoverable
  have hfail := PartOnly.failStep p ((s.noteUnreadable d).abortOne x stUnrecoverable)
  set v := ((s.noteUnreadable d).abortOne x stUnrecoverable).failStep p with hv
  have hcolls : v.fabric.colls = s.fabric.colls.filter (fun y => decide (y.plan.id ≠ x.plan.id)) := by
    rw [hfail.fabric, habort.colls, hnoted.media.fabric]
  have hwait : v.fabric.waiting = [] := by rw [hfail.fabric, habort.waiting, hnoted.media.fabric, hw]
  have hself : v.self = s.self := hfail.self.trans (habort.fabricOnly.self.trans hnoted.self)
  have hidle : v.collsIdle := by
    refine ⟨fun y hy => ?_, hwait⟩
    rw [hcolls, List.mem_filter] at hy
    rw [hself]
    exact hc y hy.1 (by simpa using hy.2)
  rw [ht, collsGoOn_idle hidle]
  refine ⟨hcolls, hwait, ?_, ?_, fun hrun hcheck => ?_⟩
  · rw [hfail.mem, habort.fabricOnly.mem, hnoted.mem]
  · rw [hfail.fabric, habort.finished, hnoted.media.fabric]
  · have hpart : ((s.noteUnreadable d).abortOne x stUnrecoverable).part p = s.part p :=
      (habort.fabricOnly.part p).trans (hnoted.media.part p)
    exact failStep_failed (by rw [hpart]; exact hrun) (by rw [hpart]; exact hcheck)

/-- A collective ends, aborted, where no other is complete and none waits (R483). -/
theorem collAbort_ends {s : State} {x : Coll} (hw : s.fabric.waiting = [])
    (hc : ∀ y ∈ s.fabric.colls, y.plan.id ≠ x.plan.id → y.complete s.self = false) :
    (s.abortOne x stCollAborted).collsIdle := by
  have habort := abortOne_aborted s x stCollAborted
  refine ⟨fun y hy => ?_, habort.waiting.trans hw⟩
  rw [habort.colls, List.mem_filter] at hy
  rw [habort.fabricOnly.self]
  exact hc y hy.1 (by simpa using hy.2)

theorem filter_id_of_none {s : State} {id : W16} (h : s.coll? id = none) :
    s.fabric.colls.filter (fun y => decide (y.plan.id ≠ id)) = s.fabric.colls :=
  List.filter_eq_self.2 fun y hy => by simpa using coll?_eq_none.1 h y hy

theorem coll?_filter_id {s t : State} {id : W16} (h : t.fabric.colls = s.fabric.colls.filter (fun y => decide (y.plan.id ≠ id))) :
    t.coll? id = none := by
  rw [coll?_eq_none, h]
  intro x hx
  simpa using (List.mem_filter.1 hx).2

theorem openColl_fenced {s : State} {c : CollPlan} (h : ∃ n ∈ c.members, n ≠ s.self ∧ n ∈ s.fabric.fenced) :
    s.openColl c = (s.modFabric (fun f => { f with colls := f.colls ++ [{ plan := c }] })).abortOne { plan := c } stCollAborted := by
  unfold State.openColl
  dsimp only
  refine if_pos ?_
  obtain ⟨n, hn, hself, hfenced⟩ := h
  exact List.any_eq_true.2 ⟨n, hn, by
    simp only [Bool.and_eq_true, decide_eq_true_eq, List.contains_iff_mem]
    exact ⟨hself, hfenced⟩⟩

/-- A broadcast from another member starts with nothing of its own to send, and nothing that came early. -/
theorem openColl_receiver {s : State} {c : CollPlan} (hok : ∀ n ∈ c.members, n ≠ s.self → n ∉ s.fabric.fenced) (hop : c.op = .broadcast)
    (hp : c.parent.isSome = true) (he : ∀ e ∈ s.fabric.early, e.1.arg.toNat % 65536 ≠ c.id.toNat) :
    s.openColl c = s.modFabric (fun f => { f with colls := f.colls ++ [{ plan := c }] }) := by
  have hfree : (c.members.any (fun n => decide (n ≠ (s.modFabric (fun f => { f with colls := f.colls ++ [{ plan := c }] })).self) &&
      (s.modFabric (fun f => { f with colls := f.colls ++ [{ plan := c }] })).fabric.fenced.contains n)) = false := by
    rw [List.any_eq_false]
    intro n hn
    simp only [Bool.and_eq_true, decide_eq_true_eq, List.contains_iff_mem, not_and]
    exact hok n hn
  have hearly : s.fabric.early.filter (fun e => decide (e.1.arg.toNat % 65536 = c.id.toNat)) = [] :=
    List.filter_eq_nil_iff.2 fun e h => by simpa using he e h
  have hroot : c.parent.isNone = false := by simpa using hp
  unfold State.openColl
  dsimp only
  rw [if_neg (by rw [hfree]; decide), hop]
  simp only [hroot, Bool.false_eq_true, if_false, State.modFabric, hearly, List.foldl_nil]

theorem complete_receiver {c : CollPlan} (hw : c.weights = none) (hop : c.op = .broadcast) (hc : 1 ≤ c.chunks) (self : Node) :
    ({ plan := c } : Coll).complete self = false := by
  simp only [Coll.complete, hw, hop, List.length_nil, Bool.not_false, Bool.true_and, decide_eq_false_iff_not]
  omega

section
variable {s : State} {c : CollPlan} (hs : s.serving) (hown : c.weights = none) (hnone : s.coll? c.id = none) (hw : s.fabric.waiting = [])
  (hc : ∀ x ∈ s.fabric.colls, x.complete s.self = false)
include hs hown hnone hw hc

/-- What a member contributes cannot be read: its collective never takes a slot (R289). -/
theorem collectiveStart_fails {d : Nat} (hd : (s.extentOf d).isSome = true) :
    ∃ t, exec (.collectiveStart c (some d)) s = .next t ∧ t.fabric.colls = s.fabric.colls ∧
      t.fabric.waiting = [] ∧ t.mem = s.mem ∧ (∃ v, (c.id, stUnrecoverable, v) ∈ t.fabric.finished) ∧
      ((s.part c.part).step.running = true → (s.part c.part).step.checked = false → (t.part c.part).step.failed = true) := by
  obtain ⟨hcolls, hwait, hmem, hfin, hstep⟩ := collUnread_fails (x := { plan := c }) (p := c.part)
    (s := (s.collQueued c).modFabric (fun f => { f with waiting := [] })) rfl (fun y hy _ => hc y hy) d rfl
  refine ⟨_, collectiveStart_unread hs (castPlan_own hown) hnone hw hd, hcolls.trans (filter_id_of_none hnone), hwait, hmem, ⟨[], ?_⟩, hstep⟩
  rw [hfin]
  exact List.mem_cons_self

theorem collectiveStart_waits (hfull : collSlots c.tc ≤ (s.fabric.colls.filter (fun x => decide (x.plan.tc = c.tc))).length) :
    exec (.collectiveStart c none) s = .next (s.collQueued c) := by
  rw [collectiveStart_queued hs (castPlan_own hown) hnone hw]
  exact congrArg Host.Outcome.next (collsGoOn_full (s := s.collQueued c) hc rfl hfull)

/-- A collective with a fenced member ends as it takes its slot (R483). -/
theorem collectiveStart_aborts (hroom : (s.fabric.colls.filter (fun x => decide (x.plan.tc = c.tc))).length < collSlots c.tc)
    (hfenced : ∃ n ∈ c.members, n ≠ s.self ∧ n ∈ s.fabric.fenced) : ∃ t, exec (.collectiveStart c none) s = .next t ∧
      t.fabric.finished = (c.id, stCollAborted, []) :: s.fabric.finished.filter (fun x => decide (x.1 ≠ c.id)) ∧
      t.fabric.colls = s.fabric.colls ∧ t.fabric.waiting = [] ∧ t.parts = s.parts ∧ t.mem = s.mem := by
  set u := (s.collQueued c).modFabric (fun f => { f with waiting := [] }) with hu
  set v := u.modFabric (fun f => { f with colls := f.colls ++ [{ plan := c }] }) with hv
  have hopen : u.openColl c = v.abortOne { plan := c } stCollAborted := openColl_fenced hfenced
  have habort := abortOne_aborted v { plan := c } stCollAborted
  have hcolls : (v.abortOne { plan := c } stCollAborted).fabric.colls = s.fabric.colls := by
    rw [habort.colls]
    refine (List.filter_append ..).trans ?_
    rw [filter_id_of_none (s := u) hnone]
    simp [hu, State.collQueued, State.modFabric]
  have hidle : (v.abortOne { plan := c } stCollAborted).collsIdle := by
    refine ⟨fun y hy => ?_, habort.waiting⟩
    rw [hcolls] at hy
    rw [habort.fabricOnly.self]
    exact hc y hy
  refine ⟨v.abortOne { plan := c } stCollAborted, ?_, habort.finished, hcolls, habort.waiting, habort.fabricOnly.parts, habort.fabricOnly.mem⟩
  rw [collectiveStart_queued hs (castPlan_own hown) hnone hw, collsGoOn_opens (s := s.collQueued c) hc rfl hroom hopen hidle]

theorem collectiveStart_receives (hroom : (s.fabric.colls.filter (fun x => decide (x.plan.tc = c.tc))).length < collSlots c.tc)
    (hok : ∀ n ∈ c.members, n ≠ s.self → n ∉ s.fabric.fenced) (hop : c.op = .broadcast) (hp : c.parent.isSome = true) (hch : 1 ≤ c.chunks)
    (he : ∀ e ∈ s.fabric.early, e.1.arg.toNat % 65536 ≠ c.id.toNat) : exec (.collectiveStart c none) s =
      .next { s with fabric := { s.fabric with
        colls := s.fabric.colls ++ [{ plan := c }], waiting := [], finished := s.fabric.finished.filter (fun x => decide (x.1 ≠ c.id)) } } := by
  have hopen : ((s.collQueued c).modFabric (fun f => { f with waiting := [] })).openColl c = _ := openColl_receiver hok hop hp he
  rw [collectiveStart_queued hs (castPlan_own hown) hnone hw]
  refine congrArg Host.Outcome.next (collsGoOn_opens (s := s.collQueued c) hc rfl hroom hopen ⟨fun y hy => ?_, rfl⟩)
  rcases List.mem_append.1 hy with hy | hy
  · exact hc y hy
  · rw [List.mem_singleton.1 hy]
    exact complete_receiver hown hop hch _

end

/-! ### A chunk of a broadcast of weights (R697, R700) -/

/-- A load that broadcasts. -/
def Load.casts (l : Load) : Bool :=
  match l.path with
  | .broadcast _ => true
  | _ => false

/-- The receivers of a chunk, and whether each needs it. -/
def Load.castReceivers (l : Load) (h : Head) (chunk : Nat) : List (Node × Bool) :=
  (if l.self then l.receivers.dropLast else l.receivers).map (fun r => (r.1, h.inShard r.2.2.2.1 chunk))

section
variable {s : State} {c : CollPlan} {w : WeightsCast} {l : Load} {h : Head} (hc : c.weights = some w) (hme : w.me = 0)
  (hl : (s.part c.part).loads.find? (fun l => decide (l.cmd = w.order) && l.casts) = some l)
  (hh : (dget (s.part c.part).slots l.slot {}).head = some h)
include hc hme hl hh

theorem castPlan_cast : s.castPlan c =
    if l.todo.contains w.chunk && !(s.inFlight c.part w.order).contains w.chunk && decide ((s.inFlight c.part w.order).length < 4) then
      some (shapedPlan { c with weights := some { w with root := s.self, receivers := l.castReceivers h w.chunk } })
    else none := by
  unfold State.castPlan
  simp only [hc]
  rw [if_neg (by simp [hme])]
  change (match (s.part c.part).loads.find? (fun l => decide (l.cmd = w.order) && l.casts) with | none => none | some l => _) = _
  rw [hl]
  dsimp only
  rw [hh]
  rfl

theorem castPlan_not_due (hdue : ¬(w.chunk ∈ l.todo ∧ w.chunk ∉ s.inFlight c.part w.order ∧ (s.inFlight c.part w.order).length < 4)) :
    s.castPlan c = none := by
  rw [castPlan_cast hc hme hl hh, if_neg]
  simpa [and_assoc] using hdue

theorem castPlan_due (hdue : w.chunk ∈ l.todo ∧ w.chunk ∉ s.inFlight c.part w.order ∧ (s.inFlight c.part w.order).length < 4) :
    s.castPlan c = some (shapedPlan { c with weights := some { w with root := s.self, receivers := l.castReceivers h w.chunk } }) := by
  rw [castPlan_cast hc hme hl hh, if_pos]
  simpa [and_assoc] using hdue

end

/-! ### COLL (R479 to R483) -/

theorem exec_coll (u : PortNo) (k : Packet) (kind : CollKind) (ue : Option Nat) (s : State) : exec (.coll u k kind ue) s = execColl u k kind ue s := rfl

/-- A chunk arrives of a broadcast that this member has nothing of yet. -/
theorem collResult_broadcast (s : State) {c : CollPlan} (hop : c.op = .broadcast) (chunk : Nat) (vs : List W32) :
    PortsOnly (s.modColl c.id (fun x => { x with result := dset x.result chunk vs })) (s.collResult c chunk vs) := by
  unfold State.collResult
  simp only [hop]
  exact PortsOnly.foldl (fun s n => PortsOnly.sendPlain s ..) _ _

theorem coll?_modColl {s : State} {id : W16} {x : Coll} (h : s.coll? id = some x) {f : Coll → Coll} (hf : ∀ y, (f y).plan = y.plan) :
    (s.modColl id f).coll? id = some (f x) := by
  simp only [State.coll?, State.modColl, State.modFabric, List.find?_map]
  have hcomp : ((fun c : Coll => decide (c.plan.id = id)) ∘ fun c => if c.plan.id = id then f c else c) = fun c => decide (c.plan.id = id) := by
    funext y
    simp only [Function.comp]
    split
    next hy => rw [hf]
    next => rfl
  rw [hcomp, show s.fabric.colls.find? (fun c => decide (c.plan.id = id)) = some x from h]
  simp only [Option.map_some, coll?_id h, if_true]

section
variable {s : State} {u : PortNo} {k : Packet} {kind : CollKind} {ue : Option Nat} (hs : s.serving) (hh : s.hears k) (ht : k.typ = tyColl)
include hs hh ht

theorem coll_hears : exec (.coll u k kind ue) s = .next (
    match (s.received u k).coll? (k.arg.setWidth 16) with
    | none =>
      if (s.received u k).fabric.finished.any (fun f => decide (f.1 = k.arg.setWidth 16)) then s.received u k
      else (s.received u k).modFabric (fun f => { f with early := f.early ++ [(k, kind)] })
    | some x =>
      if kind = .abort then ((s.received u k).abortOne x stCollAborted).collsGoOn
      else
        match ue with
        | some d =>
          if ((s.received u k).extentOf d).isSome then
            ((((s.received u k).noteUnreadable d).abortOne x stUnrecoverable).failStep x.plan.part).collsGoOn
          else ((s.received u k).collTake x k kind).collsGoOn
        | none => ((s.received u k).collTake x k kind).collsGoOn) := by
  rw [exec_coll, execColl, inService_next hs]
  exact congrArg Host.Outcome.next (arriveAs_hears hh ht (by decide) _)

theorem coll_ended (hnone : s.coll? (k.arg.setWidth 16) = none) (hf : ∃ f ∈ s.fabric.finished, f.1 = k.arg.setWidth 16) :
    exec (.coll u k kind ue) s = .next (s.received u k) := by
  have hf' : ∃ f ∈ (s.received u k).fabric.finished, f.1 = k.arg.setWidth 16 := hf
  rw [coll_hears hs hh ht, show (s.received u k).coll? (k.arg.setWidth 16) = none from hnone]
  exact congrArg Host.Outcome.next (if_pos (by simpa using hf'))

theorem coll_early (hnone : s.coll? (k.arg.setWidth 16) = none) (hf : ∀ f ∈ s.fabric.finished, f.1 ≠ k.arg.setWidth 16) :
    exec (.coll u k kind ue) s = .next ((s.received u k).modFabric (fun f => { f with early := f.early ++ [(k, kind)] })) := by
  have hf' : ∀ f ∈ (s.received u k).fabric.finished, f.1 ≠ k.arg.setWidth 16 := hf
  rw [coll_hears hs hh ht, show (s.received u k).coll? (k.arg.setWidth 16) = none from hnone]
  refine congrArg Host.Outcome.next (if_neg fun h => ?_)
  obtain ⟨f, hm, he⟩ := List.any_eq_true.1 h
  exact hf' f hm (of_decide_eq_true he)

section
variable {x : Coll} (hx : s.coll? (k.arg.setWidth 16) = some x) (hw : s.fabric.waiting = [])
  (hc : ∀ y ∈ s.fabric.colls, y.plan.id ≠ k.arg.setWidth 16 → y.complete s.self = false)
include hx hw hc

theorem coll_aborted (hk : kind = .abort) : ∃ t, exec (.coll u k kind ue) s = .next t ∧ t.coll? (k.arg.setWidth 16) = none ∧
    t.fabric.finished = (k.arg.setWidth 16, stCollAborted, x.result) :: s.fabric.finished ∧ t.parts = s.parts ∧ t.mem = s.mem := by
  have habort := abortOne_aborted (s.received u k) x stCollAborted
  have hid := coll?_id hx
  have hidle := collAbort_ends (s := s.received u k) (x := x) hw (fun y hy hne => hc y hy (hid ▸ hne))
  refine ⟨(s.received u k).abortOne x stCollAborted, ?_, coll?_filter_id (hid ▸ habort.colls), hid ▸ habort.finished,
    habort.fabricOnly.parts, habort.fabricOnly.mem⟩
  rw [coll_hears hs hh ht, show (s.received u k).coll? (k.arg.setWidth 16) = some x from hx]
  exact congrArg Host.Outcome.next ((if_pos hk).trans (collsGoOn_idle hidle))

theorem coll_unread {d : Nat} (hk : kind ≠ .abort) (hue : ue = some d) (hd : (s.extentOf d).isSome = true) :
    ∃ t, exec (.coll u k kind ue) s = .next t ∧ t.coll? (k.arg.setWidth 16) = none ∧
      t.fabric.finished = (k.arg.setWidth 16, stUnrecoverable, x.result) :: s.fabric.finished ∧ t.mem = s.mem ∧
      ((s.part x.plan.part).step.running = true → (s.part x.plan.part).step.checked = false → (t.part x.plan.part).step.failed = true) := by
  have hid := coll?_id hx
  obtain ⟨hcolls, -, hmem, hfin, hstep⟩ := collUnread_fails (x := x) (p := x.plan.part) (s := s.received u k) hw
    (fun y hy hne => hc y hy (hid ▸ hne)) d rfl
  refine ⟨_, ?_, coll?_filter_id (hid ▸ hcolls), hid ▸ hfin, hmem, hstep⟩
  subst hue
  rw [coll_hears hs hh ht, show (s.received u k).coll? (k.arg.setWidth 16) = some x from hx]
  exact congrArg Host.Outcome.next ((if_neg hk).trans (if_pos hd))

/-- A chunk of the result of a broadcast of several chunks is kept (R480). -/
theorem coll_result (hk : kind = .result) (hue : ue = none) (hchunk : k.arg.toNat / 65536 < x.plan.chunks) (htwo : 2 ≤ x.plan.chunks)
    (hop : x.plan.op = .broadcast) (hres : x.result = []) (hone : ∀ y ∈ s.fabric.colls, y.plan.id = k.arg.setWidth 16 → y = x) :
    ∃ t y, exec (.coll u k kind ue) s = .next t ∧ t.coll? (k.arg.setWidth 16) = some y ∧ y.plan = x.plan ∧
      y.result = [(k.arg.toNat / 65536, collValues x.plan k.payload)] ∧ t.parts = s.parts ∧ t.mem = s.mem := by
  have hid := coll?_id hx
  subst hk hue
  set v := (s.received u k).collResult x.plan (k.arg.toNat / 65536) (collValues x.plan k.payload) with hv
  set y : Coll := { x with result := [(k.arg.toNat / 65536, collValues x.plan k.payload)] } with hy
  have hports := collResult_broadcast (s.received u k) hop (k.arg.toNat / 65536) (collValues x.plan k.payload)
  have hcolls : v.fabric.colls = s.fabric.colls.map (fun c => if c.plan.id = x.plan.id then
      { c with result := dset c.result (k.arg.toNat / 65536) (collValues x.plan k.payload) } else c) := congrArg Fabric.colls hports.fabric
  have hset : ({ x with result := dset x.result (k.arg.toNat / 65536) (collValues x.plan k.payload) } : Coll) = y := by rw [hres]; rfl
  have hidle : v.collsIdle := by
    refine ⟨fun z hz => ?_, (congrArg Fabric.waiting hports.fabric).trans hw⟩
    rw [hcolls, List.mem_map] at hz
    obtain ⟨w, hwm, rfl⟩ := hz
    rw [hports.fabricOnly.self]
    split
    next hwid =>
      rw [hone w hwm (hwid.trans hid), hset]
      simp only [Coll.complete, hy, hop, List.length_singleton, Bool.and_eq_false_iff, decide_eq_false_iff_not]
      exact Or.inr (by omega)
    next hwid => exact hc w hwm (hid ▸ hwid)
  refine ⟨v, y, ?_, ?_, rfl, rfl, hports.parts, hports.mem⟩
  · rw [coll_hears hs hh ht, show (s.received u k).coll? (k.arg.setWidth 16) = some x from hx]
    have htake : (s.received u k).collTake x k .result = v := if_neg (by omega)
    exact congrArg Host.Outcome.next ((if_neg (by decide)).trans ((congrArg State.collsGoOn htake).trans (collsGoOn_idle hidle)))
  · have hfound := coll?_modColl (s := s.received u k) (show (s.received u k).coll? x.plan.id = some x from hid ▸ hx)
      (f := fun x' => { x' with result := dset x'.result (k.arg.toNat / 65536) (collValues x.plan k.payload) }) (fun _ => rfl)
    have hsame : v.coll? (k.arg.setWidth 16) = ((s.received u k).modColl x.plan.id (fun x' => { x' with
        result := dset x'.result (k.arg.toNat / 65536) (collValues x.plan k.payload) })).coll? x.plan.id := by
      rw [← hid]
      exact congrArg (fun cs : List Coll => cs.find? (fun c => decide (c.plan.id = x.plan.id))) (congrArg Fabric.colls hports.fabric)
    rw [hsame, hfound, hset]

end
end

/-! ### ROUTE (R477, R478) -/

theorem exec_route (u : PortNo) (k : Packet) (s : State) : exec (.route u k) s = execRoute u k s := rfl

/-- A port that has taken turns (R452, R454): only whose turn it is has changed. -/
def Port.TurnsOnly (p q : Port) : Prop := q = { p with shares := q.shares, lead := q.lead, wrr := q.wrr }

theorem Port.TurnsOnly.withdrawn {p q : Port} (h : p.TurnsOnly q) : q.withdrawn = p.withdrawn := (congrArg Port.withdrawn h :)

theorem Port.TurnsOnly.trans {p q r : Port} (h : p.TurnsOnly q) (g : q.TurnsOnly r) : p.TurnsOnly r := by
  unfold Port.TurnsOnly at *
  rw [g, h]

theorem Port.ownFirst_turns {p q : Port} {w : Turns} {tc : Nat} {own : List Packet} {k : Packet}
    (h : p.ownFirst w tc own = some (k, q)) : p.TurnsOnly q := by
  unfold Port.ownFirst at h
  dsimp only at h
  split at h <;> obtain ⟨_, _, h⟩ := Option.map_eq_some_iff.1 h <;> cases h <;> rfl

theorem Port.first_turns {p q : Port} {w : Turns} {vc : Nat} {k : Packet} (h : p.first w vc = some (k, q)) : p.TurnsOnly q := by
  unfold Port.first at h
  dsimp only at h
  replace h := (Option.filter_eq_some_iff.1 h).1
  split at h
  next o _ ho =>
    split at h
    next => cases h; rfl
    next => cases h; exact Port.ownFirst_turns ho
  next => cases h; rfl
  next o _ ho =>
    cases h
    exact (Port.ownFirst_turns (q := o.2) ho).trans rfl
  next => cases h

theorem Port.nextOf_turns {p q : Port} {w : Turns} {tc : Nat} {k : Packet} (h : p.nextOf w tc = some (k, q)) : p.TurnsOnly q := by
  unfold Port.nextOf at h
  dsimp only at h
  split at h
  next hk => cases h; exact Port.first_turns hk
  next => exact Port.first_turns h

theorem Port.serve_turns {p q : Port} {w : Turns} {c : Nat} (h : p.serve w = some (c, q)) : p.TurnsOnly q := by
  unfold Port.serve at h
  dsimp only at h
  split at h
  · cases h; rfl
  · split at h
    · cases h; rfl
    · split at h
      · cases h; rfl
      · obtain ⟨_, _, h⟩ := Option.map_eq_some_iff.1 h
        cases h; rfl

/-- Sending withdraws no destination. -/
theorem Port.pump_withdrawn (w : Turns) (n : Nat) (p : Port) : (p.pump w n).withdrawn = p.withdrawn := by
  induction n generalizing p with
  | zero => rfl
  | succ n ih =>
    unfold Port.pump
    split
    next => rfl
    next hq =>
      split
      next => rfl
      next hx =>
        split
        next => rfl
        next =>
          rw [ih]
          exact (Port.nextOf_turns hx).withdrawn.trans (Port.serve_turns hq).withdrawn

/-- The fabric alone has changed, and no port has other destinations withdrawn. -/
structure RoutesKept (s t : State) : Prop where
  fabricOnly : FabricOnly s t
  withdrawn : ∀ u, (t.port u).withdrawn = (s.port u).withdrawn

theorem RoutesKept.refl (s : State) : RoutesKept s s := ⟨rfl, fun _ => rfl⟩

theorem RoutesKept.trans {s t u : State} (h : RoutesKept s t) (g : RoutesKept t u) : RoutesKept s u :=
  ⟨h.fabricOnly.trans g.fabricOnly, fun v => (g.withdrawn v).trans (h.withdrawn v)⟩

theorem RoutesKept.foldl {α : Type} {f : State → α → State} (hf : ∀ s a, RoutesKept s (f s a)) (l : List α) (s : State) :
    RoutesKept s (l.foldl f s) :=
  List.foldlRecOn (motive := RoutesKept s) l f (RoutesKept.refl s) fun u hu a _ => hu.trans (hf u a)

theorem RoutesKept.modPort (s : State) (u : PortNo) {f : Port → Port} (hf : ∀ p, (f p).withdrawn = p.withdrawn) : RoutesKept s (s.modPort u f) := by
  refine ⟨rfl, fun v => ?_⟩
  by_cases h : v = u
  · subst h
    rw [port_modPort_same, hf]
  · rw [port_modPort_other s u v f h]

theorem RoutesKept.modFabric (s : State) {f : Fabric → Fabric} (hf : ∀ x, (f x).ports = x.ports) : RoutesKept s (s.modFabric f) :=
  ⟨rfl, fun v => by simp only [State.port, State.modFabric, hf]⟩

theorem RoutesKept.pump (s : State) (u : PortNo) : RoutesKept s (s.pump u) := by
  unfold State.pump
  split
  · exact RoutesKept.modPort s u (fun p => Port.pump_withdrawn _ _ p)
  · exact RoutesKept.refl s

theorem RoutesKept.enqueue (s : State) (u : PortNo) (k : Packet) : RoutesKept s (s.enqueue u k) := by
  have hqueued := RoutesKept.modPort s u (f := fun p => { p with out := p.out ++ [{ k with hops := k.hops + 1 }] }) (fun _ => rfl)
  exact hqueued.trans (RoutesKept.pump _ u)

theorem RoutesKept.route (s : State) (k : Packet) (from_ : Option PortNo) : RoutesKept s (s.route k from_) := by
  unfold State.route
  split
  · exact RoutesKept.enqueue s _ _
  · exact RoutesKept.refl s

theorem RoutesKept.resendWaiting (s : State) (dst : Node) : RoutesKept s (s.resendWaiting dst) := by
  have h := RoutesKept.modFabric s (f := fun f =>
    { f with held := f.held.map (fun h => if h.pkt.dst = dst then { h with waiting := false } else h) }) (fun _ => rfl)
  exact h.trans (RoutesKept.foldl (f := fun (s : State) (h : Held) => s.route h.pkt none) (fun s h => RoutesKept.route s h.pkt none) _ _)

/-- The news of a changed route withdraws nothing more at this node (R477, R493). -/
theorem RoutesKept.followRoutes (s old : State) : RoutesKept s (s.followRoutes old) := by
  unfold State.followRoutes
  extract_lets ds t
  have ht : RoutesKept s t := by
    refine RoutesKept.foldl (fun s n => ?_) ds s
    split
    · have h := RoutesKept.modFabric s (f := fun f => { f with losing := derase f.losing n.val }) (fun _ => rfl)
      exact h.trans (RoutesKept.resendWaiting _ n)
    · exact RoutesKept.modFabric s (fun _ => rfl)
  refine ht.trans ?_
  unfold State.announceRoutes
  split
  · exact RoutesKept.refl t
  · exact RoutesKept.foldl (fun s u => RoutesKept.foldl (fun s _ => RoutesKept.enqueue s u _) _ s) _ t

/-- The destinations withdrawn from a port once a ROUTE payload is taken (R477). -/
def routesTaken (bs : List Byte) (w : List Node) : List Node :=
  (routeList bs).foldl (fun w x => if x.2 then w.filter (fun n => decide (n ≠ x.1)) else if w.contains x.1 then w else x.1 :: w) w

theorem takeRx_withdrawn (p : Port) (k : Packet) : (p.takeRx k).withdrawn = p.withdrawn := by
  unfold Port.takeRx
  dsimp only
  split <;> rfl

theorem route_withdraws {s : State} (hs : s.serving) {u : PortNo} {k : Packet} (hh : s.hears k) (ht : k.typ = tyRoute) :
    ∃ t, exec (.route u k) s = .next t ∧ t.parts = s.parts ∧ t.mem = s.mem ∧ t.sec = s.sec ∧
      (t.port u).withdrawn = routesTaken k.payload (s.port u).withdrawn := by
  rw [exec_route, execRoute, inService_next hs, arriveAs_hears hh ht (by decide)]
  have hkept := RoutesKept.followRoutes ((s.received u k).modPort u (fun p => { p with withdrawn := routesTaken k.payload p.withdrawn }))
    (s.received u k)
  refine ⟨_, rfl, hkept.fabricOnly.parts, hkept.fabricOnly.mem, hkept.fabricOnly.sec, (hkept.withdrawn u).trans ?_⟩
  rw [port_modPort_same, State.received, port_modPort_same]
  exact congrArg (routesTaken k.payload) (takeRx_withdrawn (s.port u) k)

/-- Settles O53: a collective in every case of its start and of its packets, by what its end leaves; a ROUTE packet, by what sending
leaves of the ports. -/
theorem collectivesAndRoutes : Obligations.CollectivesAndRoutes := by
  unfold Obligations.CollectivesAndRoutes
  intro s hs
  refine ⟨fun c hown => ⟨fun ue hdone => collectiveStart_again hs (castPlan_own hown) hdone ue, fun hnone hw hc =>
      ⟨fun d hd => collectiveStart_fails hs hown hnone hw hc hd, collectiveStart_waits hs hown hnone hw hc,
        collectiveStart_aborts hs hown hnone hw hc, collectiveStart_receives hs hown hnone hw hc⟩⟩,
    fun c w l h hcw hme hl hh => ⟨fun ue hdue => collectiveStart_of_no_plan hs (castPlan_not_due hcw hme hl hh hdue) ue,
      fun hdue hnone hw hc hfull => ?_⟩,
    fun u k kind ue hh ht => ⟨fun hnone => ⟨coll_ended hs hh ht hnone, coll_early hs hh ht hnone⟩, fun x hx hw hc =>
      ⟨coll_aborted hs hh ht hx hw hc, fun d hk hue hd => coll_unread hs hh ht hx hw hc hk hue hd, coll_result hs hh ht hx hw hc⟩⟩,
    fun u k hh ht => route_withdraws hs hh ht⟩
  refine ⟨shapedPlan { c with weights := some { w with root := s.self, receivers := l.castReceivers h w.chunk } },
    { w with root := s.self, receivers := l.castReceivers h w.chunk }, ?_, rfl, rfl, rfl, if_pos hme, rfl, rfl, rfl, rfl⟩
  rw [collectiveStart_queued hs (castPlan_due hcw hme hl hh hdue) hnone hw]
  exact congrArg Host.Outcome.next (collsGoOn_full (s := s.collQueued _) hc rfl hfull)

end Sys2Proof.Machine
end

section
/-! SUPPORT. Experts: cold fetches, replicas, token and combine packets (R289, R383 to R385, R393 to R400). -/

namespace Sys2Proof.Machine

theorem exec_lookaheadFetch (p : Part) (l : Nat) (es : List (Nat × Nat)) (s : State) :
    exec (.lookaheadFetch p l es) s = execLookaheadFetch p l es s := rfl
theorem exec_expertFetchDone (p : Part) (l e : Nat) (found : List (List Byte)) (ue : List Nat) (s : State) :
    exec (.expertFetchDone p l e found ue) s = execExpertFetchDone p l e found ue s := rfl
theorem exec_replicaVerified (p : Part) (l e : Nat) (n : Node) (s : State) : exec (.replicaVerified p l e n) s = execReplicaVerified p l e n s := rfl
theorem exec_tokenPacket (u : PortNo) (k : Packet) (outs : List (List W32)) (ue : Option Nat) (s : State) :
    exec (.tokenPacket u k outs ue) s = execTokenPacket u k outs ue s := rfl
theorem exec_combinePacket (u : PortNo) (k : Packet) (s : State) : exec (.combinePacket u k) s = execCombinePacket u k s := rfl

/-! ### Fetches of cold experts (R397 to R400) -/

/-- Experts `x` with the cache, the fetches and the look-ahead of experts `y`. -/
def Experts.fetchesOf (y x : Experts) : Experts :=
  { x with ahead := y.ahead, cache := y.cache, fetching := y.fetching, fetchWait := y.fetchWait, slotOf := y.slotOf }

/-- Two states differ at most in the cold experts of a partition: its cache, the fetches and the look-ahead. -/
def FetchesOnly (p : Part) (s t : State) : Prop := t = s.modPart p (fun x => { x with exp := (t.part p).exp.fetchesOf x.exp })

theorem FetchesOnly.refl (p : Part) (s : State) : FetchesOnly p s s := by
  unfold FetchesOnly Experts.fetchesOf State.modPart
  exact (setPart_part s p).symm

theorem FetchesOnly.trans {p : Part} {s t u : State} (h : FetchesOnly p s t) (g : FetchesOnly p t u) : FetchesOnly p s u := by
  unfold FetchesOnly at *
  rw [g, h, modPart_modPart]
  simp only [part_modPart_same]
  rfl

theorem FetchesOnly.modExp (p : Part) (s : State) {f : Experts → Experts} (hf : ∀ x, f x = (f x).fetchesOf x) : FetchesOnly p s (s.modExp p f) := by
  unfold FetchesOnly State.modExp State.modPart
  simp only [part_setPart_same]
  rw [← hf]

theorem FetchesOnly.startFetches (p : Part) (ks : List Nat) (s : State) : FetchesOnly p s (State.startFetches p ks s) := by
  induction ks generalizing s with
  | nil => exact FetchesOnly.modExp p s fun _ => rfl
  | cons k ks ih =>
    unfold State.startFetches
    dsimp only
    split
    · exact (FetchesOnly.modExp p s fun _ => rfl).trans (ih _)
    · split
      · exact (FetchesOnly.modExp p s fun _ => rfl).trans (ih _)
      · exact FetchesOnly.modExp p s fun _ => rfl

/-- With slots free for all of them, every fetch starts (R400). -/
theorem startFetches_room {p : Part} (ks : List Nat) {s : State}
    (h : (s.part p).exp.cache.length + (s.part p).exp.fetching.length + ks.length ≤ (s.part p).exp.cacheSlots) :
    ((State.startFetches p ks s).part p).exp.fetching = (s.part p).exp.fetching ++ ks ∧
    ((State.startFetches p ks s).part p).exp.cache = (s.part p).exp.cache ∧ ((State.startFetches p ks s).part p).exp.fetchWait = [] := by
  induction ks generalizing s with
  | nil => simp [State.startFetches, State.modExp]
  | cons k ks ih =>
    have hroom : (s.part p).exp.cache.length + (s.part p).exp.fetching.length < (s.part p).exp.cacheSlots := by
      simp only [List.length_cons] at h
      omega
    have hpart : ((s.modExp p (fun x => { x with fetching := x.fetching ++ [k], slotOf := dset x.slotOf k (s.part p).exp.freeSlot })).part p).exp =
        { (s.part p).exp with fetching := (s.part p).exp.fetching ++ [k], slotOf := dset (s.part p).exp.slotOf k (s.part p).exp.freeSlot } := by
      simp only [State.modExp, part_modPart_same]
    obtain ⟨hfetching, hcache, hwait⟩ := ih (s := s.modExp p (fun x => { x with
        fetching := x.fetching ++ [k], slotOf := dset x.slotOf k (s.part p).exp.freeSlot })) (by
      simp only [hpart, List.length_append, List.length_cons, List.length_nil] at h ⊢
      omega)
    unfold State.startFetches
    dsimp only
    rw [if_pos hroom]
    refine ⟨hfetching.trans ?_, hcache.trans ?_, hwait⟩
    · simp only [hpart, List.append_assoc, List.singleton_append]
    · simp only [hpart]

/-- Where no fetch waits there is none to start. -/
theorem fetchExperts_nil {s : State} {p : Part} (h : (s.part p).exp.fetchWait = []) : s.fetchExperts p [] = s := by
  unfold State.fetchExperts
  simp only [h, List.append_nil, State.startFetches]
  refine modPart_eq_self ?_
  have hexp : { (s.part p).exp with fetchWait := [] } = (s.part p).exp := by rw [← h]
  simp only [hexp]

/-! ### LOOKAHEAD_FETCH (R398) -/

section
variable {s : State} {p : Part} (hs : s.serving)
include hs

theorem lookaheadFetch_without_gate (h : (s.mainInfo p).lookahead = 0) (l : Nat) (es : List (Nat × Nat)) :
    exec (.lookaheadFetch p l es) s = .next s := by
  rw [exec_lookaheadFetch, execLookaheadFetch, inService_next hs, if_pos h]

/-- The experts that a look-ahead gate predicts, in descending demand (R398). -/
def predictedKeys (l : Nat) (es : List (Nat × Nat)) : List Nat :=
  ((sortBy (fun a b => decide (b.2 < a.2) || (decide (a.2 = b.2) && decide (a.1 ≤ b.1))) es).map (fun x => expertKey l x.1)).eraseDups

theorem lookaheadFetch_fetches (h : (s.mainInfo p).lookahead ≠ 0) (l : Nat) (es : List (Nat × Nat)) :
    ∃ t, exec (.lookaheadFetch p l es) s = .next t ∧ FetchesOnly p s t ∧
      ((s.part p).exp.fetchWait = [] →
        (s.part p).exp.cache.length + (s.part p).exp.fetching.length + ((predictedKeys l es).filter (s.missing p)).length ≤ (s.part p).exp.cacheSlots →
        (t.part p).exp.fetching = (s.part p).exp.fetching ++ (predictedKeys l es).filter (s.missing p) ∧
        (t.part p).exp.cache = (s.part p).exp.cache ∧ (t.part p).exp.fetchWait = []) := by
  rw [exec_lookaheadFetch, execLookaheadFetch, inService_next hs, if_neg h]
  set u := s.modExp p (fun x => { x with ahead := (x.ahead ++ (predictedKeys l es).filter x.coldExperts.contains).eraseDups }) with hu
  have hpart : (u.part p).exp = { (s.part p).exp with
      ahead := ((s.part p).exp.ahead ++ (predictedKeys l es).filter (s.part p).exp.coldExperts.contains).eraseDups } := by
    simp only [hu, State.modExp, part_modPart_same]
  have hmissing : u.missing p = s.missing p := by
    funext key
    have hinfo : u.mainInfo p = s.mainInfo p := by
      simp only [hu, State.modExp, State.mainInfo, part_modPart_same]
      rfl
    have hself : u.self = s.self := rfl
    simp only [State.missing, hpart, hinfo, hself]
  refine ⟨u.fetchExperts p ((predictedKeys l es).filter (u.missing p)), rfl, ?_, fun hwait hroom => ?_⟩
  · exact (FetchesOnly.modExp p s fun _ => rfl).trans (FetchesOnly.startFetches p _ u)
  · have hwait' : (u.part p).exp.fetchWait = [] := by rw [hpart]; exact hwait
    obtain ⟨hfetching, hcache, hnone⟩ := startFetches_room (p := p) ((predictedKeys l es).filter (s.missing p)) (s := u) (by rw [hpart]; exact hroom)
    unfold State.fetchExperts
    rw [hwait', List.nil_append, hmissing]
    refine ⟨hfetching.trans ?_, hcache.trans ?_, hnone⟩
    · rw [hpart]
    · rw [hpart]

end

/-! ### EXPERT_FETCH_DONE (R397 to R399) -/

theorem found_nil {s : State} (h : s.serving) : { s with found := [] } = s := by
  obtain ⟨-, -, hfound⟩ := h
  cases s
  cases hfound
  rfl

/-- A fold whose steps each leave the state leaves it. -/
theorem foldl_of_fixed {α β : Type} {f : β → α → β} {b : β} : ∀ (l : List α), (∀ a ∈ l, f b a = b) → l.foldl f b = b
  | [], _ => rfl
  | a :: l, h => by
    rw [List.foldl_cons, h a List.mem_cons_self]
    exact foldl_of_fixed l fun a ha => h a (List.mem_cons_of_mem _ ha)

/-- The experts once a fetch has come: the expert has its slot, and no half-batch of its layer waits for it (R399). -/
def Experts.fetched (l e : Nat) (x : Experts) : Experts :=
  { x with
    fetching := x.fetching.filter (fun k => decide (k ≠ expertKey l e)), cache := x.cache ++ [expertKey l e],
    halves := x.halves.map (fun y => if y.layer = l then { y with waitFetch := y.waitFetch.filter (fun f => decide (f ≠ e)) } else y) }

/-- The bytes of an expert as its copies give them. -/
def State.expertBytesFound (s : State) (p : Part) (key : Nat) (found : List (List Byte)) : List Byte :=
  (s.expertChunks p key).flatMap (fun c => (s.expertChunk p c found).getD [])

/-- The state once the bytes of an expert lie in its slot, where it has one. -/
def State.expertWritten (s : State) (p : Part) (key : Nat) (found : List (List Byte)) : State :=
  match s.cacheSlotAt p key with
  | some a => s.writeDpa a (s.expertBytesFound p key found)
  | none => s

section
variable {s : State} {p : Part} {l e : Nat} {found : List (List Byte)} (hs : s.serving)
include hs

theorem expertFetchDone_not_fetching (h : expertKey l e ∉ (s.part p).exp.fetching) (ue : List Nat) :
    exec (.expertFetchDone p l e found ue) s = .next s := by
  have hno : ({ s with found := ue } : State).part p = s.part p := rfl
  rw [exec_expertFetchDone, execExpertFetchDone]
  refine inServiceUe_idle hs ?_
  simp [hno, h, foldl_of_fixed]

section
variable (hf : expertKey l e ∈ (s.part p).exp.fetching) (hread : ∀ c ∈ s.expertChunks p (expertKey l e), s.chunkUnreadable p 0 c = none)
include hf hread

/-- A fetch that reads nothing uncorrectable. -/
theorem expertFetchDone_clean : exec (.expertFetchDone p l e found []) s = .next { (if
      !((s.expertChunks p (expertKey l e)).map (fun c => s.expertChunk p c found)).all Option.isSome then s
    else ((s.expertWritten p (expertKey l e) found).modExp p (Experts.fetched l e)).fetchExperts p []) with found := [] } := by
  rw [exec_expertFetchDone, execExpertFetchDone, inServiceUe_clean hs]
  dsimp only
  rw [foldl_of_fixed (s.expertChunks p (expertKey l e)) (b := s) (fun c hc => by
    simp only [List.contains_iff_mem.2 hf, if_true, hread c hc])]
  simp only [List.contains_iff_mem.2 hf, Bool.not_true, Bool.false_or]
  split
  next => rfl
  next =>
    simp only [List.flatMap_map]
    rfl

end
end
theorem expertWritten_part (s : State) (p q : Part) (key : Nat) (found : List (List Byte)) : (s.expertWritten p key found).part q = s.part q := by
  unfold State.expertWritten
  split
  · exact (MediaOnly.writeDpa s _ _).part q
  · rfl

section
variable {s : State} {p : Part} {l e : Nat} {found : List (List Byte)} (hs : s.serving) (hf : expertKey l e ∈ (s.part p).exp.fetching)
  (hread : ∀ c ∈ s.expertChunks p (expertKey l e), s.chunkUnreadable p 0 c = none)
include hs hf hread

/-- An expert with a chunk that no copy gives stays in flight (R398). -/
theorem expertFetchDone_incomplete (h : ∃ c ∈ s.expertChunks p (expertKey l e), s.expertChunk p c found = none) :
    exec (.expertFetchDone p l e found []) s = .next s := by
  rw [expertFetchDone_clean hs hf hread, if_pos ?_, found_nil hs]
  obtain ⟨c, hc, hnone⟩ := h
  simp only [Bool.not_eq_true', List.all_eq_false]
  exact ⟨none, List.mem_map.2 ⟨c, hc, hnone⟩, by decide⟩

/-- An expert each of whose chunks some copy gives takes its slot (R399). -/
theorem expertFetchDone_complete (h : ∀ c ∈ s.expertChunks p (expertKey l e), (s.expertChunk p c found).isSome = true)
    (hwait : (s.part p).exp.fetchWait = []) : ∃ t, exec (.expertFetchDone p l e found []) s = .next t ∧
      t.part p = { s.part p with exp := (s.part p).exp.fetched l e } ∧ t.mem = (s.expertWritten p (expertKey l e) found).mem := by
  have hall : ((s.expertChunks p (expertKey l e)).map (fun c => s.expertChunk p c found)).all Option.isSome = true := by
    simpa using h
  have hpart : ((s.expertWritten p (expertKey l e) found).modExp p (Experts.fetched l e)).part p =
      { s.part p with exp := (s.part p).exp.fetched l e } := by
    rw [State.modExp, part_modPart_same, expertWritten_part]
  have hnone : (((s.expertWritten p (expertKey l e) found).modExp p (Experts.fetched l e)).part p).exp.fetchWait = [] := by
    rw [hpart]
    exact hwait
  refine ⟨_, expertFetchDone_clean hs hf hread, ?_⟩
  rw [if_neg (by simp [hall]), fetchExperts_nil hnone]
  exact ⟨hpart, rfl⟩

end

/-! ### REPLICA_VERIFIED (R393, R394) -/

section
variable {s : State} {p : Part} {l e : Nat} {n : Node} (hs : s.serving)
include hs

theorem replicaVerified_ignored (h : dget? (s.part p).exp.replLoading (expertKey l e) ≠ some n ∨ n ∉ (s.part p).exp.members ∨
    n ∈ (s.part p).exp.lastReplicas (expertKey l e) ∨ n = homeOf (s.mainInfo p) l e ∨ 3 ≤ ((s.part p).exp.lastReplicas (expertKey l e)).length) :
    exec (.replicaVerified p l e n) s = .next s := by
  rw [exec_replicaVerified, execReplicaVerified, inService_next hs]
  refine congrArg Host.Outcome.next (if_pos ?_)
  simpa [or_assoc] using h

/-- A replica that has verified joins the next map (R394). -/
theorem replicaVerified_announced (hload : dget? (s.part p).exp.replLoading (expertKey l e) = some n) (hn : n ∈ (s.part p).exp.members)
    (hnew : n ∉ (s.part p).exp.lastReplicas (expertKey l e)) (hhome : n ≠ homeOf (s.mainInfo p) l e)
    (hroom : ((s.part p).exp.lastReplicas (expertKey l e)).length < 3) : ∃ t, exec (.replicaVerified p l e n) s = .next t ∧
      t.mem = s.mem ∧ t.sec = s.sec ∧ t.part p = { s.part p with exp := { (s.part p).exp with
        replLoading := derase (s.part p).exp.replLoading (expertKey l e),
        nextMaps := (s.part p).exp.nextMaps ++ [⟨(s.part p).exp.lastVersion + 1, s.stepAhead p,
          [(expertKey l e, (s.part p).exp.lastReplicas (expertKey l e) ++ [n])], false⟩] } } := by
  set u := s.modExp p (fun x => { x with replLoading := derase x.replLoading (expertKey l e) }) with hu
  have hpart : u.part p = { s.part p with exp := { (s.part p).exp with replLoading := derase (s.part p).exp.replLoading (expertKey l e) } } := by
    simp only [hu, State.modExp, part_modPart_same]
  have hsent (body : List Nat) : FabricOnly u (u.announce p kindMap body).2 := (announce_sends u p kindMap body).1
  refine ⟨u.announceMap p [(expertKey l e, (s.part p).exp.lastReplicas (expertKey l e) ++ [n])], ?_, ?_, ?_, ?_⟩
  · rw [exec_replicaVerified, execReplicaVerified, inService_next hs]
    refine congrArg Host.Outcome.next (if_neg ?_)
    simp [hload, hn, hnew, hhome]
    omega
  · exact (hsent _).mem
  · exact (hsent _).sec
  · unfold State.announceMap State.modExp
    rw [part_modPart_same, (hsent _).part, hpart]
    simp only [State.stepAhead, hpart]
    rfl

end

/-! ### Token and combine packets (R383 to R385) -/

/-- The exchange engine reads an uncorrectable byte: the step under way fails (R289). -/
theorem exchangeFails_fails {s : State} {p : Part} {d : Nat} (hplace : (s.place d).isSome = true) (hd : d < windowBase)
    (hrun : (s.part p).step.running = true) (hcheck : (s.part p).step.checked = false) :
    ∃ t, s.exchangeFails p (some d) = some t ∧ (t.part p).step.failed = true ∧ t.mem = s.mem := by
  have hnoted := UeNoted.noteUnreadable s d
  refine ⟨(s.noteUnreadable d).failStep p, ?_, ?_, (PartOnly.failStep p _).mem.trans hnoted.mem⟩
  · simp [State.exchangeFails, hplace, hd]
  · exact failStep_failed (by rw [hnoted.media.part]; exact hrun) (by rw [hnoted.media.part]; exact hcheck)

theorem FabricOnly.place {s t : State} (h : FabricOnly s t) (d : Nat) : t.place d = s.place d := by
  have h : t = { s with fabric := t.fabric } := h
  rw [h]
  rfl

theorem PortsOnly.held {s t : State} (h : PortsOnly s t) : t.fabric.held = s.fabric.held := (congrArg (fun u : State => u.fabric.held) h :)
theorem PortsOnly.fenced {s t : State} (h : PortsOnly s t) : t.fabric.fenced = s.fabric.fenced := (congrArg (fun u : State => u.fabric.fenced) h :)

/-- A packet that is noted and acknowledged changes the fabric alone. -/
theorem FabricOnly.acked (s : State) (u : PortNo) (k : Packet) : FabricOnly s ((s.noted u k).sendAck k) :=
  FabricOnly.trans (t := s.noted u k) rfl (PortsOnly.sendAck _ k).fabricOnly

theorem acked_fenced (s : State) (u : PortNo) (k : Packet) : ((s.noted u k).sendAck k).fabric.fenced = s.fabric.fenced :=
  (PortsOnly.sendAck (s.noted u k) k).fenced

/-- A transfer to a node that is not fenced is held until its acknowledgement (R463). -/
theorem sendAcked_held {s : State} {dst : Node} (h : s.fabric.fenced.contains dst = false) (typ : Byte) (tc : Fin 4) (p : Part) (a : W64)
    (arg : W32) (payload : List Byte) (run : Option (Part × W32)) : ∃ x, x ∈ (s.sendAcked typ tc dst p a arg payload run).2.fabric.held ∧
      x.pkt = s.makePacket typ tc dst p (dget s.fabric.xids (4 * dst.val + tc.val) 0) a arg payload := by
  unfold State.sendAcked
  extract_lets i xid key k u
  rw [if_neg (by rw [h]; decide)]
  have hroute := PortsOnly.route u k none
  refine ⟨{ pkt := k, sentAt := s.now, waiting := !s.reachable dst, run := run }, ?_, rfl⟩
  change _ ∈ (u.route k none).fabric.held
  rw [hroute.held]
  exact List.mem_append_right _ List.mem_cons_self

/-- A token or combine packet without entries carries its payload from byte 32 on (R383). -/
theorem exchangeBytes_payload (step : W64) (l : Nat) (h ret : Bool) (t : Nat) (src : Node) (map : W16) (mask : Nat) (payload : List Byte) :
    (exchangeBytes step l h ret t src map mask [] payload).drop 32 = payload := by
  unfold exchangeBytes
  extract_lets head
  have hlen : head.length = 32 := by simp [head, leBytes]
  have hpad : padTo head ((head.length + 31) / 32 * 32) = head := by
    rw [hlen]
    simp [padTo, hlen]
  rw [hpad, List.drop_append, hlen]
  simp [hlen]

section
variable {s : State} {u : PortNo} {k : Packet} (hs : s.serving)
include hs

theorem tokenPacket_combine (h : bitOf (fieldAt k.payload 6 1) 1 = true) (outs : List (List W32)) (ue : Option Nat) :
    exec (.tokenPacket u k outs ue) s = .next s := by
  rw [exec_tokenPacket, execTokenPacket, inService_next hs]
  exact congrArg Host.Outcome.next (if_pos h)

theorem combinePacket_token (h : bitOf (fieldAt k.payload 6 1) 1 = false) : exec (.combinePacket u k) s = .next s := by
  rw [exec_combinePacket, execCombinePacket, inService_next hs]
  exact congrArg Host.Outcome.next (if_pos (by rw [h]; rfl))

end

section
variable {s : State} {u : PortNo} {k : Packet} (hs : s.serving) (hh : s.hears k) (ht : k.typ = tyExchange)
include hh ht

theorem takeExchange_malformed (h : exchangeOk k.payload = false) (f : State → State) :
    s.takeExchange u k f = (s.received u k).count .uagMalformed 0 1 := by
  unfold State.takeExchange
  rw [arriveAs_hears hh ht (by decide)]
  exact if_pos (by rw [h]; rfl)

theorem takeExchange_inTurn (h : exchangeOk k.payload = true) (hturn : s.inTurn k) (f : State → State) :
    s.takeExchange u k f = f ((s.noted u k).sendAck k) := by
  have hnow : (dget (s.received u k).fabric.xidRecs (recKey k.src k.tc) {}).judge k = .now := hturn.1
  unfold State.takeExchange
  rw [arriveAs_hears hh ht (by decide), if_neg (by rw [h]; decide)]
  simp only [hnow]
  rfl

include hs

/-- A token packet is answered to its member with the partial sum of its entries (R384). -/
theorem tokenPacket_answered (hok : exchangeOk k.payload = true) (hturn : s.inTurn k) (hret : bitOf (fieldAt k.payload 6 1) 1 = false)
    (outs : List (List W32)) (hdst : s.fabric.fenced.contains (Fin.ofNat 512 (fieldAt k.payload 0xC 2)) = false) :
    ∃ t h, exec (.tokenPacket u k outs none) s = .next t ∧ h ∈ t.fabric.held ∧ h.pkt.typ = tyExchange ∧
      h.pkt.dst = Fin.ofNat 512 (fieldAt k.payload 0xC 2) ∧ t.parts = s.parts ∧ t.mem = s.mem ∧
      h.pkt.payload.drop 32 = (partialSum ((List.range (fieldAt k.payload 7 1)).map (fun i =>
        BitVec.ofNat 16 (fieldAt k.payload (0x22 + 4 * i) 2))) outs).flatMap (fun v => leBytes 4 v.toNat) := by
  have hacked := FabricOnly.acked s u k
  have hdst' : ((s.noted u k).sendAck k).fabric.fenced.contains (Fin.ofNat 512 (fieldAt k.payload 0xC 2)) = false := by
    rw [acked_fenced]
    exact hdst
  have hsent := FabricOnly.sendAcked ((s.noted u k).sendAck k) tyExchange k.tc (Fin.ofNat 512 (fieldAt k.payload 0xC 2)) k.part 0 0
    (exchangeBytes (BitVec.ofNat 64 (fieldAt k.payload 0 4)) (fieldAt k.payload 4 2) (bitOf (fieldAt k.payload 6 1) 0) true (fieldAt k.payload 8 4)
      (Fin.ofNat 512 (fieldAt k.payload 0xC 2)) (BitVec.ofNat 16 (fieldAt k.payload 0xE 2)) (fieldAt k.payload 0x10 4) []
      ((partialSum ((List.range (fieldAt k.payload 7 1)).map (fun i => BitVec.ofNat 16 (fieldAt k.payload (0x22 + 4 * i) 2))) outs).flatMap
        (fun v => leBytes 4 v.toNat))) none
  obtain ⟨h, hheld, hpkt⟩ := sendAcked_held hdst' tyExchange k.tc k.part 0 0
    (exchangeBytes (BitVec.ofNat 64 (fieldAt k.payload 0 4)) (fieldAt k.payload 4 2) (bitOf (fieldAt k.payload 6 1) 0) true (fieldAt k.payload 8 4)
      (Fin.ofNat 512 (fieldAt k.payload 0xC 2)) (BitVec.ofNat 16 (fieldAt k.payload 0xE 2)) (fieldAt k.payload 0x10 4) []
      ((partialSum ((List.range (fieldAt k.payload 7 1)).map (fun i => BitVec.ofNat 16 (fieldAt k.payload (0x22 + 4 * i) 2))) outs).flatMap
        (fun v => leBytes 4 v.toNat))) none
  refine ⟨_, h, ?_, hheld, ?_, ?_, hsent.parts.trans hacked.parts, hsent.mem.trans hacked.mem, ?_⟩
  · rw [exec_tokenPacket, execTokenPacket, inService_next hs]
    refine congrArg Host.Outcome.next ((if_neg (by rw [hret]; decide)).trans ?_)
    rw [takeExchange_inTurn hh ht hok hturn]
    rfl
  · rw [hpkt]; rfl
  · rw [hpkt]; rfl
  · rw [hpkt]
    exact exchangeBytes_payload ..

theorem tokenPacket_unread (hok : exchangeOk k.payload = true) (hturn : s.inTurn k) (hret : bitOf (fieldAt k.payload 6 1) 1 = false)
    (outs : List (List W32)) {d : Nat} (hplace : (s.place d).isSome = true) (hd : d < windowBase) (hrun : (s.part k.part).step.running = true)
    (hcheck : (s.part k.part).step.checked = false) :
    ∃ t, exec (.tokenPacket u k outs (some d)) s = .next t ∧ (t.part k.part).step.failed = true ∧ t.mem = s.mem := by
  have hacked := FabricOnly.acked s u k
  obtain ⟨t, hfails, hfailed, hmem⟩ := exchangeFails_fails (s := (s.noted u k).sendAck k) (p := k.part) (d := d)
    (by rw [hacked.place]; exact hplace) hd (by rw [hacked.part]; exact hrun) (by rw [hacked.part]; exact hcheck)
  refine ⟨t, ?_, hfailed, hmem.trans hacked.mem⟩
  rw [exec_tokenPacket, execTokenPacket, inService_next hs]
  refine congrArg Host.Outcome.next ((if_neg (by rw [hret]; decide)).trans ?_)
  rw [takeExchange_inTurn hh ht hok hturn]
  simp only [hfails]

/-- The half-batches once a combine packet has added its partial sum, once (R385). -/
def combined (b : List Byte) (x : Experts) : Experts :=
  { x with halves := x.halves.map (fun y =>
    if y.layer = fieldAt b 4 2 && y.half = bitOf (fieldAt b 6 1) 0 then
      (if y.aborted || y.partials.any (fun z => decide (z.1 = fieldAt b 8 4) && decide (z.2.1 = lowestBit (fieldAt b 0x10 4))) then y
       else { y with partials := y.partials ++ [(fieldAt b 8 4, lowestBit (fieldAt b 0x10 4), tokenWords (b.drop (exchangePayloadAt b)))] })
    else y) }

theorem combinePacket_adds (hok : exchangeOk k.payload = true) (hturn : s.inTurn k) (hret : bitOf (fieldAt k.payload 6 1) 1 = true)
    (hwait : (s.part k.part).exp.fetchWait = []) : ∃ t, exec (.combinePacket u k) s = .next t ∧ t.mem = s.mem ∧
      (BitVec.ofNat 32 (fieldAt k.payload 0 4) ≠ ((s.part k.part).exp.step + 1).setWidth 32 → t.parts = s.parts) ∧
      (BitVec.ofNat 32 (fieldAt k.payload 0 4) = ((s.part k.part).exp.step + 1).setWidth 32 →
        t.part k.part = { s.part k.part with exp := combined k.payload (s.part k.part).exp }) := by
  have hacked := FabricOnly.acked s u k
  have hexec (t : State) (hne : BitVec.ofNat 32 (fieldAt k.payload 0 4) ≠ ((s.part k.part).exp.step + 1).setWidth 32 → t = (s.noted u k).sendAck k)
      (heq : BitVec.ofNat 32 (fieldAt k.payload 0 4) = ((s.part k.part).exp.step + 1).setWidth 32 →
        t = (((s.noted u k).sendAck k).modExp k.part (combined k.payload)).fetchExperts k.part []) : exec (.combinePacket u k) s = .next t := by
    rw [exec_combinePacket, execCombinePacket, inService_next hs]
    refine congrArg Host.Outcome.next ((if_neg (by rw [hret]; decide)).trans ?_)
    rw [takeExchange_inTurn hh ht hok hturn]
    dsimp only
    rw [hacked.part]
    by_cases hstep : BitVec.ofNat 32 (fieldAt k.payload 0 4) = ((s.part k.part).exp.step + 1).setWidth 32
    · rw [if_neg (by simp [hstep]), heq hstep]
      rfl
    · rw [if_pos (decide_eq_true hstep), hne hstep]
  by_cases hstep : BitVec.ofNat 32 (fieldAt k.payload 0 4) = ((s.part k.part).exp.step + 1).setWidth 32
  · have hpart : (((s.noted u k).sendAck k).modExp k.part (combined k.payload)).part k.part =
        { s.part k.part with exp := combined k.payload (s.part k.part).exp } := by
      rw [State.modExp, part_modPart_same, hacked.part]
    have hnil := fetchExperts_nil (s := ((s.noted u k).sendAck k).modExp k.part (combined k.payload)) (p := k.part) (by rw [hpart]; exact hwait)
    refine ⟨((s.noted u k).sendAck k).modExp k.part (combined k.payload), hexec _ (fun h => absurd hstep h) (fun _ => hnil.symm), hacked.mem,
      fun h => absurd hstep h, fun _ => hpart⟩
  · exact ⟨(s.noted u k).sendAck k, hexec _ (fun _ => rfl) (fun h => absurd h hstep), hacked.mem, fun _ => hacked.parts, fun h => absurd h hstep⟩

end

/-- Settles O48: fetches of experts, by what they change of the experts; replicas; and token and combine packets in turn, by what
noting and acknowledging them leaves. -/
theorem coldExpertsReplicasAndPartialSums : Obligations.ColdExpertsReplicasAndPartialSums := by
  unfold Obligations.ColdExpertsReplicasAndPartialSums
  intro s p hs
  refine ⟨fun l es => ⟨fun h => lookaheadFetch_without_gate hs h l es, fun h => lookaheadFetch_fetches hs h l es⟩,
    fun l e found ue => ⟨fun h => expertFetchDone_not_fetching hs h ue, fun hf hue hread => ?_⟩,
    fun l e n => ⟨replicaVerified_ignored hs, fun hload hn hnew hhome hroom => replicaVerified_announced hs hload hn hnew hhome hroom⟩,
    fun u k outs ue => ⟨fun h => tokenPacket_combine hs h outs ue, combinePacket_token hs, fun ht hh hbad => ?_, fun ht hh hok hturn => ?_⟩⟩
  · subst hue
    refine ⟨expertFetchDone_incomplete hs hf hread, fun hall hwait => ?_⟩
    obtain ⟨t, hexec, hpart, hmem⟩ := expertFetchDone_complete hs hf hread hall hwait
    refine ⟨t, hexec, hpart, fun hnone => ?_, fun a ha => ?_⟩
    · rw [hmem, State.expertWritten, hnone]
    · rw [hmem, State.expertWritten, ha]
      rfl
  · refine ⟨fun hret => ?_, fun hret => ?_⟩
    · rw [exec_tokenPacket, execTokenPacket, inService_next hs]
      exact congrArg Host.Outcome.next ((if_neg (by rw [hret]; decide)).trans (takeExchange_malformed hh ht hbad _))
    · rw [exec_combinePacket, execCombinePacket, inService_next hs]
      exact congrArg Host.Outcome.next ((if_neg (by rw [hret]; decide)).trans (takeExchange_malformed hh ht hbad _))
  · refine ⟨fun hret hue hdst => ?_, fun d hret hue hplace hd hrun hcheck => ?_, fun hret hp hwait => ?_⟩
    · subst hue
      exact tokenPacket_answered hs hh ht hok hturn hret outs hdst
    · subst hue
      exact tokenPacket_unread hs hh ht hok hturn hret outs hplace hd hrun hcheck
    · subst hp
      exact combinePacket_adds hs hh ht hok hturn hret hwait

end Sys2Proof.Machine
end

section
/-! SUPPORT. The census and the admission of a half-batch (R289, R368 to R379, R396). -/

namespace Sys2Proof.Machine

theorem exec_censusBlock (p : Part) (b : Census) (gate : List GateOut) (s : State) :
    exec (.censusBlock p b gate) s = execCensusBlock p b gate s := rfl
theorem exec_admission (p : Part) (l : Nat) (h : Bool) (own : List OwnToken) (ue : Option Nat) (s : State) :
    exec (.admission p l h own ue) s = execAdmission p l h own ue s := rfl

/-! ### Half-batches -/

/-- A change of one half-batch among others. -/
def halfChanged (l : Nat) (h : Bool) (f : HalfBatch → HalfBatch) (y : HalfBatch) : HalfBatch := if y.layer = l && y.half = h then f y else y

theorem modHalf_eq (s : State) (p : Part) (l : Nat) (h : Bool) (f : HalfBatch → HalfBatch) :
    s.modHalf p l h f = s.modPart p (fun x => { x with exp := { x.exp with halves := x.exp.halves.map (halfChanged l h f) } }) := rfl

theorem half?_eq_none {s : State} {p : Part} {l : Nat} {h : Bool} (hnone : s.half? p l h = none) :
    ∀ y ∈ (s.part p).exp.halves, ¬(y.layer = l ∧ y.half = h) := by
  simpa [State.half?, List.find?_eq_none] using hnone

/-- A half-batch that is new is the only one that a change of it touches. -/
theorem map_halfChanged_new {hs : List HalfBatch} {l : Nat} {h : Bool} (hnone : ∀ y ∈ hs, ¬(y.layer = l ∧ y.half = h)) (f : HalfBatch → HalfBatch)
    {z : HalfBatch} (hl : z.layer = l) (hh : z.half = h) : (hs ++ [z]).map (halfChanged l h f) = hs ++ [f z] := by
  have hold : hs.map (halfChanged l h f) = hs := by
    refine (List.map_congr_left fun y hy => ?_).trans (List.map_id hs)
    exact if_neg (by simpa using hnone y hy)
  have hnew : halfChanged l h f z = f z := if_pos (by simp [hl, hh])
  rw [List.map_append, hold, List.map_singleton, hnew]

/-- The half-batch that is found once one was changed in place. -/
theorem half?_modHalf (s : State) (p : Part) (l : Nat) (h : Bool) {f : HalfBatch → HalfBatch} (hl : ∀ y, (f y).layer = y.layer)
    (hh : ∀ y, (f y).half = y.half) : (s.modHalf p l h f).half? p l h = (s.half? p l h).map f := by
  have hcomp : (fun y : HalfBatch => decide (y.layer = l) && decide (y.half = h)) ∘ halfChanged l h f =
      fun y => decide (y.layer = l) && decide (y.half = h) := by
    funext y
    simp only [Function.comp, halfChanged]
    split <;> simp [hl, hh]
  simp only [State.half?, modHalf_eq, part_modPart_same, List.find?_map, hcomp]
  cases hy : (s.part p).exp.halves.find? (fun y => decide (y.layer = l) && decide (y.half = h)) with
  | none => rfl
  | some y =>
    have hkey := List.find?_some hy
    simp only [Option.map_some, halfChanged, hkey, if_true]

/-! ### The census (R371 to R374) -/

/-- A half-batch is aborted at this member, and the step under way fails (R373, R374). -/
theorem abortHalf_eq (s : State) (p : Part) (l : Nat) (h : Bool) : s.abortHalf p l h = s.modPart p (fun x => { x with
    exp := { x.exp with halves := x.exp.halves.map (halfChanged l h (fun y => { y with aborted := true })) },
    step := { x.step with failed := true } }) := by
  unfold State.abortHalf
  rw [modHalf_eq, modPart_modPart]

theorem announceWhole_fabric (s : State) (p : Part) : FabricOnly s (s.announceWhole p) := by
  unfold State.announceWhole
  dsimp only
  split
  · exact (announce_sends s p kindMap _).1
  · exact FabricOnly.refl s

theorem announceWhole_not_lowest {s : State} {p : Part} (h : ∃ n ∈ (s.part p).exp.members, n < s.self) : s.announceWhole p = s := by
  unfold State.announceWhole
  refine if_neg ?_
  obtain ⟨n, hn, hlt⟩ := h
  simp only [List.all_eq_true, decide_eq_true_eq, not_forall]
  exact ⟨n, hn, not_le.2 hlt⟩

section
variable {s : State} {p : Part} {c : Census}

theorem takeCensus_ignored (h : (s.part p).step.running = false ∨ c.node ∉ (s.part p).exp.members ∨
    c.step ≠ ((s.part p).exp.step + 1).setWidth 32 ∨ (s.mainInfo p).expertLayers ≤ c.layer) : s.takeCensus p c = s := by
  unfold State.takeCensus
  refine if_pos ?_
  simpa [or_assoc] using h

section
variable (hrun : (s.part p).step.running = true) (hmember : c.node ∈ (s.part p).exp.members)
  (hstep : c.step = ((s.part p).exp.step + 1).setWidth 32) (hlayer : c.layer < (s.mainInfo p).expertLayers)
  (hown : c.node = s.self → ∀ y ∈ (s.part p).exp.halves, y.layer < c.layer → y.waitFetch = [] ∧ (y.half = c.half → s.halfDone p y = true))
  (hnone : s.half? p c.layer c.half = none)
include hrun hmember hstep hlayer hown hnone

/-- The first census block of a half-batch begins it. -/
theorem takeCensus_first : s.takeCensus p c =
    (let u := s.modExp p (fun x => { x with halves := x.halves ++ [{ layer := c.layer, half := c.half }] })
     if c.mapVersion ≠ (s.part p).exp.mapVersion then (u.abortHalf p c.layer c.half).announceWhole p
     else u.modHalf p c.layer c.half (fun y => { y with blocks := y.blocks ++ [c] })) := by
  have hfound : (s.modExp p (fun x => { x with halves := x.halves ++ [{ layer := c.layer, half := c.half }] })).half? p c.layer c.half =
      some { layer := c.layer, half := c.half } := by
    have hno : (s.part p).exp.halves.find? (fun y => decide (y.layer = c.layer) && decide (y.half = c.half)) = none := hnone
    simp only [State.half?, State.modExp, part_modPart_same, List.find?_append, hno, Option.none_or]
    simp
  unfold State.takeCensus
  extract_lets x u
  have hgo : ¬ (!(s.part p).step.running || !x.members.contains c.node || decide (c.step ≠ (x.step + 1).setWidth 32) ||
      decide ((s.mainInfo p).expertLayers ≤ c.layer)) = true := by
    simp [x, hrun, hmember, hstep, hlayer]
  have hready : ¬ (decide (c.node = s.self) && x.halves.any (fun y => decide (y.layer < c.layer) &&
      ((decide (y.half = c.half) && !s.halfDone p y) || !y.waitFetch.isEmpty))) = true := by
    simp only [Bool.and_eq_true, decide_eq_true_eq, List.any_eq_true, not_and, not_exists]
    intro hself y hy hlt
    obtain ⟨hwait, hdone⟩ := hown hself y hy hlt
    by_cases hhalf : y.half = c.half
    · simp [hwait, hdone hhalf]
    · simp [hwait, hhalf]
  have hu : u = s.modExp p (fun x => { x with halves := x.halves ++ [{ layer := c.layer, half := c.half }] }) := if_neg (by simp [hnone])
  rw [if_neg hgo, if_neg hready]
  simp only [hu, hfound]
  exact if_neg (by simp)

end
end

section
variable {s : State} {p : Part} {c : Census} (hrun : (s.part p).step.running = true) (hmember : c.node ∈ (s.part p).exp.members)
  (hstep : c.step = ((s.part p).exp.step + 1).setWidth 32) (hlayer : c.layer < (s.mainInfo p).expertLayers)
  (hown : c.node = s.self → ∀ y ∈ (s.part p).exp.halves, y.layer < c.layer → y.waitFetch = [] ∧ (y.half = c.half → s.halfDone p y = true))
  (hnone : s.half? p c.layer c.half = none)
include hrun hmember hstep hlayer hown hnone

theorem takeCensus_counts (hmap : c.mapVersion = (s.part p).exp.mapVersion) : s.takeCensus p c =
    s.modPart p (fun x => { x with exp := { x.exp with halves := x.exp.halves ++ [{ layer := c.layer, half := c.half, blocks := [c] }] } }) := by
  rw [takeCensus_first hrun hmember hstep hlayer hown hnone]
  dsimp only
  rw [if_neg (by simp [hmap]), modHalf_eq, State.modExp, modPart_modPart]
  have hnew := map_halfChanged_new (half?_eq_none hnone) (fun y => { y with blocks := y.blocks ++ [c] })
    (z := { layer := c.layer, half := c.half }) rfl rfl
  refine modPart_congr ?_
  simp only [hnew, List.nil_append]

/-- A block of another map version aborts the half-batch; the lowest member announces its whole map (R374). -/
theorem takeCensus_aborts (hmap : c.mapVersion ≠ (s.part p).exp.mapVersion) :
    ∃ u, s.takeCensus p c = u.announceWhole p ∧ u = s.modPart p (fun x => { x with
      exp := { x.exp with halves := x.exp.halves ++ [{ layer := c.layer, half := c.half, aborted := true }] },
      step := { x.step with failed := true } }) := by
  refine ⟨_, ?_, rfl⟩
  rw [takeCensus_first hrun hmember hstep hlayer hown hnone]
  dsimp only
  rw [if_pos hmap, abortHalf_eq, State.modExp, modPart_modPart]
  have hnew := map_halfChanged_new (half?_eq_none hnone) (fun y => { y with aborted := true }) (z := { layer := c.layer, half := c.half }) rfl rfl
  refine congrArg (fun u : State => u.announceWhole p) (modPart_congr ?_)
  simp only [hnew]

end

/-! ### What an admission leaves unchanged (R379 to R388) -/

/-- An event leaves of a partition everything but its rings. -/
theorem EventsOnly.part_eq {s t : State} (h : EventsOnly s t) (p : Part) : t.part p = { s.part p with rings := (t.part p).rings } := by
  have hp (u : State) : u.sansEvents.part p = { u.part p with rings := Vector.replicate 13 {} } := by
    simp only [State.sansEvents, State.part, get_eq, Vector.getElem_map]
  have hsame : ({ t.part p with rings := Vector.replicate 13 {} } : Partition) = { s.part p with rings := Vector.replicate 13 {} } := by
    rw [← hp t, h.1, hp s]
  exact (congrArg (fun x : Partition => { x with rings := (t.part p).rings }) hsame :)

theorem EventsOnly.power {s t : State} (h : EventsOnly s t) : t.power = s.power := (congrArg State.power h.1 :)

/-- Two states in which a half-batch is admitted differ at most in the working state of the experts of a partition. -/
structure AdmissionKept (p : Part) (s t : State) : Prop where
  mem : t.mem = s.mem
  sec : t.sec = s.sec
  power : t.power = s.power
  repair : t.repair = s.repair
  hbmMap : ∀ q : Part, t.reg .memHbmMap q.val = s.reg .memHbmMap q.val
  requests : (t.part p).requests = (s.part p).requests
  step : (t.part p).step = (s.part p).step
  expStep : (t.part p).exp.step = (s.part p).exp.step
  mapVersion : (t.part p).exp.mapVersion = (s.part p).exp.mapVersion

variable {p : Part}

theorem AdmissionKept.refl (s : State) : AdmissionKept p s s := ⟨rfl, rfl, rfl, rfl, fun _ => rfl, rfl, rfl, rfl, rfl⟩

theorem AdmissionKept.trans {s t u : State} (h : AdmissionKept p s t) (g : AdmissionKept p t u) : AdmissionKept p s u :=
  ⟨g.mem.trans h.mem, g.sec.trans h.sec, g.power.trans h.power, g.repair.trans h.repair, fun q => (g.hbmMap q).trans (h.hbmMap q),
    g.requests.trans h.requests, g.step.trans h.step, g.expStep.trans h.expStep, g.mapVersion.trans h.mapVersion⟩

theorem AdmissionKept.modExp (s : State) {f : Experts → Experts} (hstep : ∀ x, (f x).step = x.step) (hmap : ∀ x, (f x).mapVersion = x.mapVersion) :
    AdmissionKept p s (s.modExp p f) :=
  ⟨rfl, rfl, rfl, rfl, fun _ => rfl, by rw [State.modExp, part_modPart_same], by rw [State.modExp, part_modPart_same],
    by rw [State.modExp, part_modPart_same, hstep], by rw [State.modExp, part_modPart_same, hmap]⟩

theorem AdmissionKept.modHalf (s : State) (l : Nat) (h : Bool) (f : HalfBatch → HalfBatch) : AdmissionKept p s (s.modHalf p l h f) :=
  AdmissionKept.modExp s (fun _ => rfl) (fun _ => rfl)

theorem FabricOnly.admissionKept {s t : State} (h : FabricOnly s t) : AdmissionKept p s t := by
  have h : t = { s with fabric := t.fabric } := h
  rw [h]
  exact ⟨rfl, rfl, rfl, rfl, fun _ => rfl, rfl, rfl, rfl, rfl⟩

/-- Where a byte lies turns on the HBM maps and on what is repaired alone. -/
theorem AdmissionKept.place {s t : State} (h : AdmissionKept p s t) (d : Nat) : t.place d = s.place d := by
  have hgroups (q : Part) : t.groups q = s.groups q := by simp only [State.groups, h.hbmMap]
  have hbase (q : Part) : t.hbmBase q = s.hbmBase q := by simp only [State.hbmBase, State.regBits, h.hbmMap]
  have hin (q : Part) (n : Nat) : t.inHbm q d n = s.inHbm q d n := by
    unfold State.inHbm State.hbmValid State.hbmBytes
    rw [hgroups, hbase, h.hbmMap]
  have hmapped : t.firnMapped = s.firnMapped := by simp only [State.firnMapped, h.repair]
  have hfirn : t.firnAt d = s.firnAt d := by simp only [State.firnAt, h.repair]
  simp only [State.place, hgroups, hbase, hin, hmapped, hfirn]

/-- The half-batches are as they were, too. -/
structure HalvesKept (p : Part) (s t : State) : Prop where
  kept : AdmissionKept p s t
  halves : (t.part p).exp.halves = (s.part p).exp.halves

theorem HalvesKept.refl (s : State) : HalvesKept p s s := ⟨AdmissionKept.refl s, rfl⟩

theorem HalvesKept.trans {s t u : State} (h : HalvesKept p s t) (g : HalvesKept p t u) : HalvesKept p s u :=
  ⟨h.kept.trans g.kept, g.halves.trans h.halves⟩

theorem HalvesKept.modExp (s : State) {f : Experts → Experts} (hstep : ∀ x, (f x).step = x.step) (hmap : ∀ x, (f x).mapVersion = x.mapVersion)
    (hhalves : ∀ x, (f x).halves = x.halves) : HalvesKept p s (s.modExp p f) :=
  ⟨AdmissionKept.modExp s hstep hmap, by rw [State.modExp, part_modPart_same, hhalves]⟩

theorem HalvesKept.count (s : State) {n : RegName} {i : Nat} (k : Nat) (hi : i < 65536) (hn : n ≠ .memHbmMap) : HalvesKept p s (s.count n i k) :=
  ⟨⟨rfl, rfl, rfl, rfl, fun q => reg_count_other s n .memHbmMap i q.val k hi (by omega) fun h => hn h.1.symm, rfl, rfl, rfl, rfl⟩, rfl⟩

theorem EventsOnly.halvesKept {s t : State} (h : EventsOnly s t) : HalvesKept p s t := by
  have hpart := h.part_eq p
  exact ⟨⟨h.mem, h.sec, h.power, h.repair, fun q => h.2 .memHbmMap q.val (by omega) (by decide) (by decide), by rw [hpart], by rw [hpart],
    by rw [hpart], by rw [hpart]⟩, by rw [hpart]⟩

theorem FetchesOnly.halvesKept {s t : State} (h : FetchesOnly p s t) : HalvesKept p s t := by
  have h : t = s.modPart p (fun x => { x with exp := (t.part p).exp.fetchesOf x.exp }) := h
  rw [h]
  exact HalvesKept.modExp s (fun _ => rfl) (fun _ => rfl) (fun _ => rfl)

theorem HalvesKept.half? {s t : State} (h : HalvesKept p s t) (l : Nat) (b : Bool) : t.half? p l b = s.half? p l b := by
  simp only [State.half?, h.halves]

/-- What the experts note that they have said, and the event that says it. -/
theorem HalvesKept.said (s : State) {f : Experts → Experts} (hstep : ∀ x, (f x).step = x.step) (hmap : ∀ x, (f x).mapVersion = x.mapVersion)
    (hhalves : ∀ x, (f x).halves = x.halves) (code : W16) (subject arg : Nat) : HalvesKept p s ((s.modExp p f).raiseEvent p code subject arg) :=
  (HalvesKept.modExp s hstep hmap hhalves).trans (EventsOnly.raiseEvent _ p code subject arg).halvesKept

/-- The counts of an admission and the events that say them (R381, R387). -/
theorem HalvesKept.countAdmission (s : State) (l : Nat) (blocks : List Census) (a : Adm) : HalvesKept p s (s.countAdmission p l blocks a) := by
  unfold State.countAdmission
  extract_lets k demand extra u v
  have hu : HalvesKept p s u := HalvesKept.modExp s (fun _ => rfl) (fun _ => rfl) (fun _ => rfl)
  have hv : HalvesKept p u v := ((HalvesKept.count u _ (by omega) (by decide)).trans (HalvesKept.count _ _ (by omega) (by decide))).trans
    (HalvesKept.count _ _ (by omega) (by decide))
  refine (hu.trans hv).trans ?_
  clear_value v
  split
  · split
    · exact HalvesKept.refl v
    · refine HalvesKept.trans ?_ (HalvesKept.count (n := .expHotCount) (i := p.val) _ 1 (by omega) (by decide))
      refine HalvesKept.said v ?_ ?_ ?_ _ _ _ <;> exact fun _ => rfl
  · exact HalvesKept.refl v

/-- The misses of an admission and the fetches that they start (R399). -/
theorem HalvesKept.missesOf (s : State) (l : Nat) (a : Adm) : HalvesKept p s (s.missesOf p l a) := by
  unfold State.missesOf
  extract_lets used missed touch u v
  have hu : HalvesKept p s u := HalvesKept.modExp s (fun _ => rfl) (fun _ => rfl) (fun _ => rfl)
  have hv : HalvesKept p u v := HalvesKept.count u _ (by omega) (by decide)
  clear_value u v missed
  refine hu.trans ?_
  cases missed with
  | nil => exact HalvesKept.refl u
  | cons e es =>
    dsimp only
    refine hv.trans (HalvesKept.trans ?_ (FetchesOnly.startFetches p _ _).halvesKept)
    split
    · exact HalvesKept.refl v
    · refine HalvesKept.said v ?_ ?_ ?_ _ _ _ <;> exact fun _ => rfl

/-! ### ADMISSION (R373, R375 to R382) -/

/-- A half-batch is admitted, with the blocks and assignments given. -/
def State.admittedAs (s : State) (p : Part) (l : Nat) (h : Bool) (bs : List Census) (as : List Assign) : Prop :=
  ∃ z, s.half? p l h = some z ∧ z.admitted = true ∧ z.blocks = bs ∧ z.assigns = as

section
variable {p : Part} {l : Nat} {h : Bool} {bs : List Census} {as : List Assign}

/-- A half-batch that is admitted stays so. -/
structure StaysAdmitted (p : Part) (l : Nat) (h : Bool) (bs : List Census) (as : List Assign) (s t : State) : Prop where
  kept : AdmissionKept p s t
  admitted : s.admittedAs p l h bs as → t.admittedAs p l h bs as

theorem StaysAdmitted.refl (s : State) : StaysAdmitted p l h bs as s s := ⟨AdmissionKept.refl s, id⟩

theorem StaysAdmitted.trans {s t u : State} (hst : StaysAdmitted p l h bs as s t) (htu : StaysAdmitted p l h bs as t u) :
    StaysAdmitted p l h bs as s u := ⟨hst.kept.trans htu.kept, fun hs => htu.admitted (hst.admitted hs)⟩

theorem StaysAdmitted.foldl {α : Type} {f : State → α → State} (hf : ∀ s a, StaysAdmitted p l h bs as s (f s a)) (xs : List α) (s : State) :
    StaysAdmitted p l h bs as s (xs.foldl f s) :=
  List.foldlRecOn (motive := StaysAdmitted p l h bs as s) xs f (StaysAdmitted.refl s) fun u hu a _ => hu.trans (hf u a)

theorem HalvesKept.staysAdmitted {s t : State} (hst : HalvesKept p s t) : StaysAdmitted p l h bs as s t := by
  refine ⟨hst.kept, fun hs => ?_⟩
  unfold State.admittedAs
  rw [hst.half?]
  exact hs

theorem FabricOnly.staysAdmitted {s t : State} (hst : FabricOnly s t) : StaysAdmitted p l h bs as s t :=
  HalvesKept.staysAdmitted ⟨hst.admissionKept, by rw [hst.part]⟩

/-- A change of the half-batch that leaves what it is admitted with. -/
theorem StaysAdmitted.modHalf (s : State) {f : HalfBatch → HalfBatch} (hl : ∀ y, (f y).layer = y.layer) (hh : ∀ y, (f y).half = y.half)
    (ha : ∀ y, (f y).admitted = y.admitted) (hb : ∀ y, (f y).blocks = y.blocks) (has : ∀ y, (f y).assigns = y.assigns) :
    StaysAdmitted p l h bs as s (s.modHalf p l h f) := by
  refine ⟨AdmissionKept.modHalf s l h f, fun ⟨z, hz, hadm, hblocks, hassigns⟩ => ⟨f z, ?_, ?_, ?_, ?_⟩⟩
  · rw [half?_modHalf s p l h hl hh, hz]
    rfl
  · rw [ha, hadm]
  · rw [hb, hblocks]
  · rw [has, hassigns]

/-- The token packets of an admission leave by the fabric, or are this member's own partial sums (R382, R383). -/
theorem StaysAdmitted.sendTokens (s : State) (xs : List Assign) (own : List OwnToken) :
    StaysAdmitted p l h bs as s (s.sendTokens p l h xs own) := by
  refine StaysAdmitted.foldl (fun s t => StaysAdmitted.foldl (fun s n => ?_) _ s) _ s
  dsimp only
  split
  · exact StaysAdmitted.modHalf s (fun _ => rfl) (fun _ => rfl) (fun _ => rfl) (fun _ => rfl) (fun _ => rfl)
  · exact (FabricOnly.sendAcked s _ _ _ _ _ _ _ _).staysAdmitted

end

theorem admission_ready {s : State} {p : Part} {y : HalfBatch} (ha : y.admitted = false) (hb : y.aborted = false)
    (hall : ∀ n ∈ (s.part p).exp.members, ∃ b ∈ y.blocks, b.node = n) :
    ¬ (y.admitted || y.aborted || !(s.part p).exp.members.all (fun n => y.blocks.any (fun b => decide (b.node = n)))) = true := by
  simpa [ha, hb] using hall

/-- The cold experts homed here that an admission needs and that are not resident (R399). -/
def State.coldAwaited (s : State) (p : Part) (l : Nat) (a : Adm) : List Nat :=
  ((a.assigns.filter (fun x => decide (x.copy = 0))).map Assign.expert).eraseDups.filter (fun e =>
    decide (homeOf (s.mainInfo p) l e = s.self) && (s.part p).exp.coldExperts.contains (expertKey l e) &&
      !(s.part p).exp.cache.contains (expertKey l e))

section
variable {s : State} {p : Part} {l : Nat} {h : Bool} {own : List OwnToken} {ue : Option Nat} (hs : s.serving)
include hs

theorem admission_of_no_half (hnone : s.half? p l h = none) : exec (.admission p l h own ue) s = .next s := by
  rw [exec_admission, execAdmission, inService_next hs, hnone]

variable {y : HalfBatch} (hy : s.half? p l h = some y)
include hy

theorem admission_ignored (hno : y.admitted = true ∨ y.aborted = true ∨ (∃ n ∈ (s.part p).exp.members, ∀ b ∈ y.blocks, b.node ≠ n)) :
    exec (.admission p l h own ue) s = .next s := by
  rw [exec_admission, execAdmission, inService_next hs, hy]
  refine congrArg Host.Outcome.next (if_pos ?_)
  simpa [or_assoc] using hno

section
variable (ha : y.admitted = false) (hb : y.aborted = false) (hall : ∀ n ∈ (s.part p).exp.members, ∃ b ∈ y.blocks, b.node = n)
include ha hb hall

/-- An assignment to a copy on a lost member aborts the half-batch (R396). -/
theorem admission_aborts (hlost : ∃ x ∈ (s.runAdmission p l y.blocks).assigns, s.fabric.fenced.contains (s.copyAt p l x.expert x.copy) = true) :
    exec (.admission p l h own ue) s = .next (s.abortHalf p l h) := by
  rw [exec_admission, execAdmission, inService_next hs, hy]
  refine congrArg Host.Outcome.next ((if_neg (admission_ready ha hb hall)).trans (if_pos ?_))
  simpa using hlost

/-- The state of a half-batch that is admitted: what it holds, its counts, its misses and what it waits for. -/
theorem admission_admits (hkept : ∀ x ∈ (s.runAdmission p l y.blocks).assigns, s.fabric.fenced.contains (s.copyAt p l x.expert x.copy) = false) :
    ∃ u, AdmissionKept p s u ∧ u.admittedAs p l h y.blocks (s.runAdmission p l y.blocks).assigns ∧ exec (.admission p l h own ue) s =
      .next (match u.exchangeFails p ue with | some t => t | none => u.sendTokens p l h (s.runAdmission p l y.blocks).assigns own) := by
  set a := s.runAdmission p l y.blocks with ha'
  set u1 := s.modHalf p l h (fun y => { y with admitted := true, assigns := a.assigns }) with hu1
  set u2 := (u1.countAdmission p l y.blocks a).missesOf p l a with hu2
  have h1 : u1.admittedAs p l h y.blocks a.assigns := by
    refine ⟨{ y with admitted := true, assigns := a.assigns }, ?_, rfl, rfl, rfl⟩
    have hfound := half?_modHalf s p l h (f := fun y => { y with admitted := true, assigns := a.assigns }) (fun _ => rfl) (fun _ => rfl)
    rw [hy] at hfound
    exact hfound
  have h2 : HalvesKept p u1 u2 := (HalvesKept.countAdmission u1 l y.blocks a).trans (HalvesKept.missesOf _ l a)
  have h3 : StaysAdmitted p l h y.blocks a.assigns u2 (u2.modHalf p l h (fun y => { y with waitFetch := u2.coldAwaited p l a })) :=
    StaysAdmitted.modHalf u2 (fun _ => rfl) (fun _ => rfl) (fun _ => rfl) (fun _ => rfl) (fun _ => rfl)
  have hlast := h2.staysAdmitted.trans h3
  refine ⟨_, (AdmissionKept.modHalf s l h _).trans hlast.kept, hlast.admitted h1, ?_⟩
  rw [exec_admission, execAdmission, inService_next hs, hy]
  exact congrArg Host.Outcome.next ((if_neg (admission_ready ha hb hall)).trans (if_neg (by simpa using hkept)))

end
end

/-- Settles O47: a first census block begins its half-batch, and what an admission counts, fetches and sends keeps the half-batch as it
was admitted. -/
theorem censusAndAdmissionOfAHalfBatch : Obligations.CensusAndAdmissionOfAHalfBatch := by
  unfold Obligations.CensusAndAdmissionOfAHalfBatch
  intro s p hs
  refine ⟨fun b gate => ?_, fun l h own ue => ⟨admission_of_no_half hs, fun y hy => ⟨admission_ignored hs hy, fun ha hb hall => ?_⟩⟩⟩
  · intro c
    have hexec : exec (.censusBlock p b gate) s = .next (s.takeCensus p c) := by
      rw [exec_censusBlock, execCensusBlock, inService_next hs]
    refine ⟨fun hself => ?_, fun hno => ?_, fun hrun hmember hstep hlayer hown hnone => ⟨fun hmap => ?_, fun hmap => ?_⟩⟩
    · have hc : c = s.ownCensus p b.layer b.half gate := if_pos hself
      rw [hc]
      rfl
    · rw [hexec, takeCensus_ignored hno]
    · rw [hexec, takeCensus_counts hrun hmember hstep hlayer hown hnone hmap]
    · obtain ⟨u, hcensus, hu⟩ := takeCensus_aborts hrun hmember hstep hlayer hown hnone hmap
      have hfabric := announceWhole_fabric u p
      refine ⟨u.announceWhole p, hexec.trans (congrArg Host.Outcome.next hcensus), by rw [← hu]; exact hfabric, fun hlower => ?_⟩
      have hmembers : (u.part p).exp.members = (s.part p).exp.members := by rw [hu, part_modPart_same]
      have hself : u.self = s.self := by rw [hu]; rfl
      rw [announceWhole_not_lowest (by rw [hmembers, hself]; exact hlower), hu]
      rfl
  · refine ⟨fun hlost => ?_, fun hkept => ⟨fun hue => ?_, fun d hue hplace hd hrun hcheck => ?_⟩⟩
    · rw [admission_aborts hs hy ha hb hall hlost, abortHalf_eq]
      rfl
    · obtain ⟨u, hu, hadm, hexec⟩ := admission_admits (own := own) (ue := ue) hs hy ha hb hall hkept
      have hsent := StaysAdmitted.sendTokens (p := p) (l := l) (h := h) (bs := y.blocks) (as := (s.runAdmission p l y.blocks).assigns) u
        (s.runAdmission p l y.blocks).assigns own
      obtain ⟨z, hz, hzadm, hzblocks, hzassigns⟩ := hsent.admitted hadm
      have hall' := hu.trans hsent.kept
      subst hue
      exact ⟨_, z, hexec, hz, hzadm, hzblocks, hzassigns, hall'.expStep, hall'.mapVersion, hall'.requests, hall'.mem, hall'.sec, hall'.power⟩
    · obtain ⟨u, hu, -, hexec⟩ := admission_admits (own := own) (ue := ue) hs hy ha hb hall hkept
      obtain ⟨t, hfails, hfailed, hmem⟩ := exchangeFails_fails (s := u) (p := p) (d := d) (by rw [hu.place]; exact hplace) hd
        (by rw [hu.step]; exact hrun) (by rw [hu.step]; exact hcheck)
      refine ⟨t, ?_, hfailed, hmem.trans hu.mem⟩
      subst hue
      rw [hexec, hfails]

end Sys2Proof.Machine
end

section
/-! SUPPORT. What the journal keeps: the records of a partition go on to the witness and to the JNL ring, and stay the same records
(R731, R732, R739, R744). -/

namespace Sys2Proof.Machine

/-! ### The records of a partition go on (R739) -/

/-- What a record says, of which request, and what happens when it is durable. -/
def PendRec.content (r : PendRec) : JBody × Nat × OnDurable := (r.jrec.body, r.jrec.request, r.effect)

theorem recordsOf_eq (s : State) (p : Part) : s.recordsOf p = (s.part p).jnl.recs.map PendRec.content := rfl

/-- Two states between which the journal of partition `p` has nothing more to say: its records have the same contents, and the
requests, package memory, the other partitions, security and power are as they were. -/
structure JournalKept (p : Part) (s t : State) : Prop where
  requests : (t.part p).requests = (s.part p).requests
  other : ∀ q, q ≠ p → t.part q = s.part q
  mem : t.mem = s.mem
  sec : t.sec = s.sec
  power : t.power = s.power
  records : t.recordsOf p = s.recordsOf p

/-- Of the partition, at most rings and journal differ. -/
structure JnlPumped (p : Part) (s t : State) : Prop where
  kept : JournalKept p s t
  part : t.part p = { s.part p with rings := (t.part p).rings, jnl := (t.part p).jnl }

section
variable {p : Part} {s t u : State}

theorem JournalKept.refl (p : Part) (s : State) : JournalKept p s s := ⟨rfl, fun _ _ => rfl, rfl, rfl, rfl, rfl⟩

theorem JournalKept.trans (h : JournalKept p s t) (g : JournalKept p t u) : JournalKept p s u :=
  ⟨g.requests.trans h.requests, fun q hq => (g.other q hq).trans (h.other q hq), g.mem.trans h.mem, g.sec.trans h.sec,
    g.power.trans h.power, g.records.trans h.records⟩

theorem JournalKept.modPart (s : State) (p : Part) {f : Partition → Partition} (hreq : (f (s.part p)).requests = (s.part p).requests)
    (hrec : (f (s.part p)).jnl.recs.map PendRec.content = (s.part p).jnl.recs.map PendRec.content) : JournalKept p s (s.modPart p f) :=
  ⟨by rw [part_modPart_same, hreq], fun _ hq => part_modPart_other s p _ f hq, rfl, rfl, rfl, by
    rw [recordsOf_eq, part_modPart_same, hrec, recordsOf_eq]⟩

theorem JournalKept.modCmd (s : State) (p : Part) (o : Nat) (f : Cmd → Cmd) : JournalKept p s (s.modCmd p o f) :=
  JournalKept.modPart s p rfl rfl

theorem JnlPumped.refl (p : Part) (s : State) : JnlPumped p s s := ⟨JournalKept.refl p s, rfl⟩

theorem JnlPumped.trans (h : JnlPumped p s t) (g : JnlPumped p t u) : JnlPumped p s u :=
  ⟨h.kept.trans g.kept,
    g.part.trans (congrArg (fun x : Partition => { x with rings := (u.part p).rings, jnl := (u.part p).jnl }) h.part)⟩

theorem JnlPumped.cmds (h : JnlPumped p s t) : (t.part p).cmds = (s.part p).cmds := by
  rw [h.part]

theorem JnlPumped.step (h : JnlPumped p s t) : (t.part p).step = (s.part p).step := by
  rw [h.part]

theorem JnlPumped.of_parts (hparts : t.parts = s.parts) (hmem : t.mem = s.mem) (hsec : t.sec = s.sec) (hpower : t.power = s.power) :
    JnlPumped p s t := by
  have hpart : ∀ q, t.part q = s.part q := fun q => by simp only [State.part, hparts]
  exact ⟨⟨by rw [hpart], fun q _ => hpart q, hmem, hsec, hpower, by rw [recordsOf_eq, hpart, recordsOf_eq]⟩, by rw [hpart]⟩

theorem FabricOnly.jnlPumped (h : FabricOnly s t) : JnlPumped p s t :=
  JnlPumped.of_parts h.parts h.mem h.sec (congrArg State.power h :)

theorem JnlPumped.modJnl (s : State) (p : Part) {f : Journal → Journal}
    (hf : (f (s.part p).jnl).recs.map PendRec.content = (s.part p).jnl.recs.map PendRec.content) : JnlPumped p s (s.modJnl p f) :=
  ⟨JournalKept.modPart s p rfl hf, by rw [State.modJnl, part_modPart_same]⟩

theorem JnlPumped.modRing (s : State) (p : Part) (n : RingNo) (f : Ring → Ring) : JnlPumped p s (s.modRing p n f) :=
  ⟨JournalKept.modPart s p rfl rfl, by rw [State.modRing, part_modPart_same]⟩

/-- An operation that leaves all but one ring of the partition, and the other partitions, is none of the journal's. -/
theorem JnlPumped.of_ringOnly {n : RingNo} (h : PartOnly p s t) (hring : RingOnly p n s t) : JnlPumped p s t := by
  have he := h.eq
  refine ⟨⟨by rw [hring.1], fun q hq => h.other hq, h.mem, (congrArg State.sec he :), (congrArg State.power he :), ?_⟩, by rw [hring.1]⟩
  rw [recordsOf_eq, hring.1, recordsOf_eq]

theorem JnlPumped.raiseEvent (s : State) (p : Part) (code : W16) (subject arg : Nat) : JnlPumped p s (s.raiseEvent p code subject arg) := by
  unfold State.raiseEvent
  split
  · exact JnlPumped.of_ringOnly (PartOnly.post p s _ _) (RingOnly.post p _ s _)
  · exact JnlPumped.of_parts rfl rfl rfl rfl

end

/-! ### The steps of R739 -/

theorem markUnsent_content {f : PendRec → PendRec} (hf : ∀ r, (f r).content = r.content) :
    ∀ (n : Nat) (rs : List PendRec), (markUnsent f n rs).map PendRec.content = rs.map PendRec.content
  | 0, rs => by rw [markUnsent]
  | _ + 1, [] => by rw [markUnsent]; exact Nat.succ_ne_zero _
  | n + 1, r :: rs => by
    rw [markUnsent]
    split
    · rw [List.map_cons, hf, markUnsent_content hf n rs, List.map_cons]
    · rw [List.map_cons, markUnsent_content hf (n + 1) rs, List.map_cons]

theorem numberRecords_content : ∀ (i : Nat) (rs : List PendRec), (numberRecords i rs).map PendRec.content = rs.map PendRec.content
  | _, [] => rfl
  | i, r :: rs => by
    rw [numberRecords]
    split
    · rw [List.map_cons, numberRecords_content (i + 1) rs]; rfl
    · rw [List.map_cons, numberRecords_content i rs, List.map_cons]

theorem sendRecords_pumped (p : Part) : ∀ (n : Nat) (s : State), JnlPumped p s (State.sendRecords p n s)
  | 0, s => JnlPumped.refl p s
  | n + 1, s => by
    unfold State.sendRecords
    extract_lets j ready room w
    clear_value ready
    cases ready with
    | nil => exact JnlPumped.refl p s
    | cons r rest =>
      dsimp only
      split
      · exact JnlPumped.refl p s
      · exact ((FabricOnly.sendAcked s tyMsg 0 w.1 w.2 0 _ _ none).jnlPumped.trans
          (JnlPumped.modJnl _ p (markUnsent_content (fun _ => by rfl) _ _))).trans (sendRecords_pumped p n _)

/-- Records that reach the JNL ring stay the same records. -/
theorem writeRecords_pumped (p : Part) : ∀ (rs : List PendRec) (s : State),
    JnlPumped p s (State.writeRecords p rs s).1 ∧ (State.writeRecords p rs s).2.map PendRec.content = rs.map PendRec.content
  | [], s => ⟨JnlPumped.refl p s, rfl⟩
  | r :: rs, s => by
    unfold State.writeRecords
    split
    · obtain ⟨hstate, hrecs⟩ := writeRecords_pumped p rs s
      exact ⟨hstate, by rw [List.map_cons, hrecs, List.map_cons]⟩
    · split
      · exact ⟨JnlPumped.refl p s, rfl⟩
      · extract_lets i j₀ j s₁ full s₂ s₃ x
        have h₂ : JnlPumped p s s₂ := (JnlPumped.of_parts rfl rfl rfl rfl : JnlPumped p s s₁).trans (JnlPumped.modRing s₁ p jnlRing _)
        have h₃ : JnlPumped p s₂ s₃ := by
          simp only [s₃]
          split
          · exact JnlPumped.raiseEvent s₂ p _ _ _
          · exact JnlPumped.refl p s₂
        obtain ⟨hstate, hrecs⟩ := writeRecords_pumped p rs s₃
        exact ⟨(h₂.trans h₃).trans hstate, by rw [List.map_cons, hrecs]; rfl⟩

theorem flushJournal_pumped (s : State) (p : Part) : JnlPumped p s (s.flushJournal p) := by
  unfold State.flushJournal
  extract_lets n j
  split
  · exact JnlPumped.refl p s
  · exact (JnlPumped.modJnl (f := fun j => { j with flushing := true, flushTo := n }) s p rfl).trans
      (JnlPumped.of_parts rfl rfl rfl rfl)

theorem pumpJournal_pumped (s : State) (p : Part) : JnlPumped p s (s.pumpJournal p) := by
  unfold State.pumpJournal
  extract_lets s₁ s₂ x
  have h₁ : JnlPumped p s s₁ := JnlPumped.modJnl s p (numberRecords_content _ _)
  have h₂ : JnlPumped p s₁ s₂ := by
    simp only [s₂]
    split
    · exact sendRecords_pumped p _ s₁
    · exact JnlPumped.refl p s₁
  obtain ⟨hstate, hrecs⟩ := writeRecords_pumped p (s₂.part p).jnl.recs s₂
  have h₃ : JnlPumped p x.1 (x.1.modJnl p (fun j => { j with recs := x.2 })) :=
    JnlPumped.modJnl x.1 p (hrecs.trans (hstate.kept.records.symm.trans (recordsOf_eq x.1 p)))
  exact (((h₁.trans h₂).trans hstate).trans h₃).trans (flushJournal_pumped _ p)

/-- The records written come after those that were there. -/
theorem recordsOf_modJnl_append (s : State) (p : Part) (rs : List PendRec) :
    (s.modJnl p (fun j => { j with recs := j.recs ++ rs })).recordsOf p = s.recordsOf p ++ rs.map PendRec.content := by
  rw [recordsOf_eq, State.modJnl, part_modPart_same, List.map_append, recordsOf_eq]

/-! ### A command that writes its records (R731, R732) -/

theorem zipIdx_last {α β : Type} (l : List α) (a : α) (x y : β) :
    (l ++ [a]).zipIdx.map (fun r => (r.1, if r.2 = (l ++ [a]).length - 1 then x else y)) = l.map (fun b => (b, y)) ++ [(a, x)] := by
  refine List.ext_getElem (by simp) (fun i hi _ => ?_)
  simp only [List.length_map, List.length_zipIdx, List.length_append, List.length_cons, List.length_nil] at hi
  by_cases hl : i < l.length
  · simp [List.getElem_append_left, hl, Nat.ne_of_lt hl]
  · have hi' : i = l.length := by omega
    subst hi'
    simp


section
variable {p : Part} {s t : State} {o : Nat} {st : CmdStage}

theorem StageIs.of_cmds (h : StageIs s p o st) (hcmds : (t.part p).cmds = (s.part p).cmds) : StageIs t p o st := by
  rw [StageIs, hcmds]
  exact h

theorem stageIs_setStage (h : ∃ e ∈ (s.part p).cmds, e.order = o) (st : CmdStage) : StageIs (s.setStage p o st) p o st := by
  have hcmds : ((s.setStage p o st).part p).cmds =
      (s.part p).cmds.map (fun d => if d.order = o then { d with stage := st } else d) := by
    rw [State.setStage, State.modCmd, part_modPart_same]
  obtain ⟨e, he, ho⟩ := h
  rw [StageIs, hcmds]
  refine ⟨⟨{ e with stage := st }, List.mem_map.2 ⟨e, he, if_pos ho⟩, ho⟩, fun x hx hxo => ?_⟩
  obtain ⟨d, -, rfl⟩ := List.mem_map.1 hx
  by_cases hd : d.order = o
  · rw [if_pos hd]
  · rw [if_neg hd] at hxo
    exact absurd hxo hd

/-- FENCEs that start leave the stage of a command that is under way. -/
theorem StageIs.startFences (h : StageIs t p o st) (hst : st ≠ .held) : StageIs (t.modPart p Partition.startFences) p o st := by
  obtain ⟨⟨e, he, ho⟩, hall⟩ := h
  have hcmds : ((t.modPart p Partition.startFences).part p).cmds = (t.part p).cmds.map (startFence (t.part p).cmds) := by
    rw [part_modPart_same, Partition.startFences]
  rw [StageIs, hcmds]
  refine ⟨⟨_, List.mem_map_of_mem he, (startFence_order _ e).trans ho⟩, fun x hx hxo => ?_⟩
  obtain ⟨d, hd, rfl⟩ := List.mem_map.1 hx
  rw [startFence_order] at hxo
  rw [startFence_of_not_held (by rw [hall d hd hxo]; exact hst), hall d hd hxo]

end

theorem Journalled.startFences {s t : State} {p : Part} {c : Cmd} {id first count : Nat} {payload : List Byte} {bodies : List JBody}
    (h : Journalled s t p c id first count payload bodies) :
    Journalled s (t.modPart p Partition.startFences) p c id first count payload bodies := by
  obtain ⟨hstage, hreq, hother, hmem, hsec, hpower, hrecs⟩ := h
  have hkept : JournalKept p t (t.modPart p Partition.startFences) := JournalKept.modPart t p rfl rfl
  exact ⟨hstage.startFences (by decide), hkept.requests.trans hreq, fun q hq => (hkept.other q hq).trans (hother q hq),
    hkept.mem.trans hmem, hkept.sec.trans hsec, hkept.power.trans hpower, hkept.records.trans hrecs⟩

/-- What the records of a command hold: `bodies`, the carriers of its payload, and the head that accepts it. -/
theorem content_headRecords (s : State) (p : Part) (c : Cmd) (id first count : Nat) (epoch : W16) (payload : List Byte) {pre : List JRec}
    {bodies : List JBody} (hpre : pre.map (fun r => (r.body, r.request)) = bodies.map (fun b => (b, id))) {recs : List JRec}
    (hrecs : recs = pre ++ s.headRecords p id epoch c.ring c.opcode c.seq first count c.client c.be payload) :
    (recs.zipIdx.map (fun r => (r.1, if r.2 = recs.length - 1 then OnDurable.accept c.order else .nothing))).map
        (fun r => PendRec.content { jrec := r.1, effect := r.2 }) =
      bodies.map (fun b => (b, id, .nothing)) ++
        [0, 1, 2].map (fun i => (.carrier i c.client c.be (sliceAt payload (16 * i) 16), id, .nothing)) ++
        [(.head c.opcode c.seq first count, id, .accept c.order)] := by
  have hcommits : pre.map (fun r => (r.body, r.request, OnDurable.nothing)) = bodies.map (fun b => (b, id, .nothing)) := by
    have h := congrArg (List.map (fun x : JBody × Nat => (x.1, x.2, OnDurable.nothing))) hpre
    simpa only [List.map_map, Function.comp_def] using h
  rw [hrecs, State.headRecords, ← List.append_assoc, zipIdx_last, List.map_append, List.map_map, List.map_append, ← hcommits]
  rfl

/-- A command that writes its records from a state in which nothing is journalled since `s` has journalled them since `s`. -/
theorem journalCommand_journalled {s v : State} {p : Part} {c : Cmd} (hkept : JournalKept p s v) (hc : ∃ e ∈ (v.part p).cmds, e.order = c.order)
    {pre : List JRec} {bodies : List JBody} {id : Nat} (hpre : pre.map (fun r => (r.body, r.request)) = bodies.map (fun b => (b, id)))
    (epoch : W16) (first count : Nat) (payload : List Byte) :
    Journalled s (v.journalCommand p c pre id epoch first count c.client c.be payload) p c id first count payload bodies := by
  unfold State.journalCommand State.writeJournal
  extract_lets recs n
  let u := v.setStage p c.order .journalled
  have hset : JournalKept p v u := JournalKept.modCmd v p c.order _
  have hstage : StageIs u p c.order .journalled := stageIs_setStage hc .journalled
  have hpumped := pumpJournal_pumped
    (u.modJnl p (fun j => { j with recs := j.recs ++ (recs.zipIdx.map (fun r =>
      (r.1, if r.2 = n then OnDurable.accept c.order else .nothing))).map (fun r => { jrec := r.1, effect := r.2 }) })) p
  obtain ⟨hreq, hother, hmem, hsec, hpower, hrecs⟩ := hpumped.kept
  have hjnl : ∀ f, ((u.modJnl p f).part p).requests = (u.part p).requests ∧ ((u.modJnl p f).part p).cmds = (u.part p).cmds ∧
      ∀ q, q ≠ p → (u.modJnl p f).part q = u.part q := fun f =>
    ⟨by rw [State.modJnl, part_modPart_same], by rw [State.modJnl, part_modPart_same], fun q hq => part_modPart_other u p q _ hq⟩
  have hall := hkept.trans hset
  refine ⟨hstage.of_cmds (hpumped.cmds.trans (hjnl _).2.1), (hreq.trans (hjnl _).1).trans hall.requests,
    fun q hq => ((hother q hq).trans ((hjnl _).2.2 q hq)).trans (hall.other q hq), hmem.trans hall.mem, hsec.trans hall.sec,
    hpower.trans hall.power, ?_⟩
  rw [hrecs, recordsOf_modJnl_append, hall.records, List.map_map, List.append_assoc, List.append_assoc]
  congr 1
  have h := content_headRecords v p c id first count epoch payload hpre (recs := recs) rfl
  rw [List.append_assoc] at h
  exact h

/-- The COMMIT records of input tokens hold the tokens' groups (R731). -/
theorem inputRecords_bodies (s : State) (p : Part) (id : Nat) (epoch : W16) (ring : CmdRing) (reseed : Bool) (first : Nat) (ts : List W32) :
    (s.inputRecords p id epoch ring reseed first ts).map (fun r => (r.body, r.request)) =
      (commitBodies first ts).map (fun b => (b, id)) := by
  rw [State.inputRecords, List.map_map]
  rfl

/-- Numbering an ACCEPT and keeping a command's tokens journals nothing and leaves the command where it is. -/
theorem numberAccept_kept (s : State) (p : Part) (o : Nat) : JournalKept p s (s.numberAccept p o) :=
  (JnlPumped.modJnl (f := fun j => { j with accepts := (s.part p).jnl.accepts + 1 }) s p rfl).kept.trans (JournalKept.modCmd _ p o _)

theorem keepTokens_kept (s : State) (p : Part) (o : Nat) (ts : List W32) : JournalKept p s (s.keepTokens p o ts) :=
  JournalKept.modPart s p rfl rfl

theorem started_kept (s : State) (p : Part) (c : Cmd) : JournalKept p s (s.started p c) := JournalKept.modCmd s p c.order _

theorem mem_cmds_modCmd {s : State} {p : Part} {k o : Nat} {f : Cmd → Cmd} (hf : ∀ c, (f c).order = c.order)
    (h : ∃ e ∈ (s.part p).cmds, e.order = o) : ∃ e ∈ ((s.modCmd p k f).part p).cmds, e.order = o := by
  obtain ⟨e, he, ho⟩ := h
  rw [State.modCmd, part_modPart_same]
  refine ⟨_, List.mem_map_of_mem he, ?_⟩
  split
  · rw [hf, ho]
  · exact ho

theorem mem_cmds_numberAccept {s : State} {p : Part} {k o : Nat} (h : ∃ e ∈ (s.part p).cmds, e.order = o) :
    ∃ e ∈ ((s.numberAccept p k).part p).cmds, e.order = o := by
  refine mem_cmds_modCmd (fun _ => rfl) ?_
  rw [State.modJnl, part_modPart_same]
  exact h

theorem mem_cmds_keepTokens {s : State} {p : Part} {k o : Nat} {ts : List W32} (h : ∃ e ∈ (s.part p).cmds, e.order = o) :
    ∃ e ∈ ((s.keepTokens p k ts).part p).cmds, e.order = o := by
  rw [State.keepTokens, part_modPart_same]
  exact h

/-- A command that brings tokens keeps them, is numbered and writes its records. -/
theorem keepTokens_journalled {s v : State} {p : Part} {c : Cmd} (hkept : JournalKept p s v) (hc : ∃ e ∈ (v.part p).cmds, e.order = c.order)
    (ts : List W32) {pre : List JRec} {bodies : List JBody} {id : Nat}
    (hpre : pre.map (fun r => (r.body, r.request)) = bodies.map (fun b => (b, id))) (epoch : W16) (first count : Nat) (payload : List Byte) :
    Journalled s (((v.keepTokens p c.order ts).numberAccept p c.order).journalCommand p c pre id epoch first count c.client c.be payload) p c
      id first count payload bodies :=
  journalCommand_journalled ((hkept.trans (keepTokens_kept v p c.order ts)).trans (numberAccept_kept _ p c.order))
    (mem_cmds_numberAccept (mem_cmds_keepTokens hc)) hpre epoch first count payload

/-- A command that resumes a request writes its history as records of a restore (R731, R763). -/
theorem journalResume_journalled {s v : State} {p : Part} {c : Cmd} (hkept : JournalKept p s v) (hc : ∃ e ∈ (v.part p).cmds, e.order = c.order)
    (x : Restore) (ts : List W32) :
    Journalled s (v.journalResume p c x ts) p c x.request 0 ts.length (restoreBytes { x with count := ts.length }) (commitBodies 0 ts) := by
  unfold State.journalResume
  extract_lets u
  have hu : JournalKept p v u := (keepTokens_kept v p c.order ts).trans (JournalKept.modPart _ p rfl rfl)
  have hcu : ∃ e ∈ (u.part p).cmds, e.order = c.order := by
    simp only [u, part_modPart_same]
    exact mem_cmds_keepTokens hc
  exact journalCommand_journalled ((hkept.trans hu).trans (numberAccept_kept u p c.order)) (mem_cmds_numberAccept hcu)
    (inputRecords_bodies _ p x.request x.epoch c.ring true 0 ts) x.epoch 0 ts.length _

theorem exec_admitRequest (p : Part) (r : CmdRing) (d : HostData) (s : State) :
    exec (.admitRequest p r d) s = execAdmitRequest p r d s := rfl
theorem exec_appendTokens (p : Part) (r : CmdRing) (d : HostData) (s : State) :
    exec (.appendTokens p r d) s = execAppendTokens p r d s := rfl

/-! ### The checks at the start of a command -/

section
variable (s : State) (p : Part) (c : Cmd)

theorem fn_started : ((s.started p c).part p).fn = (s.part p).fn := by
  rw [part_started]

theorem modelActive_started (model : Nat) : (s.started p c).modelActive p model = s.modelActive p model := by
  rw [State.modelActive, part_started]
  rfl

theorem slot_started (i : Nat) : ((s.started p c).part p).slot i = (s.part p).slot i := by
  rw [part_started]
  rfl

theorem infoOf_started (model : Nat) : (s.started p c).infoOf p model = s.infoOf p model := by
  simp only [State.infoOf, modelActive_started, slot_started]
  rfl

theorem tokensOk_started (model : Nat) (ts : List W32) : (s.started p c).tokensOk p model ts = s.tokensOk p model ts := by
  rw [State.tokensOk, infoOf_started, State.tokensOk]

theorem tokOn_started (bit : Bool) : (s.started p c).tokOn p bit = s.tokOn p bit := by
  rw [State.tokOn, State.ring, part_started, State.tokOn, State.ring]

theorem modelOk_started (model : Nat) : (s.started p c).modelOk p model = s.modelOk p model := by
  rw [State.modelOk, part_started]
  rfl

theorem swapClass_started : (s.started p c).swapClass p = s.swapClass p := rfl

theorem requestsFull_started : (s.started p c).requestsFull p = s.requestsFull p := by
  rw [State.requestsFull, requests_started, State.requestsFull]

theorem kvRanges_started : (s.started p c).kvRanges p = s.kvRanges p := by
  simp only [State.kvRanges, State.requestRanges, infoOf_started]
  rw [part_started]

theorem kvBytes_started : (s.started p c).kvBytes p = s.kvBytes p := by
  simp only [State.kvBytes, kvRanges_started, infoOf_started, requests_started]

theorem hbmLost_started : (s.started p c).hbmLost p = s.hbmLost p := rfl

theorem roomForRequest_started (model : Nat) : (s.started p c).roomForRequest p model = s.roomForRequest p model := by
  rw [State.roomForRequest, infoOf_started, State.hbmRoom, kvBytes_started, hbmLost_started, part_started]
  rfl

/-- The command itself is none of those that are about to make an ID live. -/
theorem idTaken_started (id : Nat) : (s.started p c).idTaken p c.begun id = s.idTaken p c id := by
  have hcmds : ((s.started p c).part p).cmds = (s.part p).cmds.map (fun y => if y.order = c.order then y.begun else y) := by
    rw [State.started, State.modCmd, part_modPart_same]
    rfl
  rw [State.idTaken, req?_started, hcmds, List.any_map, State.idTaken]
  congr 2
  funext y
  by_cases hy : y.order = c.order
  · simp [Function.comp, hy, Cmd.begun]
  · simp [Function.comp, hy, Cmd.begun]

end

/-- A command is still listed once it has started. -/
theorem mem_cmds_started {s : State} {p : Part} {c : Cmd} (hc : c ∈ (s.part p).cmds) :
    ∃ e ∈ ((s.started p c).part p).cmds, e.order = c.begun.order := mem_cmds_modCmd (fun _ => rfl) ⟨c, hc, rfl⟩

/-! ### Tokens of host memory -/

theorem hostTokens_bytes {bs : List Byte} {n : Nat} (h : bs.length = 4 * n) : hostTokens (.bytes bs) n = some (tokenWords bs) := by
  have hpad : padTo bs (4 * n) = bs := by simp [padTo, h]
  rw [hostTokens, hpad]

theorem length_tokenWords {bs : List Byte} {n : Nat} (h : bs.length = 4 * n) : (tokenWords bs).length = n := by
  simp [tokenWords, h]

/-- A command that starts and writes its records has journalled them. -/
theorem journalled_of_started {i : Instr} {s v : State} {p : Part} {c : Cmd} {id first count : Nat} {payload : List Byte}
    {bodies : List JBody} (hx : exec i s = .next (v.modPart p Partition.startFences))
    (hv : Journalled s v p c.begun id first count payload bodies) :
    ∃ t, exec i s = .next t ∧ Journalled s t p c id first count payload bodies :=
  ⟨_, hx, Journalled.startFences (c := c) hv⟩

/-! ### ADMIT_REQUEST (R604 to R611) -/

section
variable {s : State} {p : Part} {r : CmdRing} {c : Cmd} (hs : s.serving) (hc : (s.part p).nextCmd r opAdmit = some c)
include hs hc

theorem admit_quiescing (hq : (s.part p).fn.st = .quiescing) (d : HostData) : CompletesAtOnce (.admitRequest p r d) s s p c stState := by
  refine completesAtOnce_of_finish ?_ (started_cmdsOnly s p c)
  rw [exec_admitRequest, execAdmitRequest, inService_runCmd hs hc]
  simp only [fn_started, hq, if_true]

theorem admit_malformed (hq : (s.part p).fn.st ≠ .quiescing) {off : Nat} (hf : admitFault c = some off) (d : HostData) :
    CompletesAtOnce (.admitRequest p r d) s s p c stMalformed off := by
  have hf : admitFault c.begun = some off := hf
  refine completesAtOnce_of_finish ?_ (started_cmdsOnly s p c)
  rw [exec_admitRequest, execAdmitRequest, inService_runCmd hs hc]
  simp only [fn_started, hq, if_false, hf, State.malformed]

variable {bs : List Byte} (hq : (s.part p).fn.st ≠ .quiescing) (hf : admitFault c = none) (hlen : bs.length = 4 * c.field 0x14 4)
  (htok : s.tokensOk p (c.field 0x34 2) (tokenWords bs) = true)
include hq hf hlen htok

/-- ADMIT_REQUEST of a prompt without a field at fault: what may still be refused, and what is journalled. -/
theorem exec_admit_checked : exec (.admitRequest p r (.bytes bs)) s = .next ((
    if s.idTaken p c (c.field 0x10 4) || !s.tokOn p (bitOf (c.field 0x32 2) 0) || !s.modelOk p (c.field 0x34 2) ||
        (!s.swapClass p && !s.modelActive p 0) || c.unwitnessed then (s.started p c).finish p c.begun stState
    else if s.requestsFull p || !s.roomForRequest p (c.field 0x34 2) then (s.started p c).finish p c.begun stNoCapacity
    else
      (((s.started p c).keepTokens p c.order (tokenWords bs)).numberAccept p c.order).journalCommand p c.begun
        ((s.started p c).inputRecords p (c.field 0x10 4) 0 c.ring false 0 (tokenWords bs)) (c.field 0x10 4) 0 0 (tokenWords bs).length
        c.client c.be (restoreBytes ((admitted c (tokenWords bs) .waiting).restore (c.field 0x10 4)))).modPart p Partition.startFences) := by
  have hf : admitFault c.begun = none := hf
  rw [exec_admitRequest, execAdmitRequest, inService_runCmd hs hc]
  simp only [fn_started, hq, if_false, hf, Cmd.field_begun, hostTokens_bytes hlen, tokensOk_started, htok, Bool.not_true,
    Bool.false_eq_true, idTaken_started, tokOn_started, modelOk_started, modelActive_started, swapClass_started, requestsFull_started,
    roomForRequest_started]
  rfl

theorem admit_refused (h : s.idTaken p c (c.field 0x10 4) = true ∨ s.tokOn p (bitOf (c.field 0x32 2) 0) = false ∨
    s.modelOk p (c.field 0x34 2) = false ∨ (s.swapClass p = false ∧ s.modelActive p 0 = false) ∨ c.unwitnessed = true) :
    CompletesAtOnce (.admitRequest p r (.bytes bs)) s s p c stState := by
  refine completesAtOnce_of_finish ?_ (started_cmdsOnly s p c)
  rw [exec_admit_checked hs hc hq hf hlen htok, if_pos]
  simpa [or_assoc] using h

variable (hid : s.idTaken p c (c.field 0x10 4) = false) (hring : s.tokOn p (bitOf (c.field 0x32 2) 0) = true)
  (hmodel : s.modelOk p (c.field 0x34 2) = true) (hactive : s.swapClass p = true ∨ s.modelActive p 0 = true) (hwit : c.unwitnessed = false)
include hid hring hmodel hactive hwit

omit hs hc hq hf hlen htok in
theorem admit_unrefused : ¬(s.idTaken p c (c.field 0x10 4) || !s.tokOn p (bitOf (c.field 0x32 2) 0) || !s.modelOk p (c.field 0x34 2) ||
    (!s.swapClass p && !s.modelActive p 0) || c.unwitnessed) = true := by
  rcases hactive with h | h <;> simp [hid, hring, hmodel, hwit, h]

theorem admit_noCapacity (h : s.requestsFull p = true ∨ s.roomForRequest p (c.field 0x34 2) = false) :
    CompletesAtOnce (.admitRequest p r (.bytes bs)) s s p c stNoCapacity := by
  refine completesAtOnce_of_finish ?_ (started_cmdsOnly s p c)
  rw [exec_admit_checked hs hc hq hf hlen htok, if_neg (admit_unrefused hid hring hmodel hactive hwit), if_pos (by simpa using h)]

theorem admit_journalled (hfull : s.requestsFull p = false) (hroom : s.roomForRequest p (c.field 0x34 2) = true) :
    ∃ t, exec (.admitRequest p r (.bytes bs)) s = .next t ∧ Journalled s t p c (c.field 0x10 4) 0 (c.field 0x14 4)
      (restoreBytes ((admitted c (tokenWords bs) .waiting).restore (c.field 0x10 4))) (commitBodies 0 (tokenWords bs)) := by
  have hx := exec_admit_checked hs hc hq hf hlen htok
  rw [if_neg (admit_unrefused hid hring hmodel hactive hwit), if_neg (by simp [hfull, hroom]), length_tokenWords hlen] at hx
  exact journalled_of_started hx (keepTokens_journalled (started_kept s p c) (mem_cmds_started (mem_of_nextCmd hc)) _
    (inputRecords_bodies _ p _ 0 c.ring false 0 _) 0 0 _ _)

end

/-! ### APPEND_TOKENS (R615 to R617) -/

section
variable {s : State} {p : Part} {r : CmdRing} {c : Cmd} (hs : s.serving) (hc : (s.part p).nextCmd r opAppend = some c)
  {bs : List Byte} {q : Request} (hq : (s.part p).fn.st ≠ .quiescing) (hf : appendFault c = none) (hn : 0 < c.field 0x18 4)
  (hlen : bs.length = 4 * c.field 0x18 4) (hreq : s.req? p (c.field 0x10 4) = some q)
  (htok : s.tokensOk p q.model (tokenWords bs) = true)
include hs hc hq hf hn hlen hreq htok

/-- APPEND_TOKENS to a live request without a field at fault: what may still be refused, and what is journalled. -/
theorem exec_append_checked : exec (.appendTokens p r (.bytes bs)) s = .next ((
    if !(q.st = .idle) || q.closing.isSome || q.turn.isSome || c.unwitnessed then (s.started p c).finish p c.begun stState
    else if q.epoch.toNat ≠ c.field 0x14 2 then (s.started p c).finish p c.begun stEpoch
    else if 1048576 < q.committed + c.field 0x18 4 + c.field 0x1C 4 then (s.started p c).finish p c.begun stNoCapacity
    else
      (((s.started p c).keepTokens p c.order (tokenWords bs)).numberAccept p c.order).journalCommand p c.begun
        ((s.started p c).inputRecords p (c.field 0x10 4) q.epoch c.ring false q.committed (tokenWords bs)) (c.field 0x10 4) q.epoch
        q.committed (c.field 0x18 4) c.client c.be
        (restoreBytes ((q.append c (tokenWords bs) .waiting).restore (c.field 0x10 4)))).modPart p Partition.startFences) := by
  have hf : appendFault c.begun = none := hf
  rw [exec_appendTokens, execAppendTokens, inService_runCmd hs hc]
  simp only [fn_started, hq, if_false, hf, Cmd.field_begun, Nat.ne_of_gt hn, hostTokens_bytes hlen, req?_started, hreq, tokensOk_started,
    htok, Bool.not_true, Bool.false_eq_true]
  rfl

theorem append_refused (h : q.st ≠ .idle ∨ q.turn.isSome = true ∨ q.closing.isSome = true) :
    CompletesAtOnce (.appendTokens p r (.bytes bs)) s s p c stState := by
  refine completesAtOnce_of_finish ?_ (started_cmdsOnly s p c)
  rw [exec_append_checked hs hc hq hf hn hlen hreq htok, if_pos]
  rcases h with h | h | h <;> simp [h]

variable (hidle : q.st = .idle) (hclosing : q.closing = none) (hturn : q.turn = none) (hwit : c.unwitnessed = false)
include hidle hclosing hturn hwit

theorem append_wrongEpoch (h : q.epoch.toNat ≠ c.field 0x14 2) : CompletesAtOnce (.appendTokens p r (.bytes bs)) s s p c stEpoch := by
  refine completesAtOnce_of_finish ?_ (started_cmdsOnly s p c)
  rw [exec_append_checked hs hc hq hf hn hlen hreq htok, if_neg (by simp [hidle, hclosing, hturn, hwit]), if_pos h]

theorem append_tooLong (hepoch : q.epoch.toNat = c.field 0x14 2) (h : 1048576 < q.committed + c.field 0x18 4 + c.field 0x1C 4) :
    CompletesAtOnce (.appendTokens p r (.bytes bs)) s s p c stNoCapacity := by
  refine completesAtOnce_of_finish ?_ (started_cmdsOnly s p c)
  rw [exec_append_checked hs hc hq hf hn hlen hreq htok, if_neg (by simp [hidle, hclosing, hturn, hwit]), if_neg (not_not_intro hepoch),
    if_pos h]

theorem append_journalled (hepoch : q.epoch.toNat = c.field 0x14 2) (h : q.committed + c.field 0x18 4 + c.field 0x1C 4 ≤ 1048576) :
    ∃ t, exec (.appendTokens p r (.bytes bs)) s = .next t ∧ Journalled s t p c (c.field 0x10 4) q.committed (c.field 0x18 4)
      (restoreBytes ((q.append c (tokenWords bs) .waiting).restore (c.field 0x10 4))) (commitBodies q.committed (tokenWords bs)) := by
  have hx := exec_append_checked hs hc hq hf hn hlen hreq htok
  rw [if_neg (by simp [hidle, hclosing, hturn, hwit]), if_neg (not_not_intro hepoch), if_neg (Nat.not_lt.2 h)] at hx
  exact journalled_of_started hx (keepTokens_journalled (started_kept s p c) (mem_cmds_started (mem_of_nextCmd hc)) _
    (inputRecords_bodies _ p _ q.epoch c.ring false q.committed _) q.epoch q.committed _ _)

end

/-- Settles O32: each check of the two commands is a case of its own, and what passes them writes its records, which the pump of the
journal keeps as they are (`journalCommand_journalled`). -/
theorem admitAndAppendAreJournalled : Obligations.AdmitAndAppendAreJournalled := by
  unfold Obligations.AdmitAndAppendAreJournalled
  intro s p r c bs hs
  refine ⟨fun hc => ⟨fun hq => admit_quiescing hs hc hq _, fun hq off hf => admit_malformed hs hc hq hf _,
    fun hq hf hlen htok => ⟨admit_refused hs hc hq hf hlen htok, fun hid hring hmodel hactive hwit =>
      ⟨admit_noCapacity hs hc hq hf hlen htok hid hring hmodel hactive hwit,
        admit_journalled hs hc hq hf hlen htok hid hring hmodel hactive hwit⟩⟩⟩,
    fun q hc hq hf hn hlen hreq htok => ⟨append_refused hs hc hq hf hn hlen hreq htok, fun hidle hclosing hturn hwit =>
      ⟨append_wrongEpoch hs hc hq hf hn hlen hreq htok hidle hclosing hturn hwit,
        append_tooLong hs hc hq hf hn hlen hreq htok hidle hclosing hturn hwit,
        append_journalled hs hc hq hf hn hlen hreq htok hidle hclosing hturn hwit⟩⟩⟩

end Sys2Proof.Machine
end

section
/-! SUPPORT. The commands that resume a request, and the handover of a migration (R753 to R768). -/

namespace Sys2Proof.Machine

theorem exec_restoreRequest (p : Part) (r : CmdRing) (d : HostData) (s : State) :
    exec (.restoreRequest p r d) s = execRestoreRequest p r d s := rfl
theorem exec_migrateRequest (p : Part) (r : CmdRing) (s : State) : exec (.migrateRequest p r) s = execMigrateRequest p r s := rfl
theorem exec_migrateHandover (p : Part) (o : Nat) (h : Handover) (s : State) :
    exec (.migrateHandover p o h) s = execMigrateHandover p o h s := rfl

/-! ### A command that asks another node and waits -/

/-- A transfer to a node that is not fenced is unacknowledged once it is sent. -/
theorem sendAcked_unacked {s : State} {dst : Node} (h : s.fabric.fenced.contains dst = false) (typ : Byte) (tc : Fin 4) (p : Part) (a : W64)
    (arg : W32) (payload : List Byte) :
    (s.sendAcked typ tc dst p a arg payload).2.unacked (s.sendAcked typ tc dst p a arg payload).1 = true := by
  obtain ⟨x, hx, hpkt⟩ := sendAcked_held h typ tc p a arg payload none
  have hkey : (s.sendAcked typ tc dst p a arg payload).1 = xidKey dst tc (dget s.fabric.xids (4 * dst.val + tc.val) 0) := by
    unfold State.sendAcked
    rw [if_neg (by rw [h]; decide)]
  rw [State.unacked, List.any_eq_true]
  refine ⟨x, hx, ?_⟩
  rw [Held.key, hpkt, hkey]
  exact decide_eq_true rfl

/-- A command that is under way, waits for the answer to transfer `k`, and has done nothing else but what `f` keeps of it. -/
theorem asked {s v : State} {p : Part} {c : Cmd} {dst : Node} (hc : c ∈ (s.part p).cmds) (hmem : v.mem = s.mem) (hhost : v.host = s.host)
    (hsec : v.sec = s.sec) (hcmds : (v.part p).cmds = ((s.started p c).part p).cmds) (hreq : (v.part p).requests = (s.part p).requests)
    (hfenced : v.fabric.fenced.contains dst = false) (q : Part) (arg : W32) (payload : List Byte) {f : Nat → Partition → Partition}
    (hf : ∀ k x, (f k x).cmds = x.cmds ∧ (f k x).requests = x.requests) :
    let sent := v.sendAcked tyMsg 0 dst q 0 arg payload
    let t := (sent.2.modPart p (f sent.1)).modPart p Partition.startFences
    t.part p = (f sent.1 (v.part p)).startFences ∧ t.unacked sent.1 = true ∧ StageIs t p c.order .started ∧
      (t.part p).requests = (s.part p).requests ∧ t.mem = s.mem ∧ t.host = s.host ∧ t.sec = s.sec := by
  intro sent t
  have honly : FabricOnly v sent.2 := FabricOnly.sendAcked v tyMsg 0 dst q 0 arg payload none
  have hstage : StageIs (s.started p c) p c.order .started := stageIs_setStage ⟨c, hc, rfl⟩ .started
  have hpart : (sent.2.modPart p (f sent.1)).part p = f sent.1 (v.part p) := by rw [part_modPart_same, honly.part]
  have hcmds' : ((sent.2.modPart p (f sent.1)).part p).cmds = ((s.started p c).part p).cmds := by rw [hpart, (hf _ _).1, hcmds]
  refine ⟨?_, sendAcked_unacked hfenced tyMsg 0 q 0 arg payload, (hstage.of_cmds hcmds').startFences (by decide), ?_,
    honly.mem.trans hmem, (congrArg State.host (honly : sent.2 = _)).trans hhost, honly.sec.trans hsec⟩
  · rw [part_modPart_same, hpart]
  · rw [part_modPart_same, hpart, Partition.startFences, (hf _ _).2, hreq]

/-- Tokens that a command keeps go with it when it completes. -/
theorem completed_of_keepTokens {s t : State} {p : Part} {c : Cmd} {o : Nat} {ts : List W32} {st : W16} {info result : Nat}
    (h : Completed (s.keepTokens p o ts) t p c st info result) : Completed s t p c st info result := by
  obtain ⟨honly, hpart, hgone, hothers, hrings, hpi, hhost⟩ := h
  have hring : ∀ m, (s.keepTokens p o ts).ring p m = s.ring p m := fun m => ring_modPart s p _ rfl m
  have hcmd : ∀ k, (s.keepTokens p o ts).cmd? p k = s.cmd? p k := fun k => by
    simp only [State.cmd?, State.keepTokens, part_modPart_same]
  have hslot : (s.keepTokens p o ts).cplSlot p c.ring = s.cplSlot p c.ring := by
    simp only [State.cplSlot, hring]
    rfl
  refine ⟨(PartOnly.modPart p s _).trans honly, ?_, hgone, fun k hk => (hothers k hk).trans (congrArg _ (hcmd k)),
    fun m h1 h2 => (hrings m h1 h2).trans (hring m), ?_, ?_⟩
  · rw [State.keepTokens, part_modPart_same] at hpart
    exact hpart
  · rw [hpi, hring]
  · rw [hslot, hring, State.cplApart, hslot] at hhost
    exact hhost

/-! ### RESTORE_REQUEST (R761 to R764, R757) -/

/-- What a RESTORE_REQUEST that has passed its checks does: it writes its records, or claims first (R757, R762). -/
def State.restoreGoesOn (s : State) (p : Part) (c : Cmd) (ts : List W32) : State :=
  let o := c.field 0x42 2
  let a : ClaimAsk := { origin := Fin.ofNat 512 (o % 512), part := Fin.ofNat 16 (o / 512), request := c.field 0x10 4,
                        epoch := BitVec.ofNat 16 (c.field 0x14 2), claimPart := p }
  let node : Node := Fin.ofNat 512 (c.field 0x40 2 % 512)
  let wp : Part := Fin.ofNat 16 (bitsOf (c.field 0x40 2) 9 4)
  let u := s.keepTokens p c.order ts
  if !bitOf (c.field 0x40 2) 15 then s.journalResume p c (restoreOf c) ts
  else if node = s.self then
    match (u.takeClaim wp a u.self none (some (p, c.order))).1 with
    | some st => (u.takeClaim wp a u.self none (some (p, c.order))).2.finish p c st
    | none => (u.takeClaim wp a u.self none (some (p, c.order))).2
  else if s.fabric.fenced.contains node then u.finish p c stNodeLost
  else
    let sent := u.sendAcked tyMsg 0 node wp 0 (Config.messageKind kindClaim)
      (Config.messageBody [a.origin.val, a.part.val, a.request, a.epoch.toNat, p.val])
    sent.2.modPart p (fun z => { z with claimsOut := z.claimsOut ++ [(c.order, sent.1)] })

section
variable {s : State} {p : Part} {c : Cmd} {ts : List W32}

theorem restoreGoesOn_unclaimed (hclaim : bitOf (c.field 0x40 2) 15 = false) :
    s.restoreGoesOn p c ts = s.journalResume p c (restoreOf c) ts := by
  rw [State.restoreGoesOn, if_pos (by rw [hclaim]; rfl)]

variable (hclaim : bitOf (c.field 0x40 2) 15 = true) (hnode : (Fin.ofNat 512 (c.field 0x40 2 % 512) : Node) ≠ s.self)
include hclaim hnode

theorem restoreGoesOn_fenced (hfenced : s.fabric.fenced.contains (Fin.ofNat 512 (c.field 0x40 2 % 512) : Node) = true) :
    s.restoreGoesOn p c ts = (s.keepTokens p c.order ts).finish p c stNodeLost := by
  rw [State.restoreGoesOn, if_neg (by rw [hclaim]; decide), if_neg hnode, if_pos hfenced]

/-- A restore with a claim at a node that is not fenced sends the claim there. -/
theorem restoreGoesOn_claims (hfenced : s.fabric.fenced.contains (Fin.ofNat 512 (c.field 0x40 2 % 512) : Node) = false) :
    ∃ wp arg payload,
      let sent := (s.keepTokens p c.order ts).sendAcked tyMsg 0 (Fin.ofNat 512 (c.field 0x40 2 % 512)) wp 0 arg payload
      s.restoreGoesOn p c ts = sent.2.modPart p (fun z => { z with claimsOut := z.claimsOut ++ [(c.order, sent.1)] }) := by
  rw [State.restoreGoesOn, if_neg (by rw [hclaim]; decide), if_neg hnode, if_neg (by rw [hfenced]; decide)]
  exact ⟨_, _, _, rfl⟩

end

section
variable {s : State} {p : Part} {r : CmdRing} {c : Cmd} {bs : List Byte} (hs : s.serving) (hc : (s.part p).nextCmd r opRestore = some c)
  (hf : restoreFault c = none) (hlen : bs.length = 4 * c.field 0x18 4) (htok : s.tokensOk p (c.field 0x36 2) (tokenWords bs) = true)
include hs hc hf hlen htok

/-- RESTORE_REQUEST of a history without a field at fault: what may still be refused. -/
theorem exec_restore_checked : exec (.restoreRequest p r (.bytes bs)) s = .next ((
    if s.idTaken p c (c.field 0x10 4) || !s.tokOn p (bitOf (c.field 0x16 2) 0) || !s.modelOk p (c.field 0x36 2) || c.unwitnessed then
      (s.started p c).finish p c.begun stState
    else if c.field 0x14 2 = 0xFFFF then (s.started p c).finish p c.begun stEpoch
    else if s.requestsFull p || !s.roomForRequest p (c.field 0x36 2) then (s.started p c).finish p c.begun stNoCapacity
    else (s.started p c).restoreGoesOn p c.begun (tokenWords bs)).modPart p Partition.startFences) := by
  have hf : restoreFault c.begun = none := hf
  rw [exec_restoreRequest, execRestoreRequest, inService_runCmd hs hc]
  simp only [restoreOf, hf, Cmd.field_begun, hostTokens_bytes hlen, tokensOk_started, htok, Bool.not_true, Bool.false_eq_true, if_false,
    idTaken_started, tokOn_started, modelOk_started, requestsFull_started, roomForRequest_started]
  rfl

theorem restore_taken (hid : s.idTaken p c (c.field 0x10 4) = true) : CompletesAtOnce (.restoreRequest p r (.bytes bs)) s s p c stState := by
  refine completesAtOnce_of_finish ?_ (started_cmdsOnly s p c)
  rw [exec_restore_checked hs hc hf hlen htok, if_pos (by simp [hid])]

variable (hid : s.idTaken p c (c.field 0x10 4) = false) (hring : s.tokOn p (bitOf (c.field 0x16 2) 0) = true)
  (hmodel : s.modelOk p (c.field 0x36 2) = true) (hwit : c.unwitnessed = false)
include hid hring hmodel hwit

theorem restore_lastEpoch (he : c.field 0x14 2 = 0xFFFF) : CompletesAtOnce (.restoreRequest p r (.bytes bs)) s s p c stEpoch := by
  refine completesAtOnce_of_finish ?_ (started_cmdsOnly s p c)
  rw [exec_restore_checked hs hc hf hlen htok, if_neg (by simp [hid, hring, hmodel, hwit]), if_pos he]

variable (he : c.field 0x14 2 ≠ 0xFFFF)
include he

theorem restore_noCapacity (h : s.requestsFull p = true ∨ s.roomForRequest p (c.field 0x36 2) = false) :
    CompletesAtOnce (.restoreRequest p r (.bytes bs)) s s p c stNoCapacity := by
  refine completesAtOnce_of_finish ?_ (started_cmdsOnly s p c)
  rw [exec_restore_checked hs hc hf hlen htok, if_neg (by simp [hid, hring, hmodel, hwit]), if_neg he, if_pos (by simpa using h)]

variable (hfull : s.requestsFull p = false) (hroom : s.roomForRequest p (c.field 0x36 2) = true)
include hfull hroom

theorem exec_restore_passed : exec (.restoreRequest p r (.bytes bs)) s =
    .next (((s.started p c).restoreGoesOn p c.begun (tokenWords bs)).modPart p Partition.startFences) := by
  rw [exec_restore_checked hs hc hf hlen htok, if_neg (by simp [hid, hring, hmodel, hwit]), if_neg he, if_neg (by simp [hfull, hroom])]

theorem restore_journalled (hclaim : bitOf (c.field 0x40 2) 15 = false) : ∃ t, exec (.restoreRequest p r (.bytes bs)) s = .next t ∧
    Journalled s t p c (c.field 0x10 4) 0 (c.field 0x18 4) (restoreBytes { restoreOf c with count := (tokenWords bs).length })
      (commitBodies 0 (tokenWords bs)) := by
  have hx := exec_restore_passed hs hc hf hlen htok hid hring hmodel hwit he hfull hroom
  rw [restoreGoesOn_unclaimed (c := c.begun) hclaim] at hx
  have hv := journalResume_journalled (started_kept s p c) (mem_cmds_started (mem_of_nextCmd hc)) (restoreOf c.begun) (tokenWords bs)
  exact length_tokenWords hlen ▸ journalled_of_started hx hv

variable (hclaim : bitOf (c.field 0x40 2) 15 = true) (hnode : (Fin.ofNat 512 (c.field 0x40 2 % 512) : Node) ≠ s.self)
include hclaim hnode

theorem restore_claimFenced (hfenced : s.fabric.fenced.contains (Fin.ofNat 512 (c.field 0x40 2 % 512) : Node) = true) :
    CompletesAtOnce (.restoreRequest p r (.bytes bs)) s s p c stNodeLost := by
  have hx := exec_restore_passed hs hc hf hlen htok hid hring hmodel hwit he hfull hroom
  rw [restoreGoesOn_fenced (s := s.started p c) (c := c.begun) hclaim hnode hfenced] at hx
  have hcmds : CmdsOnly p (s.keepTokens p c.order (tokenWords bs)) ((s.started p c).keepTokens p c.order (tokenWords bs)) := by
    have h := started_cmdsOnly (s.keepTokens p c.order (tokenWords bs)) p c
    have hswap : (s.keepTokens p c.order (tokenWords bs)).started p c = (s.started p c).keepTokens p c.order (tokenWords bs) := by
      simp only [State.started, State.modCmd, State.keepTokens, modPart_modPart]
    exact hswap ▸ h
  exact ⟨_, hx, completed_of_keepTokens (finish_completed hcmds c.begun stNodeLost 0 0)⟩

theorem restore_claims (hfenced : s.fabric.fenced.contains (Fin.ofNat 512 (c.field 0x40 2 % 512) : Node) = false) :
    ∃ t k, exec (.restoreRequest p r (.bytes bs)) s = .next t ∧ (t.part p).claimsOut = (s.part p).claimsOut ++ [(c.order, k)] ∧
      t.unacked k = true ∧ StageIs t p c.order .started ∧ (t.part p).requests = (s.part p).requests ∧ t.mem = s.mem ∧ t.host = s.host ∧
      t.sec = s.sec := by
  have hx := exec_restore_passed hs hc hf hlen htok hid hring hmodel hwit he hfull hroom
  obtain ⟨wp, arg, payload, hgoes⟩ := restoreGoesOn_claims (p := p) (ts := tokenWords bs) (s := s.started p c) (c := c.begun) hclaim hnode hfenced
  obtain ⟨hpart, hrest⟩ := asked (s := s) (p := p) (v := (s.started p c).keepTokens p c.order (tokenWords bs)) (mem_of_nextCmd hc) rfl rfl rfl
    (by rw [State.keepTokens, part_modPart_same]) (by rw [State.keepTokens, part_modPart_same, requests_started]) hfenced wp arg payload
    (f := fun k z => { z with claimsOut := z.claimsOut ++ [(c.order, k)] }) (fun _ _ => ⟨rfl, rfl⟩)
  rw [hgoes] at hx
  refine ⟨_, _, hx, (congrArg Partition.claimsOut hpart).trans ?_, hrest⟩
  rw [State.keepTokens, part_modPart_same, part_started]
  rfl

end

/-! ### MIGRATE_REQUEST (R765 to R768) -/

section
variable {s : State} {p : Part} {r : CmdRing} {c : Cmd} (hs : s.serving) (hc : (s.part p).nextCmd r opMigrate = some c)
include hs hc

theorem migrate_ownNode (hnode : (Fin.ofNat 512 (c.field 0x16 2 % 512) : Node) = s.self) :
    CompletesAtOnce (.migrateRequest p r) s s p c stMalformed 0x16 := by
  refine completesAtOnce_of_finish ?_ (started_cmdsOnly s p c)
  rw [exec_migrateRequest, execMigrateRequest, inService_runCmd hs hc]
  simp only [Cmd.field_begun, self_started, hnode, if_true, State.malformed]

variable (hnode : (Fin.ofNat 512 (c.field 0x16 2 % 512) : Node) ≠ s.self)
include hnode

theorem migrate_badMode (hmode : 1 < c.field 0x1C 1) : CompletesAtOnce (.migrateRequest p r) s s p c stMalformed 0x1C := by
  refine completesAtOnce_of_finish ?_ (started_cmdsOnly s p c)
  rw [exec_migrateRequest, execMigrateRequest, inService_runCmd hs hc]
  simp only [Cmd.field_begun, self_started, hnode, if_false, hmode, if_true, State.malformed]

variable (hmode : c.field 0x1C 1 ≤ 1) (hid : s.idTaken p c (c.field 0x18 4) = false) (hring : s.tokOn p (bitOf (c.field 0x1D 1) 0) = true)
  (hwit : c.unwitnessed = false)
include hmode hid hring hwit

theorem migrate_noCapacity (h : s.requestsFull p = true ∨ s.roomForRequest p 0 = false) :
    CompletesAtOnce (.migrateRequest p r) s s p c stNoCapacity := by
  have hwit : c.begun.unwitnessed = false := hwit
  have h : (s.requestsFull p || !s.roomForRequest p 0) = true := by simpa using h
  refine completesAtOnce_of_finish ?_ (started_cmdsOnly s p c)
  rw [exec_migrateRequest, execMigrateRequest, inService_runCmd hs hc]
  simp only [Cmd.field_begun, self_started, hnode, if_false, Nat.not_lt.2 hmode, idTaken_started, hid, tokOn_started, hring, hwit,
    Bool.not_true, Bool.or_false, Bool.false_eq_true, requestsFull_started, roomForRequest_started, h, if_true]

variable (hfull : s.requestsFull p = false) (hroom : s.roomForRequest p 0 = true)
include hfull hroom

theorem migrate_fenced (hfenced : s.fabric.fenced.contains (Fin.ofNat 512 (c.field 0x16 2 % 512) : Node) = true) :
    CompletesAtOnce (.migrateRequest p r) s s p c stNodeLost := by
  have hwit : c.begun.unwitnessed = false := hwit
  refine completesAtOnce_of_finish ?_ (started_cmdsOnly s p c)
  rw [exec_migrateRequest, execMigrateRequest, inService_runCmd hs hc]
  simp only [Cmd.field_begun, self_started, hnode, if_false, Nat.not_lt.2 hmode, idTaken_started, hid, tokOn_started, hring, hwit,
    Bool.not_true, Bool.or_false, Bool.false_eq_true, requestsFull_started, roomForRequest_started, hfull, hroom, fabric_started, hfenced,
    if_true]

theorem migrate_asks (hfenced : s.fabric.fenced.contains (Fin.ofNat 512 (c.field 0x16 2 % 512) : Node) = false) :
    ∃ t k, exec (.migrateRequest p r) s = .next t ∧ (t.part p).migrations = (s.part p).migrations ++ [(c.order, k)] ∧
      t.unacked k = true ∧ StageIs t p c.order .started ∧ (t.part p).requests = (s.part p).requests ∧ t.mem = s.mem ∧ t.host = s.host ∧
      t.sec = s.sec := by
  have hwit : c.begun.unwitnessed = false := hwit
  have hx : ∃ q arg payload,
      let sent := (s.started p c).sendAcked tyMsg 0 (Fin.ofNat 512 (c.field 0x16 2 % 512)) q 0 arg payload
      exec (.migrateRequest p r) s = .next ((sent.2.modPart p (fun z => { z with
        migrations := z.migrations ++ [(c.order, sent.1)] })).modPart p Partition.startFences) := by
    rw [exec_migrateRequest, execMigrateRequest, inService_runCmd hs hc]
    simp only [Cmd.field_begun, self_started, hnode, if_false, Nat.not_lt.2 hmode, idTaken_started, hid, tokOn_started, hring, hwit,
      Bool.not_true, Bool.or_false, Bool.false_eq_true, requestsFull_started, roomForRequest_started, hfull, hroom, fabric_started, hfenced]
    exact ⟨_, _, _, rfl⟩
  obtain ⟨q, arg, payload, hx⟩ := hx
  obtain ⟨hpart, hrest⟩ := asked (s := s) (p := p) (v := s.started p c) (mem_of_nextCmd hc) rfl rfl rfl rfl (requests_started s p c) hfenced
    q arg payload (f := fun k z => { z with migrations := z.migrations ++ [(c.order, k)] }) (fun _ _ => ⟨rfl, rfl⟩)
  refine ⟨_, _, hx, (congrArg Partition.migrations hpart).trans ?_, hrest⟩
  rw [part_started]
  rfl

end

/-! ### The handover (R766 to R768) -/

theorem handover_gone {s : State} (hs : s.serving) {p : Part} {o : Nat} (hc : s.cmd? p o = none) (h : Handover) :
    exec (.migrateHandover p o h) s = .next s := by
  rw [exec_migrateHandover, execMigrateHandover, inService_next hs, hc]

/-- The partition once the source of the command with a take order is asked no more. -/
def Partition.answered (x : Partition) (o : Nat) : Partition :=
  { x with migrations := x.migrations.filter (fun m => decide (m.1 ≠ o)) }

theorem CmdsOnly.refl (p : Part) (s : State) : CmdsOnly p s s := ⟨(modPart_eq_self rfl).symm, fun _ => rfl⟩

section
variable {s : State} {p : Part} {c : Cmd} {k : Nat} (hs : s.serving) (hc : s.cmd? p c.order = some c)
  (hk : (c.order, k) ∈ (s.part p).migrations)
include hc

theorem migrationFails_completed (st : W16) :
    Completed (s.modPart p (fun x => x.answered c.order)) (s.migrationFails p c.order st) p c st 0 0 := by
  have hcmd : (s.modPart p (fun x => x.answered c.order)).cmd? p c.order = some c := by
    rw [State.cmd?, part_modPart_same]
    exact hc
  exact finishOrder_completes (CmdsOnly.refl p _) hcmd st 0 0

include hs hk

theorem handover_lost : ∃ t, exec (.migrateHandover p c.order .lost) s = .next t ∧
    Completed (s.modPart p (fun x => x.answered c.order)) t p c stNodeLost 0 0 := by
  have hany : (s.part p).migrations.any (fun m => decide (m.1 = c.order)) = true := List.any_eq_true.2 ⟨_, hk, decide_eq_true rfl⟩
  refine ⟨_, ?_, migrationFails_completed hc stNodeLost⟩
  rw [exec_migrateHandover, execMigrateHandover, inService_next hs, hc]
  simp only [hany, Bool.not_true, Bool.false_eq_true, if_false]

theorem handover_refused (st : W16) : ∃ t, exec (.migrateHandover p c.order (.refused st)) s = .next t ∧
    Completed (s.modPart p (fun x => x.answered c.order)) t p c (if st = stEpoch then stEpoch else stState) 0 0 := by
  have hany : (s.part p).migrations.any (fun m => decide (m.1 = c.order)) = true := List.any_eq_true.2 ⟨_, hk, decide_eq_true rfl⟩
  refine ⟨_, ?_, migrationFails_completed hc _⟩
  rw [exec_migrateHandover, execMigrateHandover, inService_next hs, hc]
  simp only [hany, Bool.not_true, Bool.false_eq_true, if_false]

theorem handover_given (x : Restore) (ts : List W32) (layers : List LayerData) :
    ∃ t, exec (.migrateHandover p c.order (.given x ts layers)) s = .next t ∧
      Journalled (s.modPart p (fun x => x.answered c.order)) t p c (c.field 0x18 4) 0 ts.length
        (restoreBytes { x with request := c.field 0x18 4, epoch := BitVec.ofNat 16 (c.field 0x14 2 + 1),
                               tokRing := bitOf (c.field 0x1D 1) 0, count := ts.length }) (commitBodies 0 ts) := by
  have hany : (s.part p).migrations.any (fun m => decide (m.1 = c.order)) = true := List.any_eq_true.2 ⟨_, hk, decide_eq_true rfl⟩
  let u := s.modPart p (fun x => x.answered c.order)
  let v := u.modPart p (fun z => { z with cmdPages := if c.field 0x1C 1 = 0 then dset z.cmdPages c.order layers else z.cmdPages })
  have hkept : JournalKept p u v := JournalKept.modPart u p rfl rfl
  have hmem : ∃ e ∈ (v.part p).cmds, e.order = c.order := by
    have hcmds : (v.part p).cmds = (s.part p).cmds := by simp only [v, u, part_modPart_same, Partition.answered]
    exact ⟨c, hcmds ▸ List.mem_of_find?_eq_some hc, rfl⟩
  refine ⟨_, ?_, journalResume_journalled hkept hmem { x with request := c.field 0x18 4, epoch := BitVec.ofNat 16 (c.field 0x14 2 + 1),
                                                              tokRing := bitOf (c.field 0x1D 1) 0 } ts⟩
  rw [exec_migrateHandover, execMigrateHandover, inService_next hs, hc]
  simp only [hany, Bool.not_true, Bool.false_eq_true, if_false, v, u, modPart_modPart]
  rfl

end

/-- Settles O34: each refusal is a case of its own; a command that passes writes its history as records, or asks another node and waits
for the answer, and the handover's records are those of a restore (`journalResume_journalled`). -/
theorem restoreAndMigrateResumeRequests : Obligations.RestoreAndMigrateResumeRequests := by
  unfold Obligations.RestoreAndMigrateResumeRequests
  intro s p r c hs
  refine ⟨fun bs hc hf hlen htok => ⟨restore_taken hs hc hf hlen htok, fun hid hring hmodel hwit =>
      ⟨restore_lastEpoch hs hc hf hlen htok hid hring hmodel hwit, restore_noCapacity hs hc hf hlen htok hid hring hmodel hwit,
        fun he hfull hroom => ⟨restore_journalled hs hc hf hlen htok hid hring hmodel hwit he hfull hroom, fun hclaim hnode =>
          ⟨restore_claimFenced hs hc hf hlen htok hid hring hmodel hwit he hfull hroom hclaim hnode,
            restore_claims hs hc hf hlen htok hid hring hmodel hwit he hfull hroom hclaim hnode⟩⟩⟩⟩,
    fun hc => ⟨migrate_ownNode hs hc, migrate_badMode hs hc, migrate_noCapacity hs hc, fun hnode hmode hid hring hwit hfull hroom =>
      ⟨migrate_fenced hs hc hnode hmode hid hring hwit hfull hroom, migrate_asks hs hc hnode hmode hid hring hwit hfull hroom⟩⟩,
    fun o hc h => handover_gone hs hc h, fun k hc hk => ⟨handover_lost hs hc hk, ?_, fun st hst => ?_, handover_given hs hc hk⟩⟩
  · have h := handover_refused hs hc hk stEpoch
    rwa [if_pos rfl] at h
  · have h := handover_refused hs hc hk st
    rwa [if_neg hst] at h

end Sys2Proof.Machine
end

section
/-! SUPPORT. Recovery: walker epochs, tasks that are issued again, and step replays (R281 to R287, R316 to R318). -/

namespace Sys2Proof.Machine

theorem exec_walkEpochAdvance (p : Part) (s : State) : exec (.walkEpochAdvance p) s = execWalkEpochAdvance p s := rfl
theorem exec_kvReclaim (p : Part) (s : State) : exec (.kvReclaim p) s = execKvReclaim p s := rfl
theorem exec_taskReissue (p : Part) (found : Recovery) (s : State) : exec (.taskReissue p found) s = execTaskReissue p found s := rfl
theorem exec_stepReplay (p : Part) (s : State) : exec (.stepReplay p) s = execStepReplay p s := rfl

/-! ### Walker epochs (R316 to R318) -/

section
variable {s : State} {p : Part} (hs : s.serving)
include hs

theorem walkEpochAdvance_idle (h : (s.part p).kv.advanceHeld = false) : exec (.walkEpochAdvance p) s = .next s := by
  rw [exec_walkEpochAdvance, execWalkEpochAdvance, inService_next hs, if_neg (by rw [h]; decide)]

theorem walkEpochAdvance_advances (h : (s.part p).kv.advanceHeld = true)
    (hfree : (s.part p).kv.counts.getD (((s.part p).kv.epoch + 1) % 4) 0 = 0) : exec (.walkEpochAdvance p) s =
      .next (s.modPart p (fun x => { x with kv := { x.kv with epoch := x.kv.epoch + 1, advanceHeld := false } })) := by
  rw [exec_walkEpochAdvance, execWalkEpochAdvance, inService_next hs, if_pos h]
  refine congrArg _ (modPart_congr ?_)
  rw [Kv.advance, if_pos hfree]

/-- A walk of four epochs before is left: the advance stays held. -/
theorem walkEpochAdvance_waits (h : (s.part p).kv.advanceHeld = true)
    (hwalk : (s.part p).kv.counts.getD (((s.part p).kv.epoch + 1) % 4) 0 ≠ 0) : exec (.walkEpochAdvance p) s = .next s := by
  rw [exec_walkEpochAdvance, execWalkEpochAdvance, inService_next hs, if_pos h]
  refine congrArg _ (modPart_eq_self ?_)
  rw [Kv.advance, if_neg hwalk, ← h]

theorem kvReclaim_reclaims : ∃ t, exec (.kvReclaim p) s = .next t ∧
    t = s.modPart p (fun x => { x with kv := { x.kv with unlinked := (t.part p).kv.unlinked } }) ∧
    ∀ u : Nat × Nat × Nat, u ∈ (t.part p).kv.unlinked ↔ u ∈ (s.part p).kv.unlinked ∧ (s.part p).kv.oldest ≤ u.1 := by
  have hx : exec (.kvReclaim p) s = .next (s.modPart p (fun x => { x with kv := x.kv.reclaim })) := by
    rw [exec_kvReclaim, execKvReclaim, inService_next hs]
  refine ⟨_, hx, modPart_congr ?_, fun u => ?_⟩
  · rw [part_modPart_same]
    rfl
  · rw [part_modPart_same, Kv.reclaim, List.mem_filter, decide_eq_true_iff]

end

/-! ### Tasks that are withdrawn (R221, R284) -/

/-- A partition without the tasks of Nelnus firmware that `which` selects, and with the recipes `rs`. -/
def Partition.withdraw (which : Task → Bool) (rs : Dict Recipe) (x : Partition) : Partition :=
  { x with
    lcQ := x.lcQ.filter (fun t => !(t.graph.isNone && which t)), beQ := x.beQ.filter (fun t => !(t.graph.isNone && which t)),
    fwWait := x.fwWait.filter (fun t => !(t.graph.isNone && which t)),
    recovering := x.recovering.filter (fun t => !(t.1.graph.isNone && which t.1)), recipes := rs }

theorem noteRecipe_eq (s : State) (p : Part) (t : Task) : ∃ rs, s.noteRecipe p t = s.modPart p (fun x => { x with recipes := rs }) := by
  unfold State.noteRecipe
  split
  · exact ⟨(s.part p).recipes, (modPart_eq_self rfl).symm⟩
  · exact ⟨_, modPart_congr rfl⟩

theorem foldl_noteRecipe_eq (p : Part) (l : List Task) (s : State) :
    ∃ rs, l.foldl (fun s t => s.noteRecipe p t) s = s.modPart p (fun x => { x with recipes := rs }) := by
  induction l generalizing s with
  | nil => exact ⟨(s.part p).recipes, (modPart_eq_self rfl).symm⟩
  | cons t l ih =>
    obtain ⟨rs, h⟩ := noteRecipe_eq s p t
    obtain ⟨rs', h'⟩ := ih (s.noteRecipe p t)
    exact ⟨rs', by rw [List.foldl_cons, h', h, modPart_modPart]⟩

theorem withdrawTasks_eq (s : State) (p : Part) (which : Task → Bool) :
    ∃ rs, s.withdrawTasks p which = s.modPart p (fun x => x.withdraw which rs) := by
  unfold State.withdrawTasks
  extract_lets x out gone u
  obtain ⟨rs, h⟩ := foldl_noteRecipe_eq p (gone.filter Task.everOverLimit) u
  exact ⟨rs, by rw [h, modPart_modPart]; rfl⟩

/-- A step fails: of its partition its unplaced tasks are withdrawn, and it is marked (R283 to R285). -/
theorem failStep_eq {s : State} {p : Part} (hrun : (s.part p).step.running = true) (hcheck : (s.part p).step.checked = false) :
    ∃ rs, s.failStep p = s.modPart p (fun x => { x.withdraw (fun t => !t.chunk) rs with step := { x.step with failed := true } }) := by
  obtain ⟨rs, h⟩ := withdrawTasks_eq s p (fun t => !t.chunk)
  refine ⟨rs, ?_⟩
  unfold State.failStep
  simp only [hrun, hcheck, Bool.not_false, Bool.and_self, if_true, h, modPart_modPart]
  rfl

/-- The step of partition `p` has failed since `s`, and none of its tasks is left unplaced. -/
def StepFails (s t : State) (p : Part) : Prop :=
  (t.part p).step.failed = true ∧ t.mem = s.mem ∧ (t.part p).requests = (s.part p).requests ∧
    ∀ x ∈ (t.part p).lcQ ++ (t.part p).beQ ++ (t.part p).fwWait, x.graph.isNone = true → x.chunk = true

theorem failTask_fails {s : State} {p : Part} {t : Task} (ht : t.chunk = false) (hrun : (s.part p).step.running = true)
    (hcheck : (s.part p).step.checked = false) : StepFails s (s.failTask p t) p := by
  obtain ⟨rs, h⟩ := failStep_eq hrun hcheck
  rw [State.failTask, if_neg (by rw [ht]; decide), h]
  refine ⟨by rw [part_modPart_same], rfl, by rw [part_modPart_same]; rfl, fun x hx hg => ?_⟩
  rw [part_modPart_same] at hx
  simp only [Partition.withdraw, List.mem_append, List.mem_filter, hg, Bool.true_and, Bool.not_not] at hx
  rcases hx with (⟨_, h⟩ | ⟨_, h⟩) | ⟨_, h⟩ <;> exact h

/-! ### What a task that fails leaves of the requests -/

theorem dget?_map_values {α : Type} (g : Nat × α → α) (m : Dict α) (k : Nat) :
    dget? (m.map (fun e => (e.1, g e))) k = (dget? m k).map (fun v => g (k, v)) := by
  induction m with
  | nil => rfl
  | cons e m ih =>
    obtain ⟨j, v⟩ := e
    simp only [List.map_cons, dget?]
    by_cases hj : j = k
    · subst hj
      simp
    · rw [if_neg hj, if_neg hj]
      split
      · rfl
      · exact ih

/-- A task that fails keeps each request but for the count of its failed chunks and the prefill of its barker. -/
theorem failTask_req? {s : State} {p : Part} {id : Nat} {r : Request} (h : s.req? p id = some r) (t : Task) :
    ∃ n w, (s.failTask p t).req? p id = some { r with chunkFails := n, warming := w } := by
  have hsame : ∀ {u : State}, (u.part p).requests = (s.part p).requests →
      ∃ n w, u.req? p id = some { r with chunkFails := n, warming := w } := fun hu =>
    ⟨r.chunkFails, r.warming, by rw [State.req?, hu]; exact h⟩
  have hwithdraw (which : Task → Bool) : ((s.withdrawTasks p which).part p).requests = (s.part p).requests := by
    obtain ⟨rs, hw⟩ := withdrawTasks_eq s p which
    rw [hw, part_modPart_same]
    rfl
  unfold State.failTask
  split
  · unfold State.failChunk
    extract_lets of_ u
    have hu : dget? (u.part p).requests id = some r := by
      simp only [u]
      rw [hwithdraw]
      exact h
    split
    · refine ⟨if of_ id && (u.part p).step.chunks.any (fun c => decide (c.1 = id)) then r.chunkFails + 1 else r.chunkFails, r.warming, ?_⟩
      rw [State.req?, part_modPart_same, dget?_map_values, hu, Option.map_some]
      split <;> rfl
    · refine ⟨r.chunkFails, if of_ id then false else r.warming, ?_⟩
      rw [State.req?, part_modPart_same, dget?_map_values, hu, Option.map_some]
      split <;> rfl
    · exact hsame (hwithdraw _)
  · unfold State.failStep
    dsimp only
    split
    · exact hsame (by rw [part_modPart_same]; exact hwithdraw _)
    · exact hsame rfl

/-- A task that fails leaves memory. -/
theorem failTask_mem (s : State) (p : Part) (t : Task) : (s.failTask p t).mem = s.mem := by
  unfold State.failTask
  split
  · unfold State.failChunk
    extract_lets of_ u
    have hu : u.mem = s.mem := (PartOnly.withdrawTasks p s _).mem
    split
    · exact hu
    · exact hu
    · exact hu
  · exact (PartOnly.failStep p s).mem

/-! ### The slots of a partition while a task completes -/

/-- The model slots of partition `p` are as they were. -/
def SlotsKept (p : Part) (s t : State) : Prop := (t.part p).slots = (s.part p).slots

section
variable {p : Part} {s t u : State}

theorem SlotsKept.refl (p : Part) (s : State) : SlotsKept p s s := rfl
theorem SlotsKept.trans (h : SlotsKept p s t) (g : SlotsKept p t u) : SlotsKept p s u := Eq.trans g h

theorem SlotsKept.ite (c : Prop) [Decidable c] (ht : SlotsKept p s t) (hu : SlotsKept p s u) : SlotsKept p s (if c then t else u) := by
  split
  · exact ht
  · exact hu

theorem SlotsKept.foldl {α : Type} {f : State → α → State} (hf : ∀ s a, SlotsKept p s (f s a)) (l : List α) (s : State) :
    SlotsKept p s (l.foldl f s) :=
  List.foldlRecOn (motive := SlotsKept p s) l f (SlotsKept.refl p s) fun u hu a _ => hu.trans (hf u a)

theorem SlotsKept.modPart (s : State) (p : Part) {f : Partition → Partition} (hf : (f (s.part p)).slots = (s.part p).slots) :
    SlotsKept p s (s.modPart p f) := by
  rw [SlotsKept, part_modPart_same, hf]

theorem MediaOnly.slotsKept (h : MediaOnly s t) : SlotsKept p s t := by
  rw [SlotsKept, h.part]

theorem EventsOnly.slotsKept (h : EventsOnly s t) : SlotsKept p s t := by
  rw [SlotsKept, h.part_eq]

theorem QueuesOnly.slotsKept (h : QueuesOnly p s t) : SlotsKept p s t := by
  obtain ⟨_, _, _, _, rfl⟩ := h
  exact SlotsKept.modPart s p rfl

theorem SlotsKept.found (s : State) (ds : List Nat) : SlotsKept p s { s with found := ds } := rfl

theorem SlotsKept.clearEwmaSector (s : State) (a : Nat) : SlotsKept p s (s.clearEwmaSector a) :=
  SlotsKept.trans (t := s.writeDpa (a / 64 * 64) (List.replicate 64 0)) (MediaOnly.writeDpa s _ _).slotsKept (SlotsKept.found _ _)

theorem SlotsKept.rewrittenSector (s : State) (d a : Nat) : SlotsKept p s ((s.noteUnreadable d).clearEwmaSector a) :=
  (MediaOnly.noteUnreadable s d).slotsKept.trans (SlotsKept.clearEwmaSector _ a)

theorem SlotsKept.ewmaAdd (s : State) (p : Part) (tag : Nat) (sum : Int) (count : Nat) : SlotsKept p s (s.ewmaAdd p tag sum count) := by
  refine SlotsKept.ite _ (SlotsKept.refl p s) ?_
  split
  · exact SlotsKept.rewrittenSector s _ _
  · exact (MediaOnly.writeDpa s _ _).slotsKept.trans (MediaOnly.writeDpa _ _ _).slotsKept

theorem SlotsKept.foldEwma (s : State) (p : Part) : SlotsKept p s (s.foldEwma p) := by
  refine SlotsKept.ite _ (SlotsKept.refl p s) (SlotsKept.foldl (fun s t => ?_) _ s)
  dsimp only
  split
  · exact SlotsKept.ite _ (SlotsKept.rewrittenSector s _ _) (SlotsKept.refl p s)
  · exact SlotsKept.ite _ (SlotsKept.refl p s) (MediaOnly.writeDpa s _ _).slotsKept

theorem SlotsKept.withdrawTasks (s : State) (p : Part) (which : Task → Bool) : SlotsKept p s (s.withdrawTasks p which) := by
  obtain ⟨rs, h⟩ := withdrawTasks_eq s p which
  rw [h]
  exact SlotsKept.modPart s p rfl

theorem SlotsKept.failTask (s : State) (p : Part) (t : Task) : SlotsKept p s (s.failTask p t) := by
  refine SlotsKept.ite _ ?_ (SlotsKept.ite _ ((SlotsKept.withdrawTasks s p _).trans (SlotsKept.modPart _ p rfl)) (SlotsKept.refl p s))
  unfold State.failChunk
  extract_lets of_ u
  have hu : SlotsKept p s u := SlotsKept.withdrawTasks s p _
  split
  · exact hu.trans (SlotsKept.modPart u p rfl)
  · exact hu.trans (SlotsKept.modPart u p rfl)
  · exact hu

theorem SlotsKept.finishOrder (s : State) (p : Part) (o : Nat) (st : W16) (info result : Nat) :
    SlotsKept p s (s.finishOrder p o st info result) := by
  unfold State.finishOrder
  cases s.cmd? p o with
  | none => exact SlotsKept.refl p s
  | some c =>
    obtain ⟨-, hpart, -⟩ := finish_completes (CmdsOnly.refl p s) c st info result
    rw [SlotsKept, hpart]

theorem SlotsKept.settleGraphs (s : State) (p : Part) : SlotsKept p s (s.settleGraphs p) :=
  SlotsKept.foldl (fun s _ => ((SlotsKept.ite _ (SlotsKept.foldEwma s p) (SlotsKept.refl p s)).trans (SlotsKept.modPart _ p rfl)).trans
    (SlotsKept.finishOrder _ p _ _ _ _)) _ s

theorem SlotsKept.modGraph (s : State) (p : Part) (cmd : Nat) (f : Graph → Graph) : SlotsKept p s (s.modGraph p cmd f) :=
  SlotsKept.modPart s p rfl

theorem SlotsKept.stopGraph (s : State) (p : Part) (cmd : Nat) : SlotsKept p s (s.stopGraph p cmd) := by
  unfold State.stopGraph
  extract_lets x mine gone
  exact (SlotsKept.modPart s p rfl).trans (SlotsKept.modGraph _ p _ _)

theorem SlotsKept.graphTaskDone (s : State) (p : Part) (t : Task) (st : W16) : SlotsKept p s (s.graphTaskDone p t st) := by
  unfold State.graphTaskDone
  split
  · exact SlotsKept.refl p s
  · exact (((SlotsKept.modGraph s p _ _).trans (SlotsKept.ite _ (SlotsKept.stopGraph _ p _) (SlotsKept.refl p _))).trans
      (SlotsKept.settleGraphs _ p)).trans (QueuesOnly.feedGraphs _ p).slotsKept

theorem SlotsKept.signalSems (s : State) (p : Part) (t : Task) : SlotsKept p s (s.signalSems p t) :=
  (SlotsKept.modPart s p rfl).trans (QueuesOnly.markReady _ p).slotsKept

theorem SlotsKept.completeTask (s : State) (p : Part) (t : Task) (st : W16) (r : Report) : SlotsKept p s (s.completeTask p t st r) := by
  unfold State.completeTask
  extract_lets sub s1 s2 s3 s4 s5 s6 s7 s8
  have hcount (u : State) (n : RegName) : SlotsKept p u (u.count n p.val 1) := rfl
  have h1 : SlotsKept p s s1 := (MediaOnly.writeDpa s _ _).slotsKept
  have h2 : SlotsKept p s1 s2 :=
    (((EventsOnly.raiseCount s1 p _ _ _).trans (EventsOnly.raiseCount _ p _ _ _)).trans (EventsOnly.raiseCount _ p _ _ _)).slotsKept
  have h3 : SlotsKept p s2 s3 := SlotsKept.ite _ (hcount s2 _) (SlotsKept.refl p s2)
  have h4 : SlotsKept p s3 s4 := SlotsKept.ite _ (hcount s3 _) (SlotsKept.refl p s3)
  have h5 : SlotsKept p s4 s5 := SlotsKept.ite _ (hcount s4 _) (SlotsKept.signalSems s4 p t)
  have h6 : SlotsKept p s5 s6 := SlotsKept.ite _ (SlotsKept.ewmaAdd s5 p _ _ _) (SlotsKept.refl p s5)
  have h7 : SlotsKept p s6 s7 := by
    obtain ⟨rs, h⟩ := noteRecipe_eq s6 p t
    simp only [s7, h]
    exact SlotsKept.modPart s6 p rfl
  have h8 : SlotsKept p s7 s8 := SlotsKept.ite _ (SlotsKept.failTask s7 p t) (SlotsKept.refl p s7)
  exact (((((((h1.trans h2).trans h3).trans h4).trans h5).trans h6).trans h7).trans h8).trans (SlotsKept.graphTaskDone s8 p t st)

end

/-! ### A task whose data is there again (R281 to R283) -/

/-- The oldest task that waits for recovery is taken up. -/
def State.takesUp (s : State) (p : Part) (rest : List (Task × W16 × Option Nat)) : State :=
  s.modPart p (fun x => { x with recovering := rest })

/-- A task goes to the front of its class queue once more, ready at `time` (R282). -/
def Partition.requeue (t : Task) (time : Nat) (x : Partition) : Partition :=
  let t := { t with reissues := t.reissues + 1, passed := true, readyAt := some time }
  if t.desc.cls = 0 then { x with lcQ := t :: x.lcQ } else { x with beQ := t :: x.beQ }

section
variable (s : State) (p : Part) (rest : List (Task × W16 × Option Nat))

theorem classOf_takesUp (a : Nat) : (s.takesUp p rest).classOf p a = s.classOf p a := by
  simp only [State.classOf, State.infoOf, State.modelActive, State.takesUp, part_modPart_same]
  rfl

theorem slot_takesUp (i : Nat) : ((s.takesUp p rest).part p).slot i = (s.part p).slot i := by
  rw [State.takesUp, part_modPart_same]
  rfl

theorem step_takesUp : ((s.takesUp p rest).part p).step = (s.part p).step := by
  rw [State.takesUp, part_modPart_same]

theorem req?_takesUp (id : Nat) : (s.takesUp p rest).req? p id = s.req? p id := by
  rw [State.req?, State.takesUp, part_modPart_same, State.req?]

theorem stepFails_takesUp {t : State} (h : StepFails (s.takesUp p rest) t p) : StepFails s t p := by
  obtain ⟨hfailed, hmem, hreq, hqueues⟩ := h
  refine ⟨hfailed, hmem, hreq.trans ?_, hqueues⟩
  rw [State.takesUp, part_modPart_same]

theorem readDpa_takesUp (a n : Nat) : (s.takesUp p rest).readDpa a n = s.readDpa a n := rfl

theorem writeDpa_takesUp (a : Nat) (bs : List Byte) : (s.takesUp p rest).writeDpa a bs = (s.writeDpa a bs).takesUp p rest :=
  ((PartsBlind.writeDpa a bs).modPart s p _)

end

theorem writeDpa_takesUp_mem (s : State) (p : Part) (rest : List (Task × W16 × Option Nat)) (a : Nat) (bs : List Byte) :
    ((s.takesUp p rest).writeDpa a bs).mem = (s.writeDpa a bs).mem := by
  rw [writeDpa_takesUp]
  rfl

theorem requeue_lcQ (t : Task) (time : Nat) (x : Partition) : (x.requeue t time).lcQ =
    if t.desc.cls = 0 then { t with reissues := t.reissues + 1, passed := true, readyAt := some time } :: x.lcQ else x.lcQ := by
  unfold Partition.requeue
  dsimp only
  split <;> rfl

theorem requeue_beQ (t : Task) (time : Nat) (x : Partition) : (x.requeue t time).beQ =
    if t.desc.cls = 0 then x.beQ else { t with reissues := t.reissues + 1, passed := true, readyAt := some time } :: x.beQ := by
  unfold Partition.requeue
  dsimp only
  split <;> rfl

theorem slot_requeue (t : Task) (time : Nat) (x : Partition) (i : Nat) : (x.requeue t time).slot i = x.slot i := by
  unfold Partition.requeue
  dsimp only
  split <;> rfl

theorem clearEwmaSector_found (s : State) (a : Nat) :
    ∃ ds, s.clearEwmaSector a = { s.writeDpa (a / 64 * 64) (List.replicate 64 0) with found := ds } := ⟨_, rfl⟩

/-! ### Slots -/

theorem slot_setSlot_same (x : Partition) (i : Nat) {y : Slot} (h : y.st ≠ .empty) : (x.setSlot i y).slot i = y := by
  rw [Partition.setSlot, Partition.slot, if_neg h, dget_dset_same]

theorem settle_st {y : Slot} (h : y.st ≠ .empty) : (Slot.settle y).st ≠ .empty := by
  unfold Slot.settle
  split
  · exact SlotSt.noConfusion
  · exact h

theorem settle_verified (y : Slot) : (Slot.settle y).verified = y.verified := by
  unfold Slot.settle
  split <;> rfl

/-- A task that may go once more, and whose step has not failed meanwhile, does (R282, R284). -/
theorem reissueRecovered_requeues {s : State} {p : Part} {t : Task} (hr : t.reissues < 2)
    (hgo : t.chunk = true ∨ t.graph.isSome = true ∨ (s.part p).step.failed = false) :
    s.reissueRecovered p t = s.modPart p (Partition.requeue t s.time) := by
  have hkeep : (t.graph.isNone && !t.chunk && (s.part p).step.failed) = false := by
    rcases hgo with h | h | h
    · simp [h]
    · simp [Option.isSome_iff_ne_none.1 h]
    · simp [h]
  rw [State.reissueRecovered, if_neg (by omega), State.reissue, hkeep, if_neg (by decide)]
  rfl

/-- A state whose partition is the one that has taken up the task: the task goes to the front of its queue. -/
theorem requeued_part {s v : State} {p : Part} {tk : Task} {rest : List (Task × W16 × Option Nat)} (hpart : v.part p = (s.takesUp p rest).part p)
    (hfabric : v.fabric = s.fabric) (hr : tk.reissues < 2)
    (hgo : tk.chunk = true ∨ tk.graph.isSome = true ∨ (s.part p).step.failed = false) :
    (v.reissueRecovered p tk).part p = ((s.takesUp p rest).modPart p (Partition.requeue tk s.time)).part p ∧
      (v.reissueRecovered p tk).mem = v.mem ∧ (v.reissueRecovered p tk).sec = v.sec ∧ (v.reissueRecovered p tk).host = v.host := by
  have ht : v.reissueRecovered p tk = v.modPart p (Partition.requeue tk s.time) := by
    rw [reissueRecovered_requeues hr (by rw [hpart, step_takesUp]; exact hgo)]
    simp only [State.time, hfabric]
  rw [ht]
  exact ⟨by rw [part_modPart_same, hpart, part_modPart_same], rfl, rfl, rfl⟩

/-- Data that bytes `bs` at DPA `d` make readable again let the task go. -/
theorem rewritten_requeues {s v : State} {p : Part} {tk : Task} {rest : List (Task × W16 × Option Nat)} {d : Nat} {bs : List Byte} {ds : List Nat}
    (hv : v = { (s.takesUp p rest).writeDpa d bs with found := ds })
    (htwice : tk.reissues < 2 ∧ (tk.chunk = true ∨ tk.graph.isSome = true ∨ (s.part p).step.failed = false)) :
    (v.reissueRecovered p tk).part p = ((s.takesUp p rest).modPart p (Partition.requeue tk s.time)).part p ∧
      (v.reissueRecovered p tk).mem = (s.writeDpa d bs).mem ∧ (v.reissueRecovered p tk).sec = s.sec ∧
      (v.reissueRecovered p tk).host = s.host := by
  have hmedia := MediaOnly.writeDpa (s.takesUp p rest) d bs
  obtain ⟨hpart, hmem, hsec, hhost⟩ := requeued_part (rest := rest) (v := v) (by rw [hv]; exact hmedia.part p) (by rw [hv]; exact hmedia.fabric)
    htwice.1 htwice.2
  subst hv
  exact ⟨hpart, hmem.trans (writeDpa_takesUp_mem s p rest _ _), hsec.trans hmedia.sec, hhost.trans hmedia.host⟩

theorem written_requeues {s : State} {p : Part} {tk : Task} (rest : List (Task × W16 × Option Nat)) (d : Nat) (bs : List Byte)
    (htwice : tk.reissues < 2 ∧ (tk.chunk = true ∨ tk.graph.isSome = true ∨ (s.part p).step.failed = false)) :
    let t := ((s.takesUp p rest).writeDpa d bs).reissueRecovered p tk
    t.part p = ((s.takesUp p rest).modPart p (Partition.requeue tk s.time)).part p ∧ t.mem = (s.writeDpa d bs).mem ∧ t.sec = s.sec ∧
      t.host = s.host :=
  rewritten_requeues (ds := ((s.takesUp p rest).writeDpa d bs).found) rfl htwice

section
variable {s : State} {p : Part} (hs : s.serving)
include hs

theorem taskReissue_idle (h : (s.part p).recovering = []) (found : Recovery) : exec (.taskReissue p found) s = .next s := by
  rw [exec_taskReissue, execTaskReissue, inService_next hs, h]

variable {tk : Task} {rest : List (Task × W16 × Option Nat)}

/-- A task that failed for another reason than lost data fails its step (R283). -/
theorem taskReissue_lostNothing {st : W16} {dpa : Option Nat} (hrec : (s.part p).recovering = (tk, st, dpa) :: rest)
    (h : dpa = none ∨ st ≠ stUnrecoverable) (hchunk : tk.chunk = false) (hrun : (s.part p).step.running = true)
    (hcheck : (s.part p).step.checked = false) (found : Recovery) :
    ∃ t, exec (.taskReissue p found) s = .next t ∧ StepFails s t p := by
  have hx : exec (.taskReissue p found) s = .next ((s.takesUp p rest).failTask p tk) := by
    rw [exec_taskReissue, execTaskReissue, inService_next hs, hrec]
    cases dpa with
    | none => rfl
    | some a => simp only [if_pos (h.resolve_left (by simp))]; rfl
  exact ⟨_, hx, stepFails_takesUp s p rest (failTask_fails hchunk (by rw [step_takesUp, hrun]) (by rw [step_takesUp, hcheck]))⟩

variable {a : Nat} (hrec : (s.part p).recovering = (tk, stUnrecoverable, some a) :: rest)
include hrec

theorem taskReissue_workingLost (hclass : s.classOf p a = .working) {found : Recovery} (hf : found.twin = none) (hchunk : tk.chunk = false)
    (hrun : (s.part p).step.running = true) (hcheck : (s.part p).step.checked = false) :
    ∃ t, exec (.taskReissue p found) s = .next t ∧ StepFails s t p := by
  have hclass : (s.takesUp p rest).classOf p a = .working := (classOf_takesUp s p rest a).trans hclass
  have hx : exec (.taskReissue p found) s = .next ((s.takesUp p rest).failTask p tk) := by
    rw [exec_taskReissue, execTaskReissue, inService_next hs, hrec]
    rw [State.takesUp] at hclass ⊢
    simp only [ne_eq, not_true_eq_false, if_false, hclass, hf]
  exact ⟨_, hx, stepFails_takesUp s p rest (failTask_fails hchunk (by rw [step_takesUp, hrun]) (by rw [step_takesUp, hcheck]))⟩

variable (htwice : tk.reissues < 2 ∧ (tk.chunk = true ∨ tk.graph.isSome = true ∨ (s.part p).step.failed = false))

section
include htwice

theorem taskReissue_twin (hclass : s.classOf p a = .working) {found : Recovery} {b : Nat} (hf : found.twin = some b) :
    ∃ t, exec (.taskReissue p found) s = .next t ∧ t.part p = (((s.takesUp p rest).modPart p (Partition.requeue tk s.time)).part p) ∧
      t.mem = (s.writeDpa (a / 64 * 64) (s.readDpa (b / 64 * 64) 64)).mem := by
  have hclass : (s.takesUp p rest).classOf p a = .working := (classOf_takesUp s p rest a).trans hclass
  have hx : exec (.taskReissue p found) s = .next
      (((s.takesUp p rest).writeDpa (a / 64 * 64) (s.readDpa (b / 64 * 64) 64)).reissueRecovered p tk) := by
    rw [exec_taskReissue, execTaskReissue, inService_next hs, hrec]
    rw [← readDpa_takesUp s p rest]
    rw [State.takesUp] at hclass ⊢
    simp only [ne_eq, not_true_eq_false, if_false, hclass, hf]
  obtain ⟨hpart, hmem, -⟩ := written_requeues rest (a / 64 * 64) (s.readDpa (b / 64 * 64) 64) htwice
  exact ⟨_, hx, hpart, hmem⟩

theorem taskReissue_table {f g n : Nat} (hclass : s.classOf p a = .table f g n) (found : Recovery) :
    ∃ t, exec (.taskReissue p found) s = .next t ∧ t.part p = (((s.takesUp p rest).modPart p (Partition.requeue tk s.time)).part p) ∧
      t.mem = (s.writeDpa f (s.readDpa g n)).mem ∧ t.sec = s.sec ∧ t.host = s.host := by
  have hclass : (s.takesUp p rest).classOf p a = .table f g n := (classOf_takesUp s p rest a).trans hclass
  have hx : exec (.taskReissue p found) s = .next (((s.takesUp p rest).writeDpa f (s.readDpa g n)).reissueRecovered p tk) := by
    rw [exec_taskReissue, execTaskReissue, inService_next hs, hrec]
    rw [State.takesUp] at hclass ⊢
    simp only [ne_eq, not_true_eq_false, if_false, hclass]
    rfl
  exact ⟨_, hx, written_requeues rest f (s.readDpa g n) htwice⟩

theorem taskReissue_ewma (hclass : s.classOf p a = .ewma) (found : Recovery) :
    ∃ t, exec (.taskReissue p found) s = .next t ∧ t.part p = (((s.takesUp p rest).modPart p (Partition.requeue tk s.time)).part p) ∧
      t.mem = (s.writeDpa (a / 64 * 64) (List.replicate 64 0)).mem ∧ t.sec = s.sec ∧ t.host = s.host := by
  have hclass : (s.takesUp p rest).classOf p a = .ewma := (classOf_takesUp s p rest a).trans hclass
  have hx : exec (.taskReissue p found) s = .next (((s.takesUp p rest).clearEwmaSector a).reissueRecovered p tk) := by
    rw [exec_taskReissue, execTaskReissue, inService_next hs, hrec]
    rw [State.takesUp] at hclass ⊢
    simp only [ne_eq, not_true_eq_false, if_false, hclass]
  obtain ⟨ds, hclear⟩ := clearEwmaSector_found (s.takesUp p rest) a
  exact ⟨_, hx, rewritten_requeues hclear htwice⟩

/-- A copy of a weight chunk that verifies is written to the chunk's place, and the task goes again. -/
theorem taskReissue_chunk {i c b o : Nat} {hd : Head} {bs : List Byte} {more : List (List Byte)} (hclass : s.classOf p a = .weights i c)
    (hst : ((s.part p).slot i).st ≠ .empty) (hhead : ((s.part p).slot i).head = some hd)
    (hplace : ((s.part p).slot i).place c = some (b, o, false)) {found : Recovery} (hf : found.chunks = bs :: more)
    (hmatch : ((s.part p).slot i).matches_ c bs = true) :
    ∃ t, exec (.taskReissue p found) s = .next t ∧
      (t.part p).lcQ = (((s.takesUp p rest).modPart p (Partition.requeue tk s.time)).part p).lcQ ∧
      (t.part p).beQ = (((s.takesUp p rest).modPart p (Partition.requeue tk s.time)).part p).beQ ∧
      ((t.part p).slot i).verified = c :: ((s.part p).slot i).verified ∧
      t.mem = (s.writeDpa (b + o) (s.liveForm ((s.part p).slot i) hd o bs)).mem := by
  have hclass : (s.takesUp p rest).classOf p a = .weights i c := (classOf_takesUp s p rest a).trans hclass
  have hslot := slot_takesUp s p rest i
  have hrefetch : (s.takesUp p rest).refetch p i c found.chunks = (some bs, s.takesUp p rest) := by
    rw [hf, State.refetch, if_pos (by rw [hslot]; exact hmatch)]
  have hx : exec (.taskReissue p found) s = .next (((s.takesUp p rest).placeChunk p i c bs).reissueRecovered p tk) := by
    rw [exec_taskReissue, execTaskReissue, inService_next hs, hrec]
    rw [State.takesUp] at hclass hrefetch ⊢
    simp only [ne_eq, not_true_eq_false, if_false, hclass, hrefetch]
  let y : Slot := { (s.part p).slot i with verified := c :: ((s.part p).slot i).verified }
  have hy : y.st ≠ .empty := hst
  let w := (s.takesUp p rest).writeDpa (b + o) (s.liveForm ((s.part p).slot i) hd o bs)
  let v := (w.count .wgtChunksDone p.val 1).modPart p (fun x => x.setSlot i y.settle)
  have hmedia : MediaOnly (s.takesUp p rest) w := MediaOnly.writeDpa _ _ _
  have hplaced : (s.takesUp p rest).placeChunk p i c bs = v := by
    unfold State.placeChunk
    dsimp only
    rw [hslot]
    split
    · next hhead' hplace' =>
      rw [hhead] at hhead'
      rw [hplace] at hplace'
      cases hhead'
      cases hplace'
      rfl
    · next hno => exact absurd hplace (hno hd b o false hhead)
  have hvpart : v.part p = ((s.takesUp p rest).part p).setSlot i y.settle := by
    rw [part_modPart_same, ← hmedia.part p]
    rfl
  have hgo : v.reissueRecovered p tk = v.modPart p (Partition.requeue tk s.time) := by
    rw [reissueRecovered_requeues htwice.1 (by rw [hvpart]; exact (step_takesUp s p rest) ▸ htwice.2)]
    simp only [State.time, show v.fabric = s.fabric from hmedia.fabric]
  rw [hplaced, hgo] at hx
  refine ⟨_, hx, ?_, ?_, ?_, writeDpa_takesUp_mem s p rest _ _⟩
  · rw [part_modPart_same, hvpart, part_modPart_same, requeue_lcQ, requeue_lcQ]
    rfl
  · rw [part_modPart_same, hvpart, part_modPart_same, requeue_beQ, requeue_beQ]
    rfl
  · rw [part_modPart_same, slot_requeue, hvpart, slot_setSlot_same _ _ (settle_st hy), settle_verified]

end

end

/-! ### KV that is computed again (R281, R285) -/

/-- Positions from `from_` on of a request are to be computed again. -/
theorem rebuildKv_req? {s : State} {p : Part} {id : Nat} {r : Request} (h : s.req? p id = some r) (from_ : Nat) (pages : List (Nat × Nat)) :
    ∃ st layers, (s.rebuildKv p id from_ pages).req? p id =
      some { r with toPrefill := max r.toPrefill (r.committed - from_), rebuild := true, st := st, layers := layers } := by
  have h : dget? (s.part p).requests id = some r := h
  unfold State.rebuildKv State.req? State.modReq
  simp only [part_modPart_same, h, dget?_dset_same]
  exact ⟨_, _, rfl⟩

/-- First position that a failed read of a page, or of the drift, makes Nelnus firmware compute again. -/
def rebuildFrom (r : Request) (l : Nat) (page : Option Nat) : Nat :=
  match page with
  | some _ => 0
  | none => 128 * (r.layers.getD l {}).pages.length

theorem recoverKv_req? {s : State} {p : Part} {id : Nat} {r : Request} (h : s.req? p id = some r) (l : Nat) (page : Option Nat) :
    ∃ r', (s.recoverKv p id l page).req? p id = some r' ∧ r'.rebuild = true ∧ r'.tokens = r.tokens ∧
      r'.toPrefill = max r.toPrefill (r.committed - rebuildFrom r l page) := by
  cases page with
  | some n =>
    obtain ⟨st, layers, hr⟩ := rebuildKv_req? h 0 [(l, n)]
    exact ⟨_, hr, rfl, rfl, rfl⟩
  | none =>
    obtain ⟨st, layers, hr⟩ := rebuildKv_req? h (128 * (r.layers.getD l {}).pages.length) []
    have hfrom : s.recoverKv p id l none = s.rebuildKv p id (128 * (r.layers.getD l {}).pages.length) [] := by
      rw [State.recoverKv, h, Option.bind_some, ← List.getD_eq_getElem?_getD]
    rw [hfrom]
    exact ⟨_, hr, rfl, rfl, rfl⟩

theorem recoverKv_mem (s : State) (p : Part) (id l : Nat) (page : Option Nat) : (s.recoverKv p id l page).mem = s.mem := by
  cases page <;> rfl

/-- A read of KV that failed makes Nelnus firmware compute the KV again; what is lost with it fails. -/
theorem taskReissue_kv {s : State} {p : Part} {tk : Task} {rest : List (Task × W16 × Option Nat)} {id l : Nat} {page : Option Nat} {r : Request} (hr : s.req? p id = some r)
    {found : Recovery} (hx : exec (.taskReissue p found) s = .next (((s.takesUp p rest).recoverKv p id l page).failTask p tk)) :
    ∃ t r', exec (.taskReissue p found) s = .next t ∧ t.req? p id = some r' ∧ r'.rebuild = true ∧ r'.tokens = r.tokens ∧
      r'.toPrefill = max r.toPrefill (r.committed - rebuildFrom r l page) ∧ t.mem = s.mem := by
  obtain ⟨r₁, hr₁, hrebuild, htokens, hprefill⟩ := recoverKv_req? (l := l) (page := page) ((req?_takesUp s p rest id).trans hr)
  obtain ⟨n, w, hr₂⟩ := failTask_req? hr₁ tk
  exact ⟨_, _, hx, hr₂, hrebuild, htokens, hprefill, (failTask_mem _ p tk).trans (recoverKv_mem _ p id l page)⟩

section
variable {s : State} {p : Part} (hs : s.serving) {tk : Task} {rest : List (Task × W16 × Option Nat)} {a : Nat}
  (hrec : (s.part p).recovering = (tk, stUnrecoverable, some a) :: rest)
include hs hrec

theorem taskReissue_page {id l n : Nat} (hclass : s.classOf p a = .page id l n) (found : Recovery) :
    exec (.taskReissue p found) s = .next (((s.takesUp p rest).recoverKv p id l (some n)).failTask p tk) := by
  have hclass : (s.takesUp p rest).classOf p a = .page id l n := (classOf_takesUp s p rest a).trans hclass
  rw [exec_taskReissue, execTaskReissue, inService_next hs, hrec]
  rw [State.takesUp] at hclass ⊢
  simp only [ne_eq, not_true_eq_false, if_false, hclass]

theorem taskReissue_drift {id l : Nat} (hclass : s.classOf p a = .drift id l) (found : Recovery) :
    exec (.taskReissue p found) s = .next (((s.takesUp p rest).recoverKv p id l none).failTask p tk) := by
  have hclass : (s.takesUp p rest).classOf p a = .drift id l := (classOf_takesUp s p rest a).trans hclass
  rw [exec_taskReissue, execTaskReissue, inService_next hs, hrec]
  rw [State.takesUp] at hclass ⊢
  simp only [ne_eq, not_true_eq_false, if_false, hclass]

end

/-! ### A weight chunk that no copy holds (R281, R287) -/

/-- Copies of which none verifies are counted, and nothing else changes. -/
theorem refetch_none {p : Part} {i c : Nat} : ∀ (ds : List (List Byte)) (s : State), (∀ d ∈ ds, ((s.part p).slot i).matches_ c d = false) →
    ∃ u, s.refetch p i c ds = (none, u) ∧ u.parts = s.parts
  | [], s, _ => ⟨s, rfl, rfl⟩
  | d :: ds, s, h => by
    obtain ⟨u, hu, hparts⟩ := refetch_none ds (s.count .wgtVerifyFail p.val 1) (fun e he => h e (List.mem_cons_of_mem d he))
    refine ⟨u, ?_, hparts⟩
    rw [State.refetch, if_neg (by rw [h d List.mem_cons_self]; decide), hu]

/-- The partition waits for a chunk of a slot to be loaded again. -/
def Partition.losesChunk (i c : Nat) (x : Partition) : Partition :=
  { x.setSlot i { x.slot i with verified := (x.slot i).verified.filter (fun v => decide (v ≠ c)) } with
    step := { x.step with blocked := (i, c) :: x.step.blocked } }

theorem losesChunk_slot {x : Partition} {i : Nat} (h : (x.slot i).st ≠ .empty) (c : Nat) :
    ((x.losesChunk i c).slot i).verified = (x.slot i).verified.filter (fun v => decide (v ≠ c)) :=
  congrArg Slot.verified (slot_setSlot_same x i (y := { x.slot i with verified := (x.slot i).verified.filter (fun v => decide (v ≠ c)) }) h)

theorem taskReissue_chunkLost {s : State} {p : Part} (hs : s.serving) {tk : Task} {rest : List (Task × W16 × Option Nat)} {a : Nat}
    (hrec : (s.part p).recovering = (tk, stUnrecoverable, some a) :: rest) {i c : Nat} (hclass : s.classOf p a = .weights i c)
    (hst : ((s.part p).slot i).st ≠ .empty) {found : Recovery} (hnone : ∀ d ∈ found.chunks, ((s.part p).slot i).matches_ c d = false) :
    ∃ t, exec (.taskReissue p found) s = .next t ∧ (i, c) ∈ (t.part p).step.blocked ∧ c ∉ ((t.part p).slot i).verified := by
  have hclass : (s.takesUp p rest).classOf p a = .weights i c := (classOf_takesUp s p rest a).trans hclass
  obtain ⟨u, hrefetch, hparts⟩ := refetch_none found.chunks (s.takesUp p rest) (fun d hd => by rw [slot_takesUp]; exact hnone d hd)
  let v := (u.completeTask p tk stUnrecoverable {}).failTask p tk
  have hx : exec (.taskReissue p found) s = .next (v.modPart p (Partition.losesChunk i c)) := by
    rw [exec_taskReissue, execTaskReissue, inService_next hs, hrec]
    rw [State.takesUp] at hclass hrefetch
    simp only [ne_eq, not_true_eq_false, if_false, hclass, hrefetch]
    rfl
  have hu : (u.part p).slots = (s.part p).slots := by
    rw [State.part, hparts]
    change ((s.takesUp p rest).part p).slots = _
    rw [State.takesUp, part_modPart_same]
  have hv : (v.part p).slots = (s.part p).slots :=
    Eq.trans ((SlotsKept.completeTask u p tk stUnrecoverable {}).trans (SlotsKept.failTask _ p tk)) hu
  have hvst : ((v.part p).slot i).st ≠ .empty := by
    rw [Partition.slot, hv]
    exact hst
  refine ⟨_, hx, ?_, ?_⟩
  · rw [part_modPart_same]
    exact List.mem_cons_self
  · rw [part_modPart_same, losesChunk_slot hvst]
    simp

/-! ### Step replays (R284 to R286) -/

theorem mapsDue_none {s : State} {p : Part} (h : ∀ a ∈ (s.part p).exp.nextMaps, (s.part p).exp.step.toNat + 1 < a.atStep) : s.mapsDue p = s := by
  have hdue : (s.part p).exp.nextMaps.filter (fun a => decide (a.atStep ≤ (s.part p).exp.step.toNat + 1)) = [] :=
    List.filter_eq_nil_iff.2 (fun a ha => by simpa using h a ha)
  have hwait : (s.part p).exp.nextMaps.filter (fun a => decide ((s.part p).exp.step.toNat + 1 < a.atStep)) = (s.part p).exp.nextMaps :=
    List.filter_eq_self.2 (fun a ha => decide_eq_true (h a ha))
  unfold State.mapsDue
  dsimp only
  rw [hdue, List.foldl_nil]
  refine modPart_eq_self ?_
  dsimp only
  rw [hwait]

/-- Maps that come into force change the experts of their partition alone. -/
theorem mapsDue_eq (s : State) (p : Part) : ∃ x, s.mapsDue p = s.modExp p (fun _ => x) := by
  have hexp (u v : State) (f : Experts → Experts) (h : ∃ x, u = v.modExp p (fun _ => x)) : ∃ x, u.modExp p f = v.modExp p (fun _ => x) := by
    obtain ⟨x, rfl⟩ := h
    exact ⟨f x, by simp only [State.modExp, modPart_modPart]⟩
  have hfold {α : Type} (f : State → α → State) (hf : ∀ u a, (∃ x, u = s.modExp p (fun _ => x)) → ∃ x, f u a = s.modExp p (fun _ => x))
      (l : List α) (u : State) (hu : ∃ x, u = s.modExp p (fun _ => x)) : ∃ x, l.foldl f u = s.modExp p (fun _ => x) :=
    List.foldlRecOn (motive := fun u => ∃ x, u = s.modExp p (fun _ => x)) l f hu fun u hu a _ => hf u a hu
  have hs : ∃ x, s = s.modExp p (fun _ => x) := ⟨(s.part p).exp, (modPart_eq_self rfl).symm⟩
  refine hfold _ (fun u a hu => ?_) _ _ (hexp s s _ hs)
  exact hfold _ (fun w r hw => hexp w s _ hw) _ _ (hexp u s _ hu)

/-! ### Requests of a step that failed a third time (R286) -/

/-- The CLOSE of a request marks it, and leaves the step and every other request. -/
theorem closeRequest_closes {s : State} {p : Part} {id : Nat} {r : Request} (h : s.req? p id = some r) (st : W16) (reason : CloseReason)
    (aux : Nat) (x : Closing) :
    ((s.closeRequest p id st reason aux x).part p).step = (s.part p).step ∧
      (s.closeRequest p id st reason aux x).req? p id = some { r with closing := some x } := by
  unfold State.closeRequest State.writeJournal
  rw [h]
  dsimp only
  let u := s.modReq p id (fun r => { r with closing := some x })
  have hstep : (u.part p).step = (s.part p).step := by
    simp only [u, State.modReq, part_modPart_same]
    split <;> rfl
  have hreq : u.req? p id = some { r with closing := some x } := by
    have h : dget? (s.part p).requests id = some r := h
    simp only [u, State.modReq, State.req?, part_modPart_same, h, dget?_dset_same]
  have hjnl (f : Journal → Journal) : ((u.modJnl p f).part p).step = (u.part p).step ∧ (u.modJnl p f).req? p id = u.req? p id := by
    rw [State.modJnl, State.req?, part_modPart_same]
    exact ⟨rfl, rfl⟩
  have hpump (v : State) : (v.pumpJournal p).req? p id = v.req? p id := by
    rw [State.req?, (pumpJournal_pumped v p).kept.requests, State.req?]
  exact ⟨(pumpJournal_pumped _ p).step.trans ((hjnl _).1.trans hstep), (hpump _).trans ((hjnl _).2.trans hreq)⟩

/-- A request of a step that is given up ends with UNRECOVERABLE, unless it ends already. -/
def State.abandonRequest (s : State) (p : Part) (id : Nat) : State :=
  match s.req? p id with
  | some r =>
    if r.closing.isSome then s
    else s.closeRequest p id stUnrecoverable .ended 0 ⟨stUnrecoverable, turnInfo r.committed false false, 0, 0, 0⟩
  | none => s

theorem abandonRequest_step (s : State) (p : Part) (id : Nat) : ((s.abandonRequest p id).part p).step = (s.part p).step := by
  unfold State.abandonRequest
  split
  · next r h =>
    split
    · rfl
    · exact (closeRequest_closes h _ _ _ _).1
  · rfl

theorem abandonStep_eq (s : State) (p : Part) : s.abandonStep p =
    ((s.part p).step.batch.map Prod.fst).foldl (fun s id => s.abandonRequest p id)
      (s.modPart p (fun x => { x with step := { x.step with running := false, batch := [], halfOf := [], tasks := [], failed := false } })) := rfl

theorem abandonStep_step (s : State) (p : Part) : ((s.abandonStep p).part p).step =
    { (s.part p).step with running := false, batch := [], halfOf := [], tasks := [], failed := false } := by
  rw [abandonStep_eq]
  refine List.foldlRecOn (motive := fun u => (u.part p).step =
    { (s.part p).step with running := false, batch := [], halfOf := [], tasks := [], failed := false }) _ _ ?_
    (fun u hu id _ => (abandonRequest_step u p id).trans hu)
  rw [part_modPart_same]

theorem abandonStep_closes {s : State} {p : Part} {id d : Nat} {r : Request} (hb : (s.part p).step.batch = [(id, d)])
    (hr : s.req? p id = some r) (hc : r.closing = none) : (s.abandonStep p).req? p id =
      some { r with closing := some ⟨stUnrecoverable, turnInfo r.committed false false, 0, 0, 0⟩ } := by
  rw [abandonStep_eq, hb, List.map_cons, List.map_nil, List.foldl_cons, List.foldl_nil]
  generalize hu : s.modPart p (fun x => { x with step := { x.step with running := false, batch := [], halfOf := [], tasks := [], failed := false } }) = u
  have hur : u.req? p id = some r := by
    rw [← hu, State.req?, part_modPart_same]
    exact hr
  rw [State.abandonRequest, hur]
  dsimp only
  rw [if_neg (by rw [hc]; decide)]
  exact (closeRequest_closes hur _ _ _ _).2

/-- The partition without the unplaced tasks of its failed step, and without what its experts had begun (R284). -/
def Partition.replaying (rs : Dict Recipe) (x : Partition) : Partition :=
  { x.withdraw (fun t => !t.chunk) rs with exp := { x.exp with halves := [], counts := [] } }

section
variable {s : State} {p : Part} (hs : s.serving)
include hs

theorem stepReplay_idle (h : (s.part p).step.running = false ∨ (s.part p).step.failed = false ∨ (s.part p).step.checked = true ∨
    s.stepTasksRun p = true ∨ (s.part p).stepsBlocked = true) : exec (.stepReplay p) s = .next s := by
  rw [exec_stepReplay, execStepReplay, inService_next hs]
  dsimp only
  rw [if_pos]
  rcases h with h | h | h | h | h <;> simp [h]

variable (hrun : (s.part p).step.running = true) (hfailed : (s.part p).step.failed = true) (hcheck : (s.part p).step.checked = false)
  (htasks : s.stepTasksRun p = false) (hblocked : (s.part p).stepsBlocked = false) (hgroup : s.groupBroken p = false)
  (hreset : (s.part p).advance.running = false)
include hrun hfailed hcheck htasks hblocked hgroup hreset

/-- A failed step whose placed tasks have ended is issued again, at most twice. -/
theorem exec_stepReplay_goes : ∃ rs ts, exec (.stepReplay p) s = .next (
    if 2 ≤ (s.part p).step.replays then ((s.modPart p (Partition.replaying rs)).mapsDue p).abandonStep p
    else (((s.modPart p (Partition.replaying rs)).mapsDue p).modPart p (fun x =>
      { x with step := { x.step with failed := false, replays := x.step.replays + 1 } })).issueTasks p ts) := by
  obtain ⟨rs, hw⟩ := withdrawTasks_eq s p (fun t => !t.chunk)
  rw [exec_stepReplay, execStepReplay, inService_next hs]
  dsimp only
  rw [if_neg (by simp [hrun, hfailed, hcheck, htasks, hblocked, hgroup, hreset]), hw, modPart_modPart]
  exact ⟨rs, _, rfl⟩

theorem stepReplay_replays (hreplays : (s.part p).step.replays < 2)
    (hmaps : ∀ a ∈ (s.part p).exp.nextMaps, (s.part p).exp.step.toNat + 1 < a.atStep) :
    ∃ t, exec (.stepReplay p) s = .next t ∧ t = s.modPart p (fun x => { x with
      lcQ := (t.part p).lcQ, beQ := (t.part p).beQ, fwWait := (t.part p).fwWait, graphs := (t.part p).graphs, recipes := (t.part p).recipes,
      recovering := x.recovering.filter (fun r => r.1.graph.isSome || r.1.chunk),
      exp := { x.exp with halves := [], counts := [] }, step := { x.step with failed := false, replays := x.step.replays + 1 } }) := by
  obtain ⟨rs, ts, hx⟩ := exec_stepReplay_goes hs hrun hfailed hcheck htasks hblocked hgroup hreset
  rw [if_neg (by omega), mapsDue_none (by rw [part_modPart_same]; exact hmaps), modPart_modPart] at hx
  obtain ⟨lc, be, fw, gs, hq⟩ := QueuesOnly.issueTasks (s.modPart p (fun x =>
    { x.replaying rs with step := { (x.replaying rs).step with failed := false, replays := (x.replaying rs).step.replays + 1 } })) p ts
  have hkeep : (fun r : Task × W16 × Option Nat => !(r.1.graph.isNone && !r.1.chunk)) = fun r => r.1.graph.isSome || r.1.chunk := by
    funext r
    simp
  refine ⟨_, hx.trans (congrArg _ (hq.trans (modPart_modPart s p _ _))), modPart_congr ?_⟩
  simp only [part_modPart_same, Partition.replaying, Partition.withdraw, hkeep]

theorem stepReplay_abandons (hreplays : 2 ≤ (s.part p).step.replays) :
    ∃ t, exec (.stepReplay p) s = .next t ∧ (t.part p).step.running = false ∧ (t.part p).step.failed = false ∧ (t.part p).step.batch = [] ∧
      ∀ (id d : Nat) (r : Request), (s.part p).step.batch = [(id, d)] → s.req? p id = some r → r.closing = none →
        t.req? p id = some { r with closing := some ⟨stUnrecoverable, turnInfo r.committed false false, 0, 0, 0⟩ } := by
  obtain ⟨rs, ts, hx⟩ := exec_stepReplay_goes hs hrun hfailed hcheck htasks hblocked hgroup hreset
  rw [if_pos hreplays] at hx
  generalize hu : (s.modPart p (Partition.replaying rs)).mapsDue p = u at hx
  have hpart : (u.part p).step = (s.part p).step ∧ (u.part p).requests = (s.part p).requests := by
    obtain ⟨x, hm⟩ := mapsDue_eq (s.modPart p (Partition.replaying rs)) p
    rw [← hu, hm, State.modExp, part_modPart_same, part_modPart_same]
    exact ⟨rfl, rfl⟩
  have hstep := abandonStep_step u p
  refine ⟨_, hx, by rw [hstep], by rw [hstep], by rw [hstep], fun id d r hb hr hc => ?_⟩
  exact abandonStep_closes (d := d) (by rw [hpart.1, hb]) (by rw [State.req?, hpart.2]; exact hr) hc

end

/-- Settles O45: the walker epochs by the counts of R316 and R317, a recovery by the class of the data that was lost, and a replay by the
number of those before it. -/
theorem recoveryReissuesAndReplays : Obligations.RecoveryReissuesAndReplays := by
  unfold Obligations.RecoveryReissuesAndReplays
  intro s p hs
  refine ⟨walkEpochAdvance_idle hs, fun h => ⟨walkEpochAdvance_advances hs h, walkEpochAdvance_waits hs h⟩, kvReclaim_reclaims hs,
    fun found => ⟨fun h => taskReissue_idle hs h found, fun tk st dpa rest hrec => ⟨fun h ⟨hchunk, hrun, hcheck⟩ =>
      taskReissue_lostNothing hs hrec h hchunk hrun hcheck found, ?_⟩⟩,
    fun hrun hfailed hcheck htasks hblocked hgroup hreset =>
      ⟨stepReplay_replays hs hrun hfailed hcheck htasks hblocked hgroup hreset,
        stepReplay_abandons hs hrun hfailed hcheck htasks hblocked hgroup hreset⟩,
    stepReplay_idle hs⟩
  rintro a rfl rfl
  refine ⟨fun hclass hf ⟨hchunk, hrun, hcheck⟩ => taskReissue_workingLost hs hrec hclass hf hchunk hrun hcheck,
    fun b hclass hf htwice => taskReissue_twin hs hrec htwice hclass hf, fun id l r hclass hr => ?_,
    fun i c hd b o bs more hclass hst hhead hplace hf hmatch htwice =>
      taskReissue_chunk hs hrec htwice hclass hst hhead hplace hf hmatch,
    fun i c hclass hst hnone => taskReissue_chunkLost hs hrec hclass hst hnone,
    fun f g n hclass htwice => taskReissue_table hs hrec htwice hclass found,
    fun hclass htwice => taskReissue_ewma hs hrec htwice hclass found⟩
  rcases hclass with hclass | ⟨n, hclass⟩
  · rw [hclass]
    exact taskReissue_kv (page := none) hr (taskReissue_drift hs hrec hclass found)
  · rw [hclass]
    exact taskReissue_kv (page := some n) hr (taskReissue_page hs hrec hclass found)

end Sys2Proof.Machine
end

section
/-! SUPPORT. Ice cores: FREEZE_REQUEST, the end of a freeze without room, and THAW_REQUEST (R347 to R359). -/

namespace Sys2Proof.Machine

theorem exec_freezeRequest (p : Part) (r : CmdRing) (bits : HostData) (s : State) :
    exec (.freezeRequest p r bits) s = execFreezeRequest p r bits s := rfl
theorem exec_thawRequest (p : Part) (r : CmdRing) (d : HostData) (ue : Option Nat) (s : State) :
    exec (.thawRequest p r d ue) s = execThawRequest p r d ue s := rfl

theorem Cmd.bytes_begun (c : Cmd) (off n : Nat) : c.begun.bytes off n = c.bytes off n := rfl
theorem Cmd.unwitnessed_begun (c : Cmd) : c.begun.unwitnessed = c.unwitnessed := rfl

/-- A command that starts and keeps what it brings has journalled nothing, and is still listed. -/
theorem started_carrying {s : State} {p : Part} {c : Cmd} (hc : c ∈ (s.part p).cmds) {g : Partition → Partition}
    (hg : ∀ x, (g x).cmds = x.cmds ∧ (g x).requests = x.requests ∧ (g x).jnl = x.jnl) :
    JournalKept p s ((s.started p c).modPart p g) ∧ ∃ e ∈ (((s.started p c).modPart p g).part p).cmds, e.order = c.begun.order := by
  obtain ⟨hcmds, hreq, hjnl⟩ := hg ((s.started p c).part p)
  refine ⟨(started_kept s p c).trans (JournalKept.modPart _ p hreq (by rw [hjnl])), ?_⟩
  rw [part_modPart_same, hcmds]
  exact mem_cmds_started hc

/-! ### FREEZE_REQUEST (R350, R354) -/

section
variable {s : State} {p : Part} {r : CmdRing} {c : Cmd} {bits : HostData} (hs : s.serving) (hc : (s.part p).nextCmd r opFreeze = some c)
include hs hc

section
variable (hq : s.req? p (c.field 0x10 4) = none)
include hq

theorem freeze_malformed_of_notLive {off : Nat} (hf : freezeFault c bits 0 = some off) :
    CompletesAtOnce (.freezeRequest p r bits) s s p c stMalformed off := by
  have hf : freezeFault c.begun bits 0 = some off := hf
  refine completesAtOnce_of_finish ?_ (started_cmdsOnly s p c)
  rw [exec_freezeRequest, execFreezeRequest, inService_runCmd hs hc]
  simp only [Cmd.field_begun, req?_started, hq, hf, State.malformed]

theorem freeze_notLive (hf : freezeFault c bits 0 = none) : CompletesAtOnce (.freezeRequest p r bits) s s p c stState := by
  have hf : freezeFault c.begun bits 0 = none := hf
  refine completesAtOnce_of_finish ?_ (started_cmdsOnly s p c)
  rw [exec_freezeRequest, execFreezeRequest, inService_runCmd hs hc]
  simp only [Cmd.field_begun, req?_started, hq, hf]

end

section
variable {q : Request} (hq : s.req? p (c.field 0x10 4) = some q)
include hq

theorem freeze_malformed {off : Nat} (hf : freezeFault c bits ((s.infoOf p q.model).getD default).attnLayers = some off) :
    CompletesAtOnce (.freezeRequest p r bits) s s p c stMalformed off := by
  have hf : freezeFault c.begun bits ((s.infoOf p q.model).getD default).attnLayers = some off := hf
  refine completesAtOnce_of_finish ?_ (started_cmdsOnly s p c)
  rw [exec_freezeRequest, execFreezeRequest, inService_runCmd hs hc]
  simp only [Cmd.field_begun, req?_started, hq, infoOf_started, hf, State.malformed]

variable (hf : freezeFault c bits ((s.infoOf p q.model).getD default).attnLayers = none)
include hf

/-- FREEZE_REQUEST of a live request without a field at fault: it is refused, or keeps how it freezes and writes its records. -/
theorem exec_freeze_checked : ∃ f : Freezing, exec (.freezeRequest p r bits) s = .next ((
    if q.closing.isSome || q.freezing.isSome || c.unwitnessed then (s.started p c).finish p c.begun stState
    else (((s.started p c).modPart p (fun x => { x with cmdFreeze := dset x.cmdFreeze c.order f })).numberAccept p c.order).journalCommand p
      c.begun [] (c.field 0x10 4) q.epoch 0 0 c.client c.be (c.bytes 0x10 48)).modPart p Partition.startFences) := by
  have hf : freezeFault c.begun bits ((s.infoOf p q.model).getD default).attnLayers = none := hf
  rw [exec_freezeRequest, execFreezeRequest, inService_runCmd hs hc]
  simp only [Cmd.field_begun, Cmd.bytes_begun, Cmd.unwitnessed_begun, req?_started, hq, infoOf_started, hf]
  exact ⟨_, rfl⟩

theorem freeze_refused (h : q.freezing.isSome = true ∨ q.closing.isSome = true ∨ c.unwitnessed = true) :
    CompletesAtOnce (.freezeRequest p r bits) s s p c stState := by
  obtain ⟨f, hx⟩ := exec_freeze_checked hs hc hq hf
  rw [if_pos (by rcases h with h | h | h <;> simp [h])] at hx
  exact completesAtOnce_of_finish hx (started_cmdsOnly s p c)

theorem freeze_journalled (hfreezing : q.freezing = none) (hclosing : q.closing = none) (hwit : c.unwitnessed = false) :
    ∃ t, exec (.freezeRequest p r bits) s = .next t ∧ Journalled s t p c (c.field 0x10 4) 0 0 (c.bytes 0x10 48) [] := by
  obtain ⟨f, hx⟩ := exec_freeze_checked hs hc hq hf
  rw [if_neg (by simp [hfreezing, hclosing, hwit])] at hx
  obtain ⟨hkept, hmem⟩ := started_carrying (mem_of_nextCmd hc) (g := fun x => { x with cmdFreeze := dset x.cmdFreeze c.order f })
    (fun _ => ⟨rfl, rfl, rfl⟩)
  exact journalled_of_started hx (journalCommand_journalled (hkept.trans (numberAccept_kept _ p c.order)) (mem_cmds_numberAccept hmem)
    rfl q.epoch 0 0 _)

end

end

/-! ### A freeze without room (R353) -/

/-- A freeze to a host buffer that is too small for its ice core leaves the request live and completes its command. -/
theorem freezeOne_noRoom {s : State} {p : Part} {id : Nat} {q : Request} {f : Freezing} {c : Cmd} (hread : s.kvUnreadable p q = none)
    (hhost : f.firn = false) (hcmd : f.cmd = c.order) (hc : s.cmd? p c.order = some c) (hroom : f.room < (s.iceCoreOf p id q f).length)
    (pl : Option Nat) :
    Completed (s.modReq p id (fun x => { x with freezing := none })) (s.freezeOne p id q f pl) p c stNoCapacity
      (((s.iceCoreOf p id q f).length + 4095) / 4096) 0 := by
  have hc' : (s.modReq p id (fun x => { x with freezing := none })).cmd? p c.order = some c := by
    have hcmds : ((s.modReq p id (fun x => { x with freezing := none })).part p).cmds = (s.part p).cmds := by
      rw [State.modReq, part_modPart_same]
      split <;> rfl
    rw [State.cmd?, hcmds]
    exact hc
  have hone : s.freezeOne p id q f pl = (s.modReq p id (fun x => { x with freezing := none })).finishOrder p c.order stNoCapacity
      (((s.iceCoreOf p id q f).length + 4095) / 4096) := by
    simp only [State.freezeOne, State.recoverFirst, hread, Option.map_none, hhost, hcmd, Nat.not_le.2 hroom, Bool.false_eq_true, if_false,
      decide_false]
  rw [hone]
  exact finishOrder_completes (CmdsOnly.refl p _) hc' stNoCapacity _ 0

/-! ### What THAW_REQUEST judges -/

section
variable (s : State) (p : Part) (c : Cmd)

theorem hbmRoom_started (n : Nat) : (s.started p c).hbmRoom p n = s.hbmRoom p n := by
  rw [State.hbmRoom, kvBytes_started, hbmLost_started, part_started]
  rfl

theorem iceModelNow_started : (s.started p c).iceModelNow p = s.iceModelNow p := by
  simp only [State.iceModelNow, slot_started, mainInfo_started]

theorem inFirnExtent_started (a n : Nat) : (s.started p c).inFirnExtent p a n = s.inFirnExtent p a n := rfl
theorem badByte_started (a n : Nat) (ue : Option Nat) : (s.started p c).badByte a n ue = s.badByte a n ue := rfl
theorem readDpa_started (a n : Nat) : (s.started p c).readDpa a n = s.readDpa a n := rfl

theorem dropIce_started (a : Nat) : (s.started p c).dropIce p a = (s.dropIce p a).started p c := by
  simp only [State.dropIce, State.started, State.modCmd, modPart_modPart]

end

theorem PartsBlind.noteUnreadable (a : Nat) : PartsBlind (fun s => s.noteUnreadable a) :=
  PartsBlind.ite (fun _ _ => rfl) (PartsBlind.recordUe a) (PartsBlind.uncorrectable a)

/-- THAW_REQUEST `c` finds the head `h` of an ice core and the whole of it, `core`: in the bytes a read of host memory returned, or in
the firn extent, where each byte of both can be read (R355, R356). -/
def State.thawReads (s : State) (p : Part) (c : Cmd) (d : HostData) (ue : Option Nat) (h core : List Byte) : Prop :=
  let a := c.field 0x18 8
  let n := c.field 0x20 8
  let total := fieldAt h 0x18 8
  (c.field 0x15 1 = 0 ∧ d = .bytes h ∧ core = h.take total) ∨
    (c.field 0x15 1 = 1 ∧ s.inFirnExtent p a n = true ∧ h = s.readDpa a (min n 256) ∧ core = s.readDpa a total ∧
      s.badByte a (min n 256) ue = none ∧ s.badByte a total ue = none)

/-- What a thaw that has passed the checks of its bytes does: it reads the core and writes the core's history as records (R357, R731). -/
def State.thawGoesOn (s : State) (p : Part) (c : Cmd) (core : List Byte) : State :=
  match readIce (s.mainInfo p) core with
  | none => s.finish p c stUnrecoverable
  | some x =>
    if s.requestsFull p || !s.hbmRoom p (thawBytes (s.mainInfo p) x.layers) then s.finish p c stNoCapacity
    else
      (s.modPart p (fun y => { y with cmdPages := dset y.cmdPages c.order x.layers })).journalResume p c
        { x.restore with request := c.field 0x10 4, epoch := BitVec.ofNat 16 (fieldAt core 0xC 2 + 1), maxNew := 0 } x.history

section
variable {s : State} {p : Part} {c : Cmd} {core : List Byte}

theorem thawGoesOn_unreadable (h : readIce (s.mainInfo p) core = none) :
    (s.started p c).thawGoesOn p c.begun core = (s.started p c).finish p c.begun stUnrecoverable := by
  rw [State.thawGoesOn, mainInfo_started, h]

theorem thawGoesOn_some {x : IceParts} (h : readIce (s.mainInfo p) core = some x) :
    (s.started p c).thawGoesOn p c.begun core =
      if s.requestsFull p || !s.hbmRoom p (thawBytes (s.mainInfo p) x.layers) then (s.started p c).finish p c.begun stNoCapacity
      else
        ((s.started p c).modPart p (fun y => { y with cmdPages := dset y.cmdPages c.order x.layers })).journalResume p c.begun
          { x.restore with request := c.field 0x10 4, epoch := BitVec.ofNat 16 (fieldAt core 0xC 2 + 1), maxNew := 0 } x.history := by
  rw [State.thawGoesOn, mainInfo_started, h]
  simp only [requestsFull_started, hbmRoom_started, Cmd.field_begun]
  rfl

end

/-! ### THAW_REQUEST (R355 to R359) -/

section
variable {s : State} {p : Part} {r : CmdRing} {c : Cmd} (hs : s.serving) (hc : (s.part p).nextCmd r opThaw = some c)
include hs hc

theorem thaw_readFailed (hhost : c.field 0x15 1 = 0) (hop : c.field 0x14 1 ≤ 1) (ue : Option Nat) :
    CompletesAtOnce (.thawRequest p r .failed ue) s s p c stUnrecoverable := by
  have hop : ¬2 < c.field 0x14 1 := by omega
  refine completesAtOnce_of_finish ?_ (started_cmdsOnly s p c)
  rw [exec_thawRequest, execThawRequest.eq_def, inService_runCmd hs hc]
  simp [Cmd.field_begun, hhost, hop]

theorem thaw_headUnreadable (hfirn : c.field 0x15 1 = 1) (hop : c.field 0x14 1 = 2)
    (hext : s.inFirnExtent p (c.field 0x18 8) (c.field 0x20 8) = true) {ue : Option Nat} {x : Nat}
    (hbad : s.badByte (c.field 0x18 8) (min (c.field 0x20 8) 256) ue = some x) (d : HostData) :
    CompletesAtOnce (.thawRequest p r d ue) s (s.noteUnreadable x) p c stUnrecoverable := by
  refine completesAtOnce_of_finish ?_ ((PartsBlind.noteUnreadable x).cmdsOnly s p c)
  rw [exec_thawRequest, execThawRequest.eq_def, inService_runCmd hs hc]
  simp [Cmd.field_begun, hfirn, hop, inFirnExtent_started, hext, badByte_started, hbad]

section
variable {d : HostData} {ue : Option Nat} {h core : List Byte} (hop : c.field 0x14 1 ≤ 2) (hdrop : c.field 0x14 1 = 2 → c.field 0x15 1 = 1)
  (hreads : s.thawReads p c d ue h core)
include hop hdrop hreads

/-- THAW_REQUEST of a core whose bytes are there: its checks in the order of R356, and what it goes on to. -/
theorem exec_thaw_read : exec (.thawRequest p r d ue) s = .next ((
    if !iceHeaderOk h (c.field 0x20 8) then (s.started p c).finish p c.begun stMalformed 0xFFFF
    else if !iceMatches (s.iceModelNow p) h || s.idTaken p c (c.field 0x10 4) || (c.field 0x14 1 ≠ 2 && c.unwitnessed) then
      (s.started p c).finish p c.begun stState
    else if !iceDigestOk core then (s.started p c).finish p c.begun stUnrecoverable
    else if c.field 0x14 1 = 2 then ((s.dropIce p (c.field 0x18 8)).started p c).finish p c.begun stOk
    else (s.started p c).thawGoesOn p c.begun core).modPart p Partition.startFences) := by
  have hop : ¬2 < c.field 0x14 1 := Nat.not_lt.2 hop
  rw [exec_thawRequest, execThawRequest.eq_def, inService_runCmd hs hc]
  simp only [Cmd.field_begun, Cmd.unwitnessed_begun, hop, if_false, inFirnExtent_started, badByte_started, readDpa_started,
    iceModelNow_started, idTaken_started, dropIce_started, State.malformed]
  rcases hreads with ⟨hhost, rfl, rfl⟩ | ⟨hfirn, hext, hh, hcore, hhead, hwhole⟩
  · have hdrop : c.field 0x14 1 ≠ 2 := fun h => by simp [hdrop h] at hhost
    simp only [hhost, Nat.zero_ne_one, Nat.not_lt_zero, decide_false, Bool.false_and, Bool.false_eq_true, if_false, Bool.not_false,
      Bool.and_true, hdrop]
    rfl
  · simp only [hfirn, Nat.lt_irrefl, decide_true, hext, hhead, hwhole, ← hh, ← hcore, Bool.not_true, Bool.and_false, Bool.false_eq_true,
      if_false, if_true, Option.isSome_none]
    rfl

theorem thaw_badHeader (hhead : iceHeaderOk h (c.field 0x20 8) = false) : CompletesAtOnce (.thawRequest p r d ue) s s p c stMalformed 0xFFFF := by
  refine completesAtOnce_of_finish ?_ (started_cmdsOnly s p c)
  rw [exec_thaw_read hs hc hop hdrop hreads, if_pos (by simp [hhead])]

variable (hhead : iceHeaderOk h (c.field 0x20 8) = true)
include hhead

theorem thaw_otherModel (hmodel : iceMatches (s.iceModelNow p) h = false) : CompletesAtOnce (.thawRequest p r d ue) s s p c stState := by
  refine completesAtOnce_of_finish ?_ (started_cmdsOnly s p c)
  rw [exec_thaw_read hs hc hop hdrop hreads, if_neg (by simp [hhead]), if_pos (by simp [hmodel])]

variable (hmodel : iceMatches (s.iceModelNow p) h = true) (hid : s.idTaken p c (c.field 0x10 4) = false)
include hmodel hid

theorem thaw_discards (hdiscard : c.field 0x14 1 = 2) (hdigest : iceDigestOk core = true) :
    CompletesAtOnce (.thawRequest p r d ue) s (s.dropIce p (c.field 0x18 8)) p c stOk := by
  refine completesAtOnce_of_finish ?_ (started_cmdsOnly (s.dropIce p (c.field 0x18 8)) p c)
  rw [exec_thaw_read hs hc hop hdrop hreads, if_neg (by simp [hhead]), if_neg (by simp [hmodel, hid, hdiscard]), if_neg (by simp [hdigest]),
    if_pos hdiscard]

variable (hwit : c.unwitnessed = false)
include hwit

theorem thaw_badDigest (hdigest : iceDigestOk core = false) : CompletesAtOnce (.thawRequest p r d ue) s s p c stUnrecoverable := by
  refine completesAtOnce_of_finish ?_ (started_cmdsOnly s p c)
  rw [exec_thaw_read hs hc hop hdrop hreads, if_neg (by simp [hhead]), if_neg (by simp [hmodel, hid, hwit]), if_pos (by simp [hdigest])]

variable (hthaw : c.field 0x14 1 ≠ 2) (hdigest : iceDigestOk core = true)
include hthaw hdigest

theorem exec_thaw_passed :
    exec (.thawRequest p r d ue) s = .next (((s.started p c).thawGoesOn p c.begun core).modPart p Partition.startFences) := by
  rw [exec_thaw_read hs hc hop hdrop hreads, if_neg (by simp [hhead]), if_neg (by simp [hmodel, hid, hwit]), if_neg (by simp [hdigest]),
    if_neg hthaw]

theorem thaw_unreadable (hread : readIce (s.mainInfo p) core = none) : CompletesAtOnce (.thawRequest p r d ue) s s p c stUnrecoverable := by
  have hx := exec_thaw_passed hs hc hop hdrop hreads hhead hmodel hid hwit hthaw hdigest
  rw [thawGoesOn_unreadable hread] at hx
  exact completesAtOnce_of_finish hx (started_cmdsOnly s p c)

variable {x : IceParts} (hread : readIce (s.mainInfo p) core = some x)
include hread

theorem thaw_noCapacity (hno : s.requestsFull p = true ∨ s.hbmRoom p (thawBytes (s.mainInfo p) x.layers) = false) :
    CompletesAtOnce (.thawRequest p r d ue) s s p c stNoCapacity := by
  have hx := exec_thaw_passed hs hc hop hdrop hreads hhead hmodel hid hwit hthaw hdigest
  rw [thawGoesOn_some hread, if_pos (by simpa using hno)] at hx
  exact completesAtOnce_of_finish hx (started_cmdsOnly s p c)

theorem thaw_journalled (hfull : s.requestsFull p = false) (hroom : s.hbmRoom p (thawBytes (s.mainInfo p) x.layers) = true) :
    ∃ t, exec (.thawRequest p r d ue) s = .next t ∧ Journalled s t p c (c.field 0x10 4) 0 x.history.length
      (restoreBytes { x.restore with request := c.field 0x10 4, epoch := BitVec.ofNat 16 (fieldAt core 0xC 2 + 1), count := x.history.length,
                                     maxNew := 0 }) (commitBodies 0 x.history) := by
  have hx := exec_thaw_passed hs hc hop hdrop hreads hhead hmodel hid hwit hthaw hdigest
  rw [thawGoesOn_some hread, if_neg (by simp [hfull, hroom])] at hx
  obtain ⟨hkept, hmem⟩ := started_carrying (mem_of_nextCmd hc) (g := fun y => { y with cmdPages := dset y.cmdPages c.order x.layers })
    (fun _ => ⟨rfl, rfl, rfl⟩)
  exact journalled_of_started hx (journalResume_journalled hkept hmem _ x.history)

end

end

/-- Settles O35: each check of the two commands is a case of its own; what passes them writes its records (`journalCommand_journalled`),
drops the core, or, at the end of a freeze, finds no room (`freezeOne_noRoom`). -/
theorem freezeAndThawUseIceCores : Obligations.FreezeAndThawUseIceCores := by
  unfold Obligations.FreezeAndThawUseIceCores
  intro s p r c hs
  refine ⟨fun bits hc => ⟨fun hq => ⟨fun off hf => freeze_malformed_of_notLive hs hc hq hf, freeze_notLive hs hc hq⟩,
      fun q hq => ⟨fun off hf => freeze_malformed hs hc hq hf, fun hf =>
        ⟨freeze_refused hs hc hq hf, freeze_journalled hs hc hq hf⟩⟩⟩,
    fun id q f pl _ hread hhost hcmd hc hroom => ⟨_, rfl, freezeOne_noRoom hread hhost hcmd hc hroom pl⟩,
    fun ue hc hhost hop => thaw_readFailed hs hc hhost hop ue,
    fun core ue hc hdiscard hfirn => ?_, fun d ue h core hc hop => ?_⟩
  · intro a n h total hext
    refine ⟨fun x hbad => thaw_headUnreadable hs hc hfirn hdiscard hext hbad core, fun hhead hok hmodel hid hwhole hdigest => ?_⟩
    have hreads : s.thawReads p c core ue h (s.readDpa a total) := .inr ⟨hfirn, hext, rfl, rfl, hhead, hwhole⟩
    exact thaw_discards hs hc (le_of_eq hdiscard) (fun _ => hfirn) hreads hok hmodel hid hdiscard hdigest
  · intro a n total hreads
    have hthaw : c.field 0x14 1 ≠ 2 := by omega
    have hop : c.field 0x14 1 ≤ 2 := by omega
    have hdrop : c.field 0x14 1 = 2 → c.field 0x15 1 = 1 := fun h => absurd h hthaw
    refine ⟨thaw_badHeader hs hc hop hdrop hreads, fun hok => ⟨thaw_otherModel hs hc hop hdrop hreads hok, fun hmodel hid hwit =>
      ⟨thaw_badDigest hs hc hop hdrop hreads hok hmodel hid hwit, fun hdigest =>
        ⟨thaw_unreadable hs hc hop hdrop hreads hok hmodel hid hwit hthaw hdigest, fun x hread =>
          ⟨thaw_noCapacity hs hc hop hdrop hreads hok hmodel hid hwit hthaw hdigest hread,
            thaw_journalled hs hc hop hdrop hreads hok hmodel hid hwit hthaw hdigest hread⟩⟩⟩⟩⟩

end Sys2Proof.Machine
end

section
/-! SUPPORT. What a packet meets as it arrives, and the answers to this node's transfers (R456 to R467, R472, R495). -/

namespace Sys2Proof.Machine

/-! ### A packet arrives (R456 to R458, R472, R495) -/

theorem exec_readData (u : PortNo) (k : Packet) (s : State) : exec (.readData u k) s = execReadData u k s := rfl
theorem exec_ack (u : PortNo) (k : Packet) (s : State) : exec (.ack u k) s = execAck u k s := rfl
theorem exec_nack (u : PortNo) (k : Packet) (s : State) : exec (.nack u k) s = execNack u k s := rfl
theorem exec_timeSync (u : PortNo) (k : Packet) (m : TimeSync) (s : State) : exec (.timeSync u k m) s = execTimeSync u k m s := rfl
theorem exec_witnessMirror (u : PortNo) (k : Packet) (s : State) : exec (.witnessMirror u k) s = execWitnessMirror u k s := rfl
theorem exec_claim (u : PortNo) (k : Packet) (a : ClaimAsk) (s : State) : exec (.claim u k a) s = execClaim u k a s := rfl
theorem exec_migrateAsk (u : PortNo) (k : Packet) (a : MigrateAsk) (s : State) : exec (.migrateAsk u k a) s = execMigrateAsk u k a s := rfl
theorem exec_mapAnnounce (u : PortNo) (k : Packet) (a : MapAsk) (s : State) : exec (.mapAnnounce u k a) s = execMapAnnounce u k a s := rfl
theorem exec_policyAnnounce (u : PortNo) (k : Packet) (a : PolicyAsk) (s : State) :
    exec (.policyAnnounce u k a) s = execPolicyAnnounce u k a s := rfl
theorem exec_switchAnnounce (u : PortNo) (k : Packet) (a : SwitchAsk) (s : State) :
    exec (.switchAnnounce u k a) s = execSwitchAnnounce u k a s := rfl

/-- Each command by which a packet arrives takes it in by `arriveAs` with its own type and its own service. -/
theorem exec_arrival {s : State} (hs : s.serving) {i : Instr} {u : PortNo} {k : Packet} {ty : Byte} (h : arrival i = some (u, k, ty))
    (hread : ∀ ue, i = .read u k ue none → s.heldAt (dpaOf k.addr) (min k.arg.toNat 4096) = false) :
    ∃ f, exec i s = .next (s.arriveAs (some u) k ty f) := by
  cases i with
  | write => cases h; exact ⟨_, by rw [exec_write, execWrite, inService_next hs]⟩
  | readData => cases h; exact ⟨_, by rw [exec_readData, execReadData, inService_next hs]⟩
  | ack => cases h; exact ⟨_, by rw [exec_ack, execAck, inService_next hs]⟩
  | nack => cases h; exact ⟨_, by rw [exec_nack, execNack, inService_next hs]⟩
  | coll => cases h; exact ⟨_, by rw [exec_coll, execColl, inService_next hs]⟩
  | timeSync => cases h; exact ⟨_, by rw [exec_timeSync, execTimeSync, inService_next hs]⟩
  | route => cases h; exact ⟨_, by rw [exec_route, execRoute, inService_next hs]⟩
  | witnessMirror => cases h; exact ⟨_, by rw [exec_witnessMirror, execWitnessMirror, inService_next hs]⟩
  | claim => cases h; exact ⟨_, by rw [exec_claim, execClaim, inService_next hs]⟩
  | migrateAsk => cases h; exact ⟨_, by rw [exec_migrateAsk, execMigrateAsk, inService_next hs]⟩
  | mapAnnounce => cases h; exact ⟨_, by rw [exec_mapAnnounce, execMapAnnounce, inService_next hs]⟩
  | policyAnnounce => cases h; exact ⟨_, by rw [exec_policyAnnounce, execPolicyAnnounce, inService_next hs]⟩
  | switchAnnounce => cases h; exact ⟨_, by rw [exec_switchAnnounce, execSwitchAnnounce, inService_next hs]⟩
  | read _ _ ue pull =>
    cases h
    have hgo : (pull.isNone && s.heldAt (dpaOf k.addr) (min k.arg.toNat 4096)) = false := by
      cases pull with
      | none => exact hread ue rfl
      | some => rfl
    exact ⟨_, by rw [exec_read, execRead, inService_next hs, hgo, if_neg Bool.false_ne_true]⟩
  | tokenPacket =>
    obtain ⟨hret, h⟩ := Option.ite_none_left_eq_some.1 h
    cases h
    exact ⟨_, by rw [exec_tokenPacket, execTokenPacket, inService_next hs]; exact congrArg Host.Outcome.next (if_neg hret)⟩
  | combinePacket =>
    obtain ⟨hret, h⟩ := Option.ite_none_right_eq_some.1 h
    cases h
    exact ⟨_, by rw [exec_combinePacket, execCombinePacket, inService_next hs]; exact congrArg Host.Outcome.next (if_neg (by rw [hret]; decide))⟩
  | _ => cases h

section
variable {s : State} {u : PortNo} {k : Packet} {ty : Byte} {f : State → State}

/-- A packet of another type has its own command. -/
theorem arriveAs_other (ht : k.typ ≠ ty) (hk : knownType k.typ = true) : s.arriveAs (some u) k ty f = s :=
  if_pos (by rw [hk, Bool.and_true]; exact decide_eq_true ht)

/-- A packet that does not pass the checks has met them, and is not served. -/
theorem arriveAs_stopped {t : State} (ht : k.typ = ty ∨ knownType k.typ = false) (h : s.arrive (some u) k = (t, false)) :
    s.arriveAs (some u) k ty f = t := by
  have hours : ¬ (k.typ ≠ ty && knownType k.typ) = true := by
    rcases ht with ht | ht <;> simp [ht]
  unfold State.arriveAs
  rw [if_neg hours, h]
  rfl

theorem arrive_fenced (h : k.src ∈ s.fabric.fenced) : s.arrive (some u) k = ((s.received u k).count .uagDropFenced 0 1, false) :=
  if_pos (List.contains_iff_mem.2 (show k.src ∈ (s.received u k).fabric.fenced from h))

/-- The fence list is the same once a packet has left its receive buffer. -/
theorem received_not_fenced (h : k.src ∉ s.fabric.fenced) : ¬ (s.received u k).fabric.fenced.contains k.src = true :=
  fun hc => h (List.contains_iff_mem.1 hc)

theorem arrive_malformed (h : k.src ∉ s.fabric.fenced) (hbad : k.reservedZero = false ∨ knownType k.typ = false ∨ 64 ≤ k.hops) :
    s.arrive (some u) k = ((s.received u k).count .uagMalformed 0 1, false) :=
  (if_neg (received_not_fenced h)).trans (if_pos (by rcases hbad with hbad | hbad | hbad <;> simp [hbad]))

section
variable (h : k.src ∉ s.fabric.fenced) (hzero : k.reservedZero = true) (hk : knownType k.typ = true) (hhops : k.hops < 64)
include h hzero hk hhops

/-- Past the checks of its header a packet meets those of R472 and R456. -/
theorem arrive_wellFormed : s.arrive (some u) k =
    if k.dst ≠ s.self then ((s.received u k).route k (some u), false)
    else if k.ecrc ≠ k.makeEcrc then ((s.received u k).count .uagEcrcFail 0 1, false) else (s.received u k, true) :=
  (if_neg (received_not_fenced h)).trans (if_neg (by simp [hzero, hk, hhops]))

theorem arrive_elsewhere (hdst : k.dst ≠ s.self) : s.arrive (some u) k = ((s.received u k).route k (some u), false) :=
  (arrive_wellFormed h hzero hk hhops).trans (if_pos hdst)

theorem arrive_damaged (hdst : k.dst = s.self) (hecrc : k.ecrc ≠ k.makeEcrc) :
    s.arrive (some u) k = ((s.received u k).count .uagEcrcFail 0 1, false) :=
  (arrive_wellFormed h hzero hk hhops).trans ((if_neg (not_not_intro hdst)).trans (if_pos hecrc))

end

end

/-- Settles O49: whichever command brings the packet, `arriveAs` takes it in, and the first check it does not pass decides. -/
theorem arrivingPacketsAreScreened : Obligations.ArrivingPacketsAreScreened := by
  unfold Obligations.ArrivingPacketsAreScreened
  intro s i u k ty hs hi hread
  obtain ⟨f, hexec⟩ := exec_arrival hs hi hread
  rw [hexec]
  refine ⟨fun ht hk => congrArg Host.Outcome.next (arriveAs_other ht hk), fun ht => ?_⟩
  have stopped {t : State} (h : s.arrive (some u) k = (t, false)) :
      (Host.Outcome.next (s.arriveAs (some u) k ty f) : Out) = .next t := congrArg Host.Outcome.next (arriveAs_stopped ht h)
  exact ⟨fun h => stopped (arrive_fenced h), fun h => ⟨fun hbad => stopped (arrive_malformed h hbad), fun hzero hk hhops =>
    ⟨fun hdst => stopped (arrive_elsewhere h hzero hk hhops hdst), fun hdst hecrc =>
      stopped (arrive_damaged h hzero hk hhops hdst hecrc)⟩⟩⟩

end Sys2Proof.Machine
end

section
/-! SUPPORT. The answers to this node's transfers, and what is sent again (R463 to R467). -/

namespace Sys2Proof.Machine

/-! ### The outcome of a transfer -/

/-- No partition waits for the outcome of a transfer: it is none of its records, claims, migrations, switches and policies. -/
def State.unheard (s : State) (key : Nat) : Prop :=
  ∀ p : Part, xidKey (s.witnessOf p).1 0 (BitVec.ofNat 32 (key % 2 ^ 32)) ≠ key ∧ (∀ c ∈ (s.part p).claimsOut, c.2 ≠ key) ∧
    (∀ c ∈ (s.part p).migrations, c.2 ≠ key) ∧ (∀ w, (s.part p).switch = some w → key ∉ w.keys) ∧ (∀ a ∈ (s.part p).exp.asking, key ∉ a.keys)

/-- The state once a transfer is settled, where no command waits for it. -/
def State.settledAs (s : State) (key : Nat) (st : W16) (data : List Byte) : State :=
  s.modFabric (fun f => { f with held := f.held.filter (fun h => decide (h.key ≠ key)), answers := dset f.answers key (st, data) })

theorem switchAnswered_unheard {s : State} {p : Part} {key : Nat} (h : ∀ w, (s.part p).switch = some w → key ∉ w.keys) (st : W16) :
    s.switchAnswered p key st = s := by
  unfold State.switchAnswered
  split
  next w hw => exact if_pos (by simp [h w hw])
  next => rfl

theorem policyAnswered_unheard {s : State} {p : Part} {key : Nat} (h : ∀ a ∈ (s.part p).exp.asking, key ∉ a.keys) (st : W16) :
    s.policyAnswered p key st = s := by
  have hnone : (s.part p).exp.asking.find? (fun a => a.keys.contains key) = none := by simpa [List.find?_eq_none] using h
  simp only [State.policyAnswered, hnone]

/-- An outcome that no partition waits for changes none. -/
theorem partOutcome_unheard {s : State} {key : Nat} (h : s.unheard key) (st : W16) (p : Part) : s.partOutcome key st p = s := by
  obtain ⟨hrec, hclaim, hmig, hswitch, hpolicy⟩ := h p
  have hclaims : (s.part p).claimsOut.find? (fun c => decide (c.2 = key)) = none := by simpa [List.find?_eq_none] using hclaim
  have hmigs : (s.part p).migrations.find? (fun c => decide (c.2 = key)) = none := by simpa [List.find?_eq_none] using hmig
  have hjournal : s.journalOutcome p key st = s := by
    unfold State.journalOutcome
    rw [if_pos hrec]
  unfold State.partOutcome
  rw [hjournal]
  simp only [hclaims, hmigs, switchAnswered_unheard hswitch, policyAnswered_unheard hpolicy]

theorem unacked_eq_false {s : State} {key : Nat} : s.unacked key = false ↔ ∀ h ∈ s.fabric.held, h.key ≠ key := by
  simp [State.unacked]

/-- An answer to a transfer that is not outstanding settles nothing (R465). -/
theorem outcome_settled {s : State} {key : Nat} (h : s.unacked key = false) (st : W16) (data : List Byte) : s.outcome key st data = s := by
  have hnone : s.fabric.held.find? (fun h => decide (h.key = key)) = none := by
    simpa [List.find?_eq_none] using unacked_eq_false.1 h
  simp only [State.outcome, hnone]

/-- An answer to a transfer of memory that no command waits for settles it with its status and data. -/
theorem outcome_unheard {s : State} {key : Nat} (h : s.unacked key = true) (hu : s.unheard key)
    (ht : ∀ h ∈ s.fabric.held, h.key = key → h.pkt.typ = tyWrite ∨ h.pkt.typ = tyRead) (st : W16) (data : List Byte) :
    s.outcome key st data = s.settledAs key st data := by
  obtain ⟨x, hx⟩ : ∃ x, s.fabric.held.find? (fun h => decide (h.key = key)) = some x :=
    Option.isSome_iff_exists.1 (by simpa [State.unacked, List.find?_isSome] using h)
  have htyp : (x.pkt.typ = tyMsg || x.pkt.typ = tyExchange) = false := by
    rcases ht x (List.mem_of_find?_eq_some hx) (by simpa using List.find?_some hx) with ht | ht <;> rw [ht] <;> decide
  have hsettle : s.settle key st data = s.settledAs key st data := if_pos h
  have hkept : (s.settledAs key st data).unheard key := hu
  simp only [State.outcome, hx, hsettle, htyp, Bool.false_eq_true, if_false]
  exact foldl_eq_self fun p _ => partOutcome_unheard hkept st p

/-! ### ACK, READ_DATA and NACK (R463) -/

section
variable {s : State} {u : PortNo} {k : Packet} (hs : s.serving) (hh : s.hears k)
include hs hh

theorem exec_ack_hears (ht : k.typ = tyAck) :
    exec (.ack u k) s = .next ((s.received u k).outcome (xidKey k.src k.tc k.arg) stOk []) := by
  rw [exec_ack, execAck, inService_next hs, arriveAs_hears hh ht (by decide)]

theorem exec_readData_hears (ht : k.typ = tyReadData) :
    exec (.readData u k) s = .next ((s.received u k).outcome (xidKey k.src k.tc k.arg) stOk k.payload) := by
  rw [exec_readData, execReadData, inService_next hs, arriveAs_hears hh ht (by decide)]

theorem exec_nack_hears (ht : k.typ = tyNack) :
    exec (.nack u k) s = .next (if failStatus (k.arg.setWidth 16) then
      (s.received u k).outcome (xidKey k.src k.tc k.xid) (k.arg.setWidth 16) [] else s.received u k) := by
  rw [exec_nack, execNack, inService_next hs, arriveAs_hears hh ht (by decide)]

end

/-! ### E2E_RESEND (R466, R467) -/

theorem exec_e2eResend (dst : Node) (tc : Fin 4) (xid : W32) (s : State) : exec (.e2eResend dst tc xid) s = execE2eResend dst tc xid s := rfl

/-- A transfer as it is sent again (R466). -/
def resent (k : Packet) : Packet := { k with resend := true, ecrc := ({ k with resend := true } : Packet).makeEcrc }

/-- The state in which the timeout of a transfer has passed (R466). -/
def State.timedOut (s : State) (h : Held) : State := s.advanceTo (h.sentAt + 1000 * s.regBits .uagLostCfg 0 16 16)

/-- The state in which the one transfer that is held has just been sent again, before its packet leaves. -/
def State.heldAgain (s : State) (h : Held) : State :=
  (s.modFabric (fun f => { f with held := [{ h with pkt := resent h.pkt, sentAt := s.now }] })).count .uagResend 0 1

section
variable {s : State} (hs : s.serving) {dst : Node} {tc : Fin 4} {xid : W32}
include hs

theorem e2eResend_settled (h : s.unacked (xidKey dst tc xid) = false) : exec (.e2eResend dst tc xid) s = .next s := by
  have hnone : s.fabric.held.find? (fun h => decide (h.key = xidKey dst tc xid)) = none := by
    simpa [List.find?_eq_none] using unacked_eq_false.1 h
  rw [exec_e2eResend, execE2eResend, inService_next hs]
  simp only [hnone]

section
variable {h : Held} (hheld : s.fabric.held = [h]) (hkey : h.key = xidKey dst tc xid)
include hheld hkey

theorem e2eResend_waits (hw : h.waiting = true) : exec (.e2eResend dst tc xid) s = .next s := by
  rw [exec_e2eResend, execE2eResend, inService_next hs]
  simp [hheld, hkey, hw]

/-- The timeout of a transfer that does not wait for a route passes. -/
theorem e2eResend_due (hw : h.waiting = false) : exec (.e2eResend dst tc xid) s = .next
    (if (s.timedOut h).reachable dst then ((s.timedOut h).heldAgain h).route (resent h.pkt) none
     else (s.timedOut h).modFabric (fun f => { f with held := [{ h with waiting := true }] })) := by
  have hfind : s.fabric.held.find? (fun g => decide (g.key = xidKey dst tc xid)) = some h := by simp [hheld, hkey]
  have hmap (t : Nat) (f : Held → Held) : (s.advanceTo t).modFabric (fun x => { x with held := x.held.map (fun g =>
      if g.key = xidKey dst tc xid then f g else g) }) = (s.advanceTo t).modFabric (fun x => { x with held := [f h] }) := by
    simp only [State.modFabric, show (s.advanceTo t).fabric.held = [h] from hheld, List.map_cons, hkey, if_true, List.map_nil]
  rw [exec_e2eResend, execE2eResend, inService_next hs]
  simp only [hfind, hmap]
  exact congrArg Host.Outcome.next (if_neg (Bool.eq_false_iff.1 hw))

theorem e2eResend_unreachable (hw : h.waiting = false) (hno : (s.timedOut h).reachable dst = false) : exec (.e2eResend dst tc xid) s =
    .next ((s.timedOut h).modFabric (fun f => { f with held := [{ h with waiting := true }] })) := by
  rw [e2eResend_due hs hheld hkey hw, if_neg (Bool.eq_false_iff.1 hno)]

theorem e2eResend_reachable (hw : h.waiting = false) (hgo : (s.timedOut h).reachable dst = true) : ∃ t, exec (.e2eResend dst tc xid) s = .next t ∧
    t.fabric.held = [{ h with pkt := resent h.pkt, sentAt := (s.timedOut h).now }] ∧ t.parts = s.parts ∧ t.mem = s.mem := by
  have hsent := PortsOnly.route ((s.timedOut h).heldAgain h) (resent h.pkt) none
  rw [e2eResend_due hs hheld hkey hw, if_pos hgo]
  exact ⟨_, rfl, hsent.held, hsent.parts, hsent.mem⟩

end

end

/-- Settles O51: an answer by whether its transfer is outstanding, and a resend by whether its destination can be reached. -/
theorem answersSettleTransfers : Obligations.AnswersSettleTransfers := by
  unfold Obligations.AnswersSettleTransfers
  intro s u k hs
  refine ⟨fun hh => ⟨fun ht => ?_, fun ht => ?_, fun ht hst => ?_, fun ht hst => ?_⟩, fun dst tc xid => ⟨e2eResend_settled hs,
    fun h hheld hkey => ⟨e2eResend_waits hs hheld hkey, fun hw => ⟨e2eResend_unreachable hs hheld hkey hw, fun hgo => ?_⟩⟩⟩⟩
  · rw [exec_ack_hears hs hh ht]
    exact ⟨fun hno => congrArg Host.Outcome.next (outcome_settled (s := s.received u k) hno _ _), fun hout hu htyp =>
      congrArg Host.Outcome.next (outcome_unheard (s := s.received u k) hout hu (fun h hm hk => .inl (htyp h hm hk)) _ _)⟩
  · rw [exec_readData_hears hs hh ht]
    exact ⟨fun hno => congrArg Host.Outcome.next (outcome_settled (s := s.received u k) hno _ _), fun hout hu htyp =>
      congrArg Host.Outcome.next (outcome_unheard (s := s.received u k) hout hu (fun h hm hk => .inr (htyp h hm hk)) _ _)⟩
  · rw [exec_nack_hears hs hh ht, hst, if_neg Bool.false_ne_true]
  · rw [exec_nack_hears hs hh ht, if_pos hst]
    exact ⟨fun hno => congrArg Host.Outcome.next (outcome_settled (s := s.received u k) hno _ _), fun hout hu htyp =>
      congrArg Host.Outcome.next (outcome_unheard (s := s.received u k) hout hu htyp _ _)⟩
  · obtain ⟨t, hexec, hheld', hparts, hmem⟩ := e2eResend_reachable hs hheld hkey hw hgo
    exact ⟨t, _, hexec, hheld', rfl, rfl, rfl, rfl, rfl, hparts, hmem⟩

end Sys2Proof.Machine
end

section
/-! SUPPORT. Flits as a port receives them, and the timers of a port (R440 to R449, R500). -/

namespace Sys2Proof.Machine

theorem exec_flitReceive (u : PortNo) (f : Flit) (s : State) : exec (.flitReceive u f) s = execFlitReceive u f s := rfl
theorem exec_ackTimer (u : PortNo) (s : State) : exec (.ackTimer u) s = execAckTimer u s := rfl
theorem exec_nakHoldoffExpiry (u : PortNo) (s : State) : exec (.nakHoldoffExpiry u) s = execNakHoldoffExpiry u s := rfl
theorem exec_idleFlitTimer (u : PortNo) (s : State) : exec (.idleFlitTimer u) s = execIdleFlitTimer u s := rfl

@[simp] theorem modPort_modPort (s : State) (u : PortNo) (f g : Port → Port) :
    (s.modPort u f).modPort u g = s.modPort u (fun p => g (f p)) := by
  simp [State.modPort, get_eq]

/-! ### What sending leaves of what a port has received -/

/-- Two ports that have received the same: the last flit accepted, the bytes and packets that wait, and the NAK that is out. -/
structure Port.ReceivedSame (p q : Port) : Prop where
  rxSeq : q.rxSeq = p.rxSeq
  rx : q.rx = p.rx
  rxBytes : q.rxBytes = p.rxBytes
  nakOut : q.nakOut = p.nakOut

theorem Port.ReceivedSame.refl (p : Port) : p.ReceivedSame p := ⟨rfl, rfl, rfl, rfl⟩

theorem Port.ReceivedSame.trans {p q r : Port} (h : p.ReceivedSame q) (g : q.ReceivedSame r) : p.ReceivedSame r :=
  ⟨g.rxSeq.trans h.rxSeq, g.rx.trans h.rx, g.rxBytes.trans h.rxBytes, g.nakOut.trans h.nakOut⟩

theorem Port.TurnsOnly.receivedSame {p q : Port} (h : p.TurnsOnly q) : p.ReceivedSame q :=
  ⟨(congrArg Port.rxSeq h :), (congrArg Port.rx h :), (congrArg Port.rxBytes h :), (congrArg Port.nakOut h :)⟩

theorem Port.transmit_receivedSame (p : Port) (w : Turns) (k : Packet) : p.ReceivedSame (p.transmit w k) := ⟨rfl, rfl, rfl, rfl⟩

theorem Port.pump_receivedSame (w : Turns) (n : Nat) (p : Port) : p.ReceivedSame (p.pump w n) := by
  induction n generalizing p with
  | zero => exact Port.ReceivedSame.refl p
  | succ n ih =>
    unfold Port.pump
    split
    next => exact Port.ReceivedSame.refl p
    next c q hq =>
      split
      next => exact Port.ReceivedSame.refl p
      next k x hx =>
        split
        next => exact Port.ReceivedSame.refl p
        next =>
          have hturns := ((Port.serve_turns hq).trans (Port.nextOf_turns hx)).receivedSame
          exact (hturns.trans (Port.transmit_receivedSame x w k)).trans (ih _)

/-- What a port sends changes that port alone, and nothing of what it has received. -/
theorem pump_port (s : State) (u : PortNo) : s.pump u = s.modPort u (fun _ => (s.pump u).port u) ∧
    (s.port u).ReceivedSame ((s.pump u).port u) := by
  unfold State.pump
  split
  · exact ⟨modPort_eq_replace s u _, by rw [port_modPort_same]; exact Port.pump_receivedSame _ _ _⟩
  · exact ⟨(modPort_id s u).symm.trans (modPort_congr rfl), Port.ReceivedSame.refl _⟩

/-! ### Control flits (R442, R444, R446) -/

theorem body_seal (f : Flit) : f.seal.body = f.body := rfl

theorem fcrcOk_seal (f : Flit) : f.seal.fcrcOk = true := by
  rw [Flit.fcrcOk, body_seal, decide_eq_true_eq, Flit.seal]

theorem sendControl_wire (p : Port) (t : FlitType) : ∃ g, (p.sendControl t).wire = g :: p.wire ∧ g.ftype = t ∧ g.ack = p.rxSeq ∧
    g.fseq = p.txSeq ∧ g.fcrcOk = true :=
  ⟨_, rfl, rfl, rfl, rfl, fcrcOk_seal _⟩

/-- A NAK is out once a flit has been refused, and the port has accepted nothing. -/
theorem nak_receives (p : Port) : p.nak.rxSeq = p.rxSeq ∧ p.nak.rx = p.rx ∧ p.nak.rxBytes = p.rxBytes ∧ p.nak.nakOut = true := by
  unfold Port.nak
  split
  next h => exact ⟨rfl, rfl, rfl, h⟩
  next => exact ⟨rfl, rfl, rfl, rfl⟩

theorem acceptData_receives (p : Port) (f : Flit) : (p.acceptData f).rxSeq = f.fseq ∧ (p.acceptData f).nakOut = false := by
  unfold Port.acceptData
  dsimp only
  split <;> exact ⟨rfl, rfl⟩

/-! ### What FEC finds in a flit (R436, R440, R500) -/

/-- Codewords without a symbol error that FEC corrects. -/
def Port.errorFree (p : Port) (f : Flit) : Prop := ∀ w ∈ p.wordsOf f, correctable w = true → errorsOf w = []

/-- Codewords of a flit that FEC cannot correct. -/
def Port.badWords (p : Port) (f : Flit) : Nat := (p.wordsOf f).countP (fun w => !correctable w)

theorem errorFree_of_no_words {p : Port} {f : Flit} (h : f.words = []) : p.errorFree f := by
  intro w hw _
  obtain ⟨i, -, rfl⟩ := List.mem_map.1 hw
  rw [h]
  rfl

theorem badWords_of_fecOk {p : Port} {f : Flit} (h : p.fecOk f = true) : p.badWords f = 0 := by
  obtain ⟨-, hall⟩ := Bool.and_eq_true_iff.1 h
  rw [Port.badWords, List.countP_eq_zero]
  intro w hw
  simp [List.all_eq_true.1 hall w hw]

section
variable {s : State} {u : PortNo} {f : Flit}

theorem symbolErrors_errorFree {p : Port} (h : p.errorFree f) (l : Nat) : p.symbolErrors f l = 0 := by
  have hnone : ((p.wordsOf f).filter correctable).flatMap errorsOf = [] :=
    List.flatMap_eq_nil_iff.2 fun w hw => h w (List.mem_filter.1 hw).1 (List.mem_filter.1 hw).2
  rw [Port.symbolErrors, hnone, List.countP_nil]

theorem with_no_errLog {p : Port} (h : p.errLog = []) : { p with errLog := [] } = p := by
  rw [← h]

/-- The state once the codewords that FEC cannot correct are counted (R440, R500). -/
def State.countUncorrected (s : State) (u : PortNo) (n : Nat) : State := if n = 0 then s else s.count .uagPortFecUncorr u.val n

theorem port_countUncorrected (s : State) (u v : PortNo) (n : Nat) : (s.countUncorrected u n).port v = s.port v := by
  unfold State.countUncorrected
  split <;> rfl

/-- Where FEC corrects no symbol error, the codewords that it cannot correct are all that is counted. -/
theorem countFec_errorFree (hlog : (s.port u).errLog = []) (h : (s.port u).errorFree f) :
    s.countFec u f = (s.countUncorrected u ((s.port u).badWords f)).modPort u (fun p => p.fecNext f) := by
  unfold State.countFec
  extract_lets p ws lanes s₁ fixed s₂ bad s₃
  have hlanes : lanes = [] := by simp [lanes, p, symbolErrors_errorFree h]
  have hfixed : fixed = 0 := by
    refine List.countP_eq_zero.2 fun w hw => ?_
    cases hc : correctable w
    · simp
    · simp [h w hw hc]
  have h₁ : s₁ = s := by simp only [s₁, hlanes, List.foldl_nil]
  have h₃ : s₃ = s.countUncorrected u ((s.port u).badWords f) := by
    simp only [s₃, s₂, hfixed, h₁, if_true]
    rfl
  rw [h₃]
  refine modPort_congr ?_
  rw [port_countUncorrected, hlanes, hlog]
  exact with_no_errLog (p := (s.port u).fecNext f) hlog

/-- Without symbol errors on record no lane fails (R436). -/
theorem spareNoisy_quiet (h : (s.port u).errLog = []) : s.spareNoisy u = s := by
  unfold State.spareNoisy
  simp [h]

end

/-! ### FLIT_RECEIVE (R440, R442, R446, R447) -/

/-- The state once an intact flit has brought its acknowledgement and credits (R445, R453). -/
def State.credited (s : State) (u : PortNo) (f : Flit) : State :=
  s.modPort u (fun p => ((p.fecNext f).acked f.ack).credit f.vc.val f.credits)

/-- What an intact flit does by its type, from the state in which it has brought its acknowledgement and credits. -/
def State.takeFlit (s : State) (u : PortNo) (f : Flit) : State :=
  match f.ftype with
  | .data => if f.fseq = (s.port u).rxSeq + 1 then (s.modPort u (fun p => p.acceptData f)).pump u else s.modPort u Port.nak
  | .nak =>
    let t := (s.modPort u Port.replay).count .uagPortReplay u.val (s.port u).retry.length
    if (t.port u).retry.any (fun x => decide (16 ≤ x.2)) then t.portDown u else t
  | _ => s.pump u

section
variable {s : State} {u : PortNo} {f : Flit}

theorem takeFlit_next (hf : f.ftype = .data) (hseq : f.fseq = (s.port u).rxSeq + 1) :
    s.takeFlit u f = (s.modPort u (fun p => p.acceptData f)).pump u := by
  rw [State.takeFlit, hf]
  exact if_pos hseq

theorem takeFlit_gap (hf : f.ftype = .data) (hseq : f.fseq ≠ (s.port u).rxSeq + 1) : s.takeFlit u f = s.modPort u Port.nak := by
  rw [State.takeFlit, hf]
  exact if_neg hseq

theorem takeFlit_credits (hf : f.ftype = .idle ∨ f.ftype = .control) : s.takeFlit u f = s.pump u := by
  rcases hf with hf | hf <;> rw [State.takeFlit, hf]

/-- A NAK replays the retry buffer; no flit of it has been replayed too often (R447, R449). -/
theorem takeFlit_nak (hf : f.ftype = .nak) (hr : ∀ x ∈ (s.port u).retry, x.2 < 15) :
    s.takeFlit u f = (s.modPort u Port.replay).count .uagPortReplay u.val (s.port u).retry.length := by
  have hport (n : Nat) : ((s.modPort u Port.replay).count .uagPortReplay u.val n).port u = (s.port u).replay := port_modPort_same s u _
  have hfew : (s.port u).replay.retry.any (fun x => decide (16 ≤ x.2)) = false := by
    rw [List.any_eq_false]
    intro x hx
    obtain ⟨y, hy, rfl⟩ := List.mem_map.1 hx
    have := hr y hy
    simp only [decide_eq_true_eq]
    omega
  rw [State.takeFlit, hf]
  exact if_neg (by rw [hport, hfew]; decide)

end

section
variable {s : State} {u : PortNo} {f : Flit} (hs : s.serving)
include hs

theorem flitReceive_dead (h : (s.port u).live = false) : exec (.flitReceive u f) s = .next s := by
  rw [exec_flitReceive, execFlitReceive, inService_next hs]
  exact congrArg Host.Outcome.next (if_pos (by rw [h]; rfl))

variable (hlive : (s.port u).live = true) (hlog : (s.port u).errLog = [])
include hlive hlog

/-- Where no symbol error is on record or comes with the flit, the flit is judged once its codewords are counted. -/
theorem flitReceive_errorFree (h : (s.port u).errorFree f) : exec (.flitReceive u f) s = .next (
    if (s.port u).fecOk f = false ∨ f.fcrcOk = false then
      (s.countUncorrected u ((s.port u).badWords f)).modPort u (fun p => (p.fecNext f).nak)
    else ((s.countUncorrected u ((s.port u).badWords f)).credited u f).takeFlit u f) := by
  have hquiet : (s.countFec u f).spareNoisy u = s.countFec u f :=
    spareNoisy_quiet (by rw [countFec_errorFree hlog h, port_modPort_same, port_countUncorrected]; exact hlog)
  have hlive' : ((s.countFec u f).port u).live = true := by
    rw [countFec_errorFree hlog h, port_modPort_same, port_countUncorrected]
    exact hlive
  rw [exec_flitReceive, execFlitReceive, inService_next hs]
  simp only [hquiet, hlive, hlive', Bool.not_true, Bool.false_eq_true, if_false]
  rw [countFec_errorFree hlog h]
  cases (s.port u).fecOk f with
  | false => exact congrArg Host.Outcome.next (modPort_modPort _ u _ _)
  | true =>
    cases f.fcrcOk with
    | false => exact congrArg Host.Outcome.next (modPort_modPort _ u _ _)
    | true =>
      have hcredited (t : State) : (t.modPort u (fun p => p.fecNext f)).modPort u (fun p => (p.acked f.ack).credit f.vc.val f.credits) =
          t.credited u f := modPort_modPort t u _ _
      simp only [hcredited, Bool.not_true, Bool.false_eq_true, if_false]
      rfl

section
variable (hwords : f.words = []) (hfec : (s.port u).fecOk f = true)
include hwords hfec

theorem flitReceive_damaged (hf : f.fcrcOk = false) : exec (.flitReceive u f) s = .next (s.modPort u (fun p => (p.fecNext f).nak)) := by
  rw [flitReceive_errorFree hs hlive hlog (errorFree_of_no_words hwords), if_pos (.inr hf), badWords_of_fecOk hfec]
  rfl

theorem flitReceive_intact (hf : f.fcrcOk = true) : exec (.flitReceive u f) s = .next ((s.credited u f).takeFlit u f) := by
  rw [flitReceive_errorFree hs hlive hlog (errorFree_of_no_words hwords), if_neg (by simp [hfec, hf]), badWords_of_fecOk hfec]
  rfl

end

theorem flitReceive_uncorrected (hfec : (s.port u).fecOk f = false) (h : (s.port u).errorFree f) : exec (.flitReceive u f) s =
    .next ((s.countUncorrected u ((s.port u).badWords f)).modPort u (fun p => (p.fecNext f).nak)) := by
  rw [flitReceive_errorFree hs hlive hlog h, if_pos (.inl hfec)]

end

/-- A flit in sequence is accepted, and what the port then sends leaves what it has received (R446). -/
theorem credited_accepts (s : State) (u : PortNo) (f : Flit) :
    let t := ((s.credited u f).modPort u (fun p => p.acceptData f)).pump u
    t = s.modPort u (fun _ => t.port u) ∧ (t.port u).rxSeq = f.fseq ∧ (t.port u).nakOut = false := by
  intro t
  obtain ⟨hport, hsame⟩ := pump_port ((s.credited u f).modPort u (fun p => p.acceptData f)) u
  rw [port_modPort_same] at hsame
  obtain ⟨hseq, hnak⟩ := acceptData_receives ((s.credited u f).port u) f
  refine ⟨hport.trans ?_, hsame.rxSeq.trans hseq, hsame.nakOut.trans hnak⟩
  rw [modPort_modPort, State.credited, modPort_modPort]
  rfl

/-- A flit out of sequence is refused, and nothing of it is accepted (R446). -/
theorem credited_refuses (s : State) (u : PortNo) (f : Flit) :
    let t := (s.credited u f).modPort u Port.nak
    (t.port u).rxSeq = (s.port u).rxSeq ∧ (t.port u).rx = (s.port u).rx ∧ (t.port u).rxBytes = (s.port u).rxBytes ∧ (t.port u).nakOut = true := by
  intro t
  have hport : t.port u = (((s.port u).fecNext f).acked f.ack |>.credit f.vc.val f.credits).nak := by
    simp only [t, State.credited, port_modPort_same]
  rw [hport]
  exact nak_receives _

/-! ### The timers of a port (R444, R446, R448) -/

section
variable {s : State} {u : PortNo} (hs : s.serving)
include hs

theorem ackTimer_sends (hl : (s.port u).live = true) (hn : 0 < (s.port u).unacked) :
    exec (.ackTimer u) s = .next (s.modPort u (fun p => p.sendControl .idle)) := by
  rw [exec_ackTimer, execAckTimer, inService_next hs]
  exact congrArg Host.Outcome.next (if_pos (by simp [hl, hn]))

theorem ackTimer_idle (hn : (s.port u).unacked = 0) : exec (.ackTimer u) s = .next s := by
  rw [exec_ackTimer, execAckTimer, inService_next hs]
  exact congrArg Host.Outcome.next (if_neg (by simp [hn]))

theorem nakHoldoffExpiry_next : exec (.nakHoldoffExpiry u) s = .next (s.modPort u (fun p => { p with nakOut := false })) := by
  rw [exec_nakHoldoffExpiry, execNakHoldoffExpiry, inService_next hs]

theorem idleFlitTimer_sends (hl : (s.port u).live = true) :
    exec (.idleFlitTimer u) s = .next (s.modPort u (fun p => p.sendControl .idle)) := by
  rw [exec_idleFlitTimer, execIdleFlitTimer, inService_next hs, if_pos hl]

end

/-- Settles O23: a flit by what FEC and FCRC find in it, then by its type and its place in the sequence; each timer by what it sends. -/
theorem flitsAreAcceptedRefusedAndAcknowledged : Obligations.FlitsAreAcceptedRefusedAndAcknowledged := by
  unfold Obligations.FlitsAreAcceptedRefusedAndAcknowledged
  intro u s hs
  refine ⟨fun f => flitReceive_dead hs, fun f hlive hlog hwords hfec => ⟨fun hf => ?_, fun hf => ⟨fun ht hseq => ?_, fun ht hseq => ?_,
      fun ht => ?_, fun ht hr => ?_⟩⟩, fun f hlive hlog hfec h => flitReceive_uncorrected hs hlive hlog hfec h,
    fun hl hn => ?_, ackTimer_idle hs, nakHoldoffExpiry_next hs, fun hl => ?_⟩
  · exact ⟨_, flitReceive_damaged hs hlive hlog hwords hfec hf, rfl⟩
  · have hseq' : f.fseq = ((s.credited u f).port u).rxSeq + 1 := by rw [State.credited, port_modPort_same]; exact hseq
    exact ⟨_, by rw [flitReceive_intact hs hlive hlog hwords hfec hf, takeFlit_next ht hseq']; rfl, rfl, credited_accepts s u f⟩
  · have hseq' : f.fseq ≠ ((s.credited u f).port u).rxSeq + 1 := by rw [State.credited, port_modPort_same]; exact hseq
    exact ⟨_, by rw [flitReceive_intact hs hlive hlog hwords hfec hf, takeFlit_gap ht hseq']; rfl, rfl, credited_refuses s u f⟩
  · rw [flitReceive_intact hs hlive hlog hwords hfec hf, takeFlit_credits ht]
    rfl
  · rw [flitReceive_intact hs hlive hlog hwords hfec hf]
    exact congrArg Host.Outcome.next (takeFlit_nak (s := s.credited u f) ht hr)
  · refine ⟨_, ackTimer_sends hs hl hn, modPort_eq_replace s u _, ?_⟩
    rw [port_modPort_same]
    obtain ⟨g, hwire, htype, hack, hseq, hcrc⟩ := sendControl_wire (s.port u) .idle
    exact ⟨rfl, rfl, g, hwire, htype, hack, hseq, hcrc⟩
  · refine ⟨_, idleFlitTimer_sends hs hl, modPort_eq_replace s u _, ?_⟩
    rw [port_modPort_same]
    obtain ⟨g, hwire, htype, hack, -, -⟩ := sendControl_wire (s.port u) .idle
    exact ⟨g, hwire, htype, hack⟩

end Sys2Proof.Machine
end

section
/-! SUPPORT. Fabric time: syncs, the time master, the delay of a link and time writes (R484 to R491). -/

namespace Sys2Proof.Machine

theorem exec_timeSyncSend (s : State) : exec .timeSyncSend s = execTimeSyncSend s := rfl
theorem exec_linkDelayMeasure (s : State) : exec .linkDelayMeasure s = execLinkDelayMeasure s := rfl
theorem exec_timeDelayExchange (u : PortNo) (m : DelayMsg) (s : State) : exec (.timeDelayExchange u m) s = execTimeDelayExchange u m s := rfl
theorem exec_syncLoss (s : State) : exec .syncLoss s = execSyncLoss s := rfl
theorem exec_becomeMaster (s : State) : exec .becomeMaster s = execBecomeMaster s := rfl
theorem exec_uagTimeSet (x : W64) (s : State) : exec (.uagTimeSet x) s = execUagTimeSet x s := rfl

/-! ### What a step of the count and a sync sent leave unchanged -/

/-- Two states differ at most in registers, tiles and power. -/
def RampOnly (s t : State) : Prop := t = { s with regs := t.regs, tiles := t.tiles, power := t.power }

theorem RampOnly.trans {s t u : State} (h : RampOnly s t) (g : RampOnly t u) : RampOnly s u := by
  unfold RampOnly at *
  rw [g, h]

theorem RampOnly.modTiles (s : State) (ts : List Nat) (f : Tile → Tile) : RampOnly s (s.modTiles ts f) :=
  List.foldlRecOn (motive := RampOnly s) ts (fun s t => s.modTile t f) rfl fun _ hu _ _ => hu.trans rfl

theorem RampOnly.modPower (s : State) (f : Power → Power) : RampOnly s (s.modPower f) := rfl

theorem RampOnly.stopFloorLoad (s : State) : RampOnly s s.stopFloorLoad := (RampOnly.modTiles s _ _).trans (RampOnly.modPower _ _)

theorem RampOnly.judgeFloorLoad (s : State) : RampOnly s s.judgeFloorLoad := by
  unfold State.judgeFloorLoad
  split
  · split
    · exact (RampOnly.modTiles s _ _).trans (RampOnly.modPower _ _)
    · exact RampOnly.stopFloorLoad s
  · split
    · exact RampOnly.stopFloorLoad s
    · rfl

/-- A new ramp window counts a missed bound and judges the floor load (R821, R823). -/
theorem RampOnly.rampWindow (s : State) : RampOnly s s.rampWindow := by
  unfold State.rampWindow
  extract_lets p a up down missed t t'
  have ht : RampOnly s t := by
    simp only [t]
    split <;> rfl
  exact (ht.trans (RampOnly.modPower t _)).trans (RampOnly.judgeFloorLoad t')

theorem RampOnly.fabric {s t : State} (h : RampOnly s t) : t.fabric = s.fabric := (congrArg State.fabric h :)
theorem RampOnly.mem {s t : State} (h : RampOnly s t) : t.mem = s.mem := (congrArg State.mem h :)
theorem RampOnly.parts {s t : State} (h : RampOnly s t) : t.parts = s.parts := (congrArg State.parts h :)
theorem RampOnly.now {s t : State} (h : RampOnly s t) : t.now = s.now := (congrArg State.now h :)

theorem PortsOnly.now {s t : State} (h : PortsOnly s t) : t.now = s.now := (congrArg State.now h :)

theorem PortsOnly.sendSync (s : State) (master : Node) (host : Bool) : PortsOnly s (s.sendSync master host) :=
  PortsOnly.foldl (fun s u => PortsOnly.enqueue s u _) _ s

/-- Without a child port nothing is sent. -/
theorem sendSync_childless {s : State} (h : s.regBits .uagTimeCfg 0 10 8 = 0) (master : Node) (host : Bool) : s.sendSync master host = s := by
  have hbit (u : PortNo) : bitOf (s.reg .uagTimeCfg) (10 + u.val) = false := by
    have hu := testBit_bitsOf (s.reg .uagTimeCfg) 10 8 u.val
    rw [show bitsOf (s.reg .uagTimeCfg) 10 8 = 0 from h, Nat.zero_testBit] at hu
    rw [bitOf_eq_testBit]
    simpa using hu.symm
  unfold State.sendSync
  simp [hbit]

theorem advanceTo_max (s : State) (n : Nat) : s.advanceTo (max s.now n) = s.advanceTo n := by
  unfold State.advanceTo
  rw [max_eq_right (le_max_left s.now n), show max s.now n - s.now = n - s.now by omega]

/-! ### A sync is followed (R485, R486) -/

/-- The time that a sync gives: the master's, and the delay of the link. -/
def State.syncTime (s : State) (m : TimeSync) : W64 := m.time + BitVec.ofNat 64 s.fabric.linkDelay

/-- A follower is LOCKED to the master of a sync: it has stepped to its time, or slews to it. -/
structure Followed (s t : State) (m : TimeSync) : Prop where
  locked : t.fabric.locked = true
  masterNode : t.fabric.masterNode = m.master
  lastSync : t.fabric.lastSync = s.now
  lastCorr : t.fabric.lastCorr = ((s.syncTime m).toNat : Int) - s.time
  acting : t.fabric.actingMaster = s.fabric.actingMaster
  mem : t.mem = s.mem
  steps : s.fabric.locked = false → t.fabric.time = s.syncTime m ∧ t.fabric.slew = 0
  slews : s.fabric.locked = true → t.fabric.time = s.fabric.time ∧ t.fabric.slew = ((s.syncTime m).toNat : Int) - s.time

theorem Followed.sent {s t u : State} {m : TimeSync} (h : Followed s t m) (g : PortsOnly t u) : Followed s u m := by
  obtain ⟨hlocked, hmaster, hsync, hcorr, hacting, hmem, hsteps, hslews⟩ := h
  constructor
  case mem => exact g.mem.trans hmem
  all_goals rw [g.fabric]; assumption

/-- The count steps: time, LOCKED and LAST_CORR are those given, and the rest of the fabric is as it was (R486). -/
theorem stepTime_fabric (s : State) (x : W64) (corr : Int) :
    (s.stepTime x corr).fabric = { s.fabric with time := x, locked := true, slew := 0, lastCorr := corr } :=
  (RampOnly.rampWindow _).fabric

theorem follow_followed (s : State) (m : TimeSync) : Followed s (s.follow m) m := by
  unfold State.follow
  extract_lets d diff u v
  refine Followed.sent (t := v) ?_ (PortsOnly.sendSync v _ _)
  simp only [v]
  split
  next hl => exact ⟨hl, rfl, rfl, rfl, rfl, rfl, fun hno => absurd hl (Bool.eq_false_iff.1 hno), fun _ => ⟨rfl, rfl⟩⟩
  next hl =>
    have hf := stepTime_fabric u d diff
    exact ⟨by rw [hf], by rw [hf]; rfl, by rw [hf]; rfl, by rw [hf]; rfl, by rw [hf]; rfl, (RampOnly.rampWindow _).mem,
      fun _ => ⟨by rw [hf]; rfl, by rw [hf]⟩, fun hyes => absurd hyes hl⟩

/-! ### TIME_SYNC (R484 to R486, R490) -/

theorem takeRx_fn (p : Port) (k : Packet) : (p.takeRx k).fn = p.fn := by
  unfold Port.takeRx
  dsimp only
  split <;> rfl

theorem syncPort_received (s : State) (u : PortNo) (k : Packet) : (s.received u k).syncPort = s.syncPort := by
  have hfn (v : PortNo) : ((s.received u k).port v).fn = (s.port v).fn := (TrafficOnly.modPort s u (fun p => takeRx_fn p k)).fn v
  have hreg (n : RegName) (i : Nat) : (s.received u k).reg n i = s.reg n i := rfl
  simp only [State.syncPort, State.parentPort, State.backupPort, State.regBits, hreg, hfn]

section
variable {s : State} {u : PortNo} {k : Packet} {m : TimeSync} (hs : s.serving) (hh : s.hears k) (ht : k.typ = tyTime)
include hs hh ht

theorem timeSync_hears : exec (.timeSync u k m) s = .next (
    if s.hostMaster then s.received u k
    else if s.fabric.actingMaster then
      if (s.parentPort = some u || s.backupPort = some u) && (m.master < s.self || m.hostMaster) then
        ((s.received u k).modFabric (fun f => { f with actingMaster := false, locked := true })).follow m
      else s.received u k
    else if s.syncPort = some u then (s.received u k).follow m
    else s.received u k) := by
  rw [exec_timeSync, execTimeSync, inService_next hs, arriveAs_hears hh ht (by decide), ← syncPort_received s u k]
  rfl

theorem timeSync_hostMaster (hm : s.hostMaster = true) : exec (.timeSync u k m) s = .next (s.received u k) := by
  rw [timeSync_hears hs hh ht, if_pos hm]

section
variable (hm : s.hostMaster = false)
include hm

theorem timeSync_follower (ha : s.fabric.actingMaster = false) : exec (.timeSync u k m) s = .next (
    if s.syncPort = some u then (s.received u k).follow m else s.received u k) := by
  rw [timeSync_hears hs hh ht, if_neg (Bool.eq_false_iff.1 hm), if_neg (Bool.eq_false_iff.1 ha)]

/-- An acting master keeps its time where the sync comes by no parent port, or is no better (R490). -/
theorem timeSync_kept (ha : s.fabric.actingMaster = true)
    (h : (s.parentPort ≠ some u ∧ s.backupPort ≠ some u) ∨ (¬ m.master < s.self ∧ m.hostMaster = false)) :
    exec (.timeSync u k m) s = .next (s.received u k) := by
  rw [timeSync_hears hs hh ht, if_neg (Bool.eq_false_iff.1 hm), if_pos ha, if_neg]
  rcases h with h | h <;> simp [h]

/-- It yields to a sync of a lower node, or of a master set by its host (R490). -/
theorem timeSync_yields (ha : s.fabric.actingMaster = true) (hport : s.parentPort = some u ∨ s.backupPort = some u)
    (hbetter : m.master < s.self ∨ m.hostMaster = true) : exec (.timeSync u k m) s =
      .next (((s.received u k).modFabric (fun f => { f with actingMaster := false, locked := true })).follow m) := by
  rw [timeSync_hears hs hh ht, if_neg (Bool.eq_false_iff.1 hm), if_pos ha, if_pos (by simp [hport, hbetter])]

end

end

/-! ### The time master (R484, R488, R489) -/

section
variable {s : State} (hs : s.serving)
include hs

theorem timeSyncSend_idle (hm : s.timeMaster = false) : exec .timeSyncSend s = .next s := by
  rw [exec_timeSyncSend, execTimeSyncSend, inService_next hs, if_neg (Bool.eq_false_iff.1 hm)]

/-- The state in which the master's sync interval has passed. -/
def State.syncDue (s : State) : State :=
  (s.advanceTo (s.fabric.lastSync + 1000 * s.regBits .uagTimeCfg 0 18 8)).modFabric (fun f => { f with
    lastSync := max s.now (s.fabric.lastSync + 1000 * s.regBits .uagTimeCfg 0 18 8) })

theorem timeSyncSend_sends (hm : s.timeMaster = true) : exec .timeSyncSend s = .next (s.syncDue.sendSync s.self s.hostMaster) := by
  rw [exec_timeSyncSend, execTimeSyncSend, inService_next hs, if_pos hm]
  rfl

/-- A time master takes no sync and loses none (R488, R489). -/
theorem syncLoss_master (hm : s.timeMaster = true) : exec .syncLoss s = .next s := by
  rw [exec_syncLoss, execSyncLoss, inService_next hs, if_pos hm]

theorem becomeMaster_idle (h : s.timeMaster = true ∨ s.isBackup = false) : exec .becomeMaster s = .next s := by
  rw [exec_becomeMaster, execBecomeMaster, inService_next hs]
  exact congrArg Host.Outcome.next (if_pos (by rcases h with h | h <;> simp [h]))

theorem syncLoss_unlocks (hm : s.timeMaster = false) : exec .syncLoss s =
    .next ((s.advanceTo (s.fabric.lastSync + 1000000)).modFabric (fun f => { f with locked := false, slew := 0 })) := by
  rw [exec_syncLoss, execSyncLoss, inService_next hs, if_neg (Bool.eq_false_iff.1 hm)]

theorem becomeMaster_becomes (hm : s.timeMaster = false) (hb : s.isBackup = true) : exec .becomeMaster s =
    .next (((s.advanceTo (s.fabric.lastSync + 100000)).modFabric (fun f => { f with
      actingMaster := true, slew := 0, lastSync := max s.now (s.fabric.lastSync + 100000) })).sendSync s.self false) := by
  rw [exec_becomeMaster, execBecomeMaster, inService_next hs]
  exact congrArg Host.Outcome.next (if_neg (by simp [hm, hb]))

/-! ### The delay of a link (R485) -/

theorem linkDelayMeasure_without_port (h : s.syncPort = none) : exec .linkDelayMeasure s = .next s := by
  rw [exec_linkDelayMeasure, execLinkDelayMeasure, inService_next hs, h]

theorem linkDelayMeasure_port {u : PortNo} (h : s.syncPort = some u) : exec .linkDelayMeasure s = .next (
    if (s.port u).fn.st = .on then
      s.enqueue u (s.makePacket tyTime 0 (s.port u).neighbour 0 0 0 (Config.messageKind kindDelay) (Config.messageBody [s.time]))
    else s) := by
  rw [exec_linkDelayMeasure, execLinkDelayMeasure, inService_next hs, h]

theorem timeDelayExchange_reply (u : PortNo) (r n : Nat) : exec (.timeDelayExchange u (.reply r n)) s = .next (
    if s.syncPort = some u then s.modFabric (fun f => { f with linkDelay := (r - n) / 2 }) else s) := by
  rw [exec_timeDelayExchange, execTimeDelayExchange, inService_next hs]

theorem timeDelayExchange_request (u : PortNo) (n : Nat) : exec (.timeDelayExchange u (.request n)) s = .next (
    if (s.port u).fn.st = .on then
      s.enqueue u (s.makePacket tyTime 0 (s.port u).neighbour 0 0 0 (Config.messageKind kindDelay) (Config.messageBody [n]))
    else s) := by
  rw [exec_timeDelayExchange, execTimeDelayExchange, inService_next hs]

/-! ### Time writes (R486, R491) -/

theorem uagTimeSet_steps (hm : s.hostMaster = true) (hl : s.fabric.locked = false) (x : W64) :
    exec (.uagTimeSet x) s = .next (s.stepTime x ((x.toNat : Int) - s.time)) := by
  rw [exec_uagTimeSet, execUagTimeSet, inService_next hs]
  exact congrArg Host.Outcome.next (if_pos (by simp [hm, hl]))

theorem uagTimeSet_ignored (h : s.hostMaster = false ∨ s.fabric.locked = true) (x : W64) : exec (.uagTimeSet x) s = .next s := by
  rw [exec_uagTimeSet, execUagTimeSet, inService_next hs]
  exact congrArg Host.Outcome.next (if_neg (by rcases h with h | h <;> simp [h]))

end

/-- Settles O54: a sync by whether the node is master, acting master or follower; every other command by the condition it acts under. -/
theorem fabricTimeIsFollowed : Obligations.FabricTimeIsFollowed := by
  unfold Obligations.FabricTimeIsFollowed
  intro s hs
  refine ⟨fun u k m hh ht => ⟨timeSync_hostMaster hs hh ht, fun hm ha => ⟨fun hp hb => ?_, fun hno hhost => ?_, fun hport hbetter => ?_⟩,
      fun hm ha hport => ?_, fun hm ha hport => ?_⟩,
    timeSyncSend_idle hs, fun hm => ?_, linkDelayMeasure_without_port hs, fun u hu => ⟨fun hon => ?_, fun hon => ?_⟩,
    fun u r n => ⟨fun hu => ?_, fun hu => ?_, fun hon => ?_, fun hon => ?_⟩,
    fun hm => ⟨syncLoss_master hs hm, becomeMaster_idle hs (.inl hm)⟩, fun hb => becomeMaster_idle hs (.inr hb),
    fun hm => ⟨syncLoss_unlocks hs hm, fun hb => ?_⟩, fun x => ⟨fun hm hl => ?_, fun h => uagTimeSet_ignored hs h x⟩⟩
  · exact timeSync_kept hs hh ht hm ha (.inl ⟨hp, hb⟩)
  · exact timeSync_kept hs hh ht hm ha (.inr ⟨hno, hhost⟩)
  · obtain ⟨hlocked, hmaster, hsync, -, hacting, -, -, hslews⟩ :=
      follow_followed ((s.received u k).modFabric (fun f => { f with actingMaster := false, locked := true })) m
    exact ⟨_, timeSync_yields hs hh ht hm ha hport hbetter, hacting, hlocked, hmaster, hsync, hslews rfl⟩
  · rw [timeSync_follower hs hh ht hm ha, if_neg hport]
  · obtain ⟨hlocked, hmaster, hsync, hcorr, -, hmem, hsteps, hslews⟩ := follow_followed (s.received u k) m
    exact ⟨_, by rw [timeSync_follower hs hh ht hm ha, if_pos hport], hlocked, hmaster, hsync, hcorr, hmem, hsteps, hslews⟩
  · have hsent := PortsOnly.sendSync s.syncDue s.self s.hostMaster
    have hnow : (s.syncDue.sendSync s.self s.hostMaster).now = max s.now (s.fabric.lastSync + 1000 * s.regBits .uagTimeCfg 0 18 8) := hsent.now
    refine ⟨_, timeSyncSend_sends hs hm, ?_, hnow, hsent.parts, hsent.mem, fun hch => ?_⟩
    · rw [hnow, hsent.fabric]
      rfl
    · rw [hnow, sendSync_childless (s := s.syncDue) hch, advanceTo_max]
      rfl
  · rw [linkDelayMeasure_port hs hu, if_neg hon]
  · exact ⟨_, by rw [linkDelayMeasure_port hs hu, if_pos hon], rfl, rfl, rfl⟩
  · rw [timeDelayExchange_reply hs, if_pos hu]
    rfl
  · rw [timeDelayExchange_reply hs, if_neg hu]
  · rw [timeDelayExchange_request hs, if_neg hon]
  · exact ⟨_, by rw [timeDelayExchange_request hs, if_pos hon], rfl, rfl⟩
  · have hsent := PortsOnly.sendSync ((s.advanceTo (s.fabric.lastSync + 100000)).modFabric (fun f => { f with
      actingMaster := true, slew := 0, lastSync := max s.now (s.fabric.lastSync + 100000) })) s.self false
    refine ⟨_, becomeMaster_becomes hs hm hb, ?_, ?_, hsent.now, ?_, ?_, hsent.mem⟩
    · rw [hsent.fabric]; rfl
    · rw [hsent.fabric]; rfl
    · rw [hsent.now, hsent.fabric]; rfl
    · rw [hsent.fabric]; rfl
  · have hf := stepTime_fabric s x ((x.toNat : Int) - s.time)
    have hramp := RampOnly.rampWindow (s.modFabric (fun f => { f with time := x, locked := true, slew := 0, lastCorr := (x.toNat : Int) - s.time }))
    exact ⟨_, uagTimeSet_steps hs hm hl x, by rw [hf], by rw [hf], by rw [hf], hramp.parts, hramp.mem, hramp.now⟩

end Sys2Proof.Machine
end

section
/-! SUPPORT. The loss of a node, and the fence registers (R470, R493 to R497, R748). -/

namespace Sys2Proof.Machine

theorem exec_nodeLost (n : Node) (s : State) : exec (.nodeLost n) s = execNodeLost n s := rfl
theorem exec_uagFenceSet (v : W32) (s : State) : exec (.uagFenceSet v) s = execUagFenceSet v s := rfl
theorem exec_uagFenceClear (i : Fin 16) (v : W32) (s : State) : exec (.uagFenceClear i v) s = execUagFenceClear i v s := rfl

/-! ### What leaves memory, security, the clock and the fence list as they are -/

/-- Memory, security, the clock and the fence list are as they were. -/
structure FencesKept (s t : State) : Prop where
  mem : t.mem = s.mem
  sec : t.sec = s.sec
  now : t.now = s.now
  fenced : t.fabric.fenced = s.fabric.fenced

section
variable {p : Part} {s t u : State}

theorem FencesKept.refl (s : State) : FencesKept s s := ⟨rfl, rfl, rfl, rfl⟩

theorem FencesKept.trans (h : FencesKept s t) (g : FencesKept t u) : FencesKept s u :=
  ⟨g.mem.trans h.mem, g.sec.trans h.sec, g.now.trans h.now, g.fenced.trans h.fenced⟩

theorem FencesKept.foldl {α : Type} {f : State → α → State} (hf : ∀ s a, FencesKept s (f s a)) (l : List α) (s : State) :
    FencesKept s (l.foldl f s) :=
  List.foldlRecOn (motive := FencesKept s) l f (FencesKept.refl s) fun u hu a _ => hu.trans (hf u a)

/-- What happens only under a condition keeps what it keeps where it happens. -/
theorem FencesKept.ite {c : Prop} [Decidable c] (ht : FencesKept s t) (hu : FencesKept s u) : FencesKept s (if c then t else u) := by
  split
  · exact ht
  · exact hu

theorem PartOnly.fencesKept (h : PartOnly p s t) : FencesKept s t :=
  ⟨h.mem, (congrArg State.sec h.eq :), (congrArg State.now h.eq :), by rw [h.fabric]⟩

theorem PortsOnly.fencesKept (h : PortsOnly s t) : FencesKept s t := ⟨h.mem, h.sec, (congrArg State.now h :), h.fenced⟩

theorem EventsOnly.fencesKept (h : EventsOnly s t) : FencesKept s t := ⟨h.mem, h.sec, h.now, by rw [h.fabric]⟩

end

theorem FencesKept.modPart (s : State) (p : Part) (f : Partition → Partition) : FencesKept s (s.modPart p f) := (PartOnly.modPart p s f).fencesKept

theorem FencesKept.modExp (s : State) (p : Part) (f : Experts → Experts) : FencesKept s (s.modExp p f) := FencesKept.modPart s p _

theorem FencesKept.modFabric (s : State) {f : Fabric → Fabric} (hf : ∀ x, (f x).fenced = x.fenced) : FencesKept s (s.modFabric f) :=
  ⟨rfl, rfl, rfl, hf s.fabric⟩

theorem FencesKept.finishOrder (s : State) (p : Part) (o : Nat) (st : W16) (info result : Nat) :
    FencesKept s (s.finishOrder p o st info result) := by
  unfold State.finishOrder
  split
  · exact (PartOnly.finish p s _ st info result).fencesKept
  · exact FencesKept.refl s

theorem FencesKept.sendAcked (s : State) (typ : Byte) (tc : Fin 4) (dst : Node) (p : Part) (addr : W64) (arg : W32) (payload : List Byte)
    (run : Option (Part × W32)) : FencesKept s (s.sendAcked typ tc dst p addr arg payload run).2 := by
  unfold State.sendAcked
  extract_lets i xid key k u
  split
  · exact ⟨rfl, rfl, rfl, rfl⟩
  · exact FencesKept.trans (t := u) ⟨rfl, rfl, rfl, rfl⟩ (PortsOnly.route u k none).fencesKept

theorem FencesKept.announce (s : State) (p : Part) (kind : Nat) (body : List Nat) : FencesKept s (s.announce p kind body).2 :=
  List.foldlRecOn (motive := fun y : List Nat × State => FencesKept s y.2) _ _ (FencesKept.refl s)
    fun y hy _ _ => hy.trans (FencesKept.sendAcked y.2 ..)

theorem FencesKept.settle (s : State) (key : Nat) (st : W16) (data : List Byte) : FencesKept s (s.settle key st data) :=
  FencesKept.ite ⟨rfl, rfl, rfl, rfl⟩ (FencesKept.refl s)

/-! ### The collective engine (R480 to R483, R494 step 3) -/

theorem FencesKept.modColl (s : State) (id : W16) (f : Coll → Coll) : FencesKept s (s.modColl id f) := ⟨rfl, rfl, rfl, rfl⟩

theorem FencesKept.sendChunk (s : State) (c : CollPlan) (dst : Node) (i : Nat) (vs : List W32) : FencesKept s (s.sendChunk c dst i vs) :=
  (PortsOnly.sendPlain s ..).fencesKept

theorem FencesKept.collResult (s : State) (c : CollPlan) (i : Nat) (vs : List W32) : FencesKept s (s.collResult c i vs) := by
  unfold State.collResult
  extract_lets t
  have ht : FencesKept s t := FencesKept.modColl s _ _
  have hdown : FencesKept t (c.children.foldl (fun s n => s.sendChunk c n i vs) t) :=
    FencesKept.foldl (fun s n => FencesKept.sendChunk s c n i vs) _ t
  split
  · exact ht.trans hdown
  · exact ht.trans hdown
  · exact ht.trans hdown
  · exact ht

theorem FencesKept.collForm (s : State) (id : W16) (i : Nat) : FencesKept s (s.collForm id i) := by
  unfold State.collForm
  split
  next => exact FencesKept.refl s
  next x _ =>
    refine FencesKept.ite (FencesKept.refl s) ?_
    split
    next => exact FencesKept.refl s
    next vs _ =>
      extract_lets t
      refine FencesKept.trans (t := t) (FencesKept.modColl s id _) ?_
      split
      next => exact FencesKept.sendChunk _ _ _ _ _
      next =>
        split
        next =>
          split
          next => exact FencesKept.ite (FencesKept.collResult _ _ _ _) (FencesKept.sendChunk _ _ _ _ _)
          next => exact FencesKept.refl _
        next => exact FencesKept.collResult _ _ _ _

theorem FencesKept.collTake (s : State) (x : Coll) (k : Packet) (kind : CollKind) : FencesKept s (s.collTake x k kind) := by
  refine FencesKept.ite (FencesKept.refl s) ?_
  cases kind with
  | partialSum => exact (FencesKept.modColl s _ _).trans (FencesKept.collForm _ _ _)
  | result => exact FencesKept.collResult s _ _ _
  | abort => exact FencesKept.refl s

theorem FencesKept.abortOne (s : State) (x : Coll) (st : W16) : FencesKept s (s.abortOne x st) := by
  unfold State.abortOne State.closeColl
  extract_lets c
  exact (PortsOnly.foldl (fun s n => PortsOnly.sendPlain s ..) _ s).fencesKept.trans (FencesKept.modFabric _ (fun _ => by rfl))

theorem FencesKept.openColl (s : State) (c : CollPlan) : FencesKept s (s.openColl c) := by
  unfold State.openColl
  extract_lets t me u mine
  have ht : FencesKept s t := FencesKept.modFabric s (fun _ => by rfl)
  refine ht.trans (FencesKept.ite (FencesKept.abortOne t _ _) ?_)
  have hu : FencesKept t u := by
    simp only [u]
    split
    · exact FencesKept.ite (FencesKept.foldl (fun s i => FencesKept.collResult s _ _ _) _ t) (FencesKept.refl t)
    · exact (FencesKept.foldl (fun s x => FencesKept.ite (FencesKept.refl s) (FencesKept.sendChunk s _ _ _ _)) _ t).trans
        (FencesKept.collResult _ _ _ _)
    · exact FencesKept.foldl (fun s i => FencesKept.collForm s _ _) _ t
  refine hu.trans (FencesKept.foldl (fun s e => ?_) mine u)
  split
  · exact FencesKept.collTake s _ _ _
  · exact FencesKept.refl s

theorem FencesKept.settleColls (n : Nat) (s : State) : FencesKept s (State.settleColls n s) := by
  induction n generalizing s with
  | zero => exact FencesKept.refl s
  | succ n ih =>
    unfold State.settleColls
    split
    next x _ => exact FencesKept.trans (t := s.closeColl x stOk) ⟨rfl, rfl, rfl, rfl⟩ (ih _)
    next =>
      split
      next c _ =>
        have herase : FencesKept s (s.modFabric (fun f => { f with waiting := f.waiting.erase c })) := FencesKept.modFabric s (fun _ => by rfl)
        exact (herase.trans (FencesKept.openColl _ c)).trans (ih _)
      next => exact FencesKept.refl s

theorem FencesKept.collsGoOn (s : State) : FencesKept s s.collsGoOn := FencesKept.settleColls _ s

theorem FencesKept.endCasts (s : State) (p : Part) (o : Nat) (which : Nat → Bool) : FencesKept s (s.endCasts p o which) := by
  unfold State.endCasts
  extract_lets gone
  exact FencesKept.ite (FencesKept.trans (FencesKept.modFabric s (fun _ => by rfl)) (FencesKept.collsGoOn _)) (FencesKept.refl s)

/-! ### The journal of a partition (R739, R744, R758) -/

theorem FencesKept.modJnl (s : State) (p : Part) (f : Journal → Journal) : FencesKept s (s.modJnl p f) := FencesKept.modPart s p _

theorem FencesKept.raiseEvent (s : State) (p : Part) (code : W16) (subject arg : Nat) : FencesKept s (s.raiseEvent p code subject arg) :=
  (EventsOnly.raiseEvent s p code subject arg).fencesKept

theorem FencesKept.sendRecords (p : Part) (n : Nat) (s : State) : FencesKept s (State.sendRecords p n s) := by
  induction n generalizing s with
  | zero => exact FencesKept.refl s
  | succ n ih =>
    unfold State.sendRecords
    extract_lets j ready room w
    clear_value ready
    cases ready with
    | nil => exact FencesKept.refl s
    | cons r ready => exact FencesKept.ite (FencesKept.refl s) (((FencesKept.sendAcked s ..).trans (FencesKept.modJnl _ p _)).trans (ih _))

theorem FencesKept.writeRecords (p : Part) (rs : List PendRec) (s : State) : FencesKept s (State.writeRecords p rs s).1 := by
  induction rs generalizing s with
  | nil => exact FencesKept.refl s
  | cons r rs ih =>
    unfold State.writeRecords
    split
    · exact ih s
    · split
      · exact FencesKept.refl s
      · extract_lets i j₀ j s₁ full s₂ s₃ x
        have h₂ : FencesKept s s₂ := ((PartOnly.hostWrite p s _ _).trans (PartOnly.modRing p s₁ jnlRing _)).fencesKept
        have h₃ : FencesKept s₂ s₃ := FencesKept.ite (FencesKept.raiseEvent s₂ ..) (FencesKept.refl s₂)
        exact (h₂.trans h₃).trans (ih s₃)

theorem FencesKept.flushJournal (s : State) (p : Part) : FencesKept s (s.flushJournal p) :=
  FencesKept.ite (FencesKept.refl s) ⟨rfl, rfl, rfl, rfl⟩

theorem FencesKept.pumpJournal (s : State) (p : Part) : FencesKept s (s.pumpJournal p) := by
  unfold State.pumpJournal
  extract_lets s₁ s₂ x
  have h₁ : FencesKept s s₁ := FencesKept.modJnl s p _
  have h₂ : FencesKept s₁ s₂ := FencesKept.ite (FencesKept.sendRecords p _ s₁) (FencesKept.refl s₁)
  exact (((h₁.trans h₂).trans (FencesKept.writeRecords p _ s₂)).trans (FencesKept.modJnl x.1 p _)).trans (FencesKept.flushJournal _ p)

theorem FencesKept.dropRequest (s : State) (p : Part) (id : Nat) : FencesKept s (s.dropRequest p id) := by
  unfold State.dropRequest
  split
  next r _ =>
    have hunlinked : FencesKept s (s.unlinkRequest p r) := ⟨rfl, rfl, rfl, rfl⟩
    exact hunlinked.trans (FencesKept.modPart _ p _)
  next => exact FencesKept.refl s

theorem FencesKept.dropRecords (s : State) (p : Part) (id : Nat) (st : W16) : FencesKept s (s.dropRecords p id st) := by
  refine (FencesKept.modJnl s p _).trans (FencesKept.foldl (fun s x => ?_) _ _)
  split
  · split
    · exact FencesKept.finishOrder s ..
    · exact FencesKept.refl s
  · exact FencesKept.refl s

theorem FencesKept.endUnclosed (s : State) (p : Part) (id : Nat) (st : W16) : FencesKept s (s.endUnclosed p id st) := by
  unfold State.endUnclosed
  extract_lets q t
  have ht : FencesKept s t := (FencesKept.dropRequest s p id).trans (FencesKept.dropRecords _ p id st)
  refine ht.trans ?_
  clear_value q
  split
  next r =>
    extract_lets a b c
    have ha : FencesKept t a := by
      simp only [a]
      split
      · exact FencesKept.finishOrder t ..
      · exact FencesKept.refl t
    have hb : FencesKept a b := FencesKept.foldl (fun s o => FencesKept.finishOrder s ..) _ a
    have hc : FencesKept b c := by
      simp only [c]
      split
      · exact FencesKept.finishOrder b ..
      · exact FencesKept.refl b
    refine ((ha.trans hb).trans hc).trans ?_
    split
    · exact FencesKept.finishOrder c ..
    · exact FencesKept.refl c
  next => exact FencesKept.refl t

theorem FencesKept.mirrorEnded (s : State) (p : Part) (xid : W32) : FencesKept s (s.mirrorEnded p xid) := by
  unfold State.mirrorEnded
  split
  · exact (FencesKept.endUnclosed s p _ _).trans (FencesKept.pumpJournal _ p)
  · exact FencesKept.refl s

theorem FencesKept.witnessAnswered (s : State) (p : Part) (xid : W32) (st : W16) : FencesKept s (s.witnessAnswered p xid st) := by
  unfold State.witnessAnswered
  extract_lets mine wait t
  have ht : FencesKept s t := ⟨rfl, rfl, rfl, rfl⟩
  exact FencesKept.ite (FencesKept.refl s) (FencesKept.ite ((ht.trans (FencesKept.modJnl t p _)).trans (FencesKept.pumpJournal _ p))
    (FencesKept.ite (FencesKept.modJnl s p _) (FencesKept.refl s)))

theorem FencesKept.lagEnds (s : State) (p : Part) : FencesKept s (s.lagEnds p) :=
  FencesKept.ite (FencesKept.refl s) (FencesKept.modJnl s p _)

theorem FencesKept.journalOutcome (s : State) (p : Part) (key : Nat) (st : W16) : FencesKept s (s.journalOutcome p key st) := by
  unfold State.journalOutcome
  extract_lets xid
  have hanswer : FencesKept s (if st = stEpoch then s.mirrorEnded p xid else s.witnessAnswered p xid st) :=
    FencesKept.ite (FencesKept.mirrorEnded s p xid) (FencesKept.witnessAnswered s p xid st)
  exact FencesKept.ite (FencesKept.refl s) (hanswer.trans (FencesKept.lagEnds _ p))

theorem FencesKept.journalResume (s : State) (p : Part) (c : Cmd) (x : Restore) (ts : List W32) : FencesKept s (s.journalResume p c x ts) := by
  unfold State.journalResume State.journalCommand State.writeJournal
  extract_lets t recs n
  have ht : FencesKept s t := (FencesKept.modPart s p _).trans (FencesKept.modPart _ p _)
  have hnumber : FencesKept t (t.numberAccept p c.order) := (FencesKept.modJnl t p _).trans (PartOnly.modCmd p _ _ _).fencesKept
  exact (((ht.trans hnumber).trans (PartOnly.modCmd p _ c.order _).fencesKept).trans (FencesKept.modJnl _ p _)).trans (FencesKept.pumpJournal _ p)

/-! ### Who waits for a transfer -/

theorem FencesKept.claimAnswered (s : State) (p : Part) (o : Nat) (st : W16) : FencesKept s (s.claimAnswered p o st) := by
  unfold State.claimAnswered
  split
  · exact FencesKept.refl s
  · exact (FencesKept.modPart s p _).trans (FencesKept.ite (FencesKept.journalResume _ p _ _ _) (PartOnly.finish p _ _ st 0 0).fencesKept)

theorem FencesKept.migrationFails (s : State) (p : Part) (o : Nat) (st : W16) : FencesKept s (s.migrationFails p o st) :=
  (FencesKept.modPart s p _).trans (FencesKept.finishOrder _ ..)

theorem FencesKept.switchAnswered (s : State) (p : Part) (key : Nat) (st : W16) : FencesKept s (s.switchAnswered p key st) := by
  unfold State.switchAnswered
  split
  next w _ =>
    refine FencesKept.ite (FencesKept.refl s) (FencesKept.ite (FencesKept.modPart s p _) ?_)
    extract_lets t
    have ht : FencesKept s t := (FencesKept.announce s p _ _).trans (FencesKept.modPart _ p _)
    refine ht.trans ?_
    cases w.cmd with
    | some o => exact FencesKept.finishOrder _ ..
    | none => exact FencesKept.refl _
  next => exact FencesKept.refl s

theorem FencesKept.policyAnswered (s : State) (p : Part) (key : Nat) (st : W16) : FencesKept s (s.policyAnswered p key st) := by
  unfold State.policyAnswered
  split
  · exact FencesKept.refl s
  · exact FencesKept.ite ((FencesKept.modPart s p _).trans (FencesKept.finishOrder _ ..))
      (FencesKept.ite ((FencesKept.modPart s p _).trans (FencesKept.finishOrder _ ..)) (FencesKept.modPart s p _))

/-- The state after the journal is taken for an unknown: to compare the searches in it, the kernel would compute it. -/
theorem FencesKept.partOutcome (s : State) (key : Nat) (st : W16) (p : Part) : FencesKept s (s.partOutcome key st p) := by
  obtain ⟨t, ht⟩ : ∃ t, s.journalOutcome p key st = t := ⟨_, rfl⟩
  have hst : FencesKept s t := ht ▸ FencesKept.journalOutcome s p key st
  unfold State.partOutcome
  rw [ht]
  extract_lets t' u v
  have hu : FencesKept t u := by
    unfold u
    cases (t.part p).claimsOut.find? (fun c => decide (c.2 = key)) with
    | some c => exact FencesKept.claimAnswered t p c.1 st
    | none => exact FencesKept.refl t
  have hv : FencesKept u v := by
    unfold v
    cases (u.part p).migrations.find? (fun c => decide (c.2 = key)) with
    | some c => exact FencesKept.ite (FencesKept.refl u) (FencesKept.migrationFails u p c.1 st)
    | none => exact FencesKept.refl u
  exact (((hst.trans hu).trans hv).trans (FencesKept.switchAnswered v p key st)).trans (FencesKept.policyAnswered _ p key st)

/-! ### A partition loses a node (R494, R748) -/

theorem FencesKept.witnessLost (s : State) (p : Part) : FencesKept s (s.witnessLost p) :=
  (FencesKept.modJnl s p _).trans (FencesKept.raiseEvent _ ..)

theorem FencesKept.failLoad (s : State) (p : Part) (l : Load) (st : W16) (info result : Nat) : FencesKept s (s.failLoad p l st info result) :=
  (FencesKept.modPart s p _).trans (FencesKept.finishOrder _ ..)

theorem FencesKept.endLoad (s : State) (p : Part) (l : Load) : FencesKept s (s.endLoad p l) := by
  have hdone (t : State) : FencesKept t (State.endLoad.done p l t) := by
    unfold State.endLoad.done
    extract_lets bad
    clear_value bad
    cases bad <;> exact FencesKept.finishOrder t ..
  unfold State.endLoad
  extract_lets t
  have ht : FencesKept s t := (FencesKept.modPart s p _).trans (FencesKept.endCasts _ ..)
  refine ht.trans ?_
  split
  · exact FencesKept.ite (FencesKept.modPart t p _) (hdone t)
  · exact hdone t

theorem FencesKept.loadsLose (s : State) (p : Part) (n : Node) : FencesKept s (s.loadsLose p n) := by
  refine FencesKept.foldl (fun s l => ?_) _ s
  split
  · exact FencesKept.ite (FencesKept.failLoad s ..) (FencesKept.refl s)
  · exact FencesKept.ite (FencesKept.endLoad s p _) (FencesKept.refl s)
  · exact FencesKept.refl s

theorem FencesKept.announceMap (s : State) (p : Part) (rs : List (Nat × List Node)) : FencesKept s (s.announceMap p rs) := by
  unfold State.announceMap
  extract_lets a body
  exact (FencesKept.announce s p _ _).trans (FencesKept.modExp _ p _)

theorem FencesKept.partLoses (s : State) (n : Node) (p : Part) : FencesKept s (s.partLoses n p) := by
  unfold State.partLoses
  extract_lets a b c i mine d
  have ha : FencesKept s a := FencesKept.ite (FencesKept.witnessLost s p) (FencesKept.refl s)
  have hb : FencesKept a b := FencesKept.loadsLose a p n
  have hc : FencesKept b c := FencesKept.modPart b p _
  have hd : FencesKept c d := (PartOnly.failStep p c).fencesKept
  exact ((ha.trans hb).trans hc).trans (FencesKept.ite (FencesKept.refl c) (hd.trans (FencesKept.ite (FencesKept.refl d) (FencesKept.announceMap d p _))))

/-! ### A node is cut off (R494) -/

/-- Memory, security and the clock are as they were, and the fence list has the node besides. -/
structure NodeFenced (n : Node) (s t : State) : Prop where
  mem : t.mem = s.mem
  sec : t.sec = s.sec
  now : t.now = s.now
  fenced : ∀ m, m ∈ t.fabric.fenced ↔ m = n ∨ m ∈ s.fabric.fenced

section
variable {n : Node} {s t u : State}

theorem NodeFenced.before (h : FencesKept s t) (g : NodeFenced n t u) : NodeFenced n s u :=
  ⟨g.mem.trans h.mem, g.sec.trans h.sec, g.now.trans h.now, fun m => by rw [g.fenced, h.fenced]⟩

theorem NodeFenced.trans (h : NodeFenced n s t) (g : FencesKept t u) : NodeFenced n s u :=
  ⟨g.mem.trans h.mem, g.sec.trans h.sec, g.now.trans h.now, fun m => by rw [g.fenced, h.fenced]⟩

theorem NodeFenced.modFabric {f : Fabric → Fabric} (hf : (f s.fabric).fenced = if s.fabric.fenced.contains n then s.fabric.fenced else n :: s.fabric.fenced) :
    NodeFenced n s (s.modFabric f) := by
  refine ⟨rfl, rfl, rfl, fun m => ?_⟩
  rw [State.modFabric_fabric, hf]
  split
  next hc => exact ⟨.inr, fun h => h.elim (fun e => e ▸ List.contains_iff_mem.1 hc) id⟩
  next => exact List.mem_cons

end

theorem cutOff_fenced (s : State) (n : Node) : NodeFenced n s (s.cutOff n) := by
  unfold State.cutOff
  extract_lets a mine b c
  have ha : FencesKept s a := (PortsOnly.foldl (fun s u => PortsOnly.modPort s u _) allPorts s).fencesKept
  have hb : FencesKept a b := FencesKept.foldl (fun s h => FencesKept.settle s ..) _ a
  have hc : FencesKept b c := FencesKept.foldl (fun s x => FencesKept.abortOne s x _) _ b
  exact (NodeFenced.before ((ha.trans hb).trans hc) (NodeFenced.modFabric rfl)).trans (FencesKept.collsGoOn _)

/-- Whatever waits for a lost node learns of it once the node is fenced. -/
theorem loseNode_fenced (s : State) (n : Node) : NodeFenced n s (s.loseNode n) := by
  unfold State.loseNode
  extract_lets lost keys a b
  have ha : NodeFenced n s a := (cutOff_fenced s n).trans (FencesKept.modFabric _ (fun _ => by rfl))
  have hb : FencesKept a b := FencesKept.foldl (fun s k => FencesKept.foldl (fun s p => FencesKept.partOutcome s k _ p) _ s) _ a
  exact (ha.trans hb).trans (FencesKept.foldl (fun s p => FencesKept.partLoses s n p) _ b)

/-! ### UAG_FENCE_CLEAR (R497) -/

/-- Two states differ at most in the journals of the partitions. -/
structure JournalsOnly (s t : State) : Prop where
  rest : t = { s with parts := t.parts }
  part : ∀ p, t.part p = { s.part p with jnl := (t.part p).jnl }

theorem JournalsOnly.refl (s : State) : JournalsOnly s s := ⟨rfl, fun _ => rfl⟩

theorem JournalsOnly.trans {s t u : State} (h : JournalsOnly s t) (g : JournalsOnly t u) : JournalsOnly s u :=
  ⟨by rw [g.rest, h.rest], fun p => by rw [g.part, h.part]⟩

theorem JournalsOnly.modJnl (s : State) (p : Part) (f : Journal → Journal) : JournalsOnly s (s.modJnl p f) := by
  refine ⟨rfl, fun q => ?_⟩
  unfold State.modJnl
  by_cases h : q = p
  · subst h
    rw [part_modPart_same]
  · rw [part_modPart_other s p q _ h]

theorem JournalsOnly.foldl {α : Type} {f : State → α → State} (hf : ∀ s a, JournalsOnly s (f s a)) (l : List α) (s : State) :
    JournalsOnly s (l.foldl f s) :=
  List.foldlRecOn l f (JournalsOnly.refl s) fun _ hu a _ => hu.trans (hf _ a)

/-- A node leaves the fence list: a write of UAG_FENCE_CLEAR names it, and it is fenced (R497). -/
def State.unfences (s : State) (i : Fin 16) (v : W32) (x : Nat) : Bool :=
  decide (x / 32 = i.val) && v.getLsbD (x % 32) && s.fabric.fenced.any (fun y => decide (y.val = x))

theorem unfences_iff {s : State} {i : Fin 16} {v : W32} {x : Nat} :
    s.unfences i v x = true ↔ x / 32 = i.val ∧ v.getLsbD (x % 32) = true ∧ ∃ n ∈ s.fabric.fenced, n.val = x := by
  simp [State.unfences, and_assoc]

/-- The claims against nodes that leave the fence list are dropped, and so are their XID records (R497, R759). -/
theorem clearFence_spec (s : State) (i : Fin 16) (v : W32) : ∃ t, JournalsOnly s t ∧ s.clearFence i v = t.modFabric (fun f => { f with
    fenced := f.fenced.filter (fun n => !s.unfences i v n.val), xidRecs := f.xidRecs.filter (fun e => !s.unfences i v (e.1 / 4)) }) := by
  unfold State.clearFence
  extract_lets gone t
  refine ⟨t, ?_, rfl⟩
  exact JournalsOnly.foldl (fun u p => JournalsOnly.modJnl u p
    (fun j => { j with claims := j.claims.filter (fun c => !gone c.origin.val) })) allParts s

section
variable {s : State} (hs : s.serving)
include hs

theorem nodeLost_reachable {n : Node} (h : dget? s.fabric.losing n.val = none) : exec (.nodeLost n) s = .next s := by
  rw [exec_nodeLost, execNodeLost, inService_next hs, h]

theorem nodeLost_fences {n : Node} {x : Nat} (h : dget? s.fabric.losing n.val = some x) : exec (.nodeLost n) s =
    .next ((((s.advanceTo (x + s.regBits .uagLostCfg 0 0 16 * 1000)).loseNode n).raisePackage evNodeLost n.val).raisePackage evNodeFenced
      n.val) := by
  rw [exec_nodeLost, execNodeLost, inService_next hs, h]

theorem uagFenceSet_ignored {v : W32} (h : bitOf v.toNat 31 = false ∨ (Fin.ofNat 512 (v.toNat % 512) : Node) ∈ s.fabric.fenced) :
    exec (.uagFenceSet v) s = .next s := by
  rw [exec_uagFenceSet, execUagFenceSet, inService_next hs]
  exact congrArg Host.Outcome.next (if_pos (Bool.or_eq_true_iff.2 (h.imp (fun h => by rw [h]; rfl) List.contains_iff_mem.2)))

theorem uagFenceSet_fences {v : W32} (hv : bitOf v.toNat 31 = true) (h : (Fin.ofNat 512 (v.toNat % 512) : Node) ∉ s.fabric.fenced) :
    exec (.uagFenceSet v) s = .next ((s.loseNode (Fin.ofNat 512 (v.toNat % 512))).raisePackage evNodeFenced
      (Fin.ofNat 512 (v.toNat % 512) : Node).val) := by
  rw [exec_uagFenceSet, execUagFenceSet, inService_next hs]
  exact congrArg Host.Outcome.next (if_neg (by
    rw [hv, Bool.not_true, Bool.false_or]
    exact fun hc => h (List.contains_iff_mem.1 hc)))

theorem uagFenceClear_next (i : Fin 16) (v : W32) : exec (.uagFenceClear i v) s = .next (s.clearFence i v) := by
  rw [exec_uagFenceClear, execUagFenceClear, inService_next hs]

end

/-- Settles O55: a loss and a write of UAG_FENCE_SET by what cutting a node off leaves (`loseNode_fenced`); a write of UAG_FENCE_CLEAR by
the nodes that leave the list. -/
theorem lostNodesAreFenced : Obligations.LostNodesAreFenced := by
  unfold Obligations.LostNodesAreFenced
  intro s hs
  refine ⟨fun n h => nodeLost_reachable hs h, fun n x h => ?_, fun v => ⟨uagFenceSet_ignored hs, fun hv h => ?_⟩, fun i v => ?_⟩
  · obtain ⟨hmem, hsec, hnow, hfenced⟩ := loseNode_fenced (s.advanceTo (x + s.regBits .uagLostCfg 0 0 16 * 1000)) n
    exact ⟨_, _, nodeLost_fences hs h, rfl, (hfenced n).2 (.inl rfl), fun m hm => (hfenced m).2 (.inr hm), hmem, hsec,
      hnow ▸ le_max_left _ _⟩
  · obtain ⟨hmem, hsec, -, hfenced⟩ := loseNode_fenced s (Fin.ofNat 512 (v.toNat % 512))
    exact ⟨_, _, uagFenceSet_fences hs hv h, rfl, (hfenced _).2 (.inl rfl), fun m hm => (hfenced m).2 (.inr hm), hmem, hsec⟩
  · obtain ⟨t, ⟨hrest, hpart⟩, ht⟩ := clearFence_spec s i v
    have hfabric : t.fabric = s.fabric := (congrArg State.fabric hrest :)
    refine ⟨_, uagFenceClear_next hs i v, ?_⟩
    rw [ht]
    refine ⟨(congrArg State.mem hrest :), (congrArg State.sec hrest :), fun n => ?_, fun e => ?_, fun p => ?_⟩
    · rw [State.modFabric_fabric, hfabric, List.mem_filter, Bool.not_eq_true', Bool.eq_false_iff, ne_eq, unfences_iff]
      exact and_congr_right fun hn => not_congr ⟨fun ⟨h1, h2, _⟩ => ⟨h1, h2⟩, fun ⟨h1, h2⟩ => ⟨h1, h2, n, hn, rfl⟩⟩
    · rw [State.modFabric_fabric, hfabric, List.mem_filter, Bool.not_eq_true', Bool.eq_false_iff, ne_eq, unfences_iff]
    · show (t.part p).requests = _ ∧ (t.part p).exp = _
      rw [hpart]
      exact ⟨rfl, rfl⟩

end Sys2Proof.Machine
end
